-- ==== Sys2Proof/Word.lean ====
section
/-!
DEFINITION. The word types of the adapter and their plainest arithmetic: a register is 64 bits (R5), a status is 16
bits (R12), identifiers have the widths of R9.
-/

namespace Sys2Proof

/-- One byte. -/
abbrev Byte := BitVec 8

/-- A register or scalar word (R5, R30). -/
abbrev Word := BitVec 64

/-- A status value (R12). -/
abbrev Status := BitVec 16

/-- An adapter ID: grid [15:12], row [11:6], column [5:0] (R9). -/
abbrev AdapterId := BitVec 16

/-- A message ID (R9, R210). -/
abbrev MsgId := BitVec 32

end Sys2Proof
end

