-- ==== Sys2Proof/Syntax.lean ====
section
/-!
DEFINITION. The commands of the block: one constructor of `Instr` per row of spec/opcode_table.json, in the table's
order, with the row's operands. The first 46 rows are the instructions of the Jadom set (R74) issued by a program slot;
the others are the events and register commands of the adapter. Data that the adapter reads from memories outside it
(host memory, accelerator memory, the fabric) arrives as operands.
-/

namespace Sys2Proof

/-- The path by which a request reaches the adapter (R330, R332): the PF of port H, the board management controller
over MCTP, an agent on attach port A*q*, or virtual function *i*. -/
inductive Path
  | host
  | bmc
  | att (q : Fin 4)
  | vf (i : BitVec 8)
  deriving DecidableEq, Repr

/-- A port outward to memory: H or an attach port (R322). -/
inductive Port
  | h
  | a (q : Fin 4)
  deriving DecidableEq, Repr

/-- The fields of a Jadom instruction other than its opcode (R43). -/
structure JWord where
  predReg : Fin 8
  predNeg : Bool
  flags   : BitVec 4
  opa     : BitVec 8
  opb     : BitVec 8
  opc     : BitVec 8
  tag     : BitVec 24
  imm     : BitVec 64
  deriving DecidableEq, Repr

/-- A ring descriptor: eight 64-bit words (R287, R288). -/
structure Desc where
  w0 : Word
  w1 : Word
  w2 : Word
  w3 : Word
  w4 : Word
  w5 : Word
  w6 : Word
  w7 : Word
  deriving DecidableEq, Repr

/-- A transport packet: the 48-byte header of R206, the payload, and the GCM tag (present when `enc`). -/
structure Packet where
  ver     : BitVec 4
  typ     : BitVec 4
  urgent  : Bool
  enc     : Bool
  mcast   : Bool
  ordered : Bool
  sig     : Bool
  retx    : Bool
  ece     : Bool
  fin     : Bool
  attr    : BitVec 16
  src     : AdapterId
  dst     : AdapterId
  srcCtx  : BitVec 20
  dstCtx  : BitVec 20
  msg     : MsgId
  idx     : BitVec 16
  last    : BitVec 16
  ts      : BitVec 32
  part    : BitVec 16
  len     : BitVec 13
  prev    : BitVec 32
  tgtA    : BitVec 32
  tgtB    : Word
  payload : List Byte
  gcmTag  : BitVec 128
  deriving DecidableEq, Repr

/-- A transport packet as received: its UDP checksum verdict, the length of its UDP data, whether it arrived with ECN CE,
and its traffic class (R204, R212, R213). -/
structure Rx where
  pkt     : Packet
  cksumOk : Bool
  udpLen  : Nat
  ce      : Bool
  tc      : BitVec 3
  deriving DecidableEq, Repr

/-- A management query (R458): the slots that can raise a semaphore of an adapter, the sender records for an adapter, or a
relay to an adapter of the line, which encloses the first for the asker's semaphore or the second. -/
inductive MgmtQuery
  | raisers (adapter : AdapterId) (sem : BitVec 16)
  | senders (adapter : AdapterId)
  | relay (adapter : AdapterId) (sem : Option (BitVec 16))
  deriving DecidableEq, Repr

/-- The IPv6 header of a transport packet (R204, R205). -/
structure IpHdr where
  srcV6 : BitVec 128
  dstV6 : BitVec 128
  dscp  : BitVec 6
  ecn   : BitVec 2
  flow  : BitVec 20
  hop   : BitVec 8
  deriving DecidableEq, Repr

/-- RS(544,514) codewords decoded with a frame: corrected, symbols corrected, uncorrectable (R343, R354). -/
structure Fec where
  corr : Nat
  sym  : Nat
  bad  : Nat
  deriving DecidableEq, Repr

/-- A received Ethernet frame: its bytes from destination address up to the FCS, the verdict of the FCS, and what its
codewords showed since the frame before. -/
structure Frame where
  bytes  : List Byte
  fcsOk  : Bool
  fec    : Fec
  deriving DecidableEq, Repr

/-- A received frame of the direct-mode link layer (R276); `data` is the transport packet of a DATA frame. -/
structure LinkFrame where
  fcsOk   : Bool
  src     : BitVec 48
  vc      : Fin 4
  urgent  : Bool
  seq     : BitVec 16
  ack     : BitVec 16
  credit0 : BitVec 16
  credit1 : BitVec 16
  credit2 : BitVec 16
  credit3 : BitVec 16
  adapter : AdapterId
  len     : Nat
  data    : Option (IpHdr × Rx)
  deriving DecidableEq, Repr

/-- The answer of an ATS request (R323): a translation with page size 2^`sizeLog2`, permissions and translated base,
or the report that the page is not present. -/
inductive AtsAnswer
  | present (sizeLog2 : Nat) (rd : Bool) (wr : Bool) (phys : Word)
  | absent
  deriving DecidableEq, Repr

/-- The response codes of a page response (R325). -/
inductive PageCode
  | success
  | invalid
  | failure
  deriving DecidableEq, Repr

/-- The outcome of decoding an on-chip SRAM word (R364, R365). -/
inductive SramOutcome
  | clean
  | corrected
  | uncorrectable
  deriving DecidableEq, Repr

/-- An on-chip SRAM word: semaphore word *k* (semaphores 4*k* to 4*k* + 3, R172), or another store's word. -/
inductive SramLoc
  | sem (k : BitVec 14)
  | other
  deriving DecidableEq, Repr

/-- What a MEMORY_READ_RETURN returns: the data of request `id` (bytes of an external memory where the request reads
one, and whether it came with poison or an error), or the decoding of an on-chip word. -/
inductive ReadReturn
  | request (id : Nat) (ext : List Byte) (err : Bool)
  | sram (loc : SramLoc) (o : SramOutcome)
  deriving DecidableEq, Repr

/-- The source of an interrupt: a ring or a fault queue (R301). -/
inductive IrqSrc
  | ring (r : BitVec 14)
  | fq (q : Fin 257)
  deriving DecidableEq, Repr

/-- Sets of physical units (R22): one bit per unit; lane *l* of array *a* is bit 132*a* + *l*, slice *k* of port *p* is
bit 9*p* + *k*. -/
structure UnitSet where
  clusters : BitVec 9
  arrays   : BitVec 5
  lanes    : BitVec 660
  slices   : BitVec 54
  attach   : BitVec 4
  mem      : BitVec 12
  cipher   : BitVec 56
  deriving DecidableEq, Repr

/-- No units. -/
def UnitSet.empty : UnitSet := ⟨0, 0, 0, 0, 0, 0, 0⟩

/-- What the start-up test reports (R374, R387): bad units, SRAM rows and columns repaired. -/
structure TestReport where
  bad  : UnitSet
  rows : BitVec 16
  cols : BitVec 16
  deriving DecidableEq, Repr

/-- The module a memory channel finds in training (R355, R356). -/
structure Module where
  present : Bool
  x4      : Bool
  gb      : Nat
  speed   : Fin 3
  ppr     : Nat
  deriving DecidableEq, Repr

/-- A link or channel that finishes training (R389, R391, R356). -/
inductive TrainResult
  | fabric (n : Fin 6) (lanes : BitVec 8)
  | attach (q : Fin 4) (width : Nat) (rate : Fin 3)
  | memory (c : Fin 12) (m : Module)
  | hostPort
  deriving DecidableEq, Repr

/-- Why a fabric link is declared down (R279). -/
inductive DownCause
  | replay
  | lock
  | fec
  deriving DecidableEq, Repr

/-- A word of a semaphore cell: its cell, and the word at offset 8 × `word` of it (R167). -/
structure CellWord where
  sem  : BitVec 16
  word : Fin 8
  deriving DecidableEq, Repr

/-- An access of an attached package to the HDM range (R314). -/
inductive HdmAccess
  | read (off : Nat) (len : Nat) (cacheable : Bool)
  | write (off : Nat) (bytes : List Byte) (be : List Bool)
  deriving DecidableEq, Repr

/-- Which space a plain write of a host or package path addresses: BAR0 (or the VF view of it), BAR2, or the PIO window
(R311, R312, R317). -/
inductive WrSpace
  | bar0
  | bar2
  | pio
  deriving DecidableEq, Repr

/-- A write in configuration space (R314, R325, R331): `msix` writes MSI-X Enable and Function Mask of a function. -/
inductive CfgWrite
  | busMaster (fn : BitVec 8) (on : Bool)
  | ats (port : Port) (fn : BitVec 8) (on : Bool)
  | pasid (port : Port) (fn : BitVec 8) (on : Bool)
  | pri (port : Port) (fn : BitVec 8) (on : Bool)
  | priAlloc (port : Port) (n : Nat)
  | numVfs (n : BitVec 8)
  | vfEnable (on : Bool)
  | hdmBase (q : Fin 4) (base : Word)
  | cxlMem (q : Fin 4) (on : Bool)
  | msix (fn : BitVec 8) (on : Bool) (mask : Bool)
  deriving DecidableEq, Repr

/-- An object that Nightwatch watches (R452). -/
inductive Watched
  | slot (sl : Fin 32)
  | ring (r : BitVec 14)
  | zenith
  deriving DecidableEq, Repr

/-- JTAG instructions (R475). -/
inductive JtagIr
  | bypass
  | idcode
  | sample
  | extest
  | other
  deriving DecidableEq, Repr

/-- A node that a peer's management answer reports (R457, R458). -/
structure PeerNode where
  kind  : BitVec 8
  flags : BitVec 8
  ident : BitVec 32
  w1    : Word
  w2    : Word
  w3    : Word
  deriving DecidableEq, Repr

/-- The commands of the block, in the order of spec/opcode_table.json. `sl` is a program slot, logical cluster × 4 +
slot; `p` is the path of a register or cell access. -/
inductive Instr
  -- Jadom instructions (R74)
  | nop (opcode : BitVec 8) (sl : Fin 32) (w : JWord)
  | endProg (sl : Fin 32) (w : JWord)
  | jmp (sl : Fin 32) (w : JWord)
  | loop (sl : Fin 32) (w : JWord)
  | add (sl : Fin 32) (w : JWord)
  | sub (sl : Fin 32) (w : JWord)
  | mul (sl : Fin 32) (w : JWord)
  | and (sl : Fin 32) (w : JWord)
  | or (sl : Fin 32) (w : JWord)
  | xor (sl : Fin 32) (w : JWord)
  | shl (sl : Fin 32) (w : JWord)
  | shr (sl : Fin 32) (w : JWord)
  | sra (sl : Fin 32) (w : JWord)
  | minu (sl : Fin 32) (w : JWord)
  | maxu (sl : Fin 32) (w : JWord)
  | li (sl : Fin 32) (w : JWord)
  | cmp (sl : Fin 32) (w : JWord)
  | plog (sl : Fin 32) (w : JWord)
  | gets (sl : Fin 32) (w : JWord)
  | tcopy (sl : Fin 32) (w : JWord)
  | tbase (sl : Fin 32) (w : JWord)
  | tadd (sl : Fin 32) (w : JWord)
  | text (sl : Fin 32) (w : JWord)
  | tstr (sl : Fin 32) (w : JWord)
  | tattr (sl : Fin 32) (w : JWord)
  | copy (sl : Fin 32) (w : JWord)
  | convert (sl : Fin 32) (w : JWord)
  | fill (sl : Fin 32) (w : JWord)
  | red (sl : Fin 32) (w : JWord)
  | scale (sl : Fin 32) (w : JWord)
  | quant (sl : Fin 32) (w : JWord)
  | put (sl : Fin 32) (w : JWord)
  | get (sl : Fin 32) (w : JWord)
  | send (sl : Fin 32) (w : JWord)
  | recv (sl : Fin 32) (w : JWord)
  | mput (sl : Fin 32) (w : JWord)
  | putacc (sl : Fin 32) (w : JWord)
  | sadd (sl : Fin 32) (w : JWord)
  | ssub (sl : Fin 32) (w : JWord)
  | sset (sl : Fin 32) (w : JWord)
  | sread (sl : Fin 32) (w : JWord)
  | fence (sl : Fin 32) (w : JWord)
  | wait (sl : Fin 32) (w : JWord)
  | twait (sl : Fin 32) (w : JWord)
  | tilewait (sl : Fin 32) (w : JWord)
  | mark (sl : Fin 32) (w : JWord)
  -- operations, slots and translation
  | segmentComplete (op : Nat)
  | operationComplete (op : Nat)
  | waitTimeout (sl : Fin 32)
  | twaitRelease (sl : Fin 32)
  | programComplete (sl : Fin 32)
  | pageResponse (port : Port) (id : Nat) (code : PageCode)
  | atsTranslationResponse (port : Port) (fn : BitVec 8) (pasid : BitVec 20) (page : Word) (ans : AtsAnswer)
  | atsInvalidation (port : Port) (fn : BitVec 8) (pasid : BitVec 20) (base : Word) (size : Nat)
  | invalidationComplete (id : Nat)
  | slotStop (p : Path) (sl : Fin 32) (v : Word)
  | imemFlush (p : Path) (clu : Fin 8) (v : Word)
  | nebulaPass (arr : Fin 4) (upset : Option (Fin 128 × Bool))
  | residueInject (p : Path) (v : Word)
  -- semaphores
  | cellSet (p : Path) (sem : BitVec 16) (v : Word) (be : BitVec 8)
  | cellAdd (p : Path) (sem : BitVec 16) (v : Word) (be : BitVec 8)
  | cellSubtract (p : Path) (sem : BitVec 16) (v : Word) (be : BitVec 8)
  | cellRead (p : Path) (sem : CellWord) (be : BitVec 8)
  | semZero (p : Path) (v : Word)
  | pageZeroComplete
  | semBarWrite (p : Path) (b : BitVec 8) (v : Word)
  -- rings
  | doorbell (p : Path) (ring : BitVec 14) (v : Word) (full : Bool)
  | descriptorFetchReturn (ring : BitVec 14) (descs : List Desc) (ok : Bool)
  | descriptorReread (ring : BitVec 14) (d : Desc) (ok : Bool)
  | ringRepoll (ring : BitVec 14)
  | descriptorDispatch
  | programLaunch (ring : BitVec 14)
  | imageCheck (sl : Fin 32)
  | descriptorPublish (ring : BitVec 14) (idx : BitVec 32) (wbOk : Bool) (headOk : Bool)
  | irqHoldoffExpiry (src : IrqSrc)
  | ringConfigure (p : Path)
  | ringRead (p : Path)
  | ringAbort (p : Path)
  | ringResetIndices (p : Path)
  | faultQueueConsWrite (p : Path) (q : Fin 257) (v : Word)
  -- transport
  | messageCreate (req : Nat)
  | packetRelease (msg : MsgId) (idx : BitVec 16)
  | cipherPacketDone (core : Fin 56)
  | writePacket (rx : Rx)
  | writeAccPacket (rx : Rx) (upset : Option (Fin 128 × Bool))
  | sendPacket (rx : Rx)
  | readReq (rx : Rx)
  | readResp (rx : Rx)
  | semPacket (rx : Rx)
  | ack (rx : Rx)
  | nack (rx : Rx)
  | ackDelayExpiry (src : AdapterId) (msg : MsgId)
  | retxTimerExpiry (msg : MsgId)
  | lifetimeExpiry (msg : MsgId)
  | busyResend (msg : MsgId) (idx : BitVec 16)
  | recordRetentionExpiry (src : AdapterId) (msg : MsgId)
  | rateIncrease (ctx : BitVec 20)
  | contextFetchComplete (ctx : BitVec 20) (ok : Bool)
  | windowEntryFetchComplete (win : BitVec 20) (ok : Bool)
  | writeAcknowledged (id : Nat) (ok : Bool)
  | memoryReadReturn (r : ReadReturn)
  | ctxCreate (p : Path)
  | ctxModify (p : Path)
  | ctxDestroy (p : Path)
  | ctxRead (p : Path)
  | xptCommit (p : Path) (v : Word)
  -- windows
  | windowOpen (p : Path)
  | windowRevokeCmd (p : Path) (v : Word)
  | windowRead (p : Path)
  -- fabric and ports
  | frameReceive (port : Fin 6) (sub : Fin 4) (f : Frame)
  | frameTransmit (port : Fin 6) (sub : Fin 4)
  | pfcFrame (port : Fin 6) (sub : Fin 4) (mask : BitVec 8) (quanta : List Nat)
  | pfcPauseExpiry (port : Fin 6) (sub : Fin 4) (prio : Fin 8)
  | pfcRefresh (port : Fin 6) (sub : Fin 4) (prio : Fin 8)
  | dataFrame (port : Fin 6) (sub : Fin 4) (f : LinkFrame)
  | ctrlFrame (port : Fin 6) (sub : Fin 4) (f : LinkFrame)
  | replayFrame (port : Fin 6) (sub : Fin 4) (f : LinkFrame)
  | initFrame (port : Fin 6) (sub : Fin 4) (f : LinkFrame)
  | ctrlFrameTimer (port : Fin 6) (sub : Fin 4)
  | replayTimerExpiry (port : Fin 6) (sub : Fin 4)
  | linkDown (port : Fin 6) (sub : Fin 4) (cause : DownCause)
  | linkUp (r : TrainResult)
  | portRetry (port : Fin 6)
  | adminUpWrite (p : Path) (port : Fin 6) (v : Word)
  | fabCommit (p : Path) (v : Word)
  | mcEntryWrite (p : Path)
  | mcEntryLoad (p : Path)
  | rawTxProdWrite (p : Path) (port : Fin 6) (v : Word)
  | statCounterRead (p : Path) (port : Fin 6) (sub : Fin 4) (j : Fin 16)
  | managementQuery (port : Fin 6) (sub : Fin 4) (src : AdapterId) (query : MgmtQuery)
  | managementAnswer (peer : AdapterId) (sem : Option (BitVec 16)) (nodes : List PeerNode)
  | peerQueryTimeout (peer : AdapterId)
  -- host attach
  | pioTrigger (p : Path) (slot : Nat) (w0 : Word)
  | apertureAccess (q : Fin 4) (a : HdmAccess)
  | backInvalidateResponse (q : Fin 4) (line : Nat)
  | hostPortReset
  | vfReset (fn : BitVec 8)
  | claim (p : Path) (epoch : BitVec 32)
  | renew (p : Path)
  | release (p : Path)
  | handover (p : Path) (successor : BitVec 3)
  | leaseExpiry
  | mctpRead (off : BitVec 32)
  | mctpWrite (off : BitVec 32) (v : Word)
  | instanceCreate (p : Path)
  | instanceDestroy (p : Path)
  | instanceRead (p : Path)
  | instanceQuery (p : Path)
  -- adapter memory
  | memCommit (p : Path) (v : Word)
  | rawWrite (p : Path)
  | rawRead (p : Path)
  | decodedRead (p : Path)
  | patrolScrub (c : Fin 12)
  | sramScrub (loc : SramLoc) (o : SramOutcome)
  -- start-up
  | coldReset (railsOk : Bool) (sel : BitVec 2) (smb : BitVec 2) (eeprom : List Byte)
  | warmRstN (eeprom : List Byte)
  | warmResetCommand (p : Path) (v : Word) (eeprom : List Byte)
  | startupTestDone (t : TestReport)
  | trainWindowExpiry
  | profileDecision
  | memoryInitDone
  | firmwareLoad (p : Path) (img : List Byte) (ok : Bool)
  | beginStream (p : Path)
  | fwDataWrite (p : Path) (v : Word)
  | endStream (p : Path)
  | driverAttach (p : Path)
  | firmwareAuthenticate
  -- security
  | commitSecurityVersion (p : Path)
  | revokeKey0 (p : Path)
  | revokeKey1 (p : Path)
  | loadClear (p : Path) (usage : Bool)
  | loadWrapped (p : Path) (usage : Bool) (kek : BitVec 12)
  | erase (p : Path)
  | query (p : Path)
  | hold (p : Path)
  | save (p : Path)
  | restore (p : Path)
  | releaseCore (p : Path)
  | clearCtxEnWrite (p : Path) (v : Word)
  | getVersion
  | getCapabilities
  | negotiateAlgorithms (asym hash meas : Bool)
  | getDigests
  | getCertificate (slot : Nat) (off : Nat) (len : Nat)
  | challenge (slot : Nat) (nonce : List Byte)
  | getMeasurements (block : Nat) (nonce : List Byte)
  -- time
  | timeSet (p : Path) (v : Word)
  | timeAdj (p : Path) (v : Word)
  | timeServoIn (p : Path) (v : Word)
  | ptpOffsetSample (e : Word)
  | ppsInEdge
  | sampleLossTimeout
  | timeCtrlWrite (p : Path) (v : Word)
  | ppsOutPulse
  | ephemerisCommit (p : Path) (v : Word)
  | ephemerisActivate
  | bankCopyComplete
  | slotMiss (g : Fin 16) (row : BitVec 12)
  -- power and Tally
  | cappingTick (mw : List Nat)
  | thermalTick (temps : List (BitVec 16))
  | twilightEnter (p : Path)
  | twilightExit
  | wakeN
  | twilightEntryComplete
  | tallyApportion (uj : Nat) (mw : BitVec 32) (senseFault : Bool)
  | tallyRecordClose
  | tlyCalChange (enabled : Bool) (period : Option (BitVec 16))
  | tallyPowerOn
  -- debug
  | hangDetect (w : Watched)
  | zenithHeartbeat
  | declare (p : Path)
  | dumpComplete
  | graphBuild
  | resume (p : Path)
  | abort (p : Path)
  | histogramSample
  | cometStagingDrain
  -- the remaining register and pin events
  | registerWrite (p : Path) (sp : WrSpace) (off : Nat) (size : Nat) (v : Word)
  | faultQueueEnable (p : Path) (q : Fin 257) (v : Word)
  | ref10mInPresenceChange (present : Bool)
  | blockLockChange (port : Fin 6) (sub : Fin 4) (lock : Bool)
  | attachLinkDown (q : Fin 4)
  | configurationSpaceWrite (c : CfgWrite)
  | jtagInstructionLoad (ir : JtagIr)
  deriving DecidableEq, Repr

end Sys2Proof
end

