-- ==== Sys2Proof/Config.lean ====
section
/-!
DEFINITION. What an implementation fixes and what the spec leaves open: constants without a body, so that nothing can
be proved about their values. A fresh free value is one of the `free` functions applied to the state's plain counter.
-/

namespace Sys2Proof.Config

/-- A value that the spec leaves open, one per index. (Log 4: DESIGN CHOICE.) -/
opaque freeWord : Nat → Word

/-- An open choice between two outcomes, one per index. (Log 4: DESIGN CHOICE.) -/
opaque freeBit : Nat → Bool

/-- The eight check symbols of RS(40,32) for 32 data bytes: the generator polynomial is not in the spec (R359).
(Log 80: DESIGN CHOICE.) -/
opaque rsCheck : BitVec 256 → BitVec 64

/-- What the decoder makes of a code word with more symbol errors than it corrects or detects (R359): miscorrected to
some data with so many symbols changed, or `none` where it detects the error; the first argument is corr_limit.
(Log 80: DESIGN CHOICE.) -/
opaque rsDecode : Bool → BitVec 256 → BitVec 64 → Option (BitVec 256 × Nat)

/-- The flow label: a hash, left open, of source adapter and context, destination adapter or group and context, and plane
(R204). (Log 112: DESIGN CHOICE.) -/
opaque flowLabel : AdapterId → BitVec 20 → AdapterId → BitVec 20 → Nat → BitVec 20

/-- SHA-512 (FIPS 180-4). (Log 91: DESIGN CHOICE.) -/
opaque sha512 : List Byte → BitVec 512

/-- ECDSA verification on P-521 (FIPS 186-5): public key, digest, r, s. (Log 91: DESIGN CHOICE.) -/
opaque ecdsaVerify : List Byte → BitVec 512 → List Byte → List Byte → Bool

/-- ECDSA signature on P-521: private key, digest; r then s, 66 bytes each. (Log 91: DESIGN CHOICE.) -/
opaque ecdsaSign : BitVec 528 → BitVec 512 → List Byte

/-- AES-256 counter mode keystream under a key and a 96-bit IV, from the second counter block (R412).
(Log 91: DESIGN CHOICE.) -/
opaque gcmStream : BitVec 256 → BitVec 96 → Nat → Byte

/-- AES-256-GCM tag over additional data and ciphertext (R413). (Log 91: DESIGN CHOICE.) -/
opaque gcmTag : BitVec 256 → BitVec 96 → List Byte → List Byte → BitVec 128

/-- AES key wrap (KW of SP 800-38F). (Log 91: DESIGN CHOICE.) -/
opaque kwWrap : BitVec 256 → List Byte → List Byte

/-- AES key unwrap; `none` where its integrity check fails. (Log 91: DESIGN CHOICE.) -/
opaque kwUnwrap : BitVec 256 → List Byte → Option (List Byte)

/-- The device wrap key drawn from Lodestar's random bit generator at the n-th draw (R420).
(Log 92: DESIGN CHOICE.) -/
opaque wrapKey : Nat → BitVec 256

/-- The GHASH accumulator of a cipher core suspended at a block position: key, IV, data, block (R418).
(Log 91: DESIGN CHOICE.) -/
opaque ghashAt : BitVec 256 → BitVec 96 → List Byte → Nat → BitVec 128

/-- The device secret (R399). (Log 92: DESIGN CHOICE.) -/
opaque deviceSecret : BitVec 256

/-- The attestation private key that Lodestar derives from the device secret and the signed digest (R404).
(Log 92: DESIGN CHOICE.) -/
opaque attestKey : BitVec 256 → BitVec 512 → BitVec 528

/-- The SHA-512 digest of Lodestar's mask ROM (R406). (Log 92: DESIGN CHOICE.) -/
opaque romDigest : BitVec 512

/-- The certificate chain of SPDM slot 0 under the attestation key of a digest (R404, R405).
(Log 92: DESIGN CHOICE.) -/
opaque certChain : BitVec 512 → List Byte

/-- The digest that an SPDM signature covers, of what the exchange carried: SPDM 1.3 lays the transcript out, not the spec
(R405). (Log 96: DESIGN CHOICE.) -/
opaque spdmTranscript : List Byte → BitVec 512

/-- Firmware key digests 0 and 1 in the fuses (R399). (Log 92: DESIGN CHOICE.) -/
opaque fwKeyDigest : Bool → BitVec 512

/-- Tally's signing key (R19, R438). (Log 92: DESIGN CHOICE.) -/
opaque tallyKey : BitVec 528

/-- Tally's public key, 133 bytes, and its certificate (R441). (Log 92: DESIGN CHOICE.) -/
opaque tallyPub : Nat → Byte

/-- Byte of Tally's certificate (R441). (Log 92: DESIGN CHOICE.) -/
opaque tallyCert : Nat → Byte

/-- The state of the cores' registers in a Nightwatch dump (R454 section 4), which the spec does not lay out.
(Log 106: DESIGN CHOICE.) -/
opaque coreDump : Nat → Byte

end Sys2Proof.Config
end

