-- ==== Sys2Proof/Machine/Tab.lean ====
section
/-!
DEFINITION. Sparse tables: the one canonical form in which the state holds memories, register files and every other
store that is indexed by a number. A table lists (index, entry) pairs with strictly rising indices and lists no entry
equal to the default entry, which every unlisted index holds; equal stores are then equal data.
-/

namespace Sys2Proof.Machine

/-- A sparse table from indices to entries. -/
abbrev Tab (α : Type) := List (Nat × α)

/-- The entry at index `i`; `d` where nothing is listed. -/
def tget {α : Type} (d : α) : Tab α → Nat → α
  | [], _ => d
  | (k, v) :: t, i => if k = i then v else tget d t i

/-- Lists `x` at index `i`, in place of what was listed there. -/
def tins {α : Type} : Tab α → Nat → α → Tab α
  | [], i, x => [(i, x)]
  | (k, v) :: t, i, x =>
    if i < k then (i, x) :: (k, v) :: t
    else if k = i then (i, x) :: t
    else (k, v) :: tins t i x

/-- Writes `x` at index `i`; writing the default entry removes the listing. -/
def tset {α : Type} [DecidableEq α] (d : α) (t : Tab α) (i : Nat) (x : α) : Tab α :=
  if x = d then t.filter (fun e => e.1 ≠ i) else tins t i x

/-- Indices above `n` rise strictly. -/
def rising {α : Type} : Nat → Tab α → Bool
  | _, [] => true
  | n, (k, _) :: t => decide (n ≤ k) && rising (k + 1) t

/-- The canonical form: strictly rising indices and no default entry. -/
def twf {α : Type} [DecidableEq α] (d : α) (t : Tab α) : Bool :=
  rising 0 t && t.all (fun e => e.2 ≠ d)

/-- Updates the entry at index `i`. -/
def tupd {α : Type} [DecidableEq α] (d : α) (t : Tab α) (i : Nat) (f : α → α) : Tab α :=
  tset d t i (f (tget d t i))

end Sys2Proof.Machine
end

