-- ==== Sys2Proof/Machine/Regs.lean ====
section
/-!
DEFINITION. The register map of BAR0 (R27, R28) written from the register tables of every chapter: the address of
each register under the spec's own name, the fields of each register with their types (R6) and their defined
encodings (R7), and the values of the Reset column (R8).
-/

namespace Sys2Proof.Machine

/-- Field types of register tables (R6). -/
inductive RegKind
  | rw | ro | wo | w1c | rc | rwc
  deriving DecidableEq, Repr

/-- One named field: lowest bit, width, type, and the encodings that R7 leaves unreserved: values from `min` to
`max` that are multiples of `align`. -/
structure FieldDef where
  lo    : Nat
  width : Nat
  kind  : RegKind
  min   : Nat
  max   : Nat
  align : Nat
  deriving DecidableEq, Repr

/-- One register, or an array of up to three dimensions of them: element (i, j, k) stands at
`base + s1*i + s2*j + s3*k`. -/
structure RegDef where
  name : String
  base : Nat
  s1 : Nat
  n1 : Nat
  s2 : Nat
  n2 : Nat
  s3 : Nat
  n3 : Nat
  fields : List FieldDef
  deriving DecidableEq, Repr

namespace Reg

/-- GLB_IDENT (R29). -/
def GLB_IDENT : Nat := 0x000000

/-- GLB_CAPS (R29). -/
def GLB_CAPS : Nat := 0x000008

/-- GLB_MAP_STATUS (R29). -/
def GLB_MAP_STATUS : Nat := 0x000010

/-- GLB_MAP_CLU (R29). -/
def GLB_MAP_CLU : Nat := 0x000018

/-- GLB_MAP_NEB (R29). -/
def GLB_MAP_NEB : Nat := 0x000020

/-- GLB_MAP_LANE (R29). -/
def GLB_MAP_LANE (i : Nat) : Nat := 0x000028 + 8 * i

/-- GLB_MAP_FAB (R29). -/
def GLB_MAP_FAB : Nat := 0x000048

/-- CLU_CTRL (R67). -/
def CLU_CTRL (i : Nat) : Nat := 0x040000 + 0x10000 * i

/-- CLU_STATUS (R67). -/
def CLU_STATUS (i : Nat) : Nat := 0x040008 + 0x10000 * i

/-- CLU_SLOT_CAP (R67). -/
def CLU_SLOT_CAP (i : Nat) : Nat := 0x040010 + 0x10000 * i

/-- CLU_SLOT_STATE (R67). -/
def CLU_SLOT_STATE (i j : Nat) : Nat := 0x040100 + 0x10000 * i + 0x40 * j

/-- CLU_SLOT_PROG (R67). -/
def CLU_SLOT_PROG (i j : Nat) : Nat := 0x040108 + 0x10000 * i + 0x40 * j

/-- CLU_SLOT_MARK (R67). -/
def CLU_SLOT_MARK (i j : Nat) : Nat := 0x040110 + 0x10000 * i + 0x40 * j

/-- CLU_SLOT_FAULT (R67). -/
def CLU_SLOT_FAULT (i j : Nat) : Nat := 0x040118 + 0x10000 * i + 0x40 * j

/-- CLU_SLOT_SEG (R67). -/
def CLU_SLOT_SEG (i j : Nat) : Nat := 0x040120 + 0x10000 * i + 0x40 * j

/-- CLU_SLOT_INST (R67). -/
def CLU_SLOT_INST (i j : Nat) : Nat := 0x040128 + 0x10000 * i + 0x40 * j

/-- CLU_SLOT_IMEM (R67). -/
def CLU_SLOT_IMEM (i j : Nat) : Nat := 0x040130 + 0x10000 * i + 0x40 * j

/-- CLU_SLOT_STOP (R67). -/
def CLU_SLOT_STOP (i j : Nat) : Nat := 0x040138 + 0x10000 * i + 0x40 * j

/-- NEB_CTRL (R131). -/
def NEB_CTRL : Nat := 0x0C0000

/-- NEB_SEED_XOR (R131). -/
def NEB_SEED_XOR : Nat := 0x0C0008

/-- NEB_STATUS (R131). -/
def NEB_STATUS : Nat := 0x0C0010

/-- NEB_FENCE_LOG (R131). -/
def NEB_FENCE_LOG : Nat := 0x0C0018

/-- NEB_RES_INJECT (R131). -/
def NEB_RES_INJECT : Nat := 0x0C0020

/-- NEB_CNT_RES_RETRY (R131). -/
def NEB_CNT_RES_RETRY : Nat := 0x0C0040

/-- NEB_CNT_RES_FAIL (R131). -/
def NEB_CNT_RES_FAIL : Nat := 0x0C0048

/-- NEB_CNT_SAT (R131). -/
def NEB_CNT_SAT : Nat := 0x0C0050

/-- NEB_CNT_NAN_LOST (R131). -/
def NEB_CNT_NAN_LOST : Nat := 0x0C0058

/-- NEB_CNT_OPS (R131). -/
def NEB_CNT_OPS (i : Nat) : Nat := 0x0C0060 + 8 * i

/-- SEM_CTRL (R186). -/
def SEM_CTRL : Nat := 0x0F0000

/-- SEM_STATUS (R186). -/
def SEM_STATUS : Nat := 0x0F0008

/-- SEM_ZERO (R186). -/
def SEM_ZERO : Nat := 0x0F0010

/-- SEM_TO_LOG0 (R186). -/
def SEM_TO_LOG0 : Nat := 0x0F0020

/-- SEM_TO_LOG1 (R186). -/
def SEM_TO_LOG1 : Nat := 0x0F0028

/-- SEM_TO_LOG2 (R186). -/
def SEM_TO_LOG2 : Nat := 0x0F0030

/-- SEM_CNT_OPS (R186). -/
def SEM_CNT_OPS : Nat := 0x0F0040

/-- SEM_CNT_SAT (R186). -/
def SEM_CNT_SAT : Nat := 0x0F0048

/-- SEM_CNT_REFUSED (R186). -/
def SEM_CNT_REFUSED : Nat := 0x0F0050

/-- SEM_CNT_TIMEOUT (R186). -/
def SEM_CNT_TIMEOUT : Nat := 0x0F0058

/-- SEM_CNT_POISON (R186). -/
def SEM_CNT_POISON : Nat := 0x0F0060

/-- SEM_PAGE (R186). -/
def SEM_PAGE (i : Nat) : Nat := 0x0F1000 + 8 * i

/-- SEM_SIGCTX (R186). -/
def SEM_SIGCTX (i : Nat) : Nat := 0x0F1800 + 8 * i

/-- SEM_BAR (R186). -/
def SEM_BAR (i : Nat) : Nat := 0x0F2000 + 8 * i

/-- TIME_CTRL (R203). -/
def TIME_CTRL : Nat := 0x170000

/-- TIME_STATUS (R203). -/
def TIME_STATUS : Nat := 0x170008

/-- TIME_NOW (R203). -/
def TIME_NOW : Nat := 0x170010

/-- TIME_SET (R203). -/
def TIME_SET : Nat := 0x170018

/-- TIME_ADJ (R203). -/
def TIME_ADJ : Nat := 0x170020

/-- TIME_SERVO_IN (R203). -/
def TIME_SERVO_IN : Nat := 0x170028

/-- TIME_SERVO_CFG (R203). -/
def TIME_SERVO_CFG : Nat := 0x170030

/-- TIME_HOLD (R203). -/
def TIME_HOLD : Nat := 0x170038

/-- TIME_FREQ (R203). -/
def TIME_FREQ : Nat := 0x170040

/-- TIME_PPS (R203). -/
def TIME_PPS : Nat := 0x170048

/-- TIME_PPS_IN_TS (R203). -/
def TIME_PPS_IN_TS : Nat := 0x170050

/-- TIME_CNT_STEP (R203). -/
def TIME_CNT_STEP : Nat := 0x170060

/-- TIME_CNT_STEP_REFUSED (R203). -/
def TIME_CNT_STEP_REFUSED : Nat := 0x170068

/-- TIME_CNT_LOSS (R203). -/
def TIME_CNT_LOSS : Nat := 0x170070

/-- TIME_EPH_CTRL (R203). -/
def TIME_EPH_CTRL : Nat := 0x170100

/-- TIME_EPH_STATUS (R203). -/
def TIME_EPH_STATUS : Nat := 0x170108

/-- TIME_EPH_ADDR (R203). -/
def TIME_EPH_ADDR : Nat := 0x170110

/-- TIME_EPH_ROW0 (R203). -/
def TIME_EPH_ROW0 : Nat := 0x170118

/-- TIME_EPH_ROW1 (R203). -/
def TIME_EPH_ROW1 : Nat := 0x170120

/-- TIME_EPH_ACT (R203). -/
def TIME_EPH_ACT : Nat := 0x170128

/-- TIME_EPH_COMMIT (R203). -/
def TIME_EPH_COMMIT : Nat := 0x170130

/-- TIME_EPH_LATE (R203). -/
def TIME_EPH_LATE : Nat := 0x170138

/-- TIME_EPH_GRP_BASE (R203). -/
def TIME_EPH_GRP_BASE (i : Nat) : Nat := 0x170200 + 0x20 * i

/-- TIME_EPH_GRP_CYCLE (R203). -/
def TIME_EPH_GRP_CYCLE (i : Nat) : Nat := 0x170208 + 0x20 * i

/-- TIME_EPH_GRP_MISS (R203). -/
def TIME_EPH_GRP_MISS (i : Nat) : Nat := 0x170210 + 0x20 * i

/-- TIME_EPH_GRP_BYPASS (R203). -/
def TIME_EPH_GRP_BYPASS (i : Nat) : Nat := 0x170218 + 0x20 * i

/-- XPT_CTRL (R234). -/
def XPT_CTRL : Nat := 0x0D0000

/-- XPT_STATUS (R234). -/
def XPT_STATUS : Nat := 0x0D0008

/-- XPT_STATUS1 (R234). -/
def XPT_STATUS1 : Nat := 0x0D0010

/-- XPT_LIFETIME (R234). -/
def XPT_LIFETIME : Nat := 0x0D0018

/-- XPT_RTO_MIN (R234). -/
def XPT_RTO_MIN : Nat := 0x0D0020

/-- XPT_RTO_CFG (R234). -/
def XPT_RTO_CFG : Nat := 0x0D0028

/-- XPT_BUSY (R234). -/
def XPT_BUSY : Nat := 0x0D0030

/-- XPT_ACK (R234). -/
def XPT_ACK : Nat := 0x0D0038

/-- XPT_RATE_CFG (R234). -/
def XPT_RATE_CFG : Nat := 0x0D0040

/-- XPT_COMMIT (R234). -/
def XPT_COMMIT : Nat := 0x0D0048

/-- XPT_TX_REC (R234). -/
def XPT_TX_REC : Nat := 0x0D0050

/-- XPT_CTX_BASE (R234). -/
def XPT_CTX_BASE : Nat := 0x0D0058

/-- XPT_CTX_COUNT (R234). -/
def XPT_CTX_COUNT : Nat := 0x0D0060

/-- XPT_CTX_SEL (R234). -/
def XPT_CTX_SEL : Nat := 0x0D0068

/-- XPT_CTX_DATA0 (R234). -/
def XPT_CTX_DATA0 : Nat := 0x0D0070

/-- XPT_CTX_DATA1 (R234). -/
def XPT_CTX_DATA1 : Nat := 0x0D0078

/-- XPT_CTX_CMD (R234). -/
def XPT_CTX_CMD : Nat := 0x0D0080

/-- XPT_CTX_RESULT (R234). -/
def XPT_CTX_RESULT : Nat := 0x0D0088

/-- XPT_V6_PREFIX (R234). -/
def XPT_V6_PREFIX : Nat := 0x0D0090

/-- XPT_DSCP (R234). -/
def XPT_DSCP : Nat := 0x0D0098

/-- XPT_PLANE_WT (R234). -/
def XPT_PLANE_WT (i : Nat) : Nat := 0x0D00A0 + 8 * i

/-- XPT_PLANE_EFF (R234). -/
def XPT_PLANE_EFF (i : Nat) : Nat := 0x0D00D0 + 8 * i

/-- XPT_CNT (R234). -/
def XPT_CNT (i : Nat) : Nat := 0x0D0100 + 8 * i

/-- WIN_TBL_BASE (R261). -/
def WIN_TBL_BASE : Nat := 0x0E0000

/-- WIN_TBL_COUNT (R261). -/
def WIN_TBL_COUNT : Nat := 0x0E0008

/-- WIN_SEL (R261). -/
def WIN_SEL : Nat := 0x0E0010

/-- WIN_DATA0 (R261). -/
def WIN_DATA0 : Nat := 0x0E0018

/-- WIN_DATA1 (R261). -/
def WIN_DATA1 : Nat := 0x0E0020

/-- WIN_DATA2 (R261). -/
def WIN_DATA2 : Nat := 0x0E0028

/-- WIN_CMD (R261). -/
def WIN_CMD : Nat := 0x0E0030

/-- WIN_RESULT (R261). -/
def WIN_RESULT : Nat := 0x0E0038

/-- WIN_STATUS (R261). -/
def WIN_STATUS : Nat := 0x0E0040

/-- WIN_CNT (R261). -/
def WIN_CNT (i : Nat) : Nat := 0x0E0100 + 8 * i

/-- FAB_CTRL (R284). -/
def FAB_CTRL : Nat := 0x100000

/-- FAB_ID (R284). -/
def FAB_ID : Nat := 0x100008

/-- FAB_MAC (R284). -/
def FAB_MAC : Nat := 0x100010

/-- FAB_GW_MAC (R284). -/
def FAB_GW_MAC : Nat := 0x100018

/-- FAB_ROW_DOWN (R284). -/
def FAB_ROW_DOWN : Nat := 0x100020

/-- FAB_COL_DOWN (R284). -/
def FAB_COL_DOWN : Nat := 0x100028

/-- FAB_LINK_CFG (R284). -/
def FAB_LINK_CFG : Nat := 0x100030

/-- FAB_PFC (R284). -/
def FAB_PFC : Nat := 0x100038

/-- FAB_ECN (R284). -/
def FAB_ECN : Nat := 0x100040

/-- FAB_MGMT (R284). -/
def FAB_MGMT : Nat := 0x100048

/-- FAB_COMMIT (R284). -/
def FAB_COMMIT : Nat := 0x100050

/-- FAB_PLANE (R284). -/
def FAB_PLANE (i : Nat) : Nat := 0x100060 + 8 * i

/-- FAB_LINK (R284). -/
def FAB_LINK (i : Nat) : Nat := 0x100090 + 8 * i

/-- FAB_PEER (R284). -/
def FAB_PEER (i : Nat) : Nat := 0x1000C0 + 8 * i

/-- FAB_MC_SEL (R284). -/
def FAB_MC_SEL : Nat := 0x100100

/-- FAB_MC_DATA0 (R284). -/
def FAB_MC_DATA0 : Nat := 0x100108

/-- FAB_MC_DATA1 (R284). -/
def FAB_MC_DATA1 : Nat := 0x100110

/-- FAB_MC_CMD (R284). -/
def FAB_MC_CMD : Nat := 0x100118

/-- FAB_CNT (R284). -/
def FAB_CNT (i : Nat) : Nat := 0x100200 + 8 * i

/-- RING_CTRL (R309). -/
def RING_CTRL : Nat := 0x020000

/-- RING_STATUS (R309). -/
def RING_STATUS : Nat := 0x020008

/-- RING_SEL (R309). -/
def RING_SEL : Nat := 0x020010

/-- RING_CFG0 (R309). -/
def RING_CFG0 : Nat := 0x020018

/-- RING_CFG1 (R309). -/
def RING_CFG1 : Nat := 0x020020

/-- RING_CFG2 (R309). -/
def RING_CFG2 : Nat := 0x020028

/-- RING_CFG3 (R309). -/
def RING_CFG3 : Nat := 0x020030

/-- RING_CMD (R309). -/
def RING_CMD : Nat := 0x020038

/-- RING_RESULT (R309). -/
def RING_RESULT : Nat := 0x020040

/-- RING_STATE (R309). -/
def RING_STATE : Nat := 0x020048

/-- RING_IDX0 (R309). -/
def RING_IDX0 : Nat := 0x020050

/-- RING_IDX1 (R309). -/
def RING_IDX1 : Nat := 0x020058

/-- RING_CNT (R309). -/
def RING_CNT (i : Nat) : Nat := 0x020100 + 8 * i

/-- RING_FQ_BASE (R309). -/
def RING_FQ_BASE (i : Nat) : Nat := 0x024000 + 0x40 * i

/-- RING_FQ_CTRL (R309). -/
def RING_FQ_CTRL (i : Nat) : Nat := 0x024008 + 0x40 * i

/-- RING_FQ_PROD (R309). -/
def RING_FQ_PROD (i : Nat) : Nat := 0x024010 + 0x40 * i

/-- RING_FQ_CONS (R309). -/
def RING_FQ_CONS (i : Nat) : Nat := 0x024018 + 0x40 * i

/-- RING_FQ_OVF0 (R309). -/
def RING_FQ_OVF0 (i : Nat) : Nat := 0x024020 + 0x40 * i

/-- RING_FQ_OVF1 (R309). -/
def RING_FQ_OVF1 (i : Nat) : Nat := 0x024028 + 0x40 * i

/-- GLB_OWN_STATUS (R340). -/
def GLB_OWN_STATUS : Nat := 0x000100

/-- GLB_OWN_CMD (R340). -/
def GLB_OWN_CMD : Nat := 0x000108

/-- GLB_OWN_RESULT (R340). -/
def GLB_OWN_RESULT : Nat := 0x000110

/-- GLB_CNT_NOT_OWNER (R340). -/
def GLB_CNT_NOT_OWNER : Nat := 0x000118

/-- XLT_STATUS (R341). -/
def XLT_STATUS : Nat := 0x030000

/-- XLT_INST_SEL (R341). -/
def XLT_INST_SEL : Nat := 0x030008

/-- XLT_INST_CFG0 (R341). -/
def XLT_INST_CFG0 : Nat := 0x030010

/-- XLT_INST_CFG1 (R341). -/
def XLT_INST_CFG1 : Nat := 0x030018

/-- XLT_INST_CFG2 (R341). -/
def XLT_INST_CFG2 : Nat := 0x030020

/-- XLT_INST_CFG3 (R341). -/
def XLT_INST_CFG3 : Nat := 0x030028

/-- XLT_INST_CFG4 (R341). -/
def XLT_INST_CFG4 : Nat := 0x030030

/-- XLT_INST_CFG5 (R341). -/
def XLT_INST_CFG5 : Nat := 0x030038

/-- XLT_INST_CFG6 (R341). -/
def XLT_INST_CFG6 : Nat := 0x030040

/-- XLT_INST_CMD (R341). -/
def XLT_INST_CMD : Nat := 0x030048

/-- XLT_INST_RESULT (R341). -/
def XLT_INST_RESULT : Nat := 0x030050

/-- XLT_ATT_APER (R341). -/
def XLT_ATT_APER (i : Nat) : Nat := 0x030100 + 0x10 * i

/-- XLT_ATT_HDM (R341). -/
def XLT_ATT_HDM (i : Nat) : Nat := 0x030108 + 0x10 * i

/-- XLT_CNT (R341). -/
def XLT_CNT (i : Nat) : Nat := 0x030200 + 8 * i

/-- MAC_CTRL (R353). -/
def MAC_CTRL (i : Nat) : Nat := 0x110000 + 0x10000 * i

/-- MAC_STATUS (R353). -/
def MAC_STATUS (i : Nat) : Nat := 0x110008 + 0x10000 * i

/-- MAC_FRAME (R353). -/
def MAC_FRAME (i : Nat) : Nat := 0x110010 + 0x10000 * i

/-- MAC_TC_WT (R353). -/
def MAC_TC_WT (i : Nat) : Nat := 0x110018 + 0x10000 * i

/-- MAC_PTP_COMP (R353). -/
def MAC_PTP_COMP (i : Nat) : Nat := 0x110020 + 0x10000 * i

/-- MAC_MC_EXTRA (R353). -/
def MAC_MC_EXTRA (i : Nat) : Nat := 0x110028 + 0x10000 * i

/-- MAC_FLT (R353). -/
def MAC_FLT (i j : Nat) : Nat := 0x110040 + 0x10000 * i + 8 * j

/-- MAC_RQ_BASE (R353). -/
def MAC_RQ_BASE (i j : Nat) : Nat := 0x110100 + 0x10000 * i + 0x20 * j

/-- MAC_TQ_BASE (R353). -/
def MAC_TQ_BASE (i : Nat) : Nat := 0x110180 + 0x10000 * i

/-- MAC_RQ_CFG (R353). -/
def MAC_RQ_CFG (i j : Nat) : Nat := 0x110108 + 0x10000 * i + 0x20 * j

/-- MAC_TQ_CFG (R353). -/
def MAC_TQ_CFG (i : Nat) : Nat := 0x110188 + 0x10000 * i

/-- MAC_RQ_PROD (R353). -/
def MAC_RQ_PROD (i j : Nat) : Nat := 0x110110 + 0x10000 * i + 0x20 * j

/-- MAC_RQ_CONS (R353). -/
def MAC_RQ_CONS (i j : Nat) : Nat := 0x110118 + 0x10000 * i + 0x20 * j

/-- MAC_TQ_PROD (R353). -/
def MAC_TQ_PROD (i : Nat) : Nat := 0x110190 + 0x10000 * i

/-- MAC_TQ_CONS (R353). -/
def MAC_TQ_CONS (i : Nat) : Nat := 0x110198 + 0x10000 * i

/-- MAC_CNT (R353). -/
def MAC_CNT (i j k : Nat) : Nat := 0x111000 + 0x10000 * i + 0x100 * j + 8 * k

/-- MEM_CTRL (R377). -/
def MEM_CTRL : Nat := 0x180000

/-- MEM_STATUS (R377). -/
def MEM_STATUS : Nat := 0x180008

/-- MEM_SCRUB (R377). -/
def MEM_SCRUB : Nat := 0x180010

/-- MEM_RGN (R377). -/
def MEM_RGN (i : Nat) : Nat := 0x180020 + 8 * i

/-- MEM_COMMIT (R377). -/
def MEM_COMMIT : Nat := 0x180040

/-- MEM_ERR_LOG0 (R377). -/
def MEM_ERR_LOG0 : Nat := 0x180048

/-- MEM_ERR_LOG1 (R377). -/
def MEM_ERR_LOG1 : Nat := 0x180050

/-- MEM_SRAM_REPAIR (R377). -/
def MEM_SRAM_REPAIR : Nat := 0x180058

/-- MEM_TEST_ADDR (R377). -/
def MEM_TEST_ADDR : Nat := 0x180060

/-- MEM_TEST_DATA (R377). -/
def MEM_TEST_DATA (i : Nat) : Nat := 0x180068 + 8 * i

/-- MEM_TEST_CHECK (R377). -/
def MEM_TEST_CHECK : Nat := 0x180088

/-- MEM_TEST_CMD (R377). -/
def MEM_TEST_CMD : Nat := 0x180090

/-- MEM_TEST_RESULT (R377). -/
def MEM_TEST_RESULT : Nat := 0x180098

/-- MEM_CNT (R377). -/
def MEM_CNT (i : Nat) : Nat := 0x180100 + 8 * i

/-- MEM_CNT_CORR_M (R377). -/
def MEM_CNT_CORR_M (i : Nat) : Nat := 0x180200 + 8 * i

/-- GLB_PROFILE (R397). -/
def GLB_PROFILE : Nat := 0x000200

/-- GLB_RESET (R397). -/
def GLB_RESET : Nat := 0x000208

/-- GLB_RESET_CAUSE (R397). -/
def GLB_RESET_CAUSE : Nat := 0x000210

/-- BOOT_STATE (R398). -/
def BOOT_STATE : Nat := 0x010000

/-- BOOT_FW_SRC (R398). -/
def BOOT_FW_SRC : Nat := 0x010008

/-- BOOT_FW_ADDR (R398). -/
def BOOT_FW_ADDR : Nat := 0x010010

/-- BOOT_FW_LEN (R398). -/
def BOOT_FW_LEN : Nat := 0x010018

/-- BOOT_FW_DATA (R398). -/
def BOOT_FW_DATA : Nat := 0x010020

/-- BOOT_CMD (R398). -/
def BOOT_CMD : Nat := 0x010028

/-- BOOT_DRV_VER (R398). -/
def BOOT_DRV_VER : Nat := 0x010030

/-- BOOT_FW_VER (R398). -/
def BOOT_FW_VER : Nat := 0x010038

/-- BOOT_FEAT_DRV (R398). -/
def BOOT_FEAT_DRV : Nat := 0x010040

/-- BOOT_FEAT_FW (R398). -/
def BOOT_FEAT_FW : Nat := 0x010048

/-- BOOT_FEAT_ACTIVE (R398). -/
def BOOT_FEAT_ACTIVE : Nat := 0x010050

/-- BOOT_TRAIN_CFG (R398). -/
def BOOT_TRAIN_CFG : Nat := 0x010058

/-- BOOT_TRAIN_SUM (R398). -/
def BOOT_TRAIN_SUM : Nat := 0x010060

/-- BOOT_TRAIN_F (R398). -/
def BOOT_TRAIN_F (i : Nat) : Nat := 0x010080 + 8 * i

/-- BOOT_TRAIN_A (R398). -/
def BOOT_TRAIN_A (i : Nat) : Nat := 0x0100C0 + 8 * i

/-- BOOT_TRAIN_M (R398). -/
def BOOT_TRAIN_M : Nat := 0x0100E0

/-- BOOT_MAP_IO (R398). -/
def BOOT_MAP_IO : Nat := 0x0100E8

/-- BOOT_TEST_LOG (R398). -/
def BOOT_TEST_LOG : Nat := 0x0100F0

/-- SEC_STATUS (R422). -/
def SEC_STATUS : Nat := 0x190000

/-- SEC_CTRL (R422). -/
def SEC_CTRL : Nat := 0x190008

/-- SEC_FUSE_CMD (R422). -/
def SEC_FUSE_CMD : Nat := 0x190010

/-- SEC_FUSE_RESULT (R422). -/
def SEC_FUSE_RESULT : Nat := 0x190018

/-- SEC_FW_DIGEST (R422). -/
def SEC_FW_DIGEST (i : Nat) : Nat := 0x190040 + 8 * i

/-- SEC_KEY_SEL (R422). -/
def SEC_KEY_SEL : Nat := 0x190100

/-- SEC_KEY_DATA (R422). -/
def SEC_KEY_DATA (i : Nat) : Nat := 0x190108 + 8 * i

/-- SEC_KEY_CMD (R422). -/
def SEC_KEY_CMD : Nat := 0x190130

/-- SEC_KEY_RESULT (R422). -/
def SEC_KEY_RESULT : Nat := 0x190138

/-- SEC_KEY_INFO (R422). -/
def SEC_KEY_INFO : Nat := 0x190140

/-- SEC_CIPH_SEL (R422). -/
def SEC_CIPH_SEL : Nat := 0x190200

/-- SEC_CIPH_CMD (R422). -/
def SEC_CIPH_CMD : Nat := 0x190208

/-- SEC_CIPH_RESULT (R422). -/
def SEC_CIPH_RESULT : Nat := 0x190210

/-- SEC_CIPH_DATA (R422). -/
def SEC_CIPH_DATA (i : Nat) : Nat := 0x190218 + 8 * i

/-- SEC_CIPH_STATUS (R422). -/
def SEC_CIPH_STATUS : Nat := 0x190260

/-- SEC_CNT (R422). -/
def SEC_CNT (i : Nat) : Nat := 0x190400 + 8 * i

/-- PWR_CTRL (R440). -/
def PWR_CTRL : Nat := 0x1A0000

/-- PWR_STATUS (R440). -/
def PWR_STATUS : Nat := 0x1A0008

/-- PWR_TOTAL (R440). -/
def PWR_TOTAL : Nat := 0x1A0010

/-- PWR_RAIL (R440). -/
def PWR_RAIL (i : Nat) : Nat := 0x1A0020 + 8 * i

/-- PWR_THERM_CFG (R440). -/
def PWR_THERM_CFG : Nat := 0x1A0060

/-- PWR_TEMP_MAX (R440). -/
def PWR_TEMP_MAX : Nat := 0x1A0068

/-- PWR_TEMP (R440). -/
def PWR_TEMP (i : Nat) : Nat := 0x1A0070 + 8 * i

/-- PWR_LANE0 (R440). -/
def PWR_LANE0 : Nat := 0x1A00C0

/-- PWR_LANE1 (R440). -/
def PWR_LANE1 : Nat := 0x1A00C8

/-- PWR_TWI_CMD (R440). -/
def PWR_TWI_CMD : Nat := 0x1A0100

/-- PWR_TWI_STATUS (R440). -/
def PWR_TWI_STATUS : Nat := 0x1A0108

/-- PWR_CNT (R440). -/
def PWR_CNT (i : Nat) : Nat := 0x1A0200 + 8 * i

/-- DBG_CTRL (R459). -/
def DBG_CTRL : Nat := 0x1C0000

/-- DBG_COMET_WPTR (R459). -/
def DBG_COMET_WPTR : Nat := 0x1C0008

/-- DBG_COMET_STATUS (R459). -/
def DBG_COMET_STATUS : Nat := 0x1C0010

/-- DBG_COMET_WRAPS (R459). -/
def DBG_COMET_WRAPS : Nat := 0x1C0018

/-- DBG_COMET_LOST (R459). -/
def DBG_COMET_LOST : Nat := 0x1C0020

/-- DBG_NW_CFG (R459). -/
def DBG_NW_CFG : Nat := 0x1C0028

/-- DBG_NW_STATUS (R459). -/
def DBG_NW_STATUS : Nat := 0x1C0030

/-- DBG_NW_CMD (R459). -/
def DBG_NW_CMD : Nat := 0x1C0038

/-- DBG_CNT (R459). -/
def DBG_CNT (i j : Nat) : Nat := 0x1C0100 + 0x40 * i + 8 * j

/-- DBG_TAG_MATCH (R459). -/
def DBG_TAG_MATCH (i : Nat) : Nat := 0x1C0400 + 0x40 * i

/-- DBG_TAG_MASK (R459). -/
def DBG_TAG_MASK (i : Nat) : Nat := 0x1C0408 + 0x40 * i

/-- DBG_TAG_CTRL (R459). -/
def DBG_TAG_CTRL (i : Nat) : Nat := 0x1C0410 + 0x40 * i

/-- DBG_TAG_CNT (R459). -/
def DBG_TAG_CNT (i j : Nat) : Nat := 0x1C0420 + 0x40 * i + 8 * j

/-- DBG_HSEL (R459). -/
def DBG_HSEL (i : Nat) : Nat := 0x1C1000 + 8 * i

/-- DBG_HIST_DEPTH (R459). -/
def DBG_HIST_DEPTH (i j : Nat) : Nat := 0x1C2000 + 0x100 * i + 8 * j

/-- DBG_HIST_DELAY (R459). -/
def DBG_HIST_DELAY (i j : Nat) : Nat := 0x1C2080 + 0x100 * i + 8 * j

end Reg

/-- The registers of the GLB block. -/
def regTableGlb : List RegDef :=
  [ ⟨"GLB_IDENT", 0x000000, 0, 1, 0, 1, 0, 1, [⟨0, 16, .ro, 0, 65535, 1⟩, ⟨16, 4, .ro, 0, 15, 1⟩, ⟨20, 4, .ro, 0, 15, 1⟩, ⟨24, 8, .ro, 0, 255, 1⟩, ⟨32, 16, .ro, 0, 65535, 1⟩]⟩
  , ⟨"GLB_CAPS", 0x000008, 0, 1, 0, 1, 0, 1, [⟨0, 4, .ro, 0, 15, 1⟩, ⟨4, 4, .ro, 0, 15, 1⟩, ⟨8, 4, .ro, 0, 15, 1⟩, ⟨12, 4, .ro, 0, 15, 1⟩, ⟨16, 4, .ro, 0, 15, 1⟩, ⟨20, 6, .ro, 0, 63, 1⟩, ⟨26, 2, .ro, 0, 3, 1⟩]⟩
  , ⟨"GLB_MAP_STATUS", 0x000010, 0, 1, 0, 1, 0, 1, [⟨0, 1, .ro, 0, 1, 1⟩, ⟨1, 1, .ro, 0, 1, 1⟩, ⟨8, 16, .ro, 0, 65535, 1⟩]⟩
  , ⟨"GLB_MAP_CLU", 0x000018, 0, 1, 0, 1, 0, 1, [⟨0, 32, .ro, 0, 4294967295, 1⟩, ⟨32, 4, .ro, 0, 15, 1⟩]⟩
  , ⟨"GLB_MAP_NEB", 0x000020, 0, 1, 0, 1, 0, 1, [⟨0, 12, .ro, 0, 4095, 1⟩, ⟨12, 3, .ro, 0, 7, 1⟩]⟩
  , ⟨"GLB_MAP_LANE", 0x000028, 8, 4, 0, 1, 0, 1, [⟨0, 32, .ro, 0, 4294967295, 1⟩]⟩
  , ⟨"GLB_MAP_FAB", 0x000048, 0, 1, 0, 1, 0, 1, [⟨0, 24, .ro, 0, 16777215, 1⟩]⟩
  , ⟨"GLB_OWN_STATUS", 0x000100, 0, 1, 0, 1, 0, 1, [⟨0, 3, .ro, 0, 7, 1⟩, ⟨3, 2, .ro, 0, 3, 1⟩, ⟨16, 16, .ro, 0, 65535, 1⟩, ⟨32, 32, .ro, 0, 4294967295, 1⟩]⟩
  , ⟨"GLB_OWN_CMD", 0x000108, 0, 1, 0, 1, 0, 1, [⟨0, 3, .wo, 0, 7, 1⟩, ⟨4, 3, .wo, 0, 7, 1⟩, ⟨32, 32, .wo, 0, 4294967295, 1⟩]⟩
  , ⟨"GLB_OWN_RESULT", 0x000110, 0, 1, 0, 1, 0, 1, [⟨0, 16, .ro, 0, 65535, 1⟩]⟩
  , ⟨"GLB_CNT_NOT_OWNER", 0x000118, 0, 1, 0, 1, 0, 1, [⟨0, 64, .ro, 0, 0xFFFFFFFFFFFFFFFF, 1⟩]⟩
  , ⟨"GLB_PROFILE", 0x000200, 0, 1, 0, 1, 0, 1, [⟨0, 2, .ro, 0, 3, 1⟩, ⟨2, 2, .ro, 0, 3, 1⟩, ⟨4, 2, .rw, 0, 3, 1⟩, ⟨6, 1, .rw, 0, 1, 1⟩, ⟨7, 1, .ro, 0, 1, 1⟩, ⟨8, 1, .ro, 0, 1, 1⟩]⟩
  , ⟨"GLB_RESET", 0x000208, 0, 1, 0, 1, 0, 1, [⟨0, 1, .wo, 0, 1, 1⟩, ⟨1, 1, .wo, 0, 1, 1⟩, ⟨2, 1, .rw, 0, 1, 1⟩]⟩
  , ⟨"GLB_RESET_CAUSE", 0x000210, 0, 1, 0, 1, 0, 1, [⟨0, 2, .ro, 0, 3, 1⟩, ⟨2, 1, .ro, 0, 1, 1⟩, ⟨16, 16, .ro, 0, 65535, 1⟩, ⟨32, 32, .ro, 0, 4294967295, 1⟩]⟩ ]

/-- The registers of the CLU block. -/
def regTableClu : List RegDef :=
  [ ⟨"CLU_CTRL", 0x040000, 65536, 8, 0, 1, 0, 1, [⟨0, 1, .rw, 0, 1, 1⟩, ⟨1, 1, .wo, 0, 1, 1⟩]⟩
  , ⟨"CLU_STATUS", 0x040008, 65536, 8, 0, 1, 0, 1, [⟨0, 4, .ro, 0, 15, 1⟩, ⟨4, 7, .ro, 0, 127, 1⟩, ⟨11, 7, .ro, 0, 127, 1⟩, ⟨18, 15, .ro, 0, 32767, 1⟩]⟩
  , ⟨"CLU_SLOT_CAP", 0x040010, 65536, 8, 0, 1, 0, 1, [⟨0, 6, .rw, 0, 63, 1⟩, ⟨8, 6, .rw, 0, 63, 1⟩, ⟨16, 6, .rw, 0, 63, 1⟩, ⟨24, 6, .rw, 0, 63, 1⟩]⟩
  , ⟨"CLU_SLOT_STATE", 0x040100, 65536, 8, 64, 4, 0, 1, [⟨0, 3, .ro, 0, 7, 1⟩, ⟨3, 1, .ro, 0, 1, 1⟩, ⟨4, 15, .ro, 0, 32767, 1⟩, ⟨19, 7, .ro, 0, 127, 1⟩, ⟨32, 16, .ro, 0, 65535, 1⟩]⟩
  , ⟨"CLU_SLOT_PROG", 0x040108, 65536, 8, 64, 4, 0, 1, [⟨0, 32, .ro, 0, 4294967295, 1⟩, ⟨32, 14, .ro, 0, 16383, 1⟩]⟩
  , ⟨"CLU_SLOT_MARK", 0x040110, 65536, 8, 64, 4, 0, 1, [⟨0, 32, .ro, 0, 4294967295, 1⟩, ⟨32, 32, .ro, 0, 4294967295, 1⟩]⟩
  , ⟨"CLU_SLOT_FAULT", 0x040118, 65536, 8, 64, 4, 0, 1, [⟨0, 24, .ro, 0, 16777215, 1⟩, ⟨24, 15, .ro, 0, 32767, 1⟩, ⟨48, 16, .ro, 0, 65535, 1⟩]⟩
  , ⟨"CLU_SLOT_SEG", 0x040120, 65536, 8, 64, 4, 0, 1, [⟨0, 32, .ro, 0, 4294967295, 1⟩]⟩
  , ⟨"CLU_SLOT_INST", 0x040128, 65536, 8, 64, 4, 0, 1, [⟨0, 8, .ro, 0, 255, 1⟩, ⟨8, 20, .ro, 0, 1048575, 1⟩]⟩
  , ⟨"CLU_SLOT_IMEM", 0x040130, 65536, 8, 64, 4, 0, 1, [⟨0, 14, .ro, 0, 16383, 1⟩, ⟨14, 15, .ro, 0, 32767, 1⟩]⟩
  , ⟨"CLU_SLOT_STOP", 0x040138, 65536, 8, 64, 4, 0, 1, [⟨0, 1, .wo, 0, 1, 1⟩]⟩ ]

/-- The registers of the NEB block. -/
def regTableNeb : List RegDef :=
  [ ⟨"NEB_CTRL", 0x0C0000, 0, 1, 0, 1, 0, 1, [⟨0, 1, .rw, 0, 1, 1⟩, ⟨1, 1, .rw, 0, 1, 1⟩, ⟨2, 1, .rw, 0, 1, 1⟩, ⟨3, 1, .rw, 0, 1, 1⟩]⟩
  , ⟨"NEB_SEED_XOR", 0x0C0008, 0, 1, 0, 1, 0, 1, [⟨0, 64, .rw, 0, 0xFFFFFFFFFFFFFFFF, 1⟩]⟩
  , ⟨"NEB_STATUS", 0x0C0010, 0, 1, 0, 1, 0, 1, [⟨0, 4, .ro, 0, 15, 1⟩, ⟨8, 3, .ro, 0, 7, 1⟩, ⟨12, 3, .ro, 0, 7, 1⟩, ⟨16, 3, .ro, 0, 7, 1⟩, ⟨20, 3, .ro, 0, 7, 1⟩]⟩
  , ⟨"NEB_FENCE_LOG", 0x0C0018, 0, 1, 0, 1, 0, 1, [⟨0, 1, .w1c, 0, 1, 1⟩, ⟨1, 2, .ro, 0, 3, 1⟩, ⟨3, 7, .ro, 0, 127, 1⟩, ⟨16, 24, .ro, 0, 16777215, 1⟩, ⟨40, 8, .ro, 0, 255, 1⟩]⟩
  , ⟨"NEB_RES_INJECT", 0x0C0020, 0, 1, 0, 1, 0, 1, [⟨0, 1, .wo, 0, 1, 1⟩, ⟨1, 2, .wo, 0, 3, 1⟩, ⟨3, 7, .wo, 0, 127, 1⟩, ⟨10, 1, .wo, 0, 1, 1⟩]⟩
  , ⟨"NEB_CNT_RES_RETRY", 0x0C0040, 0, 1, 0, 1, 0, 1, [⟨0, 64, .ro, 0, 0xFFFFFFFFFFFFFFFF, 1⟩]⟩
  , ⟨"NEB_CNT_RES_FAIL", 0x0C0048, 0, 1, 0, 1, 0, 1, [⟨0, 64, .ro, 0, 0xFFFFFFFFFFFFFFFF, 1⟩]⟩
  , ⟨"NEB_CNT_SAT", 0x0C0050, 0, 1, 0, 1, 0, 1, [⟨0, 64, .ro, 0, 0xFFFFFFFFFFFFFFFF, 1⟩]⟩
  , ⟨"NEB_CNT_NAN_LOST", 0x0C0058, 0, 1, 0, 1, 0, 1, [⟨0, 64, .ro, 0, 0xFFFFFFFFFFFFFFFF, 1⟩]⟩
  , ⟨"NEB_CNT_OPS", 0x0C0060, 8, 4, 0, 1, 0, 1, [⟨0, 64, .ro, 0, 0xFFFFFFFFFFFFFFFF, 1⟩]⟩ ]

/-- The registers of the SEM block. -/
def regTableSem : List RegDef :=
  [ ⟨"SEM_CTRL", 0x0F0000, 0, 1, 0, 1, 0, 1, [⟨0, 16, .rw, 1, 65535, 1⟩]⟩
  , ⟨"SEM_STATUS", 0x0F0008, 0, 1, 0, 1, 0, 1, [⟨0, 6, .ro, 0, 63, 1⟩, ⟨6, 1, .ro, 0, 1, 1⟩, ⟨16, 15, .ro, 0, 32767, 1⟩]⟩
  , ⟨"SEM_ZERO", 0x0F0010, 0, 1, 0, 1, 0, 1, [⟨0, 8, .wo, 0, 255, 1⟩, ⟨8, 1, .wo, 0, 1, 1⟩]⟩
  , ⟨"SEM_TO_LOG0", 0x0F0020, 0, 1, 0, 1, 0, 1, [⟨0, 1, .w1c, 0, 1, 1⟩, ⟨1, 1, .ro, 0, 1, 1⟩, ⟨8, 8, .ro, 0, 255, 1⟩, ⟨16, 5, .ro, 0, 31, 1⟩, ⟨24, 16, .ro, 0, 65535, 1⟩, ⟨40, 24, .ro, 0, 16777215, 1⟩]⟩
  , ⟨"SEM_TO_LOG1", 0x0F0028, 0, 1, 0, 1, 0, 1, [⟨0, 64, .ro, 0, 0xFFFFFFFFFFFFFFFF, 1⟩]⟩
  , ⟨"SEM_TO_LOG2", 0x0F0030, 0, 1, 0, 1, 0, 1, [⟨0, 64, .ro, 0, 0xFFFFFFFFFFFFFFFF, 1⟩]⟩
  , ⟨"SEM_CNT_OPS", 0x0F0040, 0, 1, 0, 1, 0, 1, [⟨0, 64, .ro, 0, 0xFFFFFFFFFFFFFFFF, 1⟩]⟩
  , ⟨"SEM_CNT_SAT", 0x0F0048, 0, 1, 0, 1, 0, 1, [⟨0, 64, .ro, 0, 0xFFFFFFFFFFFFFFFF, 1⟩]⟩
  , ⟨"SEM_CNT_REFUSED", 0x0F0050, 0, 1, 0, 1, 0, 1, [⟨0, 64, .ro, 0, 0xFFFFFFFFFFFFFFFF, 1⟩]⟩
  , ⟨"SEM_CNT_TIMEOUT", 0x0F0058, 0, 1, 0, 1, 0, 1, [⟨0, 64, .ro, 0, 0xFFFFFFFFFFFFFFFF, 1⟩]⟩
  , ⟨"SEM_CNT_POISON", 0x0F0060, 0, 1, 0, 1, 0, 1, [⟨0, 64, .ro, 0, 0xFFFFFFFFFFFFFFFF, 1⟩]⟩
  , ⟨"SEM_PAGE", 0x0F1000, 8, 256, 0, 1, 0, 1, [⟨0, 8, .rw, 0, 255, 1⟩, ⟨8, 1, .rw, 0, 1, 1⟩, ⟨9, 1, .rw, 0, 1, 1⟩, ⟨10, 4, .rw, 0, 15, 1⟩, ⟨14, 1, .rw, 0, 1, 1⟩, ⟨16, 16, .rw, 0, 65535, 1⟩]⟩
  , ⟨"SEM_SIGCTX", 0x0F1800, 8, 256, 0, 1, 0, 1, [⟨0, 20, .rw, 0, 1048575, 1⟩, ⟨20, 1, .rw, 0, 1, 1⟩, ⟨32, 16, .rw, 0, 65535, 1⟩]⟩
  , ⟨"SEM_BAR", 0x0F2000, 8, 256, 0, 1, 0, 1, [⟨0, 12, .rw, 0, 4095, 1⟩, ⟨12, 12, .ro, 0, 4095, 1⟩, ⟨32, 32, .ro, 0, 4294967295, 1⟩]⟩ ]

/-- The registers of the TIME block. -/
def regTableTime : List RegDef :=
  [ ⟨"TIME_CTRL", 0x170000, 0, 1, 0, 1, 0, 1, [⟨0, 2, .rw, 0, 3, 1⟩, ⟨2, 3, .rw, 0, 5, 1⟩, ⟨5, 1, .rw, 0, 1, 1⟩, ⟨6, 1, .rw, 0, 1, 1⟩, ⟨7, 1, .rw, 0, 1, 1⟩]⟩
  , ⟨"TIME_STATUS", 0x170008, 0, 1, 0, 1, 0, 1, [⟨0, 2, .ro, 0, 3, 1⟩, ⟨2, 1, .w1c, 0, 1, 1⟩, ⟨3, 1, .ro, 0, 1, 1⟩, ⟨4, 1, .ro, 0, 1, 1⟩, ⟨5, 3, .ro, 0, 7, 1⟩]⟩
  , ⟨"TIME_NOW", 0x170010, 0, 1, 0, 1, 0, 1, [⟨0, 64, .ro, 0, 0xFFFFFFFFFFFFFFFF, 1⟩]⟩
  , ⟨"TIME_SET", 0x170018, 0, 1, 0, 1, 0, 1, [⟨0, 64, .wo, 0, 0xFFFFFFFFFFFFFFFF, 1⟩]⟩
  , ⟨"TIME_ADJ", 0x170020, 0, 1, 0, 1, 0, 1, [⟨0, 64, .wo, 0, 0xFFFFFFFFFFFFFFFF, 1⟩]⟩
  , ⟨"TIME_SERVO_IN", 0x170028, 0, 1, 0, 1, 0, 1, [⟨0, 64, .wo, 0, 0xFFFFFFFFFFFFFFFF, 1⟩]⟩
  , ⟨"TIME_SERVO_CFG", 0x170030, 0, 1, 0, 1, 0, 1, [⟨0, 16, .rw, 0, 65535, 1⟩, ⟨16, 16, .rw, 0, 65535, 1⟩, ⟨32, 12, .rw, 0, 4095, 1⟩, ⟨44, 8, .rw, 0, 255, 1⟩, ⟨52, 12, .rw, 0, 4095, 1⟩]⟩
  , ⟨"TIME_HOLD", 0x170038, 0, 1, 0, 1, 0, 1, [⟨0, 16, .rw, 0, 65535, 1⟩, ⟨16, 24, .rw, 0, 16777215, 1⟩]⟩
  , ⟨"TIME_FREQ", 0x170040, 0, 1, 0, 1, 0, 1, [⟨0, 32, .ro, 0, 4294967295, 1⟩, ⟨32, 32, .ro, 0, 4294967295, 1⟩]⟩
  , ⟨"TIME_PPS", 0x170048, 0, 1, 0, 1, 0, 1, [⟨0, 16, .rw, 0, 65535, 1⟩, ⟨16, 16, .rw, 0, 65535, 1⟩, ⟨32, 16, .rw, 0, 65535, 1⟩]⟩
  , ⟨"TIME_PPS_IN_TS", 0x170050, 0, 1, 0, 1, 0, 1, [⟨0, 64, .ro, 0, 0xFFFFFFFFFFFFFFFF, 1⟩]⟩
  , ⟨"TIME_CNT_STEP", 0x170060, 0, 1, 0, 1, 0, 1, [⟨0, 64, .ro, 0, 0xFFFFFFFFFFFFFFFF, 1⟩]⟩
  , ⟨"TIME_CNT_STEP_REFUSED", 0x170068, 0, 1, 0, 1, 0, 1, [⟨0, 64, .ro, 0, 0xFFFFFFFFFFFFFFFF, 1⟩]⟩
  , ⟨"TIME_CNT_LOSS", 0x170070, 0, 1, 0, 1, 0, 1, [⟨0, 64, .ro, 0, 0xFFFFFFFFFFFFFFFF, 1⟩]⟩
  , ⟨"TIME_EPH_CTRL", 0x170100, 0, 1, 0, 1, 0, 1, [⟨0, 1, .rw, 0, 1, 1⟩, ⟨1, 1, .rw, 0, 1, 1⟩]⟩
  , ⟨"TIME_EPH_STATUS", 0x170108, 0, 1, 0, 1, 0, 1, [⟨0, 1, .ro, 0, 1, 1⟩, ⟨1, 1, .ro, 0, 1, 1⟩, ⟨2, 1, .ro, 0, 1, 1⟩]⟩
  , ⟨"TIME_EPH_ADDR", 0x170110, 0, 1, 0, 1, 0, 1, [⟨0, 12, .rw, 0, 4095, 1⟩]⟩
  , ⟨"TIME_EPH_ROW0", 0x170118, 0, 1, 0, 1, 0, 1, [⟨0, 32, .rwc, 0, 4294967295, 1⟩, ⟨32, 32, .rwc, 0, 4294967295, 1⟩]⟩
  , ⟨"TIME_EPH_ROW1", 0x170120, 0, 1, 0, 1, 0, 1, [⟨0, 16, .rwc, 0, 65535, 1⟩, ⟨16, 16, .rwc, 0, 65535, 1⟩, ⟨32, 4, .rwc, 0, 15, 1⟩, ⟨36, 1, .rwc, 0, 1, 1⟩]⟩
  , ⟨"TIME_EPH_ACT", 0x170128, 0, 1, 0, 1, 0, 1, [⟨0, 64, .rw, 0, 0xFFFFFFFFFFFFFFFF, 1⟩]⟩
  , ⟨"TIME_EPH_COMMIT", 0x170130, 0, 1, 0, 1, 0, 1, [⟨0, 1, .wo, 0, 1, 1⟩]⟩
  , ⟨"TIME_EPH_LATE", 0x170138, 0, 1, 0, 1, 0, 1, [⟨0, 64, .ro, 0, 0xFFFFFFFFFFFFFFFF, 1⟩]⟩
  , ⟨"TIME_EPH_GRP_BASE", 0x170200, 32, 16, 0, 1, 0, 1, [⟨0, 64, .rwc, 0, 0xFFFFFFFFFFFFFFFF, 1⟩]⟩
  , ⟨"TIME_EPH_GRP_CYCLE", 0x170208, 32, 16, 0, 1, 0, 1, [⟨0, 32, .rwc, 0, 4294967295, 1⟩, ⟨32, 16, .rwc, 0, 65535, 1⟩, ⟨48, 1, .rwc, 0, 1, 1⟩]⟩
  , ⟨"TIME_EPH_GRP_MISS", 0x170210, 32, 16, 0, 1, 0, 1, [⟨0, 64, .ro, 0, 0xFFFFFFFFFFFFFFFF, 1⟩]⟩
  , ⟨"TIME_EPH_GRP_BYPASS", 0x170218, 32, 16, 0, 1, 0, 1, [⟨0, 64, .ro, 0, 0xFFFFFFFFFFFFFFFF, 1⟩]⟩ ]

/-- The registers of the XPT block. -/
def regTableXpt : List RegDef :=
  [ ⟨"XPT_CTRL", 0x0D0000, 0, 1, 0, 1, 0, 1, [⟨0, 1, .rw, 0, 1, 1⟩, ⟨1, 1, .rw, 0, 1, 1⟩]⟩
  , ⟨"XPT_STATUS", 0x0D0008, 0, 1, 0, 1, 0, 1, [⟨0, 14, .ro, 0, 16383, 1⟩, ⟨14, 11, .ro, 0, 2047, 1⟩, ⟨25, 10, .ro, 0, 1023, 1⟩, ⟨35, 17, .ro, 0, 131071, 1⟩]⟩
  , ⟨"XPT_STATUS1", 0x0D0010, 0, 1, 0, 1, 0, 1, [⟨0, 15, .ro, 0, 32767, 1⟩, ⟨15, 17, .ro, 0, 131071, 1⟩, ⟨32, 32, .ro, 0, 4294967295, 1⟩]⟩
  , ⟨"XPT_LIFETIME", 0x0D0018, 0, 1, 0, 1, 0, 1, [⟨0, 16, .rw, 1, 65535, 1⟩, ⟨16, 16, .rw, 0, 65535, 1⟩]⟩
  , ⟨"XPT_RTO_MIN", 0x0D0020, 0, 1, 0, 1, 0, 1, [⟨0, 16, .rw, 0, 65535, 1⟩, ⟨16, 16, .ro, 0, 65535, 1⟩]⟩
  , ⟨"XPT_RTO_CFG", 0x0D0028, 0, 1, 0, 1, 0, 1, [⟨0, 16, .rw, 0, 65535, 1⟩, ⟨16, 16, .rw, 0, 65535, 1⟩, ⟨32, 4, .rw, 0, 15, 1⟩]⟩
  , ⟨"XPT_BUSY", 0x0D0030, 0, 1, 0, 1, 0, 1, [⟨0, 16, .rw, 0, 65535, 1⟩]⟩
  , ⟨"XPT_ACK", 0x0D0038, 0, 1, 0, 1, 0, 1, [⟨0, 8, .rw, 1, 255, 1⟩, ⟨8, 16, .rw, 0, 65535, 1⟩]⟩
  , ⟨"XPT_RATE_CFG", 0x0D0040, 0, 1, 0, 1, 0, 1, [⟨0, 8, .rwc, 0, 255, 1⟩, ⟨8, 8, .rwc, 0, 255, 1⟩, ⟨16, 8, .rwc, 1, 255, 1⟩, ⟨32, 13, .rwc, 0, 8191, 1⟩, ⟨48, 13, .rwc, 0, 8191, 1⟩]⟩
  , ⟨"XPT_COMMIT", 0x0D0048, 0, 1, 0, 1, 0, 1, [⟨0, 1, .wo, 0, 1, 1⟩, ⟨1, 1, .wo, 0, 1, 1⟩]⟩
  , ⟨"XPT_TX_REC", 0x0D0050, 0, 1, 0, 1, 0, 1, [⟨0, 17, .rw, 0, 65536, 1⟩]⟩
  , ⟨"XPT_CTX_BASE", 0x0D0058, 0, 1, 0, 1, 0, 1, [⟨0, 64, .rw, 0, 0xFFFFFFFFFFFFFFFF, 4096⟩]⟩
  , ⟨"XPT_CTX_COUNT", 0x0D0060, 0, 1, 0, 1, 0, 1, [⟨0, 21, .rw, 0, 1048576, 1⟩]⟩
  , ⟨"XPT_CTX_SEL", 0x0D0068, 0, 1, 0, 1, 0, 1, [⟨0, 20, .rw, 0, 1048575, 1⟩]⟩
  , ⟨"XPT_CTX_DATA0", 0x0D0070, 0, 1, 0, 1, 0, 1, [⟨0, 1, .rw, 0, 1, 1⟩, ⟨1, 1, .rw, 0, 1, 1⟩, ⟨2, 1, .rw, 0, 1, 1⟩, ⟨3, 1, .rw, 0, 1, 1⟩, ⟨4, 4, .rw, 0, 15, 1⟩, ⟨8, 8, .rw, 0, 255, 1⟩, ⟨16, 16, .rw, 0, 65535, 1⟩, ⟨32, 13, .rw, 0, 8191, 1⟩]⟩
  , ⟨"XPT_CTX_DATA1", 0x0D0078, 0, 1, 0, 1, 0, 1, [⟨0, 13, .ro, 0, 8191, 1⟩, ⟨13, 17, .ro, 0, 131071, 1⟩, ⟨30, 1, .ro, 0, 1, 1⟩]⟩
  , ⟨"XPT_CTX_CMD", 0x0D0080, 0, 1, 0, 1, 0, 1, [⟨0, 3, .wo, 0, 7, 1⟩]⟩
  , ⟨"XPT_CTX_RESULT", 0x0D0088, 0, 1, 0, 1, 0, 1, [⟨0, 1, .ro, 0, 1, 1⟩, ⟨16, 16, .ro, 0, 65535, 1⟩]⟩
  , ⟨"XPT_V6_PREFIX", 0x0D0090, 0, 1, 0, 1, 0, 1, [⟨0, 64, .rw, 0, 0xFFFFFFFFFFFFFFFF, 1⟩]⟩
  , ⟨"XPT_DSCP", 0x0D0098, 0, 1, 0, 1, 0, 1, [⟨0, 48, .rw, 0, 0xFFFFFFFFFFFF, 1⟩]⟩
  , ⟨"XPT_PLANE_WT", 0x0D00A0, 8, 6, 0, 1, 0, 1, [⟨0, 8, .rwc, 0, 255, 1⟩, ⟨8, 8, .rwc, 0, 255, 1⟩, ⟨16, 8, .rwc, 0, 255, 1⟩, ⟨24, 8, .rwc, 0, 255, 1⟩]⟩
  , ⟨"XPT_PLANE_EFF", 0x0D00D0, 8, 6, 0, 1, 0, 1, [⟨0, 32, .ro, 0, 4294967295, 1⟩]⟩
  , ⟨"XPT_CNT", 0x0D0100, 8, 22, 0, 1, 0, 1, [⟨0, 64, .ro, 0, 0xFFFFFFFFFFFFFFFF, 1⟩]⟩ ]

/-- The registers of the WIN block. -/
def regTableWin : List RegDef :=
  [ ⟨"WIN_TBL_BASE", 0x0E0000, 0, 1, 0, 1, 0, 1, [⟨0, 64, .rw, 0, 0xFFFFFFFFFFFFFFFF, 4096⟩]⟩
  , ⟨"WIN_TBL_COUNT", 0x0E0008, 0, 1, 0, 1, 0, 1, [⟨0, 21, .rw, 0, 1048576, 1⟩]⟩
  , ⟨"WIN_SEL", 0x0E0010, 0, 1, 0, 1, 0, 1, [⟨0, 20, .rw, 0, 1048575, 1⟩]⟩
  , ⟨"WIN_DATA0", 0x0E0018, 0, 1, 0, 1, 0, 1, [⟨0, 64, .rwc, 0, 0xFFFFFFFFFFFFFFFF, 1⟩]⟩
  , ⟨"WIN_DATA1", 0x0E0020, 0, 1, 0, 1, 0, 1, [⟨0, 48, .rwc, 0, 0xFFFFFFFFFFFF, 1⟩, ⟨48, 4, .rwc, 0, 15, 1⟩, ⟨52, 1, .rwc, 0, 1, 1⟩, ⟨53, 1, .rwc, 0, 1, 1⟩, ⟨54, 1, .rwc, 0, 1, 1⟩, ⟨55, 1, .rwc, 0, 1, 1⟩, ⟨56, 1, .rwc, 0, 1, 1⟩]⟩
  , ⟨"WIN_DATA2", 0x0E0028, 0, 1, 0, 1, 0, 1, [⟨0, 8, .rwc, 0, 255, 1⟩, ⟨8, 16, .rwc, 0, 65535, 1⟩, ⟨24, 12, .rwc, 0, 4095, 1⟩, ⟨36, 5, .rwc, 0, 31, 1⟩, ⟨48, 8, .ro, 0, 255, 1⟩, ⟨56, 2, .ro, 0, 3, 1⟩]⟩
  , ⟨"WIN_CMD", 0x0E0030, 0, 1, 0, 1, 0, 1, [⟨0, 3, .wo, 0, 7, 1⟩, ⟨3, 1, .wo, 0, 1, 1⟩, ⟨16, 16, .wo, 0, 65535, 1⟩]⟩
  , ⟨"WIN_RESULT", 0x0E0038, 0, 1, 0, 1, 0, 1, [⟨0, 1, .ro, 0, 1, 1⟩, ⟨16, 16, .ro, 0, 65535, 1⟩, ⟨32, 8, .ro, 0, 255, 1⟩]⟩
  , ⟨"WIN_STATUS", 0x0E0040, 0, 1, 0, 1, 0, 1, [⟨0, 21, .ro, 0, 2097151, 1⟩, ⟨21, 21, .ro, 0, 2097151, 1⟩, ⟨42, 15, .ro, 0, 32767, 1⟩]⟩
  , ⟨"WIN_CNT", 0x0E0100, 8, 12, 0, 1, 0, 1, [⟨0, 64, .ro, 0, 0xFFFFFFFFFFFFFFFF, 1⟩]⟩ ]

/-- The registers of the FAB block. -/
def regTableFab : List RegDef :=
  [ ⟨"FAB_CTRL", 0x100000, 0, 1, 0, 1, 0, 1, [⟨0, 1, .rw, 0, 1, 1⟩, ⟨1, 1, .rw, 0, 1, 1⟩, ⟨2, 1, .rw, 0, 1, 1⟩, ⟨3, 1, .rw, 0, 1, 1⟩]⟩
  , ⟨"FAB_ID", 0x100008, 0, 1, 0, 1, 0, 1, [⟨0, 16, .rw, 0, 65535, 1⟩]⟩
  , ⟨"FAB_MAC", 0x100010, 0, 1, 0, 1, 0, 1, [⟨0, 8, .rw, 0, 255, 1⟩]⟩
  , ⟨"FAB_GW_MAC", 0x100018, 0, 1, 0, 1, 0, 1, [⟨0, 48, .rw, 0, 0xFFFFFFFFFFFF, 1⟩]⟩
  , ⟨"FAB_ROW_DOWN", 0x100020, 0, 1, 0, 1, 0, 1, [⟨0, 64, .rw, 0, 0xFFFFFFFFFFFFFFFF, 1⟩]⟩
  , ⟨"FAB_COL_DOWN", 0x100028, 0, 1, 0, 1, 0, 1, [⟨0, 64, .rw, 0, 0xFFFFFFFFFFFFFFFF, 1⟩]⟩
  , ⟨"FAB_LINK_CFG", 0x100030, 0, 1, 0, 1, 0, 1, [⟨0, 8, .rw, 1, 255, 1⟩, ⟨8, 16, .rw, 0, 65535, 1⟩, ⟨24, 8, .rw, 0, 255, 1⟩]⟩
  , ⟨"FAB_PFC", 0x100038, 0, 1, 0, 1, 0, 1, [⟨0, 8, .rwc, 0, 255, 1⟩, ⟨8, 12, .rwc, 0, 4095, 1⟩, ⟨20, 12, .rwc, 0, 4095, 1⟩, ⟨32, 12, .rwc, 0, 4095, 1⟩]⟩
  , ⟨"FAB_ECN", 0x100040, 0, 1, 0, 1, 0, 1, [⟨0, 12, .rw, 0, 4095, 1⟩, ⟨12, 12, .rw, 0, 4095, 1⟩, ⟨24, 8, .rw, 0, 255, 1⟩]⟩
  , ⟨"FAB_MGMT", 0x100048, 0, 1, 0, 1, 0, 1, [⟨0, 3, .rw, 0, 7, 1⟩]⟩
  , ⟨"FAB_COMMIT", 0x100050, 0, 1, 0, 1, 0, 1, [⟨0, 1, .wo, 0, 1, 1⟩, ⟨1, 1, .w1c, 0, 1, 1⟩]⟩
  , ⟨"FAB_PLANE", 0x100060, 8, 6, 0, 1, 0, 1, [⟨0, 2, .rwc, 0, 2, 1⟩, ⟨4, 12, .rwc, 0, 4095, 1⟩]⟩
  , ⟨"FAB_LINK", 0x100090, 8, 6, 0, 1, 0, 1, [⟨0, 16, .ro, 0, 65535, 1⟩, ⟨16, 4, .ro, 0, 15, 1⟩]⟩
  , ⟨"FAB_PEER", 0x1000C0, 8, 6, 0, 1, 0, 1, [⟨0, 64, .ro, 0, 0xFFFFFFFFFFFFFFFF, 1⟩]⟩
  , ⟨"FAB_MC_SEL", 0x100100, 0, 1, 0, 1, 0, 1, [⟨0, 12, .rw, 0, 4095, 1⟩]⟩
  , ⟨"FAB_MC_DATA0", 0x100108, 0, 1, 0, 1, 0, 1, [⟨0, 64, .rwc, 0, 0xFFFFFFFFFFFFFFFF, 1⟩]⟩
  , ⟨"FAB_MC_DATA1", 0x100110, 0, 1, 0, 1, 0, 1, [⟨0, 1, .rwc, 0, 1, 1⟩, ⟨1, 1, .rwc, 0, 1, 1⟩, ⟨8, 8, .rwc, 0, 255, 1⟩]⟩
  , ⟨"FAB_MC_CMD", 0x100118, 0, 1, 0, 1, 0, 1, [⟨0, 2, .wo, 0, 3, 1⟩]⟩
  , ⟨"FAB_CNT", 0x100200, 8, 10, 0, 1, 0, 1, [⟨0, 64, .ro, 0, 0xFFFFFFFFFFFFFFFF, 1⟩]⟩ ]

/-- The registers of the RING block. -/
def regTableRing : List RegDef :=
  [ ⟨"RING_CTRL", 0x020000, 0, 1, 0, 1, 0, 1, [⟨0, 1, .rw, 0, 1, 1⟩]⟩
  , ⟨"RING_STATUS", 0x020008, 0, 1, 0, 1, 0, 1, [⟨0, 15, .ro, 0, 32767, 1⟩, ⟨15, 15, .ro, 0, 32767, 1⟩]⟩
  , ⟨"RING_SEL", 0x020010, 0, 1, 0, 1, 0, 1, [⟨0, 14, .rw, 0, 16383, 1⟩]⟩
  , ⟨"RING_CFG0", 0x020018, 0, 1, 0, 1, 0, 1, [⟨0, 64, .rwc, 0, 0xFFFFFFFFFFFFFFFF, 1⟩]⟩
  , ⟨"RING_CFG1", 0x020020, 0, 1, 0, 1, 0, 1, [⟨0, 5, .rwc, 6, 16, 1⟩, ⟨5, 3, .rwc, 0, 7, 1⟩, ⟨8, 4, .rwc, 3, 7, 1⟩, ⟨12, 8, .rwc, 0, 255, 1⟩, ⟨20, 7, .rwc, 0, 64, 1⟩, ⟨27, 1, .rwc, 0, 1, 1⟩, ⟨28, 8, .rwc, 0, 255, 1⟩]⟩
  , ⟨"RING_CFG2", 0x020028, 0, 1, 0, 1, 0, 1, [⟨6, 58, .rwc, 0, 0x3FFFFFFFFFFFFFF, 1⟩]⟩
  , ⟨"RING_CFG3", 0x020030, 0, 1, 0, 1, 0, 1, [⟨0, 11, .rwc, 0, 2047, 1⟩, ⟨11, 1, .rwc, 0, 1, 1⟩, ⟨12, 16, .rwc, 0, 65535, 1⟩, ⟨28, 16, .rwc, 0, 65535, 1⟩]⟩
  , ⟨"RING_CMD", 0x020038, 0, 1, 0, 1, 0, 1, [⟨0, 3, .wo, 0, 7, 1⟩]⟩
  , ⟨"RING_RESULT", 0x020040, 0, 1, 0, 1, 0, 1, [⟨0, 1, .ro, 0, 1, 1⟩, ⟨16, 16, .ro, 0, 65535, 1⟩]⟩
  , ⟨"RING_STATE", 0x020048, 0, 1, 0, 1, 0, 1, [⟨0, 3, .ro, 0, 7, 1⟩, ⟨16, 16, .ro, 0, 65535, 1⟩]⟩
  , ⟨"RING_IDX0", 0x020050, 0, 1, 0, 1, 0, 1, [⟨0, 32, .ro, 0, 4294967295, 1⟩, ⟨32, 32, .ro, 0, 4294967295, 1⟩]⟩
  , ⟨"RING_IDX1", 0x020058, 0, 1, 0, 1, 0, 1, [⟨0, 32, .ro, 0, 4294967295, 1⟩, ⟨32, 32, .ro, 0, 4294967295, 1⟩]⟩
  , ⟨"RING_CNT", 0x020100, 8, 8, 0, 1, 0, 1, [⟨0, 64, .ro, 0, 0xFFFFFFFFFFFFFFFF, 1⟩]⟩
  , ⟨"RING_FQ_BASE", 0x024000, 64, 257, 0, 1, 0, 1, [⟨0, 64, .rw, 0, 0xFFFFFFFFFFFFFFFF, 4096⟩]⟩
  , ⟨"RING_FQ_CTRL", 0x024008, 64, 257, 0, 1, 0, 1, [⟨0, 1, .rw, 0, 1, 1⟩, ⟨1, 11, .rw, 0, 2047, 1⟩, ⟨12, 1, .rw, 0, 1, 1⟩, ⟨13, 16, .rw, 0, 65535, 1⟩]⟩
  , ⟨"RING_FQ_PROD", 0x024010, 64, 257, 0, 1, 0, 1, [⟨0, 32, .ro, 0, 4294967295, 1⟩]⟩
  , ⟨"RING_FQ_CONS", 0x024018, 64, 257, 0, 1, 0, 1, [⟨0, 32, .rw, 0, 4294967295, 1⟩]⟩
  , ⟨"RING_FQ_OVF0", 0x024020, 64, 257, 0, 1, 0, 1, [⟨0, 64, .ro, 0, 0xFFFFFFFFFFFFFFFF, 1⟩]⟩
  , ⟨"RING_FQ_OVF1", 0x024028, 64, 257, 0, 1, 0, 1, [⟨0, 64, .ro, 0, 0xFFFFFFFFFFFFFFFF, 1⟩]⟩ ]

/-- The registers of the XLT block. -/
def regTableXlt : List RegDef :=
  [ ⟨"XLT_STATUS", 0x030000, 0, 1, 0, 1, 0, 1, [⟨0, 15, .ro, 0, 32767, 1⟩, ⟨15, 9, .ro, 0, 511, 1⟩]⟩
  , ⟨"XLT_INST_SEL", 0x030008, 0, 1, 0, 1, 0, 1, [⟨0, 8, .rw, 0, 255, 1⟩]⟩
  , ⟨"XLT_INST_CFG0", 0x030010, 0, 1, 0, 1, 0, 1, [⟨0, 20, .rwc, 0, 1048575, 1⟩, ⟨20, 5, .rwc, 0, 31, 1⟩, ⟨25, 3, .rwc, 0, 7, 1⟩]⟩
  , ⟨"XLT_INST_CFG1", 0x030018, 0, 1, 0, 1, 0, 1, [⟨0, 14, .rwc, 0, 16383, 1⟩, ⟨14, 15, .rwc, 0, 16384, 1⟩, ⟨29, 8, .rwc, 0, 255, 1⟩, ⟨37, 9, .rwc, 0, 256, 1⟩]⟩
  , ⟨"XLT_INST_CFG2", 0x030020, 0, 1, 0, 1, 0, 1, [⟨0, 20, .rwc, 0, 1048575, 1⟩, ⟨20, 21, .rwc, 0, 1048576, 1⟩]⟩
  , ⟨"XLT_INST_CFG3", 0x030028, 0, 1, 0, 1, 0, 1, [⟨0, 20, .rwc, 0, 1048575, 1⟩, ⟨20, 21, .rwc, 0, 1048576, 1⟩]⟩
  , ⟨"XLT_INST_CFG4", 0x030030, 0, 1, 0, 1, 0, 1, [⟨0, 12, .rwc, 0, 4095, 1⟩, ⟨12, 12, .rwc, 0, 4095, 1⟩, ⟨24, 12, .rwc, 0, 4095, 1⟩, ⟨36, 13, .rwc, 0, 4096, 1⟩]⟩
  , ⟨"XLT_INST_CFG5", 0x030038, 0, 1, 0, 1, 0, 1, [⟨0, 12, .rwc, 0, 4095, 1⟩, ⟨12, 13, .rwc, 0, 4096, 1⟩, ⟨25, 15, .rwc, 0, 32767, 1⟩, ⟨40, 8, .rwc, 0, 128, 1⟩]⟩
  , ⟨"XLT_INST_CFG6", 0x030040, 0, 1, 0, 1, 0, 1, [⟨0, 8, .rwc, 0, 255, 1⟩, ⟨8, 8, .rwc, 0, 192, 1⟩, ⟨16, 7, .rwc, 0, 127, 1⟩, ⟨23, 8, .rwc, 0, 128, 1⟩]⟩
  , ⟨"XLT_INST_CMD", 0x030048, 0, 1, 0, 1, 0, 1, [⟨0, 3, .wo, 0, 7, 1⟩]⟩
  , ⟨"XLT_INST_RESULT", 0x030050, 0, 1, 0, 1, 0, 1, [⟨0, 1, .ro, 0, 1, 1⟩, ⟨16, 16, .ro, 0, 65535, 1⟩, ⟨32, 1, .ro, 0, 1, 1⟩, ⟨33, 6, .ro, 0, 63, 1⟩]⟩
  , ⟨"XLT_ATT_APER", 0x030100, 16, 4, 0, 1, 0, 1, [⟨0, 14, .rw, 0, 16383, 1⟩, ⟨14, 9, .rw, 0, 256, 1⟩]⟩
  , ⟨"XLT_ATT_HDM", 0x030108, 16, 4, 0, 1, 0, 1, [⟨0, 64, .ro, 0, 0xFFFFFFFFFFFFFFFF, 1⟩]⟩
  , ⟨"XLT_CNT", 0x030200, 8, 9, 0, 1, 0, 1, [⟨0, 64, .ro, 0, 0xFFFFFFFFFFFFFFFF, 1⟩]⟩ ]

/-- The registers of the MAC block. -/
def regTableMac : List RegDef :=
  [ ⟨"MAC_CTRL", 0x110000, 65536, 6, 0, 1, 0, 1, [⟨0, 1, .rw, 0, 1, 1⟩, ⟨1, 2, .rw, 0, 2, 1⟩, ⟨3, 1, .rw, 0, 1, 1⟩, ⟨4, 1, .rw, 0, 1, 1⟩, ⟨5, 1, .rw, 0, 1, 1⟩, ⟨6, 1, .rw, 0, 1, 1⟩]⟩
  , ⟨"MAC_STATUS", 0x110008, 65536, 6, 0, 1, 0, 1, [⟨0, 4, .ro, 0, 15, 1⟩, ⟨4, 8, .ro, 0, 255, 1⟩]⟩
  , ⟨"MAC_FRAME", 0x110010, 65536, 6, 0, 1, 0, 1, [⟨0, 14, .rw, 4352, 16383, 1⟩]⟩
  , ⟨"MAC_TC_WT", 0x110018, 65536, 6, 0, 1, 0, 1, [⟨0, 56, .rw, 0, 0xFFFFFFFFFFFFFF, 1⟩]⟩
  , ⟨"MAC_PTP_COMP", 0x110020, 65536, 6, 0, 1, 0, 1, [⟨0, 32, .rw, 0, 4294967295, 1⟩, ⟨32, 32, .rw, 0, 4294967295, 1⟩]⟩
  , ⟨"MAC_MC_EXTRA", 0x110028, 65536, 6, 0, 1, 0, 1, [⟨0, 48, .rw, 0, 0xFFFFFFFFFFFF, 1⟩]⟩
  , ⟨"MAC_FLT", 0x110040, 65536, 6, 8, 16, 0, 1, [⟨0, 16, .rw, 0, 65535, 1⟩, ⟨16, 1, .rw, 0, 1, 1⟩, ⟨17, 12, .rw, 0, 4095, 1⟩, ⟨29, 2, .rw, 0, 2, 1⟩, ⟨31, 8, .rw, 0, 255, 1⟩, ⟨39, 2, .rw, 0, 3, 1⟩, ⟨41, 2, .rw, 0, 3, 1⟩, ⟨43, 1, .rw, 0, 1, 1⟩, ⟨44, 1, .rw, 0, 1, 1⟩]⟩
  , ⟨"MAC_RQ_BASE", 0x110100, 65536, 6, 32, 4, 0, 1, [⟨0, 64, .rw, 0, 0xFFFFFFFFFFFFFFFF, 4096⟩]⟩
  , ⟨"MAC_TQ_BASE", 0x110180, 65536, 6, 0, 1, 0, 1, [⟨0, 64, .rw, 0, 0xFFFFFFFFFFFFFFFF, 4096⟩]⟩
  , ⟨"MAC_RQ_CFG", 0x110108, 65536, 6, 32, 4, 0, 1, [⟨0, 4, .rw, 4, 12, 1⟩, ⟨4, 4, .rw, 3, 7, 1⟩, ⟨8, 1, .rw, 0, 1, 1⟩, ⟨9, 11, .rw, 0, 2047, 1⟩, ⟨20, 1, .rw, 0, 1, 1⟩]⟩
  , ⟨"MAC_TQ_CFG", 0x110188, 65536, 6, 0, 1, 0, 1, [⟨0, 4, .rw, 4, 12, 1⟩, ⟨4, 4, .rw, 3, 7, 1⟩, ⟨8, 1, .rw, 0, 1, 1⟩, ⟨9, 11, .rw, 0, 2047, 1⟩, ⟨20, 1, .rw, 0, 1, 1⟩]⟩
  , ⟨"MAC_RQ_PROD", 0x110110, 65536, 6, 32, 4, 0, 1, [⟨0, 32, .ro, 0, 4294967295, 1⟩]⟩
  , ⟨"MAC_RQ_CONS", 0x110118, 65536, 6, 32, 4, 0, 1, [⟨0, 32, .rw, 0, 4294967295, 1⟩]⟩
  , ⟨"MAC_TQ_PROD", 0x110190, 65536, 6, 0, 1, 0, 1, [⟨0, 32, .rw, 0, 4294967295, 1⟩]⟩
  , ⟨"MAC_TQ_CONS", 0x110198, 65536, 6, 0, 1, 0, 1, [⟨0, 32, .ro, 0, 4294967295, 1⟩]⟩
  , ⟨"MAC_CNT", 0x111000, 65536, 6, 256, 4, 8, 16, [⟨0, 64, .rc, 0, 0xFFFFFFFFFFFFFFFF, 1⟩]⟩ ]

/-- The registers of the MEM block. -/
def regTableMem : List RegDef :=
  [ ⟨"MEM_CTRL", 0x180000, 0, 1, 0, 1, 0, 1, [⟨0, 1, .rw, 0, 1, 1⟩, ⟨1, 1, .rw, 0, 1, 1⟩, ⟨2, 1, .rw, 0, 1, 1⟩, ⟨3, 1, .rw, 0, 1, 1⟩, ⟨4, 1, .rw, 0, 1, 1⟩]⟩
  , ⟨"MEM_STATUS", 0x180008, 0, 1, 0, 1, 0, 1, [⟨0, 1, .ro, 0, 1, 1⟩, ⟨1, 4, .ro, 0, 15, 1⟩, ⟨5, 2, .ro, 0, 3, 1⟩, ⟨7, 9, .ro, 0, 511, 1⟩, ⟨16, 12, .ro, 0, 4095, 1⟩]⟩
  , ⟨"MEM_SCRUB", 0x180010, 0, 1, 0, 1, 0, 1, [⟨0, 8, .rw, 1, 255, 1⟩]⟩
  , ⟨"MEM_RGN", 0x180020, 8, 4, 0, 1, 0, 1, [⟨0, 12, .rwc, 0, 4095, 1⟩, ⟨12, 12, .rwc, 0, 4095, 1⟩, ⟨24, 2, .rwc, 0, 2, 1⟩, ⟨26, 1, .rwc, 0, 1, 1⟩, ⟨27, 1, .rwc, 0, 1, 1⟩]⟩
  , ⟨"MEM_COMMIT", 0x180040, 0, 1, 0, 1, 0, 1, [⟨0, 1, .wo, 0, 1, 1⟩, ⟨1, 1, .w1c, 0, 1, 1⟩]⟩
  , ⟨"MEM_ERR_LOG0", 0x180048, 0, 1, 0, 1, 0, 1, [⟨0, 1, .w1c, 0, 1, 1⟩, ⟨1, 1, .ro, 0, 1, 1⟩, ⟨2, 4, .ro, 0, 15, 1⟩, ⟨6, 1, .ro, 0, 1, 1⟩, ⟨8, 8, .ro, 0, 255, 1⟩]⟩
  , ⟨"MEM_ERR_LOG1", 0x180050, 0, 1, 0, 1, 0, 1, [⟨0, 64, .ro, 0, 0xFFFFFFFFFFFFFFFF, 1⟩]⟩
  , ⟨"MEM_SRAM_REPAIR", 0x180058, 0, 1, 0, 1, 0, 1, [⟨0, 16, .ro, 0, 65535, 1⟩, ⟨16, 16, .ro, 0, 65535, 1⟩, ⟨32, 16, .ro, 0, 65535, 1⟩, ⟨48, 16, .ro, 0, 65535, 1⟩]⟩
  , ⟨"MEM_TEST_ADDR", 0x180060, 0, 1, 0, 1, 0, 1, [⟨0, 64, .rw, 0, 0xFFFFFFFFFFFFFFFF, 1⟩]⟩
  , ⟨"MEM_TEST_DATA", 0x180068, 8, 4, 0, 1, 0, 1, [⟨0, 64, .rw, 0, 0xFFFFFFFFFFFFFFFF, 1⟩]⟩
  , ⟨"MEM_TEST_CHECK", 0x180088, 0, 1, 0, 1, 0, 1, [⟨0, 64, .rw, 0, 0xFFFFFFFFFFFFFFFF, 1⟩]⟩
  , ⟨"MEM_TEST_CMD", 0x180090, 0, 1, 0, 1, 0, 1, [⟨0, 2, .wo, 0, 3, 1⟩]⟩
  , ⟨"MEM_TEST_RESULT", 0x180098, 0, 1, 0, 1, 0, 1, [⟨0, 1, .ro, 0, 1, 1⟩, ⟨16, 16, .ro, 0, 65535, 1⟩, ⟨32, 3, .ro, 0, 7, 1⟩, ⟨35, 1, .ro, 0, 1, 1⟩]⟩
  , ⟨"MEM_CNT", 0x180100, 8, 12, 0, 1, 0, 1, [⟨0, 64, .ro, 0, 0xFFFFFFFFFFFFFFFF, 1⟩]⟩
  , ⟨"MEM_CNT_CORR_M", 0x180200, 8, 12, 0, 1, 0, 1, [⟨0, 64, .ro, 0, 0xFFFFFFFFFFFFFFFF, 1⟩]⟩ ]

/-- The registers of the BOOT block. -/
def regTableBoot : List RegDef :=
  [ ⟨"BOOT_STATE", 0x010000, 0, 1, 0, 1, 0, 1, [⟨0, 3, .ro, 0, 7, 1⟩, ⟨16, 16, .ro, 0, 65535, 1⟩]⟩
  , ⟨"BOOT_FW_SRC", 0x010008, 0, 1, 0, 1, 0, 1, [⟨0, 3, .rw, 0, 5, 1⟩]⟩
  , ⟨"BOOT_FW_ADDR", 0x010010, 0, 1, 0, 1, 0, 1, [⟨0, 64, .rw, 0, 0xFFFFFFFFFFFFFFFF, 1⟩]⟩
  , ⟨"BOOT_FW_LEN", 0x010018, 0, 1, 0, 1, 0, 1, [⟨0, 64, .rw, 0, 0xFFFFFFFFFFFFFFFF, 1⟩]⟩
  , ⟨"BOOT_FW_DATA", 0x010020, 0, 1, 0, 1, 0, 1, [⟨0, 64, .wo, 0, 0xFFFFFFFFFFFFFFFF, 1⟩]⟩
  , ⟨"BOOT_CMD", 0x010028, 0, 1, 0, 1, 0, 1, [⟨0, 3, .wo, 0, 7, 1⟩]⟩
  , ⟨"BOOT_DRV_VER", 0x010030, 0, 1, 0, 1, 0, 1, [⟨0, 16, .rw, 0, 65535, 1⟩, ⟨16, 16, .rw, 0, 65535, 1⟩]⟩
  , ⟨"BOOT_FW_VER", 0x010038, 0, 1, 0, 1, 0, 1, [⟨0, 16, .ro, 0, 65535, 1⟩, ⟨16, 16, .ro, 0, 65535, 1⟩]⟩
  , ⟨"BOOT_FEAT_DRV", 0x010040, 0, 1, 0, 1, 0, 1, [⟨0, 64, .rw, 0, 0xFFFFFFFFFFFFFFFF, 1⟩]⟩
  , ⟨"BOOT_FEAT_FW", 0x010048, 0, 1, 0, 1, 0, 1, [⟨0, 64, .ro, 0, 0xFFFFFFFFFFFFFFFF, 1⟩]⟩
  , ⟨"BOOT_FEAT_ACTIVE", 0x010050, 0, 1, 0, 1, 0, 1, [⟨0, 64, .ro, 0, 0xFFFFFFFFFFFFFFFF, 1⟩]⟩
  , ⟨"BOOT_TRAIN_CFG", 0x010058, 0, 1, 0, 1, 0, 1, [⟨0, 16, .rw, 0, 65535, 1⟩, ⟨16, 16, .rw, 0, 65535, 1⟩]⟩
  , ⟨"BOOT_TRAIN_SUM", 0x010060, 0, 1, 0, 1, 0, 1, [⟨0, 2, .ro, 0, 3, 1⟩, ⟨2, 2, .ro, 0, 3, 1⟩, ⟨4, 1, .ro, 0, 1, 1⟩, ⟨5, 1, .ro, 0, 1, 1⟩, ⟨6, 4, .ro, 0, 15, 1⟩, ⟨10, 1, .ro, 0, 1, 1⟩, ⟨11, 1, .ro, 0, 1, 1⟩, ⟨12, 1, .ro, 0, 1, 1⟩]⟩
  , ⟨"BOOT_TRAIN_F", 0x010080, 8, 6, 0, 1, 0, 1, [⟨0, 8, .ro, 0, 255, 1⟩, ⟨8, 4, .ro, 0, 15, 1⟩, ⟨12, 4, .ro, 0, 15, 1⟩, ⟨16, 3, .ro, 0, 7, 1⟩]⟩
  , ⟨"BOOT_TRAIN_A", 0x0100C0, 8, 4, 0, 1, 0, 1, [⟨0, 5, .ro, 0, 31, 1⟩, ⟨5, 2, .ro, 0, 3, 1⟩, ⟨7, 1, .ro, 0, 1, 1⟩]⟩
  , ⟨"BOOT_TRAIN_M", 0x0100E0, 0, 1, 0, 1, 0, 1, [⟨0, 12, .ro, 0, 4095, 1⟩, ⟨12, 12, .ro, 0, 4095, 1⟩, ⟨24, 12, .ro, 0, 4095, 1⟩]⟩
  , ⟨"BOOT_MAP_IO", 0x0100E8, 0, 1, 0, 1, 0, 1, [⟨0, 48, .ro, 0, 0xFFFFFFFFFFFF, 1⟩, ⟨48, 8, .ro, 0, 255, 1⟩]⟩
  , ⟨"BOOT_TEST_LOG", 0x0100F0, 0, 1, 0, 1, 0, 1, [⟨0, 9, .ro, 0, 511, 1⟩, ⟨9, 5, .ro, 0, 31, 1⟩, ⟨14, 10, .ro, 0, 1023, 1⟩, ⟨24, 8, .ro, 0, 255, 1⟩, ⟨32, 6, .ro, 0, 63, 1⟩]⟩ ]

/-- The registers of the SEC block. -/
def regTableSec : List RegDef :=
  [ ⟨"SEC_STATUS", 0x190000, 0, 1, 0, 1, 0, 1, [⟨0, 1, .ro, 0, 1, 1⟩, ⟨1, 1, .ro, 0, 1, 1⟩, ⟨2, 2, .ro, 0, 3, 1⟩, ⟨4, 7, .ro, 0, 127, 1⟩, ⟨11, 7, .ro, 0, 127, 1⟩, ⟨18, 1, .ro, 0, 1, 1⟩]⟩
  , ⟨"SEC_CTRL", 0x190008, 0, 1, 0, 1, 0, 1, [⟨0, 1, .rw, 0, 1, 1⟩]⟩
  , ⟨"SEC_FUSE_CMD", 0x190010, 0, 1, 0, 1, 0, 1, [⟨0, 2, .wo, 0, 3, 1⟩]⟩
  , ⟨"SEC_FUSE_RESULT", 0x190018, 0, 1, 0, 1, 0, 1, [⟨0, 1, .ro, 0, 1, 1⟩, ⟨16, 16, .ro, 0, 65535, 1⟩]⟩
  , ⟨"SEC_FW_DIGEST", 0x190040, 8, 8, 0, 1, 0, 1, [⟨0, 64, .ro, 0, 0xFFFFFFFFFFFFFFFF, 1⟩]⟩
  , ⟨"SEC_KEY_SEL", 0x190100, 0, 1, 0, 1, 0, 1, [⟨0, 12, .rw, 0, 4095, 1⟩]⟩
  , ⟨"SEC_KEY_DATA", 0x190108, 8, 5, 0, 1, 0, 1, [⟨0, 64, .wo, 0, 0xFFFFFFFFFFFFFFFF, 1⟩]⟩
  , ⟨"SEC_KEY_CMD", 0x190130, 0, 1, 0, 1, 0, 1, [⟨0, 3, .wo, 0, 7, 1⟩, ⟨3, 1, .wo, 0, 1, 1⟩, ⟨16, 12, .wo, 0, 4095, 1⟩]⟩
  , ⟨"SEC_KEY_RESULT", 0x190138, 0, 1, 0, 1, 0, 1, [⟨0, 1, .ro, 0, 1, 1⟩, ⟨16, 16, .ro, 0, 65535, 1⟩]⟩
  , ⟨"SEC_KEY_INFO", 0x190140, 0, 1, 0, 1, 0, 1, [⟨0, 2, .ro, 0, 3, 1⟩, ⟨2, 1, .ro, 0, 1, 1⟩, ⟨3, 1, .ro, 0, 1, 1⟩, ⟨16, 16, .ro, 0, 65535, 1⟩, ⟨32, 21, .ro, 0, 2097151, 1⟩]⟩
  , ⟨"SEC_CIPH_SEL", 0x190200, 0, 1, 0, 1, 0, 1, [⟨0, 6, .rw, 0, 55, 1⟩]⟩
  , ⟨"SEC_CIPH_CMD", 0x190208, 0, 1, 0, 1, 0, 1, [⟨0, 3, .wo, 0, 7, 1⟩]⟩
  , ⟨"SEC_CIPH_RESULT", 0x190210, 0, 1, 0, 1, 0, 1, [⟨0, 1, .ro, 0, 1, 1⟩, ⟨1, 1, .ro, 0, 1, 1⟩, ⟨2, 1, .ro, 0, 1, 1⟩, ⟨16, 16, .ro, 0, 65535, 1⟩]⟩
  , ⟨"SEC_CIPH_DATA", 0x190218, 8, 9, 0, 1, 0, 1, [⟨0, 64, .rw, 0, 0xFFFFFFFFFFFFFFFF, 1⟩]⟩
  , ⟨"SEC_CIPH_STATUS", 0x190260, 0, 1, 0, 1, 0, 1, [⟨0, 6, .ro, 0, 63, 1⟩, ⟨6, 6, .ro, 0, 63, 1⟩, ⟨12, 6, .ro, 0, 63, 1⟩, ⟨18, 6, .ro, 0, 63, 1⟩, ⟨24, 6, .ro, 0, 63, 1⟩]⟩
  , ⟨"SEC_CNT", 0x190400, 8, 6, 0, 1, 0, 1, [⟨0, 64, .ro, 0, 0xFFFFFFFFFFFFFFFF, 1⟩]⟩ ]

/-- The registers of the PWR block. -/
def regTablePwr : List RegDef :=
  [ ⟨"PWR_CTRL", 0x1A0000, 0, 1, 0, 1, 0, 1, [⟨0, 1, .rw, 0, 1, 1⟩, ⟨1, 1, .rw, 0, 1, 1⟩, ⟨2, 4, .rw, 0, 9, 1⟩, ⟨16, 10, .rw, 0, 1023, 1⟩, ⟨32, 8, .rw, 0, 255, 1⟩, ⟨40, 8, .rw, 0, 255, 1⟩]⟩
  , ⟨"PWR_STATUS", 0x1A0008, 0, 1, 0, 1, 0, 1, [⟨0, 4, .ro, 0, 15, 1⟩, ⟨4, 4, .ro, 0, 15, 1⟩, ⟨8, 4, .ro, 0, 15, 1⟩, ⟨12, 1, .ro, 0, 1, 1⟩, ⟨16, 10, .ro, 0, 1023, 1⟩]⟩
  , ⟨"PWR_TOTAL", 0x1A0010, 0, 1, 0, 1, 0, 1, [⟨0, 32, .ro, 0, 4294967295, 1⟩]⟩
  , ⟨"PWR_RAIL", 0x1A0020, 8, 8, 0, 1, 0, 1, [⟨0, 32, .ro, 0, 4294967295, 1⟩, ⟨32, 10, .rw, 0, 1023, 1⟩]⟩
  , ⟨"PWR_THERM_CFG", 0x1A0060, 0, 1, 0, 1, 0, 1, [⟨0, 8, .rw, 0, 255, 1⟩, ⟨8, 8, .rw, 0, 124, 1⟩, ⟨16, 8, .rw, 0, 255, 1⟩]⟩
  , ⟨"PWR_TEMP_MAX", 0x1A0068, 0, 1, 0, 1, 0, 1, [⟨0, 16, .ro, 0, 65535, 1⟩, ⟨16, 5, .ro, 0, 31, 1⟩]⟩
  , ⟨"PWR_TEMP", 0x1A0070, 8, 8, 0, 1, 0, 1, [⟨0, 64, .ro, 0, 0xFFFFFFFFFFFFFFFF, 1⟩]⟩
  , ⟨"PWR_LANE0", 0x1A00C0, 0, 1, 0, 1, 0, 1, [⟨0, 54, .ro, 0, 0x3FFFFFFFFFFFFF, 1⟩]⟩
  , ⟨"PWR_LANE1", 0x1A00C8, 0, 1, 0, 1, 0, 1, [⟨0, 4, .ro, 0, 15, 1⟩, ⟨4, 12, .ro, 0, 4095, 1⟩]⟩
  , ⟨"PWR_TWI_CMD", 0x1A0100, 0, 1, 0, 1, 0, 1, [⟨0, 2, .wo, 0, 3, 1⟩]⟩
  , ⟨"PWR_TWI_STATUS", 0x1A0108, 0, 1, 0, 1, 0, 1, [⟨0, 2, .ro, 0, 3, 1⟩, ⟨16, 16, .ro, 0, 65535, 1⟩]⟩
  , ⟨"PWR_CNT", 0x1A0200, 8, 4, 0, 1, 0, 1, [⟨0, 64, .ro, 0, 0xFFFFFFFFFFFFFFFF, 1⟩]⟩ ]

/-- The registers of the DBG block. -/
def regTableDbg : List RegDef :=
  [ ⟨"DBG_CTRL", 0x1C0000, 0, 1, 0, 1, 0, 1, [⟨0, 1, .rw, 0, 1, 1⟩, ⟨1, 1, .rw, 0, 1, 1⟩, ⟨2, 1, .rw, 0, 1, 1⟩, ⟨3, 9, .rw, 0, 511, 1⟩, ⟨12, 1, .rw, 0, 1, 1⟩]⟩
  , ⟨"DBG_COMET_WPTR", 0x1C0008, 0, 1, 0, 1, 0, 1, [⟨0, 64, .ro, 0, 0xFFFFFFFFFFFFFFFF, 1⟩]⟩
  , ⟨"DBG_COMET_STATUS", 0x1C0010, 0, 1, 0, 1, 0, 1, [⟨0, 1, .ro, 0, 1, 1⟩, ⟨1, 1, .ro, 0, 1, 1⟩]⟩
  , ⟨"DBG_COMET_WRAPS", 0x1C0018, 0, 1, 0, 1, 0, 1, [⟨0, 64, .ro, 0, 0xFFFFFFFFFFFFFFFF, 1⟩]⟩
  , ⟨"DBG_COMET_LOST", 0x1C0020, 0, 1, 0, 1, 0, 1, [⟨0, 64, .ro, 0, 0xFFFFFFFFFFFFFFFF, 1⟩]⟩
  , ⟨"DBG_NW_CFG", 0x1C0028, 0, 1, 0, 1, 0, 1, [⟨0, 1, .rw, 0, 1, 1⟩, ⟨1, 1, .rw, 0, 1, 1⟩, ⟨2, 11, .rw, 0, 2047, 1⟩, ⟨16, 16, .rw, 1, 65535, 1⟩]⟩
  , ⟨"DBG_NW_STATUS", 0x1C0030, 0, 1, 0, 1, 0, 1, [⟨0, 3, .ro, 0, 7, 1⟩, ⟨3, 3, .ro, 0, 7, 1⟩, ⟨16, 16, .ro, 0, 65535, 1⟩, ⟨32, 32, .ro, 0, 4294967295, 1⟩]⟩
  , ⟨"DBG_NW_CMD", 0x1C0038, 0, 1, 0, 1, 0, 1, [⟨0, 2, .wo, 0, 3, 1⟩]⟩
  , ⟨"DBG_CNT", 0x1C0100, 64, 8, 8, 8, 0, 1, [⟨0, 64, .ro, 0, 0xFFFFFFFFFFFFFFFF, 1⟩]⟩
  , ⟨"DBG_TAG_MATCH", 0x1C0400, 64, 8, 0, 1, 0, 1, [⟨0, 32, .rw, 0, 4294967295, 1⟩, ⟨32, 32, .rw, 0, 4294967295, 1⟩]⟩
  , ⟨"DBG_TAG_MASK", 0x1C0408, 64, 8, 0, 1, 0, 1, [⟨0, 32, .rw, 0, 4294967295, 1⟩, ⟨32, 32, .rw, 0, 4294967295, 1⟩]⟩
  , ⟨"DBG_TAG_CTRL", 0x1C0410, 64, 8, 0, 1, 0, 1, [⟨0, 1, .rw, 0, 1, 1⟩]⟩
  , ⟨"DBG_TAG_CNT", 0x1C0420, 64, 8, 8, 4, 0, 1, [⟨0, 64, .ro, 0, 0xFFFFFFFFFFFFFFFF, 1⟩]⟩
  , ⟨"DBG_HSEL", 0x1C1000, 8, 16, 0, 1, 0, 1, [⟨0, 4, .rw, 0, 15, 1⟩, ⟨4, 14, .rw, 0, 16383, 1⟩]⟩
  , ⟨"DBG_HIST_DEPTH", 0x1C2000, 256, 16, 8, 16, 0, 1, [⟨0, 64, .ro, 0, 0xFFFFFFFFFFFFFFFF, 1⟩]⟩
  , ⟨"DBG_HIST_DELAY", 0x1C2080, 256, 16, 8, 16, 0, 1, [⟨0, 64, .ro, 0, 0xFFFFFFFFFFFFFFFF, 1⟩]⟩ ]

/-- Every register of BAR0 that the chapters list (the TLY block stands in Machine/Power.lean). -/
def regTable : List RegDef :=
  regTableGlb ++ regTableClu ++ regTableNeb ++ regTableSem ++ regTableTime ++ regTableXpt ++ regTableWin ++ regTableFab ++ regTableRing ++ regTableXlt ++ regTableMac ++ regTableMem ++ regTableBoot ++ regTableSec ++ regTablePwr ++ regTableDbg

/-- The registers whose Reset column is not zero, part 0. -/
def resetRegs0 : Tab (BitVec 64) :=
  [ (0x000000, 0xBA3A56104800)
  , (0x000210, 0x4)
  , (0x010058, 0x3E807D0)
  , (0x020020, 0x101306)
  , (0x020030, 0xA0000000)
  , (0x040000, 0x1)
  , (0x040008, 0x100000000)
  , (0x040010, 0x3F3F3F3F)
  , (0x050000, 0x1)
  , (0x050008, 0x100000000)
  , (0x050010, 0x3F3F3F3F)
  , (0x060000, 0x1)
  , (0x060008, 0x100000000)
  , (0x060010, 0x3F3F3F3F)
  , (0x070000, 0x1)
  , (0x070008, 0x100000000)
  , (0x070010, 0x3F3F3F3F)
  , (0x080000, 0x1)
  , (0x080008, 0x100000000)
  , (0x080010, 0x3F3F3F3F)
  , (0x090000, 0x1)
  , (0x090008, 0x100000000)
  , (0x090010, 0x3F3F3F3F)
  , (0x0A0000, 0x1) ]

/-- The registers whose Reset column is not zero, part 1. -/
def resetRegs1 : Tab (BitVec 64) :=
  [ (0x0A0008, 0x100000000)
  , (0x0A0010, 0x3F3F3F3F)
  , (0x0B0000, 0x1)
  , (0x0B0008, 0x100000000)
  , (0x0B0010, 0x3F3F3F3F)
  , (0x0C0000, 0xA)
  , (0x0D0018, 0x6407D0)
  , (0x0D0020, 0x80008)
  , (0x0D0028, 0xF02000010)
  , (0x0D0030, 0x5)
  , (0x0D0038, 0x3E808)
  , (0x0D0040, 0x5000A000A0A40)
  , (0x0D0050, 0x8000)
  , (0x0D00A0, 0x40404040)
  , (0x0D00A8, 0x40404040)
  , (0x0D00B0, 0x40404040)
  , (0x0D00B8, 0x40404040)
  , (0x0D00C0, 0x40404040)
  , (0x0D00C8, 0x40404040)
  , (0x0F0000, 0x1E85)
  , (0x100000, 0x6)
  , (0x100010, 0x30)
  , (0x100030, 0x1001F402)
  , (0x100038, 0x100060080FF) ]

/-- The registers whose Reset column is not zero, part 2. -/
def resetRegs2 : Tab (BitVec 64) :=
  [ (0x100040, 0x40080020)
  , (0x100048, 0x6)
  , (0x100060, 0x1000)
  , (0x100068, 0x1010)
  , (0x100070, 0x1020)
  , (0x100078, 0x1030)
  , (0x100080, 0x1040)
  , (0x100088, 0x1050)
  , (0x110000, 0x30)
  , (0x110010, 0x2400)
  , (0x110018, 0xF0F0F0F0F0F0F)
  , (0x110108, 0x34)
  , (0x110128, 0x34)
  , (0x110148, 0x34)
  , (0x110168, 0x34)
  , (0x110188, 0x34)
  , (0x120000, 0x30)
  , (0x120010, 0x2400)
  , (0x120018, 0xF0F0F0F0F0F0F)
  , (0x120108, 0x34)
  , (0x120128, 0x34)
  , (0x120148, 0x34)
  , (0x120168, 0x34)
  , (0x120188, 0x34) ]

/-- The registers whose Reset column is not zero, part 3. -/
def resetRegs3 : Tab (BitVec 64) :=
  [ (0x130000, 0x30)
  , (0x130010, 0x2400)
  , (0x130018, 0xF0F0F0F0F0F0F)
  , (0x130108, 0x34)
  , (0x130128, 0x34)
  , (0x130148, 0x34)
  , (0x130168, 0x34)
  , (0x130188, 0x34)
  , (0x140000, 0x30)
  , (0x140010, 0x2400)
  , (0x140018, 0xF0F0F0F0F0F0F)
  , (0x140108, 0x34)
  , (0x140128, 0x34)
  , (0x140148, 0x34)
  , (0x140168, 0x34)
  , (0x140188, 0x34)
  , (0x150000, 0x30)
  , (0x150010, 0x2400)
  , (0x150018, 0xF0F0F0F0F0F0F)
  , (0x150108, 0x34)
  , (0x150128, 0x34)
  , (0x150148, 0x34)
  , (0x150168, 0x34)
  , (0x150188, 0x34) ]

/-- The registers whose Reset column is not zero, part 4. -/
def resetRegs4 : Tab (BitVec 64) :=
  [ (0x160000, 0x30)
  , (0x160010, 0x2400)
  , (0x160018, 0xF0F0F0F0F0F0F)
  , (0x160108, 0x34)
  , (0x160128, 0x34)
  , (0x160148, 0x34)
  , (0x160168, 0x34)
  , (0x160188, 0x34)
  , (0x170000, 0x40)
  , (0x170030, 0x11001400400400)
  , (0x170038, 0x186A007D0)
  , (0x170048, 0x64)
  , (0x180000, 0x7)
  , (0x180010, 0x18)
  , (0x1A0000, 0xA0800000003)
  , (0x1A0060, 0x57364)
  , (0x1C0010, 0x2)
  , (0x1C0028, 0x1F40003) ]

/-- The registers whose Reset column is not zero. -/
def resetRegs : Tab (BitVec 64) :=
  resetRegs0 ++ resetRegs1 ++ resetRegs2 ++ resetRegs3 ++ resetRegs4

/-- The shadow copies (RWC) whose Reset column is not zero, part 0. -/
def resetShadow0 : Tab (BitVec 64) :=
  [ (0x020020, 0x101306)
  , (0x020030, 0xA0000000)
  , (0x0D0040, 0x5000A000A0A40)
  , (0x0D00A0, 0x40404040)
  , (0x0D00A8, 0x40404040)
  , (0x0D00B0, 0x40404040)
  , (0x0D00B8, 0x40404040)
  , (0x0D00C0, 0x40404040)
  , (0x0D00C8, 0x40404040)
  , (0x100038, 0x100060080FF)
  , (0x100060, 0x1000)
  , (0x100068, 0x1010)
  , (0x100070, 0x1020)
  , (0x100078, 0x1030)
  , (0x100080, 0x1040)
  , (0x100088, 0x1050) ]

/-- The shadow copies (RWC) whose Reset column is not zero. -/
def resetShadow : Tab (BitVec 64) :=
  resetShadow0

end Sys2Proof.Machine
end

