-- ==== Sys2Proof/Machine/State.lean ====
section
/-!
DEFINITION. The state of the adapter as plain data: every register, memory, table, queue and mode that the spec names,
the queue of waiting commands, and `State.reset`, the machine right after a cold reset (R378, R379). Fields marked
"the model's own" are not the spec's: handles, the counter of free values and the log of what leaves the adapter.
-/

namespace Sys2Proof.Machine

/-- The key of a translation (R323): port, function, PASID and untranslated 4 KiB page. -/
structure XKey where
  port  : Port
  fn    : BitVec 8
  pasid : BitVec 20
  page  : Word
  deriving DecidableEq, Repr

/-- What an egress queue holds: a transport packet of this adapter or a forwarded one (R268) with the destination MAC
address and the IPv6 header with which it leaves, the frame of a raw transmit slot with word 0 of its header (R350), or a
management frame (R458). -/
inductive EgBody
  | own (dst : BitVec 48) (ip : IpHdr) (pkt : Packet)
  | fwd (dst : BitVec 48) (ip : IpHdr) (rx : Rx)
  | raw (w0 : Word) (bytes : List Byte)
  | mgmt (dst : BitVec 48) (peer : AdapterId) (q : Option MgmtQuery) (nodes : List PeerNode)
  deriving DecidableEq, Repr

/-- A frame on the wire: an Ethernet frame with a transport packet (R204), a DATA frame of the link layer with the adapter ID
of its sender (R276), a raw frame, or a management frame (R458). -/
inductive WireFrame
  | ether (dst src : BitVec 48) (vid : BitVec 12) (ip : IpHdr) (pkt : Packet)
  | data (dst src : BitVec 48) (vc : Nat) (urgent : Bool) (seq ack : BitVec 16) (credit : List (BitVec 16))
      (adapter : AdapterId) (ip : IpHdr) (pkt : Packet)
  | raw (bytes : List Byte)
  | mgmt (dst src : BitVec 48) (vid : BitVec 12) (peer : AdapterId) (q : Option MgmtQuery) (nodes : List PeerNode)
  deriving DecidableEq, Repr

/-- What Lodestar answers to an SPDM request (R405, R406, R432): the version 1.3; the capabilities CERT_CAP, CHAL_CAP and
MEAS_CAP with signature; the algorithms selected; the digest of slot 0's chain; a portion of the chain and what is left;
the answer to a challenge; measurement blocks; or ERROR, code Busy, or for a request that is not supported.
(Log 96: DESIGN CHOICE.) -/
inductive SpdmAnswer
  | version
  | capabilities
  | algorithms (asym hash meas : Bool)
  | digests (d : BitVec 512)
  | certificate (portion : List Byte) (remainder : Nat)
  | challenge (chain : BitVec 512) (nonce : List Byte) (sig : List Byte)
  | measurements (count : Nat) (blocks : List (Nat × List Byte)) (nonce : List Byte) (sig : List Byte)
  | busy
  | unsupported
  deriving DecidableEq, Repr

/-- What left the adapter: the model's own log, newest last. `va` is the address of an access on its port, translated under
the device translation cache (R322); `train` is what a sub-port advertises or is forced to when it starts to train (R342),
`firmware` a PTP frame that Zenith firmware receives with its timestamp (R351). (Log 3: DESIGN CHOICE.) -/
inductive Emission
  | packet (plane : Nat) (pkt : Packet)
  | wire (port sub prio len bucket : Nat) (frame : WireFrame)
  | pfc (port sub prio quanta : Nat)
  | link (port sub ltype : Nat) (dst src : BitVec 48) (seq ack : BitVec 16) (credit : List (BitVec 16))
      (adapter : AdapterId)
  | train (port sub lanes : Nat) (kr an : Bool)
  | firmware (port sub : Nat) (ts : Word) (bytes : List Byte)
  | memWrite (port : Port) (inst : BitVec 8) (va : Word) (bytes : List Byte)
  | memRead (port : Port) (inst : BitVec 8) (va : Word) (len : Nat)
  | ats (k : XKey)
  | pageRequest (k : XKey) (id : Nat)
  | invDone (port : Port) (id : Nat)
  | biSnp (q : Nat) (line : Nat)
  | msix (fn : BitVec 8) (v : Nat) (addr : Word) (data : BitVec 32)
  | data (p : Path) (v : Word)
  | hdmData (q : Nat) (bytes : List Byte) (poison : Bool)
  | busError (p : Path)
  | mctp (code : Nat) (v : Word)
  | spdm (a : SpdmAnswer)
  | pps (us : Nat)
  | thermTrip
  deriving DecidableEq, Repr

/-- A tensor descriptor (R48): base, attributes, extents 0–4, strides 1–4. -/
structure TDesc where
  base : Word
  attr : BitVec 32
  e0 : BitVec 32
  e1 : BitVec 32
  e2 : BitVec 32
  e3 : BitVec 32
  e4 : BitVec 32
  s1 : Word
  s2 : Word
  s3 : Word
  s4 : Word
  deriving DecidableEq, Repr

/-- The zero descriptor (R30). -/
def TDesc.zero : TDesc := ⟨0, 0, 0, 0, 0, 0, 0, 0, 0, 0, 0⟩

/-- CLU_SLOT_STATE.state (R67). -/
inductive SlotPhase
  | idle
  | loading
  | running
  | draining
  deriving DecidableEq, Repr

/-- What holds a slot's execute engine (R56, R57, R98, R99, R185): `since` is in ps and `began` in 10^-6 ck; `sread` and `signal` are a semaphore instruction held
while its page is zeroed. -/
inductive Waiting
  | sem (id : BitVec 16) (thr : Word) (since : Nat) (timeout : Nat) (tag : BitVec 24) (began : Nat)
  | until_ (target : Word)
  | tile (op : Nat) (count : Word)
  | fence (scope : BitVec 3)
  | sread (reg : Nat)
  | signal
  deriving DecidableEq, Repr

/-- The content of a fault record (R305), without the phase bit; `filters` are the mark filters that count it (R445). -/
structure FaultRec where
  status : Status
  cls    : Nat
  ovf    : Bool
  inst   : BitVec 8
  slot   : Option Nat
  index  : Nat
  tag    : BitVec 24
  ring   : Option Nat
  layer  : BitVec 32
  oper   : BitVec 32
  at_    : Word
  w4     : Word
  w5     : Word
  w6     : Word
  filters : BitVec 8
  deriving DecidableEq, Repr

/-- A program slot (R30, R67). `info` holds the faults of the program whose records
are written when it completes (R63). The fields from `faultTag` on are the fault registers, which outlive the program
(R68). `launch` names the ring, the descriptor and the traffic class of a launch that Zenith has placed on the slot and whose
header it has not checked yet: until then nothing of the slot changes (R32). `ahead` holds when (in 10^-6 ck) the
entries of the issue queue that the slot holds were decoded, and `stalled` says that its Lookahead engine waits for a register (R38, R39). -/
structure Slot where
  phase    : SlotPhase
  stopped  : Bool
  sregs    : Tab Word
  tregs    : Tab TDesc
  preds    : BitVec 8
  pc       : Nat
  layer    : BitVec 32
  oper     : BitVec 32
  status   : Status
  inst     : BitVec 8
  tc       : BitVec 3
  ring     : BitVec 14
  desc     : BitVec 32
  image    : Word
  imageId  : BitVec 32
  imemBase : Nat
  imemLen  : Nat
  args     : List Word
  wait     : Option Waiting
  halted   : Bool
  info     : List FaultRec
  progress : Nat
  faultTag : BitVec 24
  faultPc  : Nat
  faultSt  : Status
  faultSeg : BitVec 32
  launch   : Option (BitVec 14 × BitVec 32 × BitVec 3)
  ahead    : List Nat
  stalled  : Bool
  deriving DecidableEq, Repr

/-- A slot as reset leaves it. (Log 5: DESIGN CHOICE.) -/
def Slot.init : Slot :=
  { phase := .idle, stopped := false, sregs := [], tregs := [], preds := 1, pc := 0, layer := 0, oper := 0,
    status := 0, inst := 0, tc := 0, ring := 0, desc := 0, image := 0, imageId := 0, imemBase := 0, imemLen := 0,
    args := [], wait := none, halted := false, info := [], progress := 0, faultTag := 0, faultPc := 0,
    faultSt := 0, faultSeg := 0, launch := none, ahead := [], stalled := false }

/-- An image resident in a cluster's instruction memory (R35, R36): its region and when it was last launched. -/
structure Resident where
  clu      : Nat
  addr     : Nat
  imageId  : BitVec 32
  count    : Nat
  base     : Nat
  words    : List (BitVec 128)
  launched : Nat
  deriving DecidableEq, Repr

/-- The operations of groups 0x3 to 0x7 (R37). -/
inductive OpKind
  | copy | convert | fill | red | scale | quant
  | put | get | send | recv | mput | putacc
  | semOp (code : Nat)
  deriving DecidableEq, Repr

/-- The progress of one segment (R52): waiting for translations, reading, on a Nebula array, writing, travelling as a
message, done. -/
inductive SegPhase
  | xlat | reading | array | writing | message | signalling | done
  deriving DecidableEq, Repr

/-- One segment in progress: its handle, the translations it waits for and those it holds (with whether they are for a
write), its outstanding reads and writes, the source bytes read, and where an array runs it. -/
structure Seg where
  id     : Nat
  idx    : Nat
  phase  : SegPhase
  waits  : List (XKey × Bool)
  held   : List (XKey × Bool)
  reads  : Nat
  writes : Nat
  bufA   : List Byte
  bufB   : List Byte
  arr    : Nat
  seq    : BitVec 48
  deriving DecidableEq, Repr

/-- One outstanding operation with the values it took at issue (R66, R71, R132, R445): `val` is the pattern, multiplier
or semaphore value, `dest` s[b] of SEND, `ctxv` s[c]; `done` says that an operation without segments has ended;
`sigs` counts signals at other adapters that have not ended (R102); `faultVa` and `faultSpace` are those of its
translation fault. -/
structure Op where
  id       : Nat
  sl       : Nat
  kind     : OpKind
  tag      : BitVec 24
  pc       : Nat
  inst     : BitVec 8
  layer    : BitVec 32
  oper     : BitVec 32
  tc       : BitVec 3
  urgent   : Bool
  dst      : TDesc
  a        : TDesc
  b        : TDesc
  val      : Word
  dest     : Word
  ctxv     : Word
  sigMode  : Nat
  sigWhere : Nat
  semId    : BitVec 16
  semAd    : AdapterId
  round    : Nat
  redOp    : Nat
  residOff : Bool
  match_   : BitVec 24
  srcFlag  : Bool
  nebCtrl  : Word
  seedXor  : Word
  seed     : Word
  group    : Nat
  nseg     : Nat
  next     : Nat
  signalled : Nat
  segs     : List Seg
  status   : Status
  held     : Bool
  done     : Bool
  sigs     : Nat
  moved    : Nat
  filters  : BitVec 8
  faultVa  : Word
  faultSpace : Nat
  deriving DecidableEq, Repr

/-- A segment queued on a Nebula array: elements, elements per pass, elements done, how many each array did, and lane
operations per element (R121, R122, R127). -/
structure Job where
  arr   : Nat
  op    : Nat
  seg   : Nat
  elems : Nat
  per   : Nat
  done  : Nat
  began : Bool
  tally : List Nat
  lanes : Nat
  deriving DecidableEq, Repr

/-- An armed residue corruption (R134). -/
structure Armed where
  arr     : Nat
  lane    : Nat
  persist : Bool
  deriving DecidableEq, Repr

/-- A request to the memories outside or to adapter memory whose data is still to return. -/
inductive ReadKind
  | seg (op seg which : Nat)
  | win (grp : Nat) (pkt : Packet) (tc : BitVec 3) (idx : Nat) (win : Nat)
  | acc (pkt : Packet) (win : Nat) (upset : Option (Fin 128 × Bool))
  | rawTx (port : Nat) (slot : Nat)
  deriving DecidableEq, Repr

/-- One outstanding read and the translations it uses; `sent` is false while the read waits for its turn (R93). -/
structure ReadReq where
  id   : Nat
  kind : ReadKind
  len  : Nat
  keys : List XKey
  sent : Bool
  deriving DecidableEq, Repr

/-- Whose write is outstanding. -/
inductive WriteKind
  | seg (op seg : Nat)
  | rx (src : AdapterId) (msg : MsgId) (idx : BitVec 16) (win : Option Nat)
  | acc (src : AdapterId) (msg : MsgId) (idx : BitVec 16) (win : Nat)
  | accMem (pkt : Packet) (win : Nat) (upset : Option (Fin 128 × Bool))
  | resp (msg : MsgId) (idx : Nat)
  | hdm (q : Nat)
  | store
  deriving DecidableEq, Repr

/-- One outstanding write; `lines` are the back-invalidations it waits for (R315) and `addr`, `bytes` what it then
commits to adapter memory on behalf of `inst`, with byte enables. A write over H is acknowledged by the flushing read that covers it (R53), and
`addr` is then the address of its last byte run. `store` is a write of the adapter's own, which nothing waits for. -/
structure WriteReq where
  id    : Nat
  kind  : WriteKind
  inst  : BitVec 8
  port  : Option Port
  lines : List (Nat × Nat)
  addr  : Nat
  bytes : List (Option Byte)
  len   : Nat
  deriving DecidableEq, Repr

/-- An entry of the device translation cache (R323): its first page, its size 2^`log2`, permissions and translation. -/
structure Atc where
  key   : XKey
  log2  : Nat
  rd    : Bool
  wr    : Bool
  phys  : Word
  deriving DecidableEq, Repr

/-- A page request (R64, R325): its instance and operation, and whether it has been sent or waits for the allocation. -/
structure PageReq where
  id   : Nat
  key  : XKey
  inst : BitVec 8
  op   : Nat
  sent : Bool
  deriving DecidableEq, Repr

/-- An invalidation received and not yet completed, with the handles of the segments and reads that use its range
(R60). -/
structure Inval where
  id    : Nat
  port  : Port
  fn    : BitVec 8
  pasid : BitVec 20
  base  : Nat
  size  : Nat
  users : List Nat
  deriving DecidableEq, Repr

/-- A semaphore operation (R170), or the first comparison of a wait (R185). -/
inductive SemAct
  | add (v : Word)
  | sub (v : Word)
  | set (v : Word)
  | read
  | wait
  deriving DecidableEq, Repr

/-- Where a semaphore operation comes from (R165, R171). -/
inductive SemSrc
  | slot (sl : Nat)
  | comp (inst : BitVec 8)
  | cell (p : Path) (be : BitVec 8)
  | remote (src : AdapterId) (msg : MsgId)
  | op (id : Nat)
  | desc (ring : Nat) (idx : BitVec 32)
  deriving DecidableEq, Repr

/-- An operation held while its page is being zeroed (R185). -/
structure HeldSem where
  sem : BitVec 16
  act : SemAct
  src : SemSrc
  deriving DecidableEq, Repr

/-- The progress of a descriptor that the ring holds (R290, R298). -/
inductive DPhase
  | fetched
  | waiting
  | dispatched
  | finished (st : Status)
  | published (st : Status)
  deriving DecidableEq, Repr

/-- A descriptor between fetch and head, and when (in 10^-6 ck) it was fetched. -/
structure RDesc where
  idx   : BitVec 32
  d     : Desc
  phase : DPhase
  at_   : Nat
  deriving DecidableEq, Repr

/-- RING_STATE.state (R309). -/
inductive RingPhase
  | disabled | idle | active | stopped | aborting | error
  deriving DecidableEq, Repr

/-- A ring: its configuration in force (R309) and its counts (R286); `want` counts the descriptors of the read that is
outstanding, `backoff` is when (in 10^-6 ck) the next re-read is due, `stopAt` when the ring stopped, and `abortBy` the
paths whose abort commands are in progress. -/
structure Ring where
  cfg0    : Word
  cfg1    : Word
  cfg2    : Word
  cfg3    : Word
  phase   : RingPhase
  tail    : BitVec 32
  fetched : BitVec 32
  dispatched : BitVec 32
  head    : BitVec 32
  descs   : List RDesc
  lastSt  : Status
  failIdx : BitVec 32
  failSt  : Status
  want    : Nat
  rereads : Nat
  backoff : Option Nat
  stopAt  : Nat
  abortBy : List Path
  irqAt   : Option Nat
  irqHeld : Bool
  progress : Nat
  deriving DecidableEq, Repr

/-- A ring as reset leaves it: the reset values of RING_CFG0–RING_CFG3 and zero counts. (Log 5: DESIGN CHOICE.) -/
def Ring.init : Ring :=
  { cfg0 := 0, cfg1 := 0x101306, cfg2 := 0, cfg3 := 0xA0000000, phase := .disabled, tail := 0, fetched := 0,
    dispatched := 0, head := 0, descs := [], lastSt := 0, failIdx := 0, failSt := 0, want := 0, rereads := 0,
    backoff := none, stopAt := 0, abortBy := [], irqAt := none, irqHeld := false, progress := 0 }

/-- The scheduler of rings (R295, R296): one past the TC7 ring being visited and its burst left, the pass, one past the
ring that it visits and the burst left there, and when the last dispatch was (in 10^-6 ck). -/
structure Sched where
  tc7Next : Nat
  tc7Left : Nat
  pass    : Nat
  next    : Nat
  left    : Nat
  last    : Option Nat
  deriving DecidableEq, Repr

/-- The pending part of a fault queue that its registers do not hold (R301, R307). -/
structure FaultQ where
  pend    : List Nat
  irqAt   : Option Nat
  irqHeld : Bool
  deriving DecidableEq, Repr

/-- A fault queue as reset leaves it. -/
def FaultQ.init : FaultQ := ⟨[0, 0, 0, 0, 0, 0, 0, 0], none, false⟩

/-- A transport context (R229, R230). Rates are in 1/256 Gb/s, tokens in 1/256000 bit, and `wrr` is the smooth weighted
round robin state per sub-port. -/
structure Ctx where
  valid  : Bool
  data0  : Word
  rate   : Nat
  tokens : Int
  tokAt  : Nat
  mdAt   : Option Nat
  aiAt   : Nat
  wrr    : Tab Int
  resident : Bool
  fetching : Bool
  used   : Nat
  deriving DecidableEq, Repr

/-- An invalid context (R230). (Log 5: DESIGN CHOICE.) -/
def Ctx.init : Ctx :=
  { valid := false, data0 := 0, rate := 0, tokens := 0, tokAt := 0, mdAt := none, aiAt := 0, wrr := [],
    resident := false, fetching := false, used := 0 }

/-- What a message carries. -/
inductive MsgSrc
  | op (id seg : Nat)
  | semOp (id : Nat) (code : Nat) (sem : BitVec 16) (v : Word)
  | sig (id seg : Nat)
  | pio (slot : Nat)
  deriving DecidableEq, Repr

/-- A message waiting at a send engine to be created, since when in 10^-6 ck (R218, R224, R227, R229). -/
structure TxReq where
  id     : Nat
  src    : MsgSrc
  sl     : Nat
  inst   : BitVec 8
  srcCtx : BitVec 20
  dst    : AdapterId
  dstCtx : BitVec 20
  tc     : BitVec 3
  urgent : Bool
  since  : Nat
  trkWait : Bool
  recWait : Bool
  data   : List Byte
  trig   : List Word
  deriving DecidableEq, Repr

/-- Why a packet is sent again (R220, R221, R223). -/
inductive Again
  | timer | fast | busy
  deriving DecidableEq, Repr

/-- A packet to be sent again, to which adapter (R232), and since what Meridian time it waits. -/
structure Resend where
  idx : Nat
  why : Again
  dst : AdapterId
  at_ : Word
  deriving DecidableEq, Repr

/-- A multicast group entry (R280): FAB_MC_DATA0 and FAB_MC_DATA1 as committed. -/
structure Mc where
  data0 : Word
  data1 : Word
  deriving DecidableEq, Repr

/-- A sender record (R218). Bitmaps are held as numbers, bit *i* for index *i*; `again` lists the packets to be sent
again, `fast` when (in ps, plus one) each index was last sent again at once, `busy` those held after BUSY and until
when, `plane` the plane last used by each index plus one, `line` the group's entry at its creation (R283), `group` the
Ephemeris group that the context was bound to (R230), `made` when (in 10^-6 ck) it was created. -/
structure SRec where
  msg    : MsgId
  src    : MsgSrc
  sl     : Nat
  inst   : BitVec 8
  typ    : BitVec 4
  srcCtx : BitVec 20
  dst    : AdapterId
  dstCtx : BitVec 20
  mcast  : Bool
  birth  : Word
  last   : Nat
  cum    : Nat
  acked  : Nat
  sent   : Nat
  fast   : Tab Nat
  again  : List Resend
  busy   : List (Resend × Nat)
  members : BitVec 64
  line   : Mc
  retx   : Nat
  expo   : Nat
  timer  : Option Nat
  status : Option Status
  ordered : Bool
  prev   : MsgId
  part   : BitVec 16
  tc     : BitVec 3
  urgent : Bool
  key    : Option Nat
  plane  : Tab Nat
  attr   : BitVec 16
  tgtA   : BitVec 32
  tgtB   : Word
  sig    : Bool
  unit   : Nat
  data   : List Byte
  trig   : List Word
  group  : Option Nat
  made   : Nat
  deriving DecidableEq, Repr

/-- States of a receive record (R215–R217, R225). -/
inductive RPhase
  | expected | receiving | complete | held | published | failed
  deriving DecidableEq, Repr

/-- A receive record (R215, R218). `flushed` says that the flushing read of its posted writes over H has been issued
(R251). -/
structure RRec where
  src    : AdapterId
  msg    : MsgId
  typ    : BitVec 4
  ts     : BitVec 32
  last   : Nat
  cum    : Nat
  got    : Nat
  phase  : RPhase
  status : Status
  dstCtx : BitVec 20
  srcCtx : BitVec 20
  part   : BitVec 16
  tc     : BitVec 3
  urgent : Bool
  writes : Nat
  prev   : BitVec 32
  hasPrev : Bool
  prevGone : Option Bool
  sig    : Bool
  semId  : BitVec 16
  mcast  : Bool
  bound  : Option Nat
  length : Option Nat
  unacked : Nat
  ackDue : Option Nat
  ece    : Bool
  finalSent : Bool
  semHeld : Bool
  flushed : Bool
  ctrl   : Option Word
  bytes  : Nat
  made   : Nat
  deriving DecidableEq, Repr

/-- An ordering tracker (R224); the number of a multicast group is no adapter's ID. -/
structure Tracker where
  ctx    : BitVec 20
  mcast  : Bool
  dst    : AdapterId
  dstCtx : BitVec 20
  msg    : MsgId
  deriving DecidableEq, Repr

/-- Why a received packet waits: for its context (R229), for a window entry (R238), or, once accepted, for translations
(R241, R481). -/
inductive ParkedFor
  | ctx | win (w : Nat) | xlat (keys : List XKey)
  deriving DecidableEq, Repr

/-- A packet that waits, since when in 10^-6 ck; `upset` is the residue mismatch that its array shows. -/
structure Parked where
  rx    : Rx
  why   : ParkedFor
  upset : Option (Fin 128 × Bool)
  at_   : Nat
  deriving DecidableEq, Repr

/-- A posted receive buffer (R255). -/
structure Posted where
  op    : Nat
  ctx   : BitVec 20
  match_ : BitVec 24
  size  : Nat
  bound : Option (Nat × Nat)
  deriving DecidableEq, Repr

/-- WIN_DATA2.state (R239). -/
inductive WinPhase
  | free | open_ | revoking
  deriving DecidableEq, Repr

/-- A window table entry (R239): the fields of WIN_DATA0–WIN_DATA2, state, generation, in-flight count, revoke time,
what its revoke raises or completes, and its place in the cache (R238). -/
structure Win where
  data0  : Word
  data1  : Word
  data2  : Word
  phase  : WinPhase
  gen    : BitVec 8
  flight : Nat
  revAt  : Option Word
  sem    : Option (BitVec 16)
  ring   : Option (Nat × BitVec 32)
  cached : Bool
  fetching : Bool
  used   : Nat
  deriving DecidableEq, Repr

/-- A window entry after the reset that clears the block (R239). (Log 5: DESIGN CHOICE.) -/
def Win.init : Win :=
  { data0 := 0, data1 := 0, data2 := 0, phase := .free, gen := 0, flight := 0, revAt := none, sem := none,
    ring := none, cached := false, fetching := false, used := 0 }

/-- The committed configuration of an I1–I255 that exists (R326): XLT_INST_CFG0–CFG6. -/
structure Inst where
  c0 : Word
  c1 : Word
  c2 : Word
  c3 : Word
  c4 : Word
  c5 : Word
  c6 : Word
  deriving DecidableEq, Repr

/-- The PCIe and CXL state of a function or port that the adapter acts on (R310, R322, R325, R331); the last two are the
enable and the mask of MSI-X. -/
structure Fn where
  master : Bool
  ats    : Bool
  pasid  : Bool
  pri    : Bool
  msixOn : Bool
  msixMask : Bool
  deriving DecidableEq, Repr

/-- A function's state after its reset. (Log 5: DESIGN CHOICE.) -/
def Fn.init : Fn := ⟨false, false, false, false, false, false⟩

/-- An entry of an MSI-X table (R312): message address and data, and the mask bit of its control word. (Log 72: PRESUMED.) -/
structure MsixVec where
  addr   : Word
  data   : BitVec 32
  masked : Bool
  deriving DecidableEq, Repr

/-- An entry after a reset. (Log 72: PRESUMED.) -/
def MsixVec.init : MsixVec := ⟨0, 0, true⟩

/-- A frame waiting in an egress class queue (R346), or held for replay (R277): its channel, its VID, its content, its sequence
number, when it was queued (in 10^-6 ck) or first transmitted (in ps), and whether it has waited for credits. -/
structure EgFrame where
  prio : Nat
  len  : Nat
  vc   : Nat
  vid  : BitVec 12
  body : EgBody
  seq  : BitVec 16
  sentAt : Nat
  stalled : Bool
  deriving DecidableEq, Repr

/-- FAB_LINK state of a sub-port (R284). -/
inductive LinkPhase
  | absent | down | training | up | degraded | miswired
  deriving DecidableEq, Repr

/-- A sub-port of a fabric port: link state, PFC (R272; `paused` holds until when each priority is paused), egress queues
(R346), direct-mode link layer (R275–R279; `known` says that an INIT frame has come since the link came up), block lock and
since when it is lost, when training last started (R392), the uncorrectable codewords of the last replay budget with their
times, and whether they were too many (R279). -/
structure Sub where
  link   : LinkPhase
  lanes  : Nat
  paused : List Nat
  xoff   : BitVec 8
  xoffAt : List Nat
  queue  : List EgFrame
  deficit : List Nat
  turn   : Nat
  visit  : Bool
  seqTx  : BitVec 16
  seqRx  : BitVec 16
  ackRx  : BitVec 16
  held   : List EgFrame
  used   : List (BitVec 16)
  peerCr : List (BitVec 16)
  ownCr  : List (BitVec 16)
  ackAt  : Nat
  replayAt : Option Nat
  ctrlDue : Option Nat
  peer   : AdapterId
  peerMac : BitVec 48
  lock   : Bool
  lockAt : Option Nat
  downAt : Option Nat
  known  : Bool
  fecBad : List (Nat × Nat)
  fecDue : Bool
  deriving DecidableEq, Repr

/-- A sub-port after reset. (Log 5: DESIGN CHOICE.) -/
def Sub.init : Sub :=
  { link := .absent, lanes := 0, paused := [0, 0, 0, 0, 0, 0, 0, 0], xoff := 0,
    xoffAt := [0, 0, 0, 0, 0, 0, 0, 0], queue := [], deficit := [0, 0, 0, 0, 0, 0, 0, 0], turn := 0, visit := false,
    seqTx := 0, seqRx := 0, ackRx := 0, held := [], used := [0, 0, 0, 0], peerCr := [0, 0, 0, 0],
    ownCr := [0, 0, 0, 0], ackAt := 0, replayAt := none, ctrlDue := none, peer := 0, peerMac := 0, lock := false, lockAt := none,
    downAt := none, known := false, fecBad := [], fecDue := false }

/-- A frame held in the ingress buffer until the transport has taken its packet (R272, R344), or until the egress queue
of the port that forwards it has room (R268), and since when in 10^-6 ck. -/
structure InFrame where
  port : Nat
  sub  : Nat
  prio : Nat
  len  : Nat
  vc   : Nat
  rx   : Rx
  fwd  : Option IpHdr
  at_  : Nat
  deriving DecidableEq, Repr

/-- States of the time unit (R192). -/
inductive TimePhase
  | freerun | acquire | locked | holdover
  deriving DecidableEq, Repr

/-- The time unit (R187, R191): Meridian time with its 32-bit fraction, the loop in units of 2^-24 ppb. -/
structure TimeUnit where
  now    : BitVec 96
  phase  : TimePhase
  integ  : Int
  adj    : Int
  run    : Nat
  sample : Option Nat
  pps    : Option Nat
  ref10m : Bool
  deriving DecidableEq, Repr

/-- A row of the Ephemeris table (R194): TIME_EPH_ROW0 and TIME_EPH_ROW1. -/
structure EphRow where
  r0 : Word
  r1 : Word
  deriving DecidableEq, Repr

/-- The state of a key slot (R407). -/
inductive KeyPhase
  | empty | loaded | expired
  deriving DecidableEq, Repr

/-- A key slot (R407). -/
structure KeySlot where
  key   : BitVec 256
  phase : KeyPhase
  kek   : Bool
  test  : Bool
  gen   : BitVec 16
  at_   : Nat
  deriving DecidableEq, Repr

/-- A key slot after reset. (Log 5: DESIGN CHOICE.) -/
def KeySlot.init : KeySlot := ⟨0, .empty, false, false, 0, 0⟩

/-- The chaining state of a suspended packet (R418, R419). -/
structure Chain where
  counter : BitVec 128
  ghash   : BitVec 128
  aadBits : Word
  dataBits : Word
  slot    : BitVec 16
  gen     : BitVec 16
  block   : BitVec 32
  deriving DecidableEq, Repr

/-- A packet at the cipher schedulers: its pool, key slot, the key and load generation taken when a core started it, the
packet, for an arriving packet the window entry it passed, for a leaving one its plane, whether it is ciphered and
waits for an earlier index (R417), whether its chaining state was replaced (R419), and when (in 10^-6 ck) it arrived. -/
structure CJob where
  ingress : Bool
  slot   : Nat
  key    : BitVec 256
  gen    : BitVec 16
  rx     : Rx
  win    : Option Nat
  upset  : Option (Fin 128 × Bool)
  plane  : Option Nat
  fin    : Bool
  moved  : Bool
  at_    : Nat
  deriving DecidableEq, Repr

/-- A cipher core (R416–R419): the packet it runs, the suspended one with its chaining state, and whether it is held. -/
structure Core where
  job   : Option CJob
  susp  : Option (Option CJob × Chain)
  held  : Bool
  deriving DecidableEq, Repr

/-- An idle core. -/
def Core.init : Core := ⟨none, none, false⟩

/-- One record of an EEPROM profile (R384) as start-up uses it: port_cfg bytes, attach_cfg, mem_cfg, power_limit_w. -/
structure Rec where
  ports  : List (BitVec 8)
  attach : BitVec 4
  mem    : BitVec 2
  power  : BitVec 16
  deriving DecidableEq, Repr

/-- The default record (R384). -/
def Rec.default : Rec := ⟨[0x18, 0x18, 0x18, 0x18, 0x18, 0x18], 0xF, 2, 0⟩

/-- Lodestar's start-up state (R383–R395): the target, whether the full path is taken, the SMBus address straps, the
records read from the EEPROM and which of them are invalid, what the start-up test reported, the training window in force,
when training started and whether its window has closed, what has trained (`attRate` is the highest rate that both ends
reach), whether the decision has been made, the physical channels last in service, the streamed image, and the length of
the image in the firmware region. `waking`: the adapter leaves Twilight and the image is not yet authenticated (R433). -/
structure Boot where
  target  : Nat
  full    : Bool
  smb     : BitVec 2
  inReset : Bool
  recs    : List Rec
  recBad  : BitVec 4
  test    : UnitSet
  window  : Nat
  trainAt : Nat
  closed  : Bool
  fabLanes : Tab (BitVec 8)
  attWidth : Tab Nat
  attRate : Tab Nat
  modules : Tab (Option Module)
  decided : Bool
  lastMem : BitVec 12
  stream  : List Byte
  streaming : Bool
  fwLen   : Nat
  waking  : Bool
  deriving DecidableEq, Repr

/-- Start-up before anything has trained. (Log 7: DESIGN CHOICE.) -/
def Boot.init : Boot :=
  { target := 0, full := true, smb := 0, inReset := false, recs := [.default, .default, .default, .default],
    recBad := 0xF, test := .empty, window := 2000, trainAt := 0, closed := false, fabLanes := [], attWidth := [],
    attRate := [], modules := [], decided := false, lastMem := 0, stream := [], streaming := false, fwLen := 0,
    waking := false }

/-- The fuses (R399, R387). -/
structure Fuses where
  bad    : UnitSet
  minSvn : Nat
  rev0   : Bool
  rev1   : Bool
  rows   : BitVec 16
  cols   : BitVec 16
  deriving DecidableEq, Repr

/-- A bucket of Tally (R442): energy, fab_tx, fab_rx, att_rd, att_wr, host. -/
structure Bucket where
  uj   : Word
  tx   : Word
  rx   : Word
  rd   : Word
  wr   : Word
  host : Word
  deriving DecidableEq, Repr

/-- An empty bucket. -/
def Bucket.init : Bucket := ⟨0, 0, 0, 0, 0, 0⟩

/-- Tally (R435–R442). -/
structure Tally where
  live    : Tab Bucket
  snap    : Tab Bucket
  ms      : Tab Nat
  energy  : Word
  power   : BitVec 32
  sense   : Bool
  senseIv : Bool
  seq     : Word
  period  : BitVec 16
  changes : Word
  starts  : Word
  onAt    : Nat
  recs    : Tab (List Byte)
  deriving DecidableEq, Repr

/-- A staged trace record (R450): the source and the four words. -/
structure Trace where
  src : Nat
  w0  : Word
  w1  : Word
  w2  : Word
  w3  : Word
  deriving DecidableEq, Repr

/-- Comet (R448–R451): what is staged, records lost since the last LOST record, records of each core written since its last
SYNC record; and when (in 10^-6 ck) the histogram units last sampled (R446). -/
structure Comet where
  staged : List Trace
  lost   : Nat
  counts : Tab Nat
  sampled : Nat
  deriving DecidableEq, Repr

/-- A node of the wait-for graph (R457). -/
structure GNode where
  w0 : Word
  w1 : Word
  w2 : Word
  w3 : Word
  deriving DecidableEq, Repr

/-- An edge of the wait-for graph. -/
structure GEdge where
  src   : Nat
  dst   : Nat
  kind  : Nat
  unsure : Bool
  deriving DecidableEq, Repr

/-- A management query of this adapter to a peer about one of its semaphores, or, with none, about the peer's sender records;
when it was sent, and whether it is still open (R457, R458). -/
structure Query where
  peer : AdapterId
  sem  : Option (BitVec 16)
  sent : Nat
  due  : Bool
  deriving DecidableEq, Repr

/-- A query relayed for adapter `src`, which sent it through a sub-port, to adapter `peer` (R458). -/
structure Relay where
  port : Nat
  sub  : Nat
  src  : AdapterId
  peer : AdapterId
  sem  : Option (BitVec 16)
  deriving DecidableEq, Repr

/-- Nightwatch (R452, R453): when each object last progressed is held with the object; here the heartbeat, when watching last
started, the saved declaration, queries and relays, and the graph under construction. -/
structure Nightwatch where
  beat   : Nat
  fresh  : Nat
  at_    : Word
  cometAt : Word
  cometSt : Word
  asked  : List Query
  relays : List Relay
  nodes  : List GNode
  edges  : List GEdge
  deriving DecidableEq, Repr

/-- The stored bits of a code word of adapter memory that are not the encoding of the data listed for it (R366, R376);
the data listed in memory is what was last encoded there. -/
structure RawWord where
  data  : BitVec 256
  check : BitVec 64
  deriving DecidableEq, Repr

/-- The state of the adapter. -/
structure State where
  /-- Commands that wait, first in, first out. -/
  pending : List Instr
  /-- The model's own counter of free values. -/
  free    : Nat
  /-- The model's own log of what left the adapter. -/
  out     : List Emission
  /-- The model's own counter of handles. -/
  fresh   : Nat
  /-- Absolute time in ps (R4). -/
  ps      : Nat
  /-- Engine-clock time in 10^-6 ck (R4, R425). -/
  ck      : Nat
  /-- Registers of BAR0 by offset (R27): committed values, counters, logs and results. The selection, staging and
  result registers of the view of VF *i* (R330) stand at offset + 2^21 × (1 + *i*). -/
  regs    : Tab Word
  /-- Shadow copies of RWC registers (R6). -/
  shadow  : Tab Word
  /-- Result registers that are read per master path (R334): GLB_OWN_RESULT by master code. -/
  ownRes  : Tab Word
  /-- When the ownership lease last restarted, in ps (R335). -/
  leaseAt : Nat
  /-- Adapter memory (R357), data bytes. -/
  mem     : Tab Byte
  /-- Code words of adapter memory whose stored bits are not an encoding (R376). -/
  raw     : Tab (Option RawWord)
  /-- Tensor memories: 12 MiB × cluster + offset (R25). -/
  tmem    : Tab Byte
  /-- Operand buffers: 8 MiB × array + offset (R25). -/
  nbuf    : Tab Byte
  /-- PIO slots: 8 KiB × slot + offset (R317). -/
  pio     : Tab Byte
  /-- The program slots C0.P0 to C7.P3 (R30). -/
  slots   : Tab Slot
  /-- Images resident in the instruction memories (R35). -/
  images  : List Resident
  /-- Outstanding operations in issue order (R37, R41). -/
  ops     : List Op
  /-- Segments queued on the Nebula arrays, in queue order (R121). -/
  jobs    : List Job
  /-- Segments that each array has started since reset (R120). -/
  arrSeq  : Tab Nat
  /-- The armed residue corruption (R134). -/
  armed   : Option Armed
  /-- Lane fences: 128 × array + logical lane, to how often it was replaced (R128). -/
  laneMap : Tab Nat
  /-- Reads whose data has not returned. -/
  reads   : List ReadReq
  /-- Writes not yet acknowledged at their destination (R53). -/
  writes  : List WriteReq
  /-- The device translation cache (R323), least recently used first. -/
  atc     : List Atc
  /-- ATS requests outstanding. -/
  xlating : List XKey
  /-- Page requests (R325). -/
  pages   : List PageReq
  /-- Functions stopped by a Response Failure until PRI is enabled again (R325). -/
  priStop : List (Port × BitVec 8)
  /-- Invalidations received and not completed (R60). -/
  invals  : List Inval
  /-- Semaphore values (R164); with profile 3, IDs from 0xFF00 are barriers, held in SEM_BAR registers (R182). -/
  sems    : Tab Word
  /-- Poisoned semaphore words (R173). -/
  poison  : Tab Bool
  /-- The page being zeroed (R185). -/
  zeroing : Option Nat
  /-- Operations held on that page, oldest first (R185). -/
  semHeld : List HeldSem
  /-- The rings (R286). -/
  rings   : Tab Ring
  /-- The ring scheduler (R295, R296). -/
  sched   : Sched
  /-- The fault queues' pending overflow counts and interrupts (R307). -/
  fqs     : Tab FaultQ
  /-- Transport contexts (R229, R230). -/
  ctxs    : Tab Ctx
  /-- Messages waiting at the send engines (R218). -/
  txq     : List TxReq
  /-- Sender records (R218). -/
  srecs   : List SRec
  /-- Receive records and placeholders (R215, R225). -/
  rrecs   : List RRec
  /-- Ordering trackers (R224). -/
  trackers : List Tracker
  /-- The miss buffer, and packets waiting for a window entry (R229, R238). -/
  parked  : List Parked
  /-- Packets in the internal loopback (R211). -/
  loop    : List Rx
  /-- The next message ID (R210). -/
  nextMsg : MsgId
  /-- Message IDs allocated since reset (R409). -/
  msgCount : Nat
  /-- Step debt in ns (R219) as it stood at Meridian time `debtAt`. -/
  debt    : Nat
  /-- When `debt` was set. -/
  debtAt  : Word
  /-- Earlier lifetimes that still bound acceptance: lifetime in µs and the Meridian time until which (R219). -/
  lifeOld : List (Nat × Word)
  /-- Posted receive buffers, oldest first (R255). -/
  posted  : List Posted
  /-- The window table (R239). -/
  wins    : Tab Win
  /-- Instances I1–I255 (R326). -/
  insts   : Tab (Option Inst)
  /-- PCIe functions of H by number; attach port A*q* at 256 + *q* (R310, R313). -/
  fns     : Tab Fn
  /-- VF Enable (R331). -/
  vfEn    : Bool
  /-- NumVFs (R310, R434). -/
  numVfs  : Nat
  /-- Outstanding Page Request Allocation by port: H at 0, A*q* at 1 + *q* (R325). -/
  priAlloc : Tab Nat
  /-- CXL.mem enabled on A*q* (R341). -/
  cxlMem  : BitVec 4
  /-- The MSI-X tables: 2048 × function + vector (R312). -/
  msixTab : Tab MsixVec
  /-- The pending bits of the vectors (R312). -/
  msixPend : Tab Bool
  /-- The line filters: port and line, oldest first (R315). -/
  filter  : List (Nat × Nat)
  /-- Entries of the filters that are being freed to make room (R315). -/
  freeing : List (Nat × Nat)
  /-- The multicast group table (R280). -/
  mcs     : Tab Mc
  /-- The split of each port in force since it last started to train (R342). -/
  split   : Tab Nat
  /-- Sub-ports: 4 × port + sub-port (R342). -/
  subs    : Tab Sub
  /-- Frames held in ingress buffers (R344). -/
  ingress : List InFrame
  /-- Round robin of the forwarding path (R268). -/
  fwdWrr  : Tab Int
  /-- The time unit (R187). -/
  time    : TimeUnit
  /-- Ephemeris rows: 4096 × bank + row (R194, R200). -/
  ephRows : Tab EphRow
  /-- One past the Meridian time at which a row of the active bank was last open, until its miss has counted (R198). -/
  ephLive : Tab Nat
  /-- When (in 10^-6 ck) the copy of the banks started (R202). -/
  ephCopyAt : Nat
  /-- Key slots (R407). -/
  keys    : Tab KeySlot
  /-- Cipher cores (R416). -/
  cores   : Tab Core
  /-- Packets waiting for a cipher core, or done and waiting for an earlier index (R417). -/
  cipherQ : List CJob
  /-- Draws of the device wrap key (R420). -/
  wraps   : Nat
  /-- Start-up (R383–R395). -/
  boot    : Boot
  /-- Fuses (R399). -/
  fuses   : Fuses
  /-- Configuration saved at Twilight entry (R431). -/
  saved   : Tab Word
  /-- A wake that arrived during Twilight entry (R433). -/
  wakeHeld : Bool
  /-- THERMTRIP_N asserted (R428). -/
  tripped : Bool
  /-- Consecutive measurements within the margin (R426). -/
  capOk   : Nat
  /-- Next code word of each channel's patrol scrubber (R368). -/
  scrub   : Tab Nat
  /-- Tally (R435). -/
  tally   : Tally
  /-- Comet's staging (R450). -/
  comet   : Comet
  /-- Nightwatch (R452). -/
  night   : Nightwatch
  /-- The instruction register of the JTAG TAP (R475). -/
  jtag    : JtagIr
  deriving DecidableEq, Repr

/-- Why the machine stops with a fault. (Log 111: DESIGN CHOICE.) -/
inductive Fault
  /-- Raised by COLD_RESET when POR_N is deasserted with a rail outside its range: R382 calls the behaviour undefined.
  Safe: the model stops where the spec gives no effect. -/
  | undefinedPowerUp
  deriving DecidableEq, Repr

/-- Why a command is refused. -/
inductive Refusal
  /-- Raised by `exec` for a command that has no meaning yet. Safe: the model stops. -/
  | notModelled (mnemonic : String)
  deriving DecidableEq, Repr

/-- The adapter right after a cold reset with PROFILE_SEL at 0 and no EEPROM record read (R378, R379, R383): every field
at its reset value, start-up test about to run (BOOT_STATE TEST).
(Log 5: DESIGN CHOICE, 6: DESIGN CHOICE, 7: DESIGN CHOICE, 108: PRESUMED.) -/
def State.reset : State :=
  { pending := [], free := 0, out := [], fresh := 0, ps := 0, ck := 0,
    regs := resetRegs, shadow := resetShadow, ownRes := [], leaseAt := 0,
    mem := [], raw := [], tmem := [], nbuf := [], pio := [],
    slots := [], images := [], ops := [], jobs := [], arrSeq := [], armed := none, laneMap := [],
    reads := [], writes := [], atc := [], xlating := [], pages := [], priStop := [], invals := [],
    sems := [], poison := [], zeroing := none, semHeld := [],
    rings := [], sched := ⟨0, 0, 1, 0, 0, none⟩, fqs := [],
    ctxs := [], txq := [], srecs := [], rrecs := [], trackers := [], parked := [], loop := [], nextMsg := 1, msgCount := 0,
    debt := 2000000, debtAt := 0, lifeOld := [], posted := [], wins := [],
    insts := [], fns := [], vfEn := false, numVfs := 0, priAlloc := [], cxlMem := 0, msixTab := [], msixPend := [], filter := [], freeing := [], mcs := [],
    split := [], subs := [], ingress := [], fwdWrr := [],
    time := ⟨0, .freerun, 0, 0, 0, none, none, false⟩, ephRows := [], ephLive := [], ephCopyAt := 0,
    keys := [], cores := [], cipherQ := [], wraps := 1,
    boot := Boot.init,
    fuses := ⟨.empty, 0, false, false, 0, 0⟩,
    saved := [], wakeHeld := false, tripped := false, capOk := 0, scrub := [],
    tally := { live := [], snap := [], ms := [], energy := 0, power := 0, sense := false, senseIv := false, seq := 0,
               period := 60, changes := 0, starts := 1, onAt := 0, recs := [] },
    comet := ⟨[], 0, [], 0⟩,
    night := ⟨0, 0, 0, 0, 0, [], [], [], []⟩,
    jtag := .idcode }

end Sys2Proof.Machine
end

