-- ==== Sys2Proof/Machine/Ops.lean ====
section
/-!
DEFINITION. The named operations of the machine over its registers, counters, time, instances, paths, interrupts and
fault queues.
-/

namespace Sys2Proof.Machine

/-- The outcome of a command. -/
abbrev Out := Host.Outcome State Fault Refusal

/-! ## Status codes (R308) -/

namespace St

def ok : Status := 0x0000
def partialFault : Status := 0x0001
def busy : Status := 0x0002
def earlyDoorbell : Status := 0x0003
def badDescriptor : Status := 0x0010
def badImage : Status := 0x0011
def illegalInstruction : Status := 0x0012
def badTensor : Status := 0x0013
def versionMismatch : Status := 0x0014
def accessDenied : Status := 0x0020
def translationFault : Status := 0x0021
def windowClosed : Status := 0x0022
def noBuffer : Status := 0x0023
def resourceLimit : Status := 0x0024
def quiesceRequired : Status := 0x0025
def notOwner : Status := 0x0026
def timeout : Status := 0x0030
def unreachable : Status := 0x0031
def aborted : Status := 0x0032
def uncorrectable : Status := 0x0040
def checkFail : Status := 0x0041
def authFail : Status := 0x0042

end St

/-! ## Bit fields -/

/-- The `w` bits of a word from bit `lo`. -/
def bits (v : Word) (lo w : Nat) : Nat := (v.toNat >>> lo) % 2 ^ w

/-- One bit of a word. -/
def bit (v : Word) (i : Nat) : Bool := v.getLsbD i

/-- A word with the `w` bits from bit `lo` replaced by `x`. -/
def putBits (v : Word) (lo w x : Nat) : Word :=
  (v &&& ~~~(BitVec.ofNat 64 ((2 ^ w - 1) <<< lo))) ||| BitVec.ofNat 64 ((x % 2 ^ w) <<< lo)

/-- 1 for true. -/
def b2n (b : Bool) : Nat := if b then 1 else 0

/-- Little-endian bytes of a number. -/
def leBytes (n : Nat) : Nat → List Byte
  | 0 => []
  | k + 1 => BitVec.ofNat 8 n :: leBytes (n / 256) k

/-- The number that little-endian bytes spell. -/
def ofLe : List Byte → Nat
  | [] => 0
  | b :: bs => b.toNat + 256 * ofLe bs

/-- The number that big-endian bytes spell. -/
def ofBe (bs : List Byte) : Nat := bs.foldl (fun a b => a * 256 + b.toNat) 0

/-- Big-endian bytes of a number. -/
def beBytes (n k : Nat) : List Byte := (leBytes n k).reverse

/-- The whole of a 64-bit word as a signed integer. -/
def sInt (v : Word) : Int := v.toInt

/-! ## The log, handles and free values -/

/-- The kinds of bytes that Tally counts (R436). -/
inductive Meter
  | tx | rx | rd | wr | host
  deriving DecidableEq, Repr

/-- A bucket with bytes added. -/
def Bucket.add (b : Bucket) (m : Meter) (n : Nat) : Bucket :=
  match m with
  | .tx => { b with tx := b.tx + BitVec.ofNat 64 n }
  | .rx => { b with rx := b.rx + BitVec.ofNat 64 n }
  | .rd => { b with rd := b.rd + BitVec.ofNat 64 n }
  | .wr => { b with wr := b.wr + BitVec.ofNat 64 n }
  | .host => { b with host := b.host + BitVec.ofNat 64 n }

/-- The bucket of bytes in transit (R436). -/
def transit : Nat := 256

/-- Tally counts bytes in a bucket, and in the present millisecond (R436, R437). -/
def Tally.count (t : Tally) (b : Nat) (m : Meter) (n : Nat) : Tally :=
  { t with live := tset Bucket.init t.live b ((tget Bucket.init t.live b).add m n)
           ms := tset 0 t.ms b (tget 0 t.ms b + n) }

/-- The bytes that Tally counts when something leaves the adapter, with their bucket (R436).
(Log 50: DESIGN CHOICE.) -/
def meterOf : Emission → Option (Nat × Meter × Nat)
  | .wire _ _ _ len b _ => some (b, .tx, len)
  | .pfc .. => some (transit, .tx, 64)
  | .link .. => some (transit, .tx, 64)
  | .memWrite .h i _ bs => some (i.toNat, .host, bs.length)
  | .memWrite (.a _) i _ bs => some (i.toNat, .wr, bs.length)
  | .memRead .h i _ n => some (i.toNat, .host, n)
  | .memRead (.a _) i _ n => some (i.toNat, .rd, n)
  | .msix fn .. => some (fn.toNat, .host, 4)
  | .hdmData _ bs _ => some (transit, .rd, bs.length)
  | _ => none

/-- Tally counts bytes that arrive (R436). -/
def State.meter (s : State) (b : Nat) (m : Meter) (n : Nat) : State := { s with tally := s.tally.count b m n }

/-- Takes a new handle. (Log 4: DESIGN CHOICE.) -/
def State.takeHandle (s : State) : Nat × State := (s.fresh, { s with fresh := s.fresh + 1 })

/-- Takes a free value (a value that the spec leaves open). (Log 4: DESIGN CHOICE.) -/
def State.takeFree (s : State) : Word × State := (Config.freeWord s.free, { s with free := s.free + 1 })

/-- Takes a free bit. (Log 4: DESIGN CHOICE.) -/
def State.takeBit (s : State) : Bool × State := (Config.freeBit s.free, { s with free := s.free + 1 })

/-! ## Registers -/

/-- The committed value of a register. -/
def State.reg (s : State) (a : Nat) : Word := tget 0 s.regs a

/-- Sets the committed value of a register. -/
def State.setReg (s : State) (a : Nat) (v : Word) : State := { s with regs := tset 0 s.regs a v }

/-- A field of a register. -/
def State.fld (s : State) (a lo w : Nat) : Nat := bits (s.reg a) lo w

/-- A one-bit field of a register. -/
def State.flag (s : State) (a lo : Nat) : Bool := bit (s.reg a) lo

/-- Sets a field of a register and leaves its other bits. -/
def State.setFld (s : State) (a lo w x : Nat) : State := s.setReg a (putBits (s.reg a) lo w x)

/-- Adds to a 64-bit counter, modulo 2^64 (R443). -/
def State.count (s : State) (a n : Nat) : State := s.setReg a (s.reg a + BitVec.ofNat 64 n)

/-- Counts one. -/
def State.bump (s : State) (a : Nat) : State := s.count a 1

/-- The reset value of the shadow copy of register `a` where the reset table lists none: a VF view's RING_CFG1 and RING_CFG3
have that of their Reset column (R309, R330). -/
def shReset (a : Nat) : Word :=
  if a < 2 ^ 21 then 0
  else if a % 2 ^ 21 = Reg.RING_CFG1 then Ring.init.cfg1
  else if a % 2 ^ 21 = Reg.RING_CFG3 then Ring.init.cfg3
  else 0

/-- The shadow copy of an RWC register (R6). -/
def State.sh (s : State) (a : Nat) : Word := tget (shReset a) s.shadow a

/-- Sets a shadow copy. -/
def State.setSh (s : State) (a : Nat) (v : Word) : State := { s with shadow := tset (shReset a) s.shadow a v }

/-- A field of a shadow copy. -/
def State.shFld (s : State) (a lo w : Nat) : Nat := bits (s.sh a) lo w

/-! ## Time (R4, R187) -/

/-- Meridian time in whole ns (R187). -/
def State.now (s : State) : Word := s.time.now.extractLsb' 32 64

/-- Meridian time as a number of ns. -/
def State.nowNs (s : State) : Nat := s.now.toNat

/-- The short timestamp of a Meridian time (R189). -/
def shortTs (t : Word) : BitVec 32 := t.extractLsb' 8 32

/-- The age of a packet in units of 256 ns, modulo 2^32 as a signed number (R189). -/
def ageUnits (now : Word) (ts : BitVec 32) : Int := (shortTs now - ts).toInt

/-- The age of a packet in ns. -/
def State.ageNs (s : State) (ts : BitVec 32) : Int := 256 * ageUnits s.now ts

/-- The engine clock in MHz (R425). -/
def State.mhz (s : State) : Nat := 1500 - 100 * s.fld Reg.PWR_STATUS 0 4

/-- Microseconds as ps. -/
def us (n : Nat) : Nat := n * 1000000

/-- Milliseconds as ps. -/
def ms (n : Nat) : Nat := n * 1000000000

/-! ## Profile, map and service counts -/

/-- The active profile (R397). -/
def State.profile (s : State) : Nat := s.fld Reg.GLB_PROFILE 2 2

/-- map_valid (R24). -/
def State.mapValid (s : State) : Bool := s.flag Reg.GLB_MAP_STATUS 0

/-- Profile 3 is active: barriers exist (R182). -/
def State.barriers (s : State) : Bool := s.mapValid && s.profile == 3

/-- The fabric runs in direct mode (R284). -/
def State.direct (s : State) : Bool := s.flag Reg.FAB_CTRL 0

/-- This adapter's ID (R284). -/
def State.me (s : State) : AdapterId := BitVec.ofNat 16 (s.fld Reg.FAB_ID 0 16)

/-- Logical clusters in service. -/
def State.clusters (s : State) : Nat := s.fld Reg.GLB_CAPS 0 4

/-- Logical arrays in service under the map, fenced or not. -/
def State.arrays (s : State) : Nat := s.fld Reg.GLB_CAPS 4 4

/-- Installed memory in bytes (R357). -/
def State.memBytes (s : State) : Nat := s.fld Reg.MEM_STATUS 16 12 * 2 ^ 30

/-- BOOT_STATE.state (R398). -/
def State.bootState (s : State) : Nat := s.fld Reg.BOOT_STATE 0 3

/-- BOOT_STATE reads RUNNING. -/
def State.running (s : State) : Bool := s.bootState == 5

/-- DBG_NW_STATUS.state reads WATCHING: no hang is being handled (R452). -/
def State.watching (s : State) : Bool := s.fld Reg.DBG_NW_STATUS 0 3 == 0

/-- twi_state: 0 ACTIVE, 1 ENTERING, 2 TWILIGHT, 3 EXITING (R440). -/
def State.twiState (s : State) : Nat := s.fld Reg.PWR_TWI_STATUS 0 2

/-- The adapter is in Twilight, or leaves it and no core but Lodestar runs yet (R433). -/
def State.twilight (s : State) : Bool := s.twiState == 2 || s.boot.waking

/-- Start-up has failed for want of units or channels: only port H and the BOOT and GLB blocks work until the next reset
(R386). -/
def State.refusedStart (s : State) : Bool := s.bootState == 6 && s.fld Reg.BOOT_STATE 16 16 == St.resourceLimit.toNat

/-- The core works: neither in a reset, nor in Twilight, nor tripped, nor refused (R379, R386, R428, R430).
(Log 2: DESIGN CHOICE, 83: DESIGN CHOICE.) -/
def State.alive (s : State) : Bool := !s.boot.inReset && !s.twilight && !s.tripped && !s.refusedStart

/-! ## Functions, paths and ownership -/

/-- PCIe state of a function of H, or of attach port q at 256 + q. -/
def State.fn (s : State) (i : Nat) : Fn := tget Fn.init s.fns i

/-- Sets it. -/
def State.setFn (s : State) (i : Nat) (f : Fn) : State := { s with fns := tset Fn.init s.fns i f }

/-- Physical attach port of logical A*q* (R398). -/
def State.attPhys (s : State) (q : Nat) : Nat := s.fld Reg.BOOT_MAP_IO (48 + 2 * q) 2

/-- The link of logical A*q* is up and the port is in service (R391). -/
def State.attUp (s : State) (q : Nat) : Bool :=
  decide (q < s.fld Reg.GLB_CAPS 12 4) && tget 0 s.boot.attWidth (s.attPhys q) != 0

/-- VF *i* exists: VF Enable is set, and NumVFs counts it (R310, R331). (Log 132: PRESUMED.) -/
def State.vfOk (s : State) (i : BitVec 8) : Bool := s.vfEn && i != 0 && decide (i.toNat ≤ s.numVfs)

/-- A VF can master (R331). -/
def State.vfUp (s : State) (i : BitVec 8) : Bool := s.vfOk i && (s.fn i.toNat).master

/-- The function of an owner on H can make accesses: the PF for I0, VF *i* for I*i* (R322, R331, R339). -/
def State.hostUp (s : State) (i : BitVec 8) : Bool := (s.fn i.toNat).master && (i == 0 || s.vfOk i)

/-- ATS and PASID are enabled on the function that an access of I*i* through a port uses (R322). -/
def State.canTranslate (s : State) (port : Port) (i : BitVec 8) : Bool :=
  match port with
  | .h => s.hostUp i && (s.fn i.toNat).ats && (s.fn i.toNat).pasid
  | .a q => s.attUp q.val && (s.fn (256 + q.val)).ats && (s.fn (256 + q.val)).pasid

/-- The master code of a path (R332); VFs are not masters. -/
def pathCode : Path → Nat
  | .host => 1
  | .bmc => 2
  | .att q => 4 + q.val
  | .vf _ => 0

/-- The number of a path's VF; 0 for the masters, which act as the PF. -/
def pathFn : Path → BitVec 8
  | .vf i => i
  | _ => 0

/-- Where the register `a` of a path's view stands: VF views hold their own selection, staging and result registers
(R330). (Log 77: DESIGN CHOICE.) -/
def pathAt (p : Path) (a : Nat) : Nat :=
  match p with
  | .vf i => a + 2 ^ 21 * (1 + i.toNat)
  | _ => a

/-- The recorded owner's code (R340). -/
def State.owner (s : State) : Nat := s.fld Reg.GLB_OWN_STATUS 0 3

/-- The path exists at present. -/
def State.pathUp (s : State) (p : Path) : Bool :=
  match p with
  | .host => !s.twilight
  | .bmc => true
  | .att q => !s.twilight && s.attUp q.val
  | .vf i => !s.twilight && s.vfOk i

/-- Tally counts the data bytes of a request on its path (R436). -/
def State.tlp (s : State) (p : Path) (n : Nat) : State :=
  match p with
  | .host => s.meter 0 .host n
  | .vf i => s.meter i.toNat .host n
  | .att _ => s.meter transit .wr n
  | .bmc => s

/-- A write of a master to register `off` of the map: discarded when the core is in reset or asleep (R379, R432) or the
master is not the owner (R333), and otherwise carried out by `k`. -/
def State.mapWrite (s : State) (p : Path) (off : Nat) (k : State → State) : State :=
  if s.tripped || !s.pathUp p then s
  else
    let s1 := s.tlp p 8
    if s1.twilight && off != Reg.PWR_TWI_CMD then s1
    else if s1.boot.inReset then s1
    else if s1.refusedStart && decide (0x20000 ≤ off) then s1
    else if pathCode p = 0 then s1
    else if pathCode p = s1.owner then k s1
    else s1.bump Reg.GLB_CNT_NOT_OWNER

/-- A write to a register that VF views also hold: a VF's write is not subject to ownership (R330). -/
def State.viewWrite (s : State) (p : Path) (off : Nat) (k : State → State) : State :=
  match p with
  | .vf _ => if s.alive && s.pathUp p then k (s.tlp p 8) else s
  | _ => s.mapWrite p off k

/-! ## Instances (R326) -/

/-- An owner number exists: I0 always. -/
def State.instExists (s : State) (i : BitVec 8) : Bool := i == 0 || (tget none s.insts i.toNat).isSome

/-- The pools of R326. -/
inductive Pool
  | rings | pages | ctxs | wins | memGib | keys | groups | pios | tmem | nbuf
  deriving DecidableEq, Repr

/-- The size of a pool's table (R326). -/
def State.poolSize (s : State) : Pool → Nat
  | .rings => 16384
  | .pages => 256
  | .ctxs => s.fld Reg.XPT_CTX_COUNT 0 21
  | .wins => s.fld Reg.WIN_TBL_COUNT 0 21
  | .memGib => s.fld Reg.MEM_STATUS 16 12
  | .keys => 4096
  | .groups => 4096
  | .pios => 32768
  | .tmem => 192
  | .nbuf => 128

/-- First element and count of a pool in a configuration. -/
def Inst.range (c : Inst) : Pool → Nat × Nat
  | .rings => (bits c.c1 0 14, bits c.c1 14 15)
  | .pages => (bits c.c1 29 8, bits c.c1 37 9)
  | .ctxs => (bits c.c2 0 20, bits c.c2 20 21)
  | .wins => (bits c.c3 0 20, bits c.c3 20 21)
  | .memGib => (bits c.c4 0 12, bits c.c4 12 12)
  | .keys => (bits c.c4 24 12, bits c.c4 36 13)
  | .groups => (bits c.c5 0 12, bits c.c5 12 13)
  | .pios => (bits c.c5 25 15, bits c.c5 40 8)
  | .tmem => (bits c.c6 0 8, bits c.c6 8 8)
  | .nbuf => (bits c.c6 16 7, bits c.c6 23 8)

/-- The range of an owner in a pool: every range of I0 covers the whole table (R326). -/
def State.range (s : State) (i : BitVec 8) (p : Pool) : Nat × Nat :=
  if i = 0 then (0, s.poolSize p)
  else match tget none s.insts i.toNat with
    | some c => c.range p
    | none => (0, 0)

/-- Element `n` lies in the owner's range. -/
def State.inRange (s : State) (i : BitVec 8) (p : Pool) (n : Nat) : Bool :=
  let r := s.range i p
  decide (r.1 ≤ n) && decide (n < r.1 + r.2)

/-- The PASID of an owner (R322); I0 has none configured and uses 0. -/
def State.pasid (s : State) (i : BitVec 8) : BitVec 20 :=
  match tget none s.insts i.toNat with
  | some c => BitVec.ofNat 20 (bits c.c0 0 20)
  | none => 0

/-- The I1–I255 whose range of a pool holds element `n`, otherwise I0 (R317, R407). -/
def State.holder (s : State) (p : Pool) (n : Nat) : BitVec 8 :=
  match s.insts.find? (fun e => match e.2 with
      | some c => decide ((c.range p).1 ≤ n) && decide (n < (c.range p).1 + (c.range p).2)
      | none => false) with
  | some e => BitVec.ofNat 8 e.1
  | none => 0

/-! ## Translations (R322, R323) -/

/-- The key of the page that holds an address of an instance (R322). -/
def State.xkey (s : State) (i : BitVec 8) (p : Port) (page : Word) : XKey :=
  ⟨p, match p with | .h => i | .a _ => 0, s.pasid i, page⟩

/-- A cache entry covers a key's page. -/
def Atc.covers (e : Atc) (k : XKey) : Bool :=
  e.key.port == k.port && e.key.fn == k.fn && e.key.pasid == k.pasid
    && e.key.page.toNat * 4096 / 2 ^ e.log2 == k.page.toNat * 4096 / 2 ^ e.log2

/-- What a lookup finds. -/
inductive XRes
  | hit | miss | fault
  deriving DecidableEq, Repr

/-- Looks a page up: an entry without the permission the access needs is a translation fault (R323). -/
def State.lookup (s : State) (k : XKey) (write : Bool) : XRes :=
  match s.atc.find? (·.covers k) with
  | none => .miss
  | some e => if (if write then e.wr else e.rd) then .hit else .fault

/-- Makes the entry that covers a page the most recently used. -/
def State.touch (s : State) (k : XKey) : State :=
  match s.atc.find? (·.covers k) with
  | none => s
  | some e => { s with atc := s.atc.erase e ++ [e] }

/-- The pages that one byte run touches, in order. -/
def pagesOfRun (r : Word × Nat) : List Word :=
  if r.2 = 0 then []
  else (List.range ((r.1.toNat % 4096 + r.2 - 1) / 4096 + 1)).map (fun i => (r.1 >>> (12 : Nat)) + BitVec.ofNat 64 i)

/-- The address to which an access of I*i* through a port goes, under the translation that the cache holds (R322); the
untranslated one where it holds none. -/
def State.phys (s : State) (p : Port) (i : BitVec 8) (va : Word) : Word :=
  match s.atc.find? (·.covers (s.xkey i p (va >>> (12 : Nat)))) with
  | some e => BitVec.ofNat 64 (e.phys.toNat / 2 ^ e.log2 * 2 ^ e.log2 + va.toNat % 2 ^ e.log2)
  | none => va

/-- A byte run cut at the boundaries of 4 KiB pages. -/
def splitPages : Nat → Word → Nat → List (Word × Nat)
  | 0, _, _ => []
  | k + 1, va, n =>
    let m := min n (4096 - va.toNat % 4096)
    (va, m) :: (if n ≤ m then [] else splitPages k (va + BitVec.ofNat 64 m) (n - m))

/-- What an access to memory outside the adapter looks like on its port: one request in each page, with its translated
address. (Log 3: DESIGN CHOICE.) -/
def State.onWire (s : State) : Emission → List Emission
  | .memRead p i va n => (splitPages (n / 4096 + 2) va n).map (fun r => .memRead p i (s.phys p i r.1) r.2)
  | .memWrite p i va bs =>
    ((splitPages (bs.length / 4096 + 2) va bs.length).foldl (fun (acc : List Emission × List Byte) r =>
      (acc.1 ++ [.memWrite p i (s.phys p i r.1) (acc.2.take r.2)], acc.2.drop r.2)) ([], bs)).1
  | e => [e]

/-- Appends to the log of what left the adapter; Tally counts the bytes.
(Log 3: DESIGN CHOICE, 110: DESIGN CHOICE.) -/
def State.emit (s : State) (e : Emission) : State :=
  { s with out := s.out ++ s.onWire e
           tally := match meterOf e with
             | some (b, m, n) => s.tally.count b m n
             | none => s.tally }

/-- Appends several. (Log 3: DESIGN CHOICE.) -/
def State.emits (s : State) (es : List Emission) : State := es.foldl State.emit s

/-- Requests a translation, unless the request is outstanding. -/
def State.askAts (s : State) (k : XKey) : State :=
  if s.xlating.contains k then s else { s with xlating := s.xlating ++ [k] }.emit (.ats k)

/-- A counted lookup: a hit refreshes the entry, a miss requests the translation (R323). -/
def State.lookupCount (s : State) (k : XKey) (write : Bool) : XRes × State :=
  match s.lookup k write with
  | .miss => (.miss, (s.bump (Reg.XLT_CNT 1)).askAts k)
  | r => (r, (s.bump (Reg.XLT_CNT 0)).touch k)

/-- An access that an engine of the adapter makes for I*i*, on a ring or a queue: it is counted as a lookup of each page, and
possible unless the function makes no accesses or a page lacks the permission. A page that the cache does not hold is
requested, and the access goes out with the answer. (Log 122: DESIGN CHOICE.) -/
def State.engineReach (s : State) (p : Port) (i : BitVec 8) (va : Word) (n : Nat) (write : Bool) : Bool × State :=
  if !s.canTranslate p i then (false, s)
  else (pagesOfRun (va, n)).foldl (fun (acc : Bool × State) pg =>
    let r := acc.2.lookupCount (acc.2.xkey i p pg) write
    (acc.1 && r.1 != .fault, r.2)) (true, s)

/-! ## Interrupts (R301, R331, R339) -/

/-- The MSI-X vectors of a function (R310). -/
def msixCount (fn : BitVec 8) : Nat := if fn = 0 then 2048 else 64

/-- An entry of a function's MSI-X table. -/
def State.vec (s : State) (fn : BitVec 8) (v : Nat) : MsixVec := tget MsixVec.init s.msixTab (2048 * fn.toNat + v)

/-- A function can raise a vector: it can master, MSI-X is enabled and the vector exists. -/
def State.msixMay (s : State) (fn : BitVec 8) (v : Nat) : Bool :=
  s.hostUp fn && (s.fn fn.toNat).msixOn && decide (v < msixCount fn)

/-- The vector is masked, by itself or with its function. -/
def State.msixHeld (s : State) (fn : BitVec 8) (v : Nat) : Bool := (s.fn fn.toNat).msixMask || (s.vec fn v).masked

/-- Raises an MSI-X vector of a function: its message is written, or while it is masked its pending bit is set (R312).
(Log 72: PRESUMED, 110: DESIGN CHOICE.) -/
def State.msix (s : State) (fn : BitVec 8) (v : Nat) : State :=
  if !s.msixMay fn v then s
  else if s.msixHeld fn v then { s with msixPend := tset false s.msixPend (2048 * fn.toNat + v) true }
  else s.emit (.msix fn v (s.vec fn v).addr (s.vec fn v).data)

/-- Writes the message of a pending vector that is not masked any more. (Log 72: PRESUMED.) -/
def State.msixFlush (s : State) (fn : BitVec 8) (v : Nat) : State :=
  if tget false s.msixPend (2048 * fn.toNat + v) && s.msixMay fn v && !s.msixHeld fn v then
    ({ s with msixPend := tset false s.msixPend (2048 * fn.toNat + v) false } : State).msix fn v
  else s

/-- Writes the messages of every pending vector of a function that is not masked any more. -/
def State.msixFlushAll (s : State) (fn : BitVec 8) : State :=
  (s.msixPend.filter (fun e => e.1 / 2048 == fn.toNat)).foldl (fun s e => s.msixFlush fn (e.1 % 2048)) s

/-! ## Fault queues (R304–R307) -/

/-- A fault queue's pending part. -/
def State.fq (s : State) (q : Nat) : FaultQ := tget FaultQ.init s.fqs q

/-- Sets it. -/
def State.setFq (s : State) (q : Nat) (f : FaultQ) : State := { s with fqs := tset FaultQ.init s.fqs q f }

/-- A record that names no slot, ring or mark. -/
def faultRec (now : Word) (st : Status) (cls : Nat) (inst : BitVec 8) : FaultRec :=
  { status := st, cls := cls, ovf := false, inst := inst, slot := none, index := 0, tag := 0, ring := none,
    layer := 0, oper := 0, at_ := now, w4 := 0, w5 := 0, w6 := 0, filters := 0 }

/-- The words of a record as written (R305). -/
def faultWords (r : FaultRec) (phase : Bool) : List Word :=
  let w0 := r.status.toNat + (r.cls % 8) * 2 ^ 16 + b2n r.ovf * 2 ^ 19 + r.inst.toNat * 2 ^ 20
    + (match r.slot with | some n => n % 32 * 2 ^ 28 + 2 ^ 33 | none => 0) + r.index % 2 ^ 15 * 2 ^ 34
    + b2n phase * 2 ^ 63
  let w1 := r.tag.toNat + (match r.ring with | some n => n % 2 ^ 14 * 2 ^ 32 + 2 ^ 46 | none => 0)
  [BitVec.ofNat 64 w0, BitVec.ofNat 64 w1, BitVec.ofNat 64 (r.layer.toNat + r.oper.toNat * 2 ^ 32), r.at_,
   r.w4, r.w5, r.w6, 0]

/-- The function whose memory holds a queue: VF *q*, and the PF for queue 256 (R304). -/
def fqFn (q : Nat) : BitVec 8 := if q = 256 then 0 else BitVec.ofNat 8 q

/-- Raises the interrupt of a fault queue under its holdoff (R301). -/
def State.fqIrq (s : State) (q : Nat) : State :=
  let c := s.reg (Reg.RING_FQ_CTRL q)
  if !bit c 12 then s
  else
    let hold := us (bits c 13 16)
    let f := s.fq q
    let due := match f.irqAt with
      | none => true
      | some t => decide (t + hold ≤ s.ps)
    if due then (s.setFq q { f with irqAt := some s.ps, irqHeld := false }).msix (fqFn q) (bits c 1 11)
    else s.setFq q { f with irqHeld := true }

/-- Where a queue writes its next record (R304). -/
def State.fqVa (s : State) (q : Nat) : Word :=
  s.reg (Reg.RING_FQ_BASE q) + BitVec.ofNat 64 (64 * (s.fld (Reg.RING_FQ_PROD q) 0 32 % 4096))

/-- Writes one record at PROD and raises the queue's interrupt (R304). -/
def State.fqPut (s : State) (q : Nat) (r : FaultRec) : State :=
  let prod := s.fld (Reg.RING_FQ_PROD q) 0 32
  let ws := faultWords r (decide (prod / 4096 % 2 = 0))
  let s1 := s.emit (.memWrite .h (fqFn q) (s.fqVa q) (ws.flatMap (fun w => leBytes w.toNat 8)))
  let s2 := s1.setFld (Reg.RING_FQ_PROD q) 0 32 (prod + 1)
  (s2.bump (Reg.RING_CNT 6)).fqIrq q

/-- Counts a fault that is not recorded (R307). -/
def State.fqLose (s : State) (q cls : Nat) : State :=
  let reg := if cls < 4 then Reg.RING_FQ_OVF0 q else Reg.RING_FQ_OVF1 q
  let lo := 16 * (cls % 4)
  let v := s.fld reg lo 16
  let s1 := s.setFld reg lo 16 (if v = 0xFFFF then v else v + 1)
  let f := s1.fq q
  (s1.setFq q { f with pend := f.pend.modify cls (· + 1) }).bump (Reg.RING_CNT 7)

/-- The queue is full (R304). -/
def State.fqFull (s : State) (q : Nat) : Bool :=
  BitVec.ofNat 32 (s.fld (Reg.RING_FQ_PROD q) 0 32) - BitVec.ofNat 32 (s.fld (Reg.RING_FQ_CONS q) 0 32) == 4096#32

/-- The pending overflow record, each count saturated at 0xFFFF (R307). -/
def overflowRec (now : Word) (q : Nat) (pend : List Nat) : FaultRec :=
  let c := fun k => min (pend.getD k 0) 0xFFFF
  { faultRec now 0 0 (fqFn q) with
    ovf := true
    w4 := BitVec.ofNat 64 (c 0 + c 1 * 2 ^ 16 + c 2 * 2 ^ 32 + c 3 * 2 ^ 48)
    w5 := BitVec.ofNat 64 (c 4 + c 5 * 2 ^ 16 + c 6 * 2 ^ 32 + c 7 * 2 ^ 48) }

/-- The record that a queue writes next can be written: whether so, and the state after the lookup (R322). -/
def State.fqReach (s : State) (q : Nat) : Bool × State := s.engineReach .h (fqFn q) (s.fqVa q) 64 true

/-- Writes the overflow record of a queue that has pending counts and room (R307). -/
def State.fqFlush (s : State) (q : Nat) : State :=
  let f := s.fq q
  if s.flag (Reg.RING_FQ_CTRL q) 0 && !s.fqFull q && f.pend.any (· != 0) then
    let a := s.fqReach q
    if a.1 then
      let t := a.2.fqPut q (overflowRec s.now q f.pend)
      t.setFq q { t.fq q with pend := FaultQ.init.pend }
    else a.2.setFld (Reg.RING_FQ_CTRL q) 0 1 0
  else s

/-- A fault for queue `q`: recorded, or counted when the queue is full or disabled (R307) or its memory cannot be
written, which also disables it (R339). -/
def State.fault (s : State) (q : Nat) (r : FaultRec) : State :=
  if !s.flag (Reg.RING_FQ_CTRL q) 0 || s.fqFull q || (s.fq q).pend.any (· != 0) then s.fqLose q r.cls
  else
    let a := s.fqReach q
    if a.1 then a.2.fqPut q r else (a.2.setFld (Reg.RING_FQ_CTRL q) 0 1 0).fqLose q r.cls

/-! ## Slots -/

/-- A slot by number. -/
def State.slot (s : State) (i : Nat) : Slot := tget Slot.init s.slots i

/-- Sets a slot. -/
def State.setSlot (s : State) (i : Nat) (x : Slot) : State := { s with slots := tset Slot.init s.slots i x }

/-- Changes a slot. -/
def State.updSlot (s : State) (i : Nat) (f : Slot → Slot) : State := s.setSlot i (f (s.slot i))

/-- Every slot number. -/
def allSlots : List Nat := List.range 32

/-- Outstanding operations of a slot (R30). -/
def State.slotOps (s : State) (i : Nat) : Nat := (s.ops.filter (fun o => o.sl = i)).length

/-- Outstanding operations of a cluster (R41). -/
def State.cluOps (s : State) (c : Nat) : Nat := (s.ops.filter (fun o => o.sl / 4 = c)).length

/-- An operation by handle. -/
def State.op? (s : State) (id : Nat) : Option Op := s.ops.find? (fun o => o.id = id)

/-- Changes an operation. -/
def State.updOp (s : State) (id : Nat) (f : Op → Op) : State :=
  { s with ops := s.ops.map (fun o => if o.id = id then f o else o) }

/-- The slot's progress that Nightwatch watches (R452). -/
def State.progressed (s : State) (sl : Nat) : State := s.updSlot sl (fun x => { x with progress := s.ps })

/-! ## Comet staging (R449, R450) -/

/-- The staging holds 256 KiB of 32-byte records. -/
def cometRoom : Nat := 8192

/-- Stages a record, or counts it as lost when the staging is full. -/
def State.stage (s : State) (t : Trace) : State :=
  if s.comet.staged.length < cometRoom then { s with comet := { s.comet with staged := s.comet.staged ++ [t] } }
  else { s with comet := { s.comet with lost := s.comet.lost + 1 } }.bump Reg.DBG_COMET_LOST

/-- Comet records program slots: enabled, with operation tracing on (R449). -/
def State.tracing (s : State) : Bool := s.flag Reg.DBG_CTRL 0 && s.flag Reg.DBG_CTRL 2

/-- An operation event (R451 kind 4). -/
def State.traceOp (s : State) (o : Op) (event : Nat) (st : Status) (w3 : Nat) : State :=
  if s.tracing then
    s.stage { src := 15,
              w0 := BitVec.ofNat 64 (4 + 15 * 16 + o.sl % 32 * 2 ^ 8 + event * 2 ^ 13 + st.toNat * 2 ^ 16
                + o.tag.toNat * 2 ^ 32),
              w1 := s.now, w2 := BitVec.ofNat 64 (o.layer.toNat + o.oper.toNat * 2 ^ 32), w3 := BitVec.ofNat 64 w3 }
  else s

/-- Counts an event of an operation in every mark filter that it matched at issue (R445). -/
def State.tagCount (s : State) (filters : BitVec 8) (k n : Nat) : State :=
  (List.range 8).foldl (fun s t => if filters.getLsbD t then s.count (Reg.DBG_TAG_CNT t k) n else s) s

/-- Writes a fault record to its instance's queue, counted in its mark filters (R445). -/
def State.record (s : State) (r : FaultRec) : State := (s.fault r.inst.toNat r).tagCount r.filters 2 1

/-- A fault of a slot's program: the first sets the program status, and the record is kept until the program completes
(R63). (Log 12: DESIGN CHOICE.) -/
def State.slotFault (s : State) (sl : Nat) (r : FaultRec) : State :=
  s.updSlot sl (fun x => { x with status := if x.status = 0 then r.status else x.status, info := x.info ++ [r] })

/-- The buffer of a RECV is bound to a message (R256). -/
def State.isBound (s : State) (op : Nat) : Bool := s.posted.any (fun b => b.op == op && b.bound.isSome)

/-- An operation of a stopped slot ends at once with ABORTED: one held on a page request (R65), and a RECV whose buffer
is not bound (R258). -/
def State.endsOnStop (s : State) (sl : Nat) (o : Op) : Bool :=
  o.sl == sl && (o.held || (o.kind == .recv && !o.done && !s.isBound o.id))

/-- The operation with a failure status, if it has none yet. -/
def Op.failed (o : Op) (st : Status) : Op := { o with status := if o.status = 0 then st else o.status }

/-- What becomes of a held semaphore operation when a slot stops: the comparison of its WAIT ends, and an operation that has
reached the page is still applied, without the slot (R185). -/
def HeldSem.unslot (h : HeldSem) (sl : Nat) (inst : BitVec 8) : Option HeldSem :=
  if h.src ≠ .slot sl then some h else if h.act = .wait then none else some { h with src := .comp inst }

/-- Stops a slot: it issues nothing more, its pending wait ends, the entries of its issue queue are discarded, operations
held on a page request are cancelled and unbound RECVs withdrawn (R62, R63, R65, R258). (Log 19: DEDUCED.) -/
def State.stopSlot (s : State) (sl : Nat) : State :=
  let s1 := s.updSlot sl (fun x =>
    { x with phase := .draining, stopped := true, wait := none, halted := false, ahead := [], stalled := false })
  { s1 with
    ops := s.ops.map (fun o => if s.endsOnStop sl o then
      { o.failed St.aborted with held := false, done := o.done || o.kind == .recv } else o)
    posted := s.posted.filter (fun b => b.bound.isSome || !s.ops.any (fun o => o.id == b.op && o.sl == sl))
    semHeld := s.semHeld.filterMap (fun h => h.unslot sl (s.slot sl).inst) }

/-- The class of a status (R306); ACCESS_DENIED here is one raised at completion. -/
def classOf (st : Status) : Nat :=
  if st = St.illegalInstruction ∨ st = St.badTensor then 0
  else if st = St.partialFault ∨ st = St.translationFault then 1
  else if st = St.windowClosed ∨ st = St.noBuffer ∨ st = St.timeout ∨ st = St.unreachable ∨ st = St.accessDenied then 2
  else if st = St.uncorrectable then 4
  else if st = St.checkFail then 5
  else if st = St.badDescriptor ∨ st = St.badImage then 6
  else 7

/-- A fault record of a slot at its program counter. -/
def State.slotRec (s : State) (sl : Nat) (st : Status) (cls : Nat) (tag : BitVec 24) : FaultRec :=
  let x := s.slot sl
  { faultRec s.now st cls x.inst with
      slot := some sl, index := x.pc, tag := tag, ring := some x.ring.toNat, layer := x.layer, oper := x.oper }

/-- A fault record of an operation, under the marks it issued with (R66). -/
def State.opRec (s : State) (o : Op) (st : Status) (cls : Nat) : FaultRec :=
  { faultRec s.now st cls o.inst with
      slot := some o.sl, index := o.pc, tag := o.tag, ring := some (s.slot o.sl).ring.toNat,
      layer := o.layer, oper := o.oper, filters := o.filters }

/-- A fault taken at issue: precise; the program counter stays at the instruction and the slot stops (R61, R62). -/
def State.issueFault (s : State) (sl : Nat) (st : Status) (tag : BitVec 24) : State :=
  let cls := if st = St.accessDenied then 0 else classOf st
  (s.slotFault sl (s.slotRec sl st cls tag)).stopSlot sl

/-- Retires the instruction at the slot's program counter, which gives back its entry of the issue queue (R38), and
continues at `pc` (R444). -/
def State.retireTo (s : State) (sl pc : Nat) : State :=
  ((s.updSlot sl (fun x => { x with pc := pc, wait := none, ahead := x.ahead.tail })).progressed sl).bump (Reg.DBG_CNT (sl / 4) 1)

/-- Retires and continues at the next instruction. -/
def State.retire (s : State) (sl : Nat) : State := s.retireTo sl ((s.slot sl).pc + 1)

end Sys2Proof.Machine
end

