-- ==== Sys2Proof/Machine/Mem.lean ====
section
/-!
DEFINITION. Adapter memory under the word code (R358–R372), and the on-chip tensor memories and operand buffers.
-/

namespace Sys2Proof.Machine

/-! ## The canonical form -/

/-- A byte memory is in its canonical form: strictly rising addresses, and no byte equal to what an unlisted address reads
as. (Log 6: DESIGN CHOICE.) -/
def Memory.wf (m : Tab Byte) : Bool := twf 0 m

/-! ## Code words -/

/-- The data bytes last encoded in code word `w`. (Log 6: DESIGN CHOICE.) -/
def State.wordBytes (s : State) (w : Nat) : List Byte := (List.range 32).map (fun i => tget 0 s.mem (32 * w + i))

/-- The 256 data bits of a list of 32 bytes. -/
def dataBits (bs : List Byte) : BitVec 256 := BitVec.ofNat 256 (ofLe bs)

/-- The bytes of 256 data bits. -/
def dataBytes (d : BitVec 256) : List Byte := leBytes d.toNat 32

/-- The check symbols of poison: those of the data XOR 0xA5 (R366). -/
def poisonCheck (d : BitVec 256) : BitVec 64 := Config.rsCheck d ^^^ 0xA5A5A5A5A5A5A5A5#64

/-- In how many symbols two code words differ. -/
def symDistance (d1 : BitVec 256) (c1 : BitVec 64) (d2 : BitVec 256) (c2 : BitVec 64) : Nat :=
  (((leBytes d1.toNat 32 ++ leBytes c1.toNat 8).zip (leBytes d2.toNat 32 ++ leBytes c2.toNat 8)).filter
    (fun p => p.1 ≠ p.2)).length

/-- What decoding a word gives (R359, R366): the data and how many symbols were corrected; poison; an error detected
and not corrected, with the data as read. -/
inductive Decoded
  | good (bytes : List Byte) (fixed : Nat)
  | poison
  | bad (d : BitVec 256)
  deriving DecidableEq, Repr

/-- The data below `n` whose code word, or whose poison, differs from the stored bits in at most `k` symbols: `check` gives
the check symbols of data. -/
def nearest (check : BitVec 256 → BitVec 64) (k : Nat) (r : RawWord) : Nat → Option (BitVec 256)
  | 0 => none
  | n + 1 =>
    let d := BitVec.ofNat 256 n
    if symDistance r.data r.check d (check d) ≤ k then some d else nearest check k r n

/-- What the decoder makes of stored bits that are no code word and not near one that it tries first: the code word within
the limit, if there is one (R359); poison with further errors, which reads as uncorrectable (R366); four or five errors,
which corr_limit 1 detects; and any other pattern, which the code detects or miscorrects. (Log 80: DESIGN CHOICE.) -/
def decodeFar (limit : Bool) (r : RawWord) : Decoded :=
  match nearest Config.rsCheck (if limit then 3 else 4) r (2 ^ 256) with
  | some d => .good (dataBytes d) (symDistance r.data r.check d (Config.rsCheck d))
  | none =>
    if (nearest poisonCheck 4 r (2 ^ 256)).isSome then .bad r.data
    else if limit ∧ (nearest Config.rsCheck 5 r (2 ^ 256)).isSome then .bad r.data
    else match Config.rsDecode limit r.data r.check with
      | some d => .good (dataBytes d.1) (1 + d.2 % (if limit then 3 else 4))
      | none => .bad r.data

/-- The decoder on stored bits whose word last held the data `orig`. A pattern within the limit of the code word of
`orig`, or of the stored data, is corrected to it; four errors against three corrected, or five, are detected when
corr_limit is 1; poison of `orig` with further errors reads as uncorrectable; any other pattern is that of `decodeFar`. That
code words differ in nine symbols makes the order of these cases immaterial but for poison. (Log 80: DESIGN CHOICE.) -/
def decodeRaw (limit : Bool) (orig : BitVec 256) (r : RawWord) : Decoded :=
  let most := if limit then 3 else 4
  let n0 := symDistance r.data r.check orig (Config.rsCheck orig)
  let n1 := symDistance r.data r.check r.data (Config.rsCheck r.data)
  if n1 = 0 then .good (dataBytes r.data) 0
  else if r.check = poisonCheck r.data then .poison
  else if n0 ≤ most then .good (dataBytes orig) n0
  else if n1 ≤ most then .good (dataBytes r.data) n1
  else if limit ∧ (n0 ≤ 5 ∨ n1 ≤ 5) then .bad r.data
  else if symDistance r.data r.check orig (poisonCheck orig) ≤ 4 then .bad r.data
  else decodeFar limit r

/-- Decodes code word `w`. (Log 80: DESIGN CHOICE.) -/
def State.decodeWord (s : State) (w : Nat) : Decoded :=
  match tget none s.raw w with
  | none => .good (s.wordBytes w) 0
  | some r => decodeRaw (s.flag Reg.MEM_CTRL 3) (dataBits (s.wordBytes w)) r

/-- Writes data bytes at `a` without touching the stored check bits. -/
def State.putBytes (s : State) (a : Nat) (bs : List Byte) : State :=
  { s with mem := (bs.zipIdx).foldl (fun m p => tset 0 m (a + p.2) p.1) s.mem }

/-- Writes a whole code word, encoded. -/
def State.putWord (s : State) (w : Nat) (bs : List Byte) : State :=
  { s.putBytes (32 * w) bs with raw := tset none s.raw w none }

/-- The logical channel of an adapter-memory offset (R358). -/
def State.channelOf (s : State) (o : Nat) : Nat := (o / 256) % max 1 (s.fld Reg.MEM_STATUS 1 4)

/-- Records an uncorrectable DRAM read in the log, if it is free (R365). -/
def State.logUncorr (s : State) (w : Nat) (inst : BitVec 8) (scrub : Bool) : State :=
  if s.flag Reg.MEM_ERR_LOG0 0 then s
  else
    let o := 32 * w
    let v := 1 + b2n scrub * 2 + s.channelOf o % 16 * 4 + o / 64 % 2 * 64 + inst.toNat * 256
    (s.setReg Reg.MEM_ERR_LOG0 (BitVec.ofNat 64 v)).setReg Reg.MEM_ERR_LOG1 (BitVec.ofNat 64 o)

/-- Counts a corrected DRAM word (R364). -/
def State.countCorr (s : State) (w : Nat) : State :=
  (s.bump (Reg.MEM_CNT 0)).bump (Reg.MEM_CNT_CORR_M (s.channelOf (32 * w)))

/-- Stores a word as poison (R366). -/
def State.poisonWord (s : State) (w : Nat) (d : BitVec 256) : State :=
  { s.putBytes (32 * w) (dataBytes d) with raw := tset none s.raw w (some ⟨d, poisonCheck d⟩) }

/-- Reads one code word (R364–R366): its bytes, whether the read ends with a bus error, and the state after counting,
logging and writing back; `wb` says whether an uncorrectable word may be written back as poison. -/
def State.readWord (s : State) (w : Nat) (inst : BitVec 8) (wb : Bool) : List Byte × Bool × State :=
  match s.decodeWord w with
  | .good bs 0 => (bs, false, s)
  | .good bs _ =>
    let s1 := s.countCorr w
    (bs, false, if s.flag Reg.MEM_CTRL 1 then s1.putWord w bs else s1)
  | .poison => (s.wordBytes w, true, (s.bump (Reg.MEM_CNT 1)).bump (Reg.MEM_CNT 2))
  | .bad d =>
    let s1 := (s.bump (Reg.MEM_CNT 1)).logUncorr w inst false
    (dataBytes d, true, if wb && s.flag Reg.MEM_CTRL 2 then s1.poisonWord w d else s1)

/-- Reads `len` bytes of adapter memory at `off`, word by word. -/
def State.readMem (s : State) (inst : BitVec 8) (off len : Nat) : List Byte × Bool × State :=
  if len = 0 then ([], false, s)
  else
    let w0 := off / 32
    let n := (off + len - 1) / 32 + 1 - w0
    let r := (List.range n).foldl (fun (acc : List Byte × Bool × State) k =>
      let x := acc.2.2.readWord (w0 + k) inst true
      (acc.1 ++ x.1, acc.2.1 || x.2.1, x.2.2)) ([], false, s)
    ((r.1.drop (off - 32 * w0)).take len, r.2.1, r.2.2)

/-- Writes to one code word the bytes that `f` gives for its positions: directly when it gives all 32, otherwise as a
read-modify-write, whose write is discarded when the word is uncorrectable or poisoned (R362, R367). The flag says that
it failed. -/
def State.writeWord (s : State) (w : Nat) (inst : BitVec 8) (f : Nat → Option Byte) : Bool × State :=
  if (List.range 32).all (fun i => (f i).isSome) then
    (false, s.putWord w ((List.range 32).map (fun i => (f i).getD 0)))
  else
    let r := (s.bump (Reg.MEM_CNT 6)).readWord w inst false
    if r.2.1 then (true, r.2.2.bump (Reg.MEM_CNT 7))
    else (false, r.2.2.putWord w ((r.1.zipIdx).map (fun p => (f p.2).getD p.1)))

/-- Writes bytes with byte enables to adapter memory; the flag says that some word's write failed (R367). -/
def State.writeMemBe (s : State) (inst : BitVec 8) (off : Nat) (bs : List (Option Byte)) : Bool × State :=
  if bs.isEmpty then (false, s)
  else
    let w0 := off / 32
    let n := (off + bs.length - 1) / 32 + 1 - w0
    let lead := off - 32 * w0
    (List.range n).foldl (fun (acc : Bool × State) k =>
      let f := fun i => if 32 * k + i < lead then none else (bs[32 * k + i - lead]?).join
      if (List.range 32).all (fun i => (f i).isNone) then acc
      else
        let x := acc.2.writeWord (w0 + k) inst f
        (acc.1 || x.1, x.2)) (false, s)

/-- Writes bytes to adapter memory. -/
def State.writeMem (s : State) (inst : BitVec 8) (off : Nat) (bs : List Byte) : Bool × State :=
  s.writeMemBe inst off (bs.map some)

/-! ## Reserved regions (R370, R371) -/

/-- First byte and length of region `r`, in force. -/
def State.rgn (s : State) (r : Nat) : Nat × Nat :=
  (s.fld (Reg.MEM_RGN r) 0 12 * 2 ^ 30, s.fld (Reg.MEM_RGN r) 12 12 * 2 ^ 30)

/-- Region `r` is valid. -/
def State.rgnValid (s : State) (r : Nat) : Bool := s.flag (Reg.MEM_RGN r) 27

/-- Two ranges of `n` bytes from `a` and `m` from `b` share a byte; an empty range shares none. -/
def overlaps (a n b m : Nat) : Bool := n != 0 && m != 0 && decide (a < b + m) && decide (b < a + n)

/-- A byte range touches a protected region (R371). -/
def State.prot (s : State) (off len : Nat) : Bool :=
  (List.range 4).any (fun r => s.rgnValid r && s.flag (Reg.MEM_RGN r) 26
    && overlaps off len (s.rgn r).1 (s.rgn r).2)

/-- The valid region of kind 2, the trace region (R448): first byte and length. -/
def State.traceRgn (s : State) : Option (Nat × Nat) :=
  ((List.range 4).find? (fun r => s.rgnValid r && s.fld (Reg.MEM_RGN r) 24 2 == 2)).map s.rgn

/-- The region of kind 0, the firmware region. -/
def State.fwRgn (s : State) : Option (Nat × Nat) :=
  ((List.range 4).find? (fun r => s.rgnValid r && s.fld (Reg.MEM_RGN r) 24 2 == 0)).map s.rgn

/-! ## Writes that meet the line filters (R315, R316) -/

/-- The recorded lines of attach ports that a write to adapter memory touches, leaving out the port it arrives over. -/
def State.linesOf (s : State) (a n : Nat) (skip : Option Nat) : List (Nat × Nat) :=
  s.filter.filter (fun e => overlaps a n (64 * e.2) 64 && skip != some e.1)

/-- Some enabled byte of a write lies in a line of 64 bytes. -/
def enabledIn (a : Nat) (bs : List (Option Byte)) (line : Nat) : Bool :=
  (bs.zipIdx).any (fun p => p.1.isSome && (a + p.2) / 64 == line)

/-- The recorded lines that a write with byte enables touches. -/
def State.linesBe (s : State) (a : Nat) (bs : List (Option Byte)) (skip : Option Nat) : List (Nat × Nat) :=
  (s.linesOf a bs.length skip).filter (fun e => enabledIn a bs e.2)

/-- Issues back-invalidations (R315). -/
def State.askLines (s : State) (ls : List (Nat × Nat)) : State :=
  (s.count (Reg.XLT_CNT 7) ls.length).emits (ls.map (fun e => .biSnp e.1 e.2))

/-- A write with byte enables to adapter memory: committed at once, or once the packages have answered the
back-invalidations of the lines it touches (R315, R316). Gives whether a word failed and whether the write waits. -/
def State.storeMemBe (s : State) (inst : BitVec 8) (k : WriteKind) (a : Nat) (bs : List (Option Byte)) (skip : Option Nat) :
    Bool × Bool × State :=
  let ls := s.linesBe a bs skip
  if ls.isEmpty then
    let r := s.writeMemBe inst a bs
    (r.1, false, r.2)
  else
    let s1 : State := { s with
                       fresh := s.fresh + 1
                       writes := s.writes ++ [⟨s.fresh, k, inst, none, ls, a, bs, bs.length⟩] }
    (false, true, s1.askLines ls)

/-- A write of whole bytes. -/
def State.storeMem (s : State) (inst : BitVec 8) (k : WriteKind) (a : Nat) (bs : List Byte) (skip : Option Nat) :
    Bool × Bool × State := s.storeMemBe inst k a (bs.map some) skip

/-- A write of the adapter's own to its memory. -/
def State.ownStore (s : State) (a : Nat) (bs : List Byte) : State := (s.storeMem 0 .store a bs none).2.2

/-- A write of the adapter's own to these bytes has not committed. -/
def State.storing (s : State) (a n : Nat) : Bool := s.writes.any (fun w => w.kind == .store && overlaps a n w.addr w.len)

/-- Bytes whose content the spec leaves open. (Log 4: DESIGN CHOICE.) -/
def State.openBytes (s : State) (n : Nat) : List Byte × State :=
  ((List.range n).map (fun i => (Config.freeWord (s.free + i)).setWidth 8), { s with free := s.free + n })

/-! ## On-chip stores (R25, R48) -/

/-- Bytes of a cluster's tensor memory. -/
def tmemSize : Nat := 12 * 2 ^ 20

/-- Bytes of an array's operand buffer. -/
def nbufSize : Nat := 8 * 2 ^ 20

/-- The code words that a write covers in part, each of which is written by a read-modify-write (R362). -/
def partWords (a : Nat) (bs : List (Option Byte)) : Nat :=
  if bs.isEmpty then 0
  else ((List.range ((a + bs.length - 1) / 32 + 1 - a / 32)).filter (fun k =>
    let f := fun i => if 32 * (a / 32 + k) + i < a then none else (bs[32 * (a / 32 + k) + i - a]?).join
    (List.range 32).any (fun i => (f i).isSome) && (List.range 32).any (fun i => (f i).isNone))).length

/-- Counts the read-modify-writes of a write to an on-chip store (R362). (Log 133: DEDUCED.) -/
def State.sramRmw (s : State) (a : Nat) (bs : List (Option Byte)) : State := s.count (Reg.MEM_CNT 6) (partWords a bs)

/-- Reads a byte table. (Log 6: DESIGN CHOICE.) -/
def readTab (t : Tab Byte) (a n : Nat) : List Byte := (List.range n).map (fun i => tget 0 t (a + i))

/-- Writes a byte table. -/
def writeTab (t : Tab Byte) (a : Nat) (bs : List Byte) : Tab Byte :=
  (bs.zipIdx).foldl (fun m p => tset 0 m (a + p.2) p.1) t

end Sys2Proof.Machine
end

