-- ==== Sys2Proof/Machine/Route.lean ====
section
/-!
DEFINITION. Planes and routes: roles and effective weights (R227, R262), routes (R266, R267, R269, R275), the choice of a
plane (R226), multicast membership (R280, R281), addresses and headers (R204, R205, R263, R264), and the egress queues of the ports (R344,
R346).
-/

namespace Sys2Proof.Machine

/-! ## Adapter IDs (R9) -/

/-- Grid of an adapter. -/
def gridOf (a : AdapterId) : Nat := a.toNat / 4096

/-- Row of an adapter. -/
def rowOf (a : AdapterId) : Nat := a.toNat / 64 % 64

/-- Column of an adapter. -/
def colOf (a : AdapterId) : Nat := a.toNat % 64

/-! ## Ports and planes -/

/-- Role of logical port `n`: 0 unused, 1 row, 2 column (R262). -/
def State.role (s : State) (n : Nat) : Nat := s.fld (Reg.FAB_PLANE n) 0 2

/-- Sub-ports of port `n`: those of the split with which it last trained (R342). -/
def State.subCount (s : State) (n : Nat) : Nat :=
  match tget 0 s.split n with
  | 0 => 1
  | 1 => 2
  | _ => 4

/-- A sub-port. -/
def State.sub (s : State) (n k : Nat) : Sub := tget Sub.init s.subs (4 * n + k)

/-- Sets a sub-port. -/
def State.setSub (s : State) (n k : Nat) (x : Sub) : State := { s with subs := tset Sub.init s.subs (4 * n + k) x }

/-- Changes a sub-port. -/
def State.updSub (s : State) (n k : Nat) (f : Sub → Sub) : State := s.setSub n k (f (s.sub n k))

/-- The sub-port is up, at full or degraded width. -/
def Sub.isUp (x : Sub) : Bool := x.link == .up || x.link == .degraded

/-- Effective weight of a sub-port: the configured weight scaled by its trained lanes over the eight of the port,
rounded down; zero while it is down, absent, miswired or of role unused (R227, R262). -/
def State.effWt (s : State) (n k : Nat) : Nat :=
  if s.role n = 0 ∨ s.subCount n ≤ k ∨ !(s.sub n k).isUp then 0
  else s.fld (Reg.XPT_PLANE_WT n) (8 * k) 8 * (s.sub n k).lanes / 8

/-- Every sub-port by its number 4 × port + sub-port. -/
def allSubs : List Nat := List.range 24

/-- The sub-ports of a role with a nonzero effective weight, with their weights; in direct mode, those that pass `ok`
on the recorded peer (R275). -/
def State.planes (s : State) (role : Nat) (ok : AdapterId → Bool) : List (Nat × Nat) :=
  allSubs.filterMap (fun i =>
    let w := s.effWt (i / 4) (i % 4)
    if s.role (i / 4) = role ∧ w ≠ 0 ∧ (!s.direct ∨ ok (s.sub (i / 4) (i % 4)).peer) then some (i, w) else none)

/-! ## Routes (R266, R267, R269) -/

/-- The first hop of a route. -/
inductive Hop
  | loop
  | line (role : Nat) (next : AdapterId)
  | gateway
  | none
  deriving DecidableEq, Repr

/-- The adapter of this row in the destination's column, which is the destination itself in the same row. -/
def State.viaRow (s : State) (dst : AdapterId) : AdapterId :=
  BitVec.ofNat 16 (gridOf s.me * 4096 + rowOf s.me * 64 + colOf dst)

/-- The route to an adapter, whatever its planes' weights. -/
def State.hop (s : State) (dst : AdapterId) : Hop :=
  if dst = s.me then .loop
  else if gridOf dst ≠ gridOf s.me then
    if !s.direct ∧ s.flag Reg.FAB_CTRL 3 then .gateway else .none
  else if colOf dst = colOf s.me then
    if (s.reg Reg.FAB_COL_DOWN).getLsbD (rowOf dst) then .none else .line 2 dst
  else if (s.reg Reg.FAB_ROW_DOWN).getLsbD (colOf dst) then .none
  else .line 1 (s.viaRow dst)

/-- The planes of the route to an adapter, with their effective weights. -/
def State.routePlanes (s : State) (dst : AdapterId) : List (Nat × Nat) :=
  match s.hop dst with
  | .line r next => s.planes r (fun p => p == next)
  | .gateway => s.planes 1 (fun _ => false)
  | _ => []

/-- The route has a plane in service: loopback needs none (R211, R227). -/
def State.routeUp (s : State) (dst : AdapterId) : Bool := s.hop dst == .loop || !(s.routePlanes dst).isEmpty

/-! ## Multicast groups (R280, R281) -/

/-- Entry `g` of the group table. -/
def State.mc (s : State) (g : Nat) : Mc := tget (⟨0, 0⟩ : Mc) s.mcs g

/-- Role of the ports of a group's line: 1 row, 2 column. -/
def Mc.role (m : Mc) : Nat := 1 + bits m.data1 1 1

/-- This adapter's rank in the group's line. -/
def State.rank (s : State) (m : Mc) : Nat := if m.role = 1 then colOf s.me else rowOf s.me

/-- The entry is valid and has this adapter's bit set. -/
def State.member (s : State) (g : Nat) : Bool :=
  decide (g < 4096) && bit (s.mc g).data1 0 && (s.mc g).data0.getLsbD (s.rank (s.mc g))

/-- The adapter of rank `r` in a group's line. -/
def State.memberId (s : State) (m : Mc) (r : Nat) : AdapterId :=
  BitVec.ofNat 16 (gridOf s.me * 4096 + (if m.role = 1 then rowOf s.me * 64 + r else r * 64 + colOf s.me))

/-- The rank of an adapter in a group's line. -/
def rankIn (m : Mc) (a : AdapterId) : Nat := if m.role = 1 then colOf a else rowOf a

/-- The planes of a group's line. -/
def State.mcPlanes (s : State) (m : Mc) : List (Nat × Nat) :=
  s.planes m.role (fun p => m.data0.getLsbD (rankIn m p))

/-! ## The choice of a plane (R226) -/

/-- One turn of smooth weighted round robin: every candidate gains its weight, the largest wins, the lowest number among
equals, and pays the total. -/
def wrrPick (cur : Tab Int) (ws : List (Nat × Nat)) : Option (Nat × Tab Int) :=
  let grown := ws.foldl (fun t e => tset 0 t e.1 (tget 0 t e.1 + (e.2 : Int))) cur
  let total : Int := ((ws.map (·.2)).foldl (· + ·) 0 : Nat)
  let best := ws.foldl (fun (b : Option Nat) e =>
    match b with
    | none => some e.1
    | some i => if tget 0 grown i < tget 0 grown e.1 then some e.1 else some i) none
  best.map (fun i => (i, tset 0 grown i (tget 0 grown i - total)))

/-- The plane of a retransmission: the next after the one last used, among those with a nonzero weight.
(Log 36: DESIGN CHOICE.) -/
def nextPlane (last : Nat) (ws : List (Nat × Nat)) : Option Nat :=
  match ws.find? (fun e => last < e.1) with
  | some e => some e.1
  | none => ws.head?.map (·.1)

/-! ## Addresses and headers (R204, R205, R263, R264, R281) -/

/-- MAC address of logical port `n`, sub-port `k`, of an adapter (R264). (Log 56: DESIGN CHOICE.) -/
def State.portMac (s : State) (n k : Nat) (a : AdapterId) : BitVec 48 :=
  BitVec.ofNat 48 (0x02BA * 2 ^ 32 + s.fld Reg.FAB_MAC 0 8 * 2 ^ 24 + (n * 16 + k) * 2 ^ 16 + a.toNat)

/-- MAC address of a multicast group (R281). -/
def groupMac (g : Nat) : BitVec 48 := BitVec.ofNat 48 (0x3333BA30 * 2 ^ 16 + g)

/-- IPv6 address of a multicast group (R281). -/
def groupV6 (g : Nat) : BitVec 128 := BitVec.ofNat 128 (0xFF12 * 2 ^ 112 + 0xBA30 * 2 ^ 16 + g)

/-- IPv6 address of an adapter (R205). -/
def State.v6 (s : State) (a : AdapterId) : BitVec 128 :=
  let pre := s.reg Reg.XPT_V6_PREFIX
  let pre := if gridOf a = gridOf s.me then pre else putBits pre 0 4 (gridOf a)
  BitVec.ofNat 128 (pre.toNat * 2 ^ 64 + a.toNat)

/-- VID of a port's plane (R263). -/
def State.vid (s : State) (n : Nat) : BitVec 12 := BitVec.ofNat 12 (s.fld (Reg.FAB_PLANE n) 4 12)

/-- The IPv6 header of a packet that this adapter sends on a plane. (Log 112: DESIGN CHOICE.) -/
def State.ipOf (s : State) (i prio : Nat) (p : Packet) : IpHdr :=
  { srcV6 := s.v6 s.me, dstV6 := if p.mcast then groupV6 p.dst.toNat else s.v6 p.dst
    dscp := BitVec.ofNat 6 (s.fld Reg.XPT_DSCP (6 * prio) 6), ecn := 2
    flow := Config.flowLabel p.src p.srcCtx p.dst p.dstCtx i, hop := 64 }

/-- The destination MAC address in switched mode of a packet that this adapter sends on sub-port `i`: the group's, the
gateway's, or that of the first hop's adapter (R266, R269, R281). (Log 56: DESIGN CHOICE.) -/
def State.dstMac (s : State) (i : Nat) (p : Packet) : BitVec 48 :=
  if p.mcast then groupMac p.dst.toNat
  else if gridOf p.dst ≠ gridOf s.me then BitVec.ofNat 48 (s.fld Reg.FAB_GW_MAC 0 48)
  else if colOf p.dst = colOf s.me then s.portMac (i / 4) (i % 4) p.dst
  else s.portMac (i / 4) (i % 4) (s.viaRow p.dst)

/-! ## Frames and egress queues (R204, R276, R344, R346) -/

/-- Length of a transport packet's frame, from destination address to FCS: in direct mode the link header of R276 stands
in place of the tag. -/
def State.frameLen (s : State) (p : Packet) : Nat :=
  let body := 40 + 8 + 48 + p.payload.length + (if p.enc then 16 else 0)
  if s.direct then 32 + body + 4 else 18 + body + 4

/-- The virtual channel of a packet by its type (R270). -/
def vcOf (typ : BitVec 4) : Nat := if typ = 5 ∨ typ = 8 ∨ typ = 9 then 1 else 0

/-- Bytes of the egress queues of one sub-port (R344). -/
def State.egressRoom (s : State) (n : Nat) : Nat := (if s.direct then 512 else 1024) * 1024 / s.subCount n

/-- Bytes queued on a sub-port, in one class or in all. -/
def Sub.queued (x : Sub) (prio : Option Nat) : Nat :=
  ((x.queue.filter (fun f => match prio with | some p => f.prio == p | none => true)).map (·.len)).foldl (· + ·) 0

/-- The sub-port's egress queues hold one more frame. -/
def State.egressFits (s : State) (i len : Nat) : Bool :=
  decide ((s.sub (i / 4) (i % 4)).queued none + len ≤ s.egressRoom (i / 4))

/-- Queues a frame on sub-port `i`. -/
def State.enqueue (s : State) (i : Nat) (f : EgFrame) : State :=
  s.updSub (i / 4) (i % 4) (fun x => { x with queue := x.queue ++ [{ f with sentAt := s.ck }] })

/-- A packet as it arrives over the internal loopback. -/
def looped (p : Packet) (tc : Nat) : Rx :=
  ⟨p, true, p.payload.length + 48 + (if p.enc then 16 else 0), false, BitVec.ofNat 3 tc⟩

/-- Hands a packet to a plane, or to the internal loopback, which holds it until the transport takes it (R211). Its addresses,
headers and VID are those at this moment (R267, R284). -/
def State.toPlane (s : State) (plane : Option Nat) (tc : Nat) (p : Packet) : State :=
  match plane with
  | none => { s with loop := s.loop ++ [looped p tc] }
  | some i => (s.emit (.packet i p)).enqueue i
      { prio := tc, len := s.frameLen p, vc := vcOf p.typ, vid := s.vid (i / 4),
        body := .own (s.dstMac i p) (s.ipOf i tc p) p, seq := 0, sentAt := 0, stalled := false }

/-- The traffic class of a packet on the wire: TC7 when urgent (R46), else the class given. -/
def wireTc (urgent : Bool) (tc : Nat) : Nat := if urgent then 7 else tc

/-! ## The control packets of this adapter (R207, R212) -/

/-- Sends an ACK, NACK or other packet of this adapter on a plane of the route to its destination, chosen by the round
robin of the context at this end; it is lost when the route has no plane. (Log 36: DESIGN CHOICE.) -/
def State.sendCtl (s : State) (ctx : BitVec 20) (tc : Nat) (p : Packet) : State :=
  if s.hop p.dst = .loop then s.toPlane none tc p
  else
    let c := tget Ctx.init s.ctxs ctx.toNat
    match wrrPick c.wrr (s.routePlanes p.dst) with
    | none => s
    | some r =>
      let s1 : State := if c.valid then { s with ctxs := tset Ctx.init s.ctxs ctx.toNat { c with wrr := r.2 } } else s
      s1.toPlane (some r.1) tc p

end Sys2Proof.Machine
end

