-- ==== Sys2Proof/Machine/Ctxs.lean ====
section
/-!
DEFINITION. Transport contexts: residency in context memory (R229), rate control (R228), the lifetime and debt that bound
acceptance (R214, R219), and the timer's periods (R221, R222).
-/

namespace Sys2Proof.Machine

/-! ## Contexts -/

/-- A context. -/
def State.ctx (s : State) (c : BitVec 20) : Ctx := tget Ctx.init s.ctxs c.toNat

/-- Sets a context. -/
def State.setCtx (s : State) (c : BitVec 20) (x : Ctx) : State := { s with ctxs := tset Ctx.init s.ctxs c.toNat x }

/-- Changes a context. -/
def State.updCtx (s : State) (c : BitVec 20) (f : Ctx → Ctx) : State := s.setCtx c (f (s.ctx c))

/-- Contexts in the backing store. -/
def State.ctxCount (s : State) : Nat := s.fld Reg.XPT_CTX_COUNT 0 21

/-- The context exists: below ctx_count and valid. -/
def State.ctxOk (s : State) (c : BitVec 20) : Bool := decide (c.toNat < s.ctxCount) && (s.ctx c).valid

/-- The fields of XPT_CTX_DATA0 (R234). -/
def Ctx.pinned (x : Ctx) : Bool := bit x.data0 1

/-- The context orders its messages. -/
def Ctx.ordered (x : Ctx) : Bool := bit x.data0 2

/-- The Ephemeris group that the context is bound to. -/
def Ctx.group (x : Ctx) : Option Nat := if bit x.data0 3 then some (bits x.data0 4 4) else none

/-- Owning instance. -/
def Ctx.inst (x : Ctx) : BitVec 8 := BitVec.ofNat 8 (bits x.data0 8 8)

/-- Partition. -/
def Ctx.part (x : Ctx) : BitVec 16 := BitVec.ofNat 16 (bits x.data0 16 16)

/-- Rate ceiling in 1/256 Gb/s (R228). -/
def Ctx.ceiling (x : Ctx) : Nat := 256 * (if bits x.data0 32 13 = 0 then 4800 else bits x.data0 32 13)

/-! ## Residency (R229) -/

/-- Contexts resident or on their way. -/
def State.resident (s : State) : Nat := (s.ctxs.filter (fun e => e.2.resident || e.2.fetching)).length

/-- The context has a sender record. -/
def State.ctxBusy (s : State) (c : BitVec 20) : Bool := s.srecs.any (fun r => r.srcCtx == c)

/-- A packet for the context is parked in the miss buffer. -/
def State.ctxParked (s : State) (c : BitVec 20) : Bool := s.parked.any (fun p => p.why == .ctx && p.rx.pkt.dstCtx == c)

/-- Where a context lies in the backing store: 256 bytes each. -/
def State.ctxAt (s : State) (c : Nat) : Nat := (s.reg Reg.XPT_CTX_BASE).toNat + 256 * c

/-- Writes a context back to the backing store; how the bytes spell it is left open. (Log 41: DEDUCED.) -/
def State.ctxBack (s : State) (c : Nat) : State :=
  let b := s.openBytes 256
  b.2.ownStore (b.2.ctxAt c) b.1

/-- The context may be evicted. -/
def State.evictable (s : State) (c : Nat) (x : Ctx) : Bool :=
  x.resident && !x.fetching && !x.pinned && !s.ctxBusy (BitVec.ofNat 20 c) && !s.ctxParked (BitVec.ofNat 20 c)

/-- The least recently used evictable context. -/
def State.victim (s : State) : Option Nat :=
  (s.ctxs.foldl (fun (b : Option (Nat × Nat)) e =>
    if s.evictable e.1 e.2 then
      match b with
      | none => some (e.1, e.2.used)
      | some v => if e.2.used < v.2 then some (e.1, e.2.used) else some v
    else b) none).map (·.1)

/-- Starts the fetch of a valid context that is not resident, evicting another when context memory is full; while none
can be evicted it waits. -/
def State.fetchCtx (s : State) (c : BitVec 20) : State :=
  let x := s.ctx c
  if !x.valid ∨ x.resident ∨ x.fetching then s
  else if s.resident < 8192 then (s.setCtx c { x with fetching := true }).bump (Reg.XPT_CNT 13)
  else match s.victim with
    | none => s
    | some v =>
      let s1 := ((s.ctxBack v).updCtx (BitVec.ofNat 20 v) (fun y => { y with resident := false })).bump (Reg.XPT_CNT 14)
      (s1.updCtx c (fun y => { y with fetching := true })).bump (Reg.XPT_CNT 13)

/-- Marks a context as just used. -/
def State.useCtx (s : State) (c : BitVec 20) : State :=
  if (s.ctx c).valid then { s.updCtx c (fun x => { x with used := s.fresh }) with fresh := s.fresh + 1 } else s

/-- Starts the fetches that packets in the miss buffer and messages at the send engines wait for, as far as contexts can
be evicted. -/
def State.pumpFetch (s : State) : State :=
  let s1 := s.parked.foldl (fun s p => if p.why = .ctx then s.fetchCtx p.rx.pkt.dstCtx else s) s
  s.txq.foldl (fun s r => s.fetchCtx r.srcCtx) s1

/-! ## Rate control (R228) -/

/-- A full token bucket: 64 KiB in units of 1/256000 bit. (Log 37: DESIGN CHOICE.) -/
def fullBucket : Int := 64 * 1024 * 8 * 256000

/-- Tokens of a context at present: they grow with its rate up to a full bucket. -/
def State.tokens (s : State) (x : Ctx) : Int :=
  min fullBucket (x.tokens + ((x.rate * (s.ps - x.tokAt) : Nat) : Int))

/-- The tokens that a frame of `len` bytes consumes. (Log 37: DESIGN CHOICE.) -/
def tokenCost (len : Nat) : Int := ((len * 8 * 256000 : Nat) : Int)

/-- Consumes tokens. -/
def State.spend (s : State) (c : BitVec 20) (len : Nat) : State :=
  s.updCtx c (fun x => { x with tokens := s.tokens x - tokenCost len, tokAt := s.ps })

/-- Settles the tokens at the old rate and sets a new one. -/
def State.setRate (s : State) (c : BitVec 20) (r : Nat) : State :=
  s.updCtx c (fun x => { x with tokens := s.tokens x, tokAt := s.ps, rate := r })

/-- Rate floor in 1/256 Gb/s. -/
def State.rateMin (s : State) : Nat := 256 * s.fld Reg.XPT_RATE_CFG 48 13

/-- The decrease of an echo. How the product is rounded to 1/256 Gb/s is left open. (Log 37: DESIGN CHOICE.) -/
def State.rateDown (s : State) (c : BitVec 20) : State :=
  let x := s.ctx c
  let hold := us (s.fld Reg.XPT_RATE_CFG 8 8)
  let due := match x.mdAt with
    | none => true
    | some t => decide (t + hold ≤ s.ps)
  if !x.valid ∨ !due then s
  else
    let p := x.rate * (256 - s.fld Reg.XPT_RATE_CFG 0 8)
    let f := s.takeBit
    let r := p / 256 + (if p % 256 ≠ 0 ∧ f.1 then 1 else 0)
    ((f.2.setRate c (max s.rateMin r)).updCtx c (fun x => { x with mdAt := some s.ps })).bump (Reg.XPT_CNT 16)

/-! ## Lifetime and debt (R214, R219) -/

/-- lifetime_us in ns. -/
def State.lifeNs (s : State) : Nat := 1000 * s.fld Reg.XPT_LIFETIME 0 16

/-- The lifetime in ns that bounds acceptance. (Log 42: DESIGN CHOICE.) -/
def State.acceptNs (s : State) : Nat :=
  (s.lifeOld.filter (fun e => s.nowNs < e.2.toNat)).foldl (fun m e => min m (1000 * e.1)) s.lifeNs

/-- The outstanding step debt in ns. (Log 42: DESIGN CHOICE.) -/
def State.debtNs (s : State) : Nat := s.debt - (s.nowNs - s.debtAt.toNat)

/-- A change of lifetime_us from `old` µs to the value now in force. -/
def State.lifeChanged (s : State) (old : Nat) : State :=
  let new := s.fld Reg.XPT_LIFETIME 0 16
  let s1 := { s with lifeOld := s.lifeOld.filter (fun e => s.nowNs < e.2.toNat) }
  if old < new then { s1 with lifeOld := s1.lifeOld ++ [(old, s.now + BitVec.ofNat 64 (1000 * new))] } else s1

/-! ## Timers (R221, R222) -/

/-- rto_min_eff_us: the larger of rto_min_us and four times the link replay budget. -/
def State.rtoMinEff (s : State) : Nat := max (s.fld Reg.XPT_RTO_MIN 0 16) (4 * s.fld Reg.FAB_LINK_CFG 0 8)

/-- The timer's period in µs after `x` expiries. (Log 38: DESIGN CHOICE.) -/
def State.rtoUs (s : State) (x : Nat) : Nat :=
  min (max (s.fld Reg.XPT_RTO_CFG 0 16) s.rtoMinEff * 2 ^ x) (s.fld Reg.XPT_RTO_CFG 16 16)

/-- Age of a message in ns. -/
def State.msgAge (s : State) (birth : Word) : Int := (s.now - birth).toInt

/-- The message's age still allows retransmissions. -/
def State.mayRetx (s : State) (birth : Word) : Bool :=
  decide (s.msgAge birth < ((s.lifeNs - 1000 * s.fld Reg.XPT_LIFETIME 16 16 : Nat) : Int))

end Sys2Proof.Machine
end

