-- ==== Sys2Proof/Machine/Ingress.lean ====
section
/-!
DEFINITION. The ingress buffers of the ports: occupancy and priority flow control in switched mode (R272), credits in
direct mode (R278).
-/

namespace Sys2Proof.Machine

/-- Bytes of a priority that a sub-port's ingress buffer holds. -/
def State.inBytes (s : State) (n k prio : Nat) : Nat :=
  ((s.ingress.filter (fun f => f.port = n ∧ f.sub = k ∧ f.prio = prio)).map (·.len)).foldl (· + ·) 0

/-- The ingress buffer of a sub-port has no room for `len` bytes more (R344). (Log 136: DESIGN CHOICE.) -/
def State.ingressFull (s : State) (n k len : Nat) : Bool :=
  decide (3072 * 1024 / s.subCount n
    < ((s.ingress.filter (fun f => f.port = n ∧ f.sub = k)).map (·.len)).foldl (· + ·) 0 + len)

/-- A threshold of FAB_PFC in bytes for one sub-port of port `n`. -/
def State.pfcBytes (s : State) (n lo : Nat) : Nat := s.fld Reg.FAB_PFC lo 12 * 1024 / s.subCount n

/-- PFC is on for a priority. -/
def State.pfcOn (s : State) (prio : Nat) : Bool := !s.direct && (s.reg Reg.FAB_PFC).getLsbD prio

/-- A sub-port sends and obeys PFC frames: its port has a role and it is up (R262). -/
def State.pfcRuns (s : State) (n k : Nat) : Bool := s.role n != 0 && (s.sub n k).isUp

/-- Sends a PFC frame. -/
def State.sendPfc (s : State) (n k prio quanta : Nat) : State :=
  (s.emit (.pfc n k prio quanta)).bump (Reg.FAB_CNT 4)

/-- Pauses a priority whose occupancy has risen above xoff. -/
def State.pfcRaise (s : State) (n k prio : Nat) : State :=
  let x := s.sub n k
  if s.pfcOn prio ∧ s.pfcRuns n k ∧ !x.xoff.getLsbD prio ∧ s.pfcBytes n 8 < s.inBytes n k prio then
    (s.setSub n k { x with xoff := x.xoff ||| BitVec.ofNat 8 (2 ^ prio), xoffAt := x.xoffAt.set prio s.ps }).sendPfc
      n k prio 65535
  else s

/-- Resumes a priority whose occupancy has fallen to xon. -/
def State.pfcFall (s : State) (n k prio : Nat) : State :=
  let x := s.sub n k
  if x.xoff.getLsbD prio ∧ s.inBytes n k prio ≤ s.pfcBytes n 20 then
    let s1 := s.setSub n k { x with xoff := x.xoff &&& ~~~(BitVec.ofNat 8 (2 ^ prio)) }
    if s.pfcOn prio && s.pfcRuns n k then s1.sendPfc n k prio 0 else s1
  else s

/-- Credits that a frame of `len` bytes consumes or returns: one per 256 bytes of its transport packet, at least one
(R278). -/
def creditsOf (len : Nat) : Nat := max 1 ((len - 36 + 255) / 256)

/-- Takes a frame into ingress. -/
def State.inPut (s : State) (f : InFrame) : State :=
  { s with ingress := s.ingress ++ [f] }.pfcRaise f.port f.sub f.prio

/-- The credits of a frame of channel `vc` return to the peer. -/
def State.creditBack (s : State) (n k vc len : Nat) : State :=
  s.updSub n k (fun x => { x with ownCr := x.ownCr.modify vc (· + BitVec.ofNat 16 (creditsOf len)) })

/-- A frame leaves ingress: its bytes are free, its credits return to the peer in direct mode. -/
def State.inTake (s : State) (f : InFrame) : State :=
  let s1 : State := { s with ingress := s.ingress.erase f }
  if s.direct then s1.creditBack f.port f.sub f.vc f.len
  else s1.pfcFall f.port f.sub f.prio

/-- The transport takes a received packet from the ingress buffer that holds its frame, or from the internal loopback. -/
def State.takeIngress (s : State) (rx : Rx) : State :=
  match s.ingress.find? (fun f => f.rx = rx ∧ f.fwd = none) with
  | some f => s.inTake f
  | none => { s with loop := s.loop.erase rx }

end Sys2Proof.Machine
end

