-- ==== Sys2Proof/Machine/Wire.lean ====
section
/-!
DEFINITION. Received frames as bytes: addresses, tag and EtherType, the kinds that classification tells apart (R347), PTP
messages (R351, R352), and the reading of a transport packet out of its bytes (R204–R206).
-/

namespace Sys2Proof.Machine

/-! ## Fields in network order -/

/-- Two bytes in network order. -/
def be16 (bs : List Byte) (i : Nat) : Nat := (bs.getD i 0).toNat * 256 + (bs.getD (i + 1) 0).toNat

/-- `n` bytes from position `i` in network order. -/
def beAt (bs : List Byte) (i n : Nat) : Nat := ofBe ((bs.drop i).take n)

/-- The start of what follows the EtherType of a frame. -/
def etherBody (bs : List Byte) : Nat := if be16 bs 12 = 0x8100 then 18 else 14

/-! ## Kinds of frames (R265, R347) -/

/-- UDP destination port of an IPv6 frame with next header 17. -/
def udpPort (bs : List Byte) : Option Nat :=
  let b := etherBody bs
  if be16 bs (b - 2) = 0x86DD ∧ bs.getD (b + 6) 0 = 17 then some (be16 bs (b + 42)) else none

/-- What the adapter's classification tells apart. -/
inductive FrameKind
  | pause | pfc | mgmt | link | ptp | transport | other
  deriving DecidableEq, Repr

/-! ## PTP messages (R351, R352) -/

/-- A PTP message in a frame: where it starts and whether it stands over UDP/IPv6. -/
def ptpAt (bs : List Byte) : Option (Nat × Bool) :=
  let b := etherBody bs
  if be16 bs (b - 2) = 0x88F7 then some (b, false)
  else match udpPort bs with
    | some p => if p = 319 ∨ p = 320 then some (b + 48, true) else none
    | none => none

/-- The PTP message type at a place. -/
def ptpType (bs : List Byte) (i : Nat) : Nat := (bs.getD i 0).toNat % 16

/-- The frame holds a PTP event message. -/
def ptpEvent (bs : List Byte) : Bool :=
  match ptpAt bs with
  | some (i, _) => decide (ptpType bs i < 4)
  | none => false

/-! ## UDP checksums -/

/-- The sum of 16-bit words in network order. -/
def sum16 : List Byte → Nat
  | [] => 0
  | [a] => a.toNat * 256
  | a :: b :: r => a.toNat * 256 + b.toNat + sum16 r

/-- One fold of a ones' complement sum. -/
def fold16 (n : Nat) : Nat := n % 65536 + n / 65536

/-- The folded sum of a frame's UDP datagram with its IPv6 pseudo-header. -/
def udpFold (bs : List Byte) : Nat :=
  let b := etherBody bs
  let n := be16 bs (b + 44)
  fold16 (fold16 (fold16 (sum16 ((bs.drop (b + 8)).take 32) + n + 17 + sum16 ((bs.drop (b + 40)).take n))))

/-- Replaces bytes from position `i`. -/
def patch (bs : List Byte) (i : Nat) (p : List Byte) : List Byte := bs.take i ++ p ++ bs.drop (i + p.length)

/-- Recomputes the UDP checksum of a frame over IPv6. -/
def udpSum (bs : List Byte) : List Byte :=
  let b := etherBody bs
  let c := 0xFFFF - udpFold (patch bs (b + 46) [0, 0])
  patch bs (b + 46) (beBytes (if c = 0 then 0xFFFF else c) 2)

/-- A Sync message sent one-step: originTimestamp holds the transmit timestamp; any other frame is unchanged (R352). -/
def oneStep (bs : List Byte) (ts : Word) : List Byte :=
  match ptpAt bs with
  | some (i, udp) =>
    if ptpType bs i = 0 then
      let p := patch bs (i + 34) (beBytes (ts.toNat / 10 ^ 9) 6 ++ beBytes (ts.toNat % 10 ^ 9) 4)
      if udp then udpSum p else p
    else bs
  | none => bs

/-- The UDP datagram is whole and its checksum, which is always computed, is right (R204, R213). -/
def udpGood (bs : List Byte) : Bool :=
  let b := etherBody bs
  let n := be16 bs (b + 44)
  decide (8 ≤ n) && decide (b + 40 + n ≤ bs.length) && be16 bs (b + 46) != 0 && udpFold bs == 0xFFFF

/-! ## Transport packets (R204–R206) -/

/-- The IPv6 header of a frame. -/
def ipAt (bs : List Byte) : IpHdr :=
  let b := etherBody bs
  let w := beAt bs b 4
  { srcV6 := BitVec.ofNat 128 (beAt bs (b + 8) 16), dstV6 := BitVec.ofNat 128 (beAt bs (b + 24) 16)
    dscp := BitVec.ofNat 6 (w / 2 ^ 22), ecn := BitVec.ofNat 2 (w / 2 ^ 20), flow := BitVec.ofNat 20 w
    hop := bs.getD (b + 7) 0 }

/-- The transport packet in the UDP data of a frame: the header of R206, the payload, and with enc the GCM tag in the last 16
bytes. -/
def packetAt (d : List Byte) : Packet :=
  let g := fun (bit : Nat) => (d.getD 1 0).getLsbD bit
  let tag := if g 6 then 16 else 0
  { ver := BitVec.ofNat 4 ((d.getD 0 0).toNat / 16), typ := BitVec.ofNat 4 (d.getD 0 0).toNat
    urgent := g 7, enc := g 6, mcast := g 5, ordered := g 4, sig := g 3, retx := g 2, ece := g 1, fin := g 0
    attr := BitVec.ofNat 16 (beAt d 2 2), src := BitVec.ofNat 16 (beAt d 4 2), dst := BitVec.ofNat 16 (beAt d 6 2)
    srcCtx := BitVec.ofNat 20 (beAt d 8 4), dstCtx := BitVec.ofNat 20 (beAt d 12 4)
    msg := BitVec.ofNat 32 (beAt d 16 4), idx := BitVec.ofNat 16 (beAt d 20 2), last := BitVec.ofNat 16 (beAt d 22 2)
    ts := BitVec.ofNat 32 (beAt d 24 4), part := BitVec.ofNat 16 (beAt d 28 2), len := BitVec.ofNat 13 (beAt d 30 2)
    prev := BitVec.ofNat 32 (beAt d 32 4), tgtA := BitVec.ofNat 32 (beAt d 36 4), tgtB := BitVec.ofNat 64 (beAt d 40 8)
    payload := (d.drop 48).take (d.length - 48 - tag), gcmTag := BitVec.ofNat 128 (beAt d (d.length - tag) tag) }

end Sys2Proof.Machine

namespace Sys2Proof

open Machine

/-! ## The Ethernet header -/

/-- Destination MAC address. -/
def Frame.dst (f : Frame) : BitVec 48 := BitVec.ofNat 48 (beAt f.bytes 0 6)

/-- The frame has an 802.1Q tag. -/
def Frame.tagged (f : Frame) : Bool := be16 f.bytes 12 == 0x8100

/-- PCP of the tag; an untagged frame counts as PCP 0. -/
def Frame.pcp (f : Frame) : BitVec 3 := if f.tagged then BitVec.ofNat 3 (be16 f.bytes 14 / 2 ^ 13) else 0

/-- VID of the tag. -/
def Frame.vid (f : Frame) : BitVec 12 := BitVec.ofNat 12 (be16 f.bytes 14)

/-- EtherType after any tag. -/
def Frame.etype (f : Frame) : BitVec 16 := BitVec.ofNat 16 (be16 f.bytes (etherBody f.bytes - 2))

/-- Length from destination address to FCS. -/
def Frame.len (f : Frame) : Nat := f.bytes.length + 4

/-- The FCS is good; a frame that overlaps an uncorrectable codeword is delivered with a bad one (R343). -/
def Frame.good (f : Frame) : Bool := f.fcsOk && f.fec.bad == 0

/-- The kind of a frame. (Log 134: PRESUMED.) -/
def Frame.kind (f : Frame) : FrameKind :=
  let t := f.etype
  if t = 0x8808#16 then
    match be16 f.bytes (etherBody f.bytes) with
    | 0x0001 => .pause
    | 0x0101 => .pfc
    | _ => .other
  else if t = 0x88B5#16 then .link
  else if t = 0x88B6#16 then .mgmt
  else if t = 0x88F7#16 then .ptp
  else match udpPort f.bytes with
    | some p => if p = 319 ∨ p = 320 then .ptp else if p = 47664 then .transport else .other
    | none => .other

/-- The transport packet of a frame as received. -/
def Frame.rx (f : Frame) : Rx :=
  let b := etherBody f.bytes
  let n := be16 f.bytes (b + 44) - 8
  { pkt := packetAt ((f.bytes.drop (b + 48)).take n), cksumOk := udpGood f.bytes, udpLen := n
    ce := (ipAt f.bytes).ecn == 3, tc := f.pcp }

end Sys2Proof
end

