-- ==== Sys2Proof/Machine/Num.lean ====
section
/-!
DEFINITION. Number formats and Nebula arithmetic: R103–R120. Every finite value of every format is dyadic, so the
accumulators of R112 and R113, which hold it exactly, are exact dyadic numbers here.
-/

namespace Sys2Proof.Machine

/-! ## Exact values -/

/-- A value in an accumulator: NaN, an infinity, or (−1)^neg × m × 2^e (zeros keep their sign). -/
inductive Num
  | nan
  | inf (neg : Bool)
  | fin (neg : Bool) (m : Nat) (e : Int)
  deriving DecidableEq, Repr

/-- The exponent of the leading bit of m × 2^e, for m ≠ 0. -/
def lead (m : Nat) (e : Int) : Int := (Nat.log2 m : Int) + e

/-- m × 2^e as a multiple of 2^q, for q ≤ e. -/
def scaleTo (m : Nat) (e q : Int) : Nat := m * 2 ^ (e - q).toNat

/-- A signed integer from sign and magnitude. -/
def signed (neg : Bool) (m : Nat) : Int := if neg then -(m : Int) else m

/-- The exact sum (R115). -/
def numAdd (a b : Num) : Num :=
  match a, b with
  | .nan, _ => .nan
  | _, .nan => .nan
  | .inf x, .inf y => if x = y then .inf x else .nan
  | .inf x, _ => .inf x
  | _, .inf y => .inf y
  | .fin x m e, .fin y n f =>
    let q := min e f
    let t := signed x (scaleTo m e q) + signed y (scaleTo n f q)
    if t = 0 then .fin (x && y && m == 0 && n == 0) 0 q else .fin (decide (t < 0)) t.natAbs q

/-- The negation. -/
def numNeg : Num → Num
  | .nan => .nan
  | .inf x => .inf (!x)
  | .fin x m e => .fin (!x) m e

/-- a is at most b in the order of IEEE 754-2019 maximum and minimum, with −0 below +0. -/
def numLe (a b : Num) : Bool :=
  match a, b with
  | .nan, _ => true
  | _, .nan => true
  | .inf x, _ => x || a == b
  | _, .inf y => !y
  | .fin x m e, .fin y n f =>
    let q := min e f
    let s := signed x (scaleTo m e q)
    let t := signed y (scaleTo n f q)
    decide (s < t) || (s == t && (x || !y))

/-- Maximum (R115). -/
def numMax (a b : Num) : Num :=
  match a, b with
  | .nan, _ => .nan
  | _, .nan => .nan
  | _, _ => if numLe a b then b else a

/-- Minimum (R115). -/
def numMin (a b : Num) : Num :=
  match a, b with
  | .nan, _ => .nan
  | _, .nan => .nan
  | _, _ => if numLe a b then a else b

/-- The exact product. -/
def numMul (a b : Num) : Num :=
  match a, b with
  | .nan, _ => .nan
  | _, .nan => .nan
  | .inf x, .inf y => .inf (x != y)
  | .inf x, .fin y n _ => if n = 0 then .nan else .inf (x != y)
  | .fin x m _, .inf y => if m = 0 then .nan else .inf (x != y)
  | .fin x m e, .fin y n f => .fin (x != y) (m * n) (e + f)

/-- The reduction operator of red_op: 0 sum, 1 maximum, otherwise minimum (R86). -/
def combine (op : Nat) (a b : Num) : Num :=
  if op = 0 then numAdd a b else if op = 1 then numMax a b else numMin a b

/-! ## Rounding (R118, R119) -/

/-- The rounding modes of R73. -/
inductive Mode
  | nearest | zero | stochastic
  deriving DecidableEq, Repr

/-- The mode of a code. -/
def modeOf (c : Nat) : Mode := if c = 0 then .nearest else if c = 1 then .zero else .stochastic

/-- m × 2^e as a multiple of 2^q, rounded; `r` is the random value of R120. -/
def roundTo (md : Mode) (r m : Nat) (e q : Int) : Nat :=
  if q ≤ e then scaleTo m e q
  else
    let k := (q - e).toNat
    let n := m / 2 ^ k
    let d := m % 2 ^ k
    match md with
    | .zero => n
    | .nearest =>
      if 2 * d > 2 ^ k then n + 1 else if 2 * d < 2 ^ k then n else n + n % 2
    | .stochastic => if 65536 ≤ d * 65536 / 2 ^ k + r then n + 1 else n

/-- Rounds a finite value to `p` significand bits under nearest-even, its exponent unbounded (R114). -/
def roundSig (p : Nat) : Num → Num
  | .fin x m e =>
    if m = 0 then .fin x 0 0
    else
      let q := lead m e - (p - 1 : Nat)
      if q ≤ e then .fin x m e else .fin x (roundTo .nearest 0 m e q) q
  | v => v

/-! ## Formats (R103) -/

/-- How the special encodings of an element format stand (R104). -/
inductive Family
  | ieee | e4m3 | finite | int
  deriving DecidableEq, Repr

/-- An element format: width, exponent and fraction bits, bias. -/
structure Elem where
  w    : Nat
  eb   : Nat
  fb   : Nat
  bias : Nat
  fam  : Family
  deriving DecidableEq, Repr

/-- A tensor format: its element format and, for the MX formats, that its rows hold blocks with a scale. -/
structure Fmt where
  elem : Elem
  mx   : Bool
  deriving DecidableEq, Repr

/-- MXINT8 elements are integers × 2^−6. -/
def mxInt8 : Elem := ⟨8, 0, 0, 6, .int⟩

/-- The formats by code. -/
def fmtOf (c : Nat) : Option Fmt :=
  match c with
  | 0x00 => some ⟨⟨64, 11, 52, 1023, .ieee⟩, false⟩
  | 0x01 => some ⟨⟨32, 8, 23, 127, .ieee⟩, false⟩
  | 0x02 => some ⟨⟨16, 5, 10, 15, .ieee⟩, false⟩
  | 0x03 => some ⟨⟨16, 8, 7, 127, .ieee⟩, false⟩
  | 0x04 => some ⟨⟨8, 4, 3, 7, .e4m3⟩, false⟩
  | 0x05 => some ⟨⟨8, 5, 2, 15, .ieee⟩, false⟩
  | 0x06 => some ⟨⟨6, 3, 2, 3, .finite⟩, false⟩
  | 0x07 => some ⟨⟨6, 2, 3, 1, .finite⟩, false⟩
  | 0x08 => some ⟨⟨4, 2, 1, 1, .finite⟩, false⟩
  | 0x09 => some ⟨⟨32, 0, 0, 0, .int⟩, false⟩
  | 0x0A => some ⟨⟨16, 0, 0, 0, .int⟩, false⟩
  | 0x0B => some ⟨⟨8, 0, 0, 0, .int⟩, false⟩
  | 0x10 => some ⟨⟨8, 4, 3, 7, .e4m3⟩, true⟩
  | 0x11 => some ⟨⟨8, 5, 2, 15, .ieee⟩, true⟩
  | 0x12 => some ⟨⟨6, 3, 2, 3, .finite⟩, true⟩
  | 0x13 => some ⟨⟨6, 2, 3, 1, .finite⟩, true⟩
  | 0x14 => some ⟨⟨4, 2, 1, 1, .finite⟩, true⟩
  | 0x15 => some ⟨mxInt8, true⟩
  | _ => none

/-- The largest finite magnitude code of a floating-point element format. -/
def maxCode (f : Elem) : Nat :=
  match f.fam with
  | .ieee => (2 ^ f.eb - 1) * 2 ^ f.fb - 1
  | .e4m3 => 0x7E
  | .finite => 2 ^ (f.eb + f.fb) - 1
  | .int => 2 ^ (f.w - 1) - 1

/-- The code of infinity, without sign. -/
def infCode (f : Elem) : Nat := (2 ^ f.eb - 1) * 2 ^ f.fb

/-- The NaN that the adapter writes (R105). -/
def nanCode (f : Elem) : Nat :=
  match f.fam with
  | .ieee => infCode f + 2 ^ (f.fb - 1)
  | .e4m3 => 0x7F
  | .finite => 0
  | .int => 0

/-- The sign bit of an element. -/
def signBit (f : Elem) (neg : Bool) : Nat := if neg then 2 ^ (f.w - 1) else 0

/-- The exponent of the last place of the smallest numbers of a format. -/
def qMin (f : Elem) : Int := 1 - (f.bias : Int) - f.fb

/-- The value of an element's code (R104, R107, R111). The elements of an MXFP8 E5M2 block read as those of FP8 E5M2 do, with
infinities and NaNs. (Log 130: DEDUCED.) -/
def decodeElem (f : Elem) (c : Nat) : Num :=
  let neg := decide (2 ^ (f.w - 1) ≤ c % 2 ^ f.w)
  let mag := c % 2 ^ (f.w - 1)
  let exp := mag / 2 ^ f.fb
  let frac := mag % 2 ^ f.fb
  let value := if exp = 0 then Num.fin neg frac (qMin f)
    else Num.fin neg (2 ^ f.fb + frac) (qMin f + (exp - 1 : Nat))
  match f.fam with
  | .int => if neg then .fin true (2 ^ f.w - c % 2 ^ f.w) (-(f.bias : Int)) else .fin false mag (-(f.bias : Int))
  | .ieee => if exp = 2 ^ f.eb - 1 then (if frac = 0 then .inf neg else .nan) else value
  | .e4m3 => if mag = 0x7F then .nan else value
  | .finite => value

/-- The code without sign of a nonzero magnitude in a floating-point format with its exponent range unbounded above. -/
def magCode (f : Elem) (md : Mode) (r m : Nat) (e : Int) : Nat :=
  let q := max (lead m e - f.fb) (qMin f)
  (q - qMin f).toNat * 2 ^ f.fb + roundTo md r m e q

/-- What writing a result gives: the code, whether it counts in NEB_CNT_SAT, whether it counts in NEB_CNT_NAN_LOST. -/
structure Written where
  code : Nat
  sat  : Bool
  lost : Bool
  deriving DecidableEq, Repr

/-- The overflow policies that an operation took from NEB_CTRL (R116, R132). -/
structure Policy where
  ieee : Bool
  fp8  : Bool
  deriving DecidableEq, Repr

/-- The policy bit that governs a format: fp8_sat for 8-bit formats, ieee_sat for wider ones. -/
def policyOf (p : Policy) (f : Elem) : Bool := if f.w = 8 then p.fp8 else p.ieee

/-- Writes an overflowing result (R116). -/
def writeOverflow (f : Elem) (p : Policy) (md : Mode) (neg : Bool) : Written :=
  let big : Written := ⟨signBit f neg + maxCode f, true, false⟩
  match f.fam with
  | .ieee => if policyOf p f ∨ md = .zero then big else ⟨signBit f neg + infCode f, false, false⟩
  | .e4m3 => if policyOf p f ∨ md = .zero then big else ⟨nanCode f, false, false⟩
  | .finite => big
  | .int => big

/-- Writes a result to a plain integer format (R106). -/
def writeInt (f : Elem) (md : Mode) (r : Nat) (v : Num) : Written :=
  let top := 2 ^ (f.w - 1)
  match v with
  | .nan => ⟨0, false, false⟩
  | .inf neg => ⟨if neg then top else top - 1, true, false⟩
  | .fin neg m e =>
    let n := roundTo md r m e 0
    if neg then (if top < n then ⟨top, true, false⟩ else ⟨(2 ^ f.w - n) % 2 ^ f.w, false, false⟩)
    else if top - 1 < n then ⟨top - 1, true, false⟩ else ⟨n, false, false⟩

/-- Writes a result to a plain format (R106, R114–R118); an infinity in FP8 E4M3 as R117 says, for the wire elements of QUANT
too. (Log 129: DEDUCED.) -/
def writeElem (f : Elem) (p : Policy) (md : Mode) (r : Nat) (v : Num) : Written :=
  if f.fam = .int then writeInt f md r v
  else match v with
    | .nan => ⟨nanCode f, false, f.fam == .finite⟩
    | .inf neg =>
      match f.fam with
      | .ieee => ⟨signBit f neg + infCode f, false, false⟩
      | .e4m3 => if p.fp8 then ⟨signBit f neg + maxCode f, true, false⟩ else ⟨nanCode f, false, false⟩
      | .finite => ⟨signBit f neg + maxCode f, true, false⟩
      | .int => ⟨0, false, false⟩
    | .fin neg m e =>
      if m = 0 then ⟨signBit f neg, false, false⟩
      else
        let c := magCode f md r m e
        if maxCode f < c then writeOverflow f p md neg else ⟨signBit f neg + c, false, false⟩

/-! ## MX blocks (R108–R111) -/

/-- Elements per MX block. -/
def mxBlock : Nat := 32

/-- Bytes of one block. -/
def blockBytes (f : Elem) : Nat := 1 + mxBlock * f.w / 8

/-- The exponent of the largest power of two not above the element format's largest finite value. -/
def emax (f : Elem) : Int :=
  match f.fam with
  | .int => 0
  | .e4m3 => 8
  | .ieee => (2 ^ f.eb - 2 : Nat) - (f.bias : Int)
  | .finite => (2 ^ f.eb - 1 : Nat) - (f.bias : Int)

/-- The largest leading exponent of a block, `none` if every value is zero. -/
def blockLead (vs : List Num) : Option Int :=
  vs.foldl (fun acc v => match v with
    | .fin _ m e => if m = 0 then acc else match acc with
      | none => some (lead m e)
      | some x => some (max x (lead m e))
    | _ => acc) none

/-- Some value is NaN or infinite. -/
def anySpecial (vs : List Num) : Bool := vs.any (fun v => match v with | .fin _ _ _ => false | _ => true)

/-- The scale exponent of a block of finite values (R109). -/
def blockScale (f : Elem) (vs : List Num) : Int :=
  match blockLead vs with
  | none => -127
  | some x => max (-127) (min 127 (x - emax f))

/-- Writes one MX element of a value already divided by the scale (R110, R111). -/
def writeMxElem (f : Elem) (md : Mode) (r : Nat) (v : Num) : Written :=
  match v with
  | .fin neg m e =>
    if f.fam = .int then
      let n := roundTo md r m e (-(f.bias : Int))
      let k := min n (maxCode f)
      ⟨if neg then (2 ^ f.w - k) % 2 ^ f.w else k, decide (maxCode f < n), false⟩
    else if m = 0 then ⟨signBit f neg, false, false⟩
    else
      let c := magCode f md r m e
      ⟨signBit f neg + min c (maxCode f), decide (maxCode f < c), false⟩
  | _ => ⟨0, false, false⟩

/-- A finite value divided by 2^x. -/
def divPow (v : Num) (x : Int) : Num :=
  match v with
  | .fin neg m e => .fin neg m (e - x)
  | v => v

/-- The element value of a block under its scale byte. -/
def mxValue (f : Elem) (scale c : Nat) : Num :=
  if scale = 0xFF then .nan else divPow (decodeElem f c) (127 - (scale : Int))

/-! ## Dense layouts (R107, R108) -/

/-- Packs codes of `w` bits into little-endian bytes. -/
def packBits (w : Nat) (cs : List Nat) : List Byte :=
  leBytes (cs.foldr (fun c acc => c % 2 ^ w + acc * 2 ^ w) 0) (w * cs.length / 8)

/-- The codes of `w` bits in little-endian bytes. -/
def unpackBits (w : Nat) (bs : List Byte) : List Nat :=
  let v := ofLe bs
  (List.range (8 * bs.length / w)).map (fun i => v / 2 ^ (w * i) % 2 ^ w)

/-- Splits a list into pieces of `k`. -/
def chunks {α : Type} (k : Nat) (l : List α) : List (List α) :=
  (List.range ((l.length + k - 1) / k)).map (fun i => (l.drop (k * i)).take k)

/-- The values that dense bytes of a format hold, in order. -/
def decodeDense (f : Fmt) (bs : List Byte) : List Num :=
  if f.mx then
    (chunks (blockBytes f.elem) bs).flatMap (fun b =>
      (unpackBits f.elem.w b.tail).map (mxValue f.elem (ofLe (b.take 1))))
  else (unpackBits f.elem.w bs).map (decodeElem f.elem)

/-- What writing values densely gives: the bytes, the values written, and the counts of R116 and R117. -/
structure Dense where
  bytes : List Byte
  vals  : List Num
  sat   : Nat
  lost  : Nat
  deriving DecidableEq, Repr

/-- Two results one after the other. -/
def Dense.append (a b : Dense) : Dense := ⟨a.bytes ++ b.bytes, a.vals ++ b.vals, a.sat + b.sat, a.lost + b.lost⟩

/-- The result of writing nothing. -/
def Dense.empty : Dense := ⟨[], [], 0, 0⟩

/-- Writes one MX block; the values come with their random values. -/
def writeBlock (f : Elem) (md : Mode) (vs : List (Num × Nat)) : Dense :=
  if anySpecial (vs.map (·.1)) then
    ⟨0xFF :: packBits f.w (vs.map (fun _ => 0)), vs.map (fun _ => Num.nan), 0, 0⟩
  else
    let x := blockScale f (vs.map (·.1))
    let ws := vs.map (fun p => writeMxElem f md p.2 (divPow p.1 x))
    let sc := (x + 127).toNat
    ⟨BitVec.ofNat 8 sc :: packBits f.w (ws.map (·.code)), ws.map (fun w => mxValue f sc w.code),
      (ws.filter (·.sat)).length, 0⟩

/-- Writes values, each with its random value, densely. -/
def encodeDense (f : Fmt) (p : Policy) (md : Mode) (vs : List (Num × Nat)) : Dense :=
  if f.mx then (chunks mxBlock vs).foldl (fun acc b => acc.append (writeBlock f.elem md b)) Dense.empty
  else
    let ws := vs.map (fun v => writeElem f.elem p md v.2 v.1)
    ⟨packBits f.elem.w (ws.map (·.code)), ws.map (fun w => decodeElem f.elem w.code),
      (ws.filter (·.sat)).length, (ws.filter (·.lost)).length⟩

/-! ## Random values (R120) -/

/-- The random value of element `i` under a key. -/
def randomAt (key : Word) (i : Nat) : Nat :=
  let z0 := key + BitVec.ofNat 64 (i * 0x9E3779B97F4A7C15)
  let z1 := (z0 ^^^ (z0 >>> 30)) * 0xBF58476D1CE4E5B9#64
  let z2 := (z1 ^^^ (z1 >>> 27)) * 0x94D049BB133111EB#64
  bits (z2 ^^^ (z2 >>> 31)) 48 16

/-- The key of a segment (R120). -/
def randomKey (seed xor_ : Word) (segment : Nat) (pin : Bool) (array : Nat) (seq : BitVec 48) : Word :=
  let k := seed ^^^ xor_ ^^^ BitVec.ofNat 64 (segment * 2 ^ 32)
  if pin then k else k ^^^ BitVec.ofNat 64 (array * 2 ^ 56) ^^^ seq.setWidth 64

end Sys2Proof.Machine
end

