-- ==== Sys2Proof/Machine/Tensor.lean ====
section
/-!
DEFINITION. Tensor descriptors: their fields and checks (R48–R50), their layout in memory (R107, R108, R237), their
division into segments (R51), and the instance's allocations in each space (R48, R326).
-/

namespace Sys2Proof.Machine

/-! ## Fields (R48) -/

/-- Format code. -/
def TDesc.format (d : TDesc) : Nat := d.attr.toNat % 32

/-- Rank. -/
def TDesc.rank (d : TDesc) : Nat := d.attr.toNat / 2 ^ 5 % 8

/-- Address space. -/
def TDesc.space (d : TDesc) : Nat := d.attr.toNat / 2 ^ 8 % 16

/-- tile_dim. -/
def TDesc.tileDim (d : TDesc) : Nat := d.attr.toNat / 2 ^ 12 % 8

/-- Extents of the dimensions below rank, innermost first. -/
def TDesc.extents (d : TDesc) : List Nat := ([d.e0, d.e1, d.e2, d.e3, d.e4].map BitVec.toNat).take d.rank

/-- Strides of the dimensions 1 to rank − 1. -/
def TDesc.strides (d : TDesc) : List Word := [d.s1, d.s2, d.s3, d.s4].take (d.rank - 1)

/-- Product of a list. -/
def prod (l : List Nat) : Nat := l.foldl (· * ·) 1

/-- Element count. -/
def TDesc.count (d : TDesc) : Nat := prod d.extents

/-- The rank is one that R48 allows. -/
def TDesc.rankOk (d : TDesc) : Bool := decide (1 ≤ d.rank) && decide (d.rank ≤ 5)

/-- Empty (R49): of a legal rank with an extent of zero. -/
def TDesc.isEmpty (d : TDesc) : Bool := d.rankOk && d.count == 0

/-- Extent of dimension 0. -/
def TDesc.row (d : TDesc) : Nat := d.e0.toNat

/-! ## Formats -/

/-- The element group of a format (R51). -/
def groupOf (f : Fmt) : Nat := if f.mx then 32 else if f.elem.w = 6 then 4 else if f.elem.w = 4 then 2 else 1

/-- Byte position of element `j` in a row (R107, R108), for `j` a multiple of the element group. -/
def byteOff (f : Fmt) (j : Nat) : Nat := if f.mx then j / 32 * blockBytes f.elem else j * f.elem.w / 8

/-- The element width in bytes for the alignment checks of R50; 0 for formats narrower than 8 bits. -/
def alignOf (f : Fmt) : Nat := f.elem.w / 8

/-- The width that sets the class of R122. -/
def classBits (f : Fmt) : Nat := f.elem.w

/-- The format of a descriptor; FP64 where the code is reserved. -/
def TDesc.fmt (d : TDesc) : Fmt := (fmtOf d.format).getD ⟨⟨64, 11, 52, 1023, .ieee⟩, false⟩

/-! ## Checks (R49, R50) -/

/-- The checks of R50 on one descriptor of an instruction, apart from those on segments and on the amount moved;
`win` says that the operand may be a window (group 0x6). -/
def TDesc.checks (d : TDesc) (win : Bool) : Bool :=
  if !d.rankOk then false
  else if d.isEmpty then true
  else match fmtOf d.format with
    | none => false
    | some f =>
      let al := alignOf f
      let rowB := byteOff f d.row
      decide (d.space ≤ 8) && (d.space != 8 || win)
        && (!f.mx || d.row % 32 == 0)
        && (f.elem.w ≥ 8 || f.mx || d.row * f.elem.w % 8 == 0)
        && (d.space == 8 ||
            (decide (d.tileDim < d.rank)
              && (al == 0 || d.base.toNat % al == 0)
              && d.strides.all (fun st => if al = 0 then rowB = 0 || st.toInt % rowB == 0 else st.toInt % al == 0)))
        && (d.space != 2 || d.base.toNat < 2 ^ 25)

/-! ## Layout -/

/-- The indices of element `i` in walk order, innermost first. -/
def indices : List Nat → Nat → List Nat
  | [], _ => []
  | e :: es, i => (i % max 1 e) :: indices es (i / max 1 e)

/-- The address of the start of the row that holds element `i`, modulo 2^64. -/
def TDesc.rowAddr (d : TDesc) (i : Nat) : Word :=
  (((indices d.extents i).tail).zip d.strides).foldl
    (fun a p => a + BitVec.ofNat 64 p.1 * p.2) d.base

/-- Byte runs (address, length) of `n` elements from element `i`, row by row; for a window operand the addresses are
window byte offsets of the dense layout (R237). -/
def TDesc.runs (d : TDesc) : Nat → Nat → Nat → List (Word × Nat)
  | 0, _, _ => []
  | fuel + 1, i, n =>
    if n = 0 then []
    else if d.space = 8 then
      [(BitVec.ofNat 64 (bits d.base 0 20 * 256 + byteOff d.fmt i), byteOff d.fmt (i + n) - byteOff d.fmt i)]
    else
      let j := i % max 1 d.row
      let k := min n (d.row - j)
      (d.rowAddr i + BitVec.ofNat 64 (byteOff d.fmt j), byteOff d.fmt (j + k) - byteOff d.fmt j)
        :: d.runs fuel (i + k) (n - k)

/-- The byte runs of elements `i` to `i + n − 1`. -/
def TDesc.span (d : TDesc) (i n : Nat) : List (Word × Nat) := d.runs (n + 1) i n

/-- Bytes of `n` elements from element `i` in the dense layout. -/
def TDesc.denseBytes (d : TDesc) (i n : Nat) : Nat := byteOff d.fmt (i + n) - byteOff d.fmt i

/-- How far the rows reach below the first row, and above it (R48: strides are signed). -/
def TDesc.reach (d : TDesc) : Int × Int :=
  ((d.extents.tail).zip d.strides).foldl (fun (a : Int × Int) p =>
    let k : Int := ((p.1 - 1 : Nat) : Int) * p.2.toInt
    if p.2.toInt < 0 then (a.1 + k, a.2) else (a.1, a.2 + k)) (0, 0)

/-- Lowest address of the tensor and the address after its highest byte, without wrapping. -/
def TDesc.hull (d : TDesc) : Int × Int :=
  ((d.base.toNat : Int) + d.reach.1, (d.base.toNat : Int) + d.reach.2 + (byteOff d.fmt d.row : Nat))

/-! ## Segments (R51) -/

/-- Elements of one segment when `d` is the segment source and `g` the largest element group of the instruction. -/
def TDesc.segElems (d : TDesc) (g : Nat) : Nat :=
  if d.tileDim = 0 then
    let most := if d.fmt.mx then 65536 / blockBytes d.fmt.elem * 32 else 65536 * 8 / d.fmt.elem.w
    most / g * g
  else prod (d.extents.take d.tileDim)

/-- How many segments: one for an empty tensor. -/
def TDesc.segments (d : TDesc) (g : Nat) : Nat :=
  if d.count = 0 then 1 else (d.count + d.segElems g - 1) / max 1 (d.segElems g)

/-- First element and element count of segment `k`. -/
def TDesc.segment (d : TDesc) (g k : Nat) : Nat × Nat :=
  let n := d.segElems g
  (k * n, min n (d.count - k * n))

/-! ## Allocations (R48, R326, R371) -/

/-- First byte and length of the instance's part of an on-chip space or of adapter memory. -/
def State.alloc (s : State) (i : BitVec 8) (space : Nat) : Nat × Nat :=
  match space with
  | 0 => if i = 0 then (0, s.memBytes) else
      let r := s.range i .memGib
      (r.1 * 2 ^ 30, r.2 * 2 ^ 30)
  | 1 => if i = 0 then (0, tmemSize) else
      let r := s.range i .tmem
      (r.1 * 65536, r.2 * 65536)
  | _ => if i = 0 then (0, nbufSize) else
      let r := s.range i .nbuf
      (r.1 * 65536, r.2 * 65536)

/-- The byte runs of an operand-buffer tensor lie below the instance's count of units in their arrays; a run does not go
on from one array into the next (R48). (Log 15: DEDUCED.) -/
def nbufRunsIn (len : Nat) (rs : List (Word × Nat)) : Bool :=
  rs.all (fun r => decide (r.1.toNat % 2 ^ 23 + r.2 ≤ len))

/-- The tensor lies in the instance's allocation; spaces 0x3 to 0x8 have none. (Log 15: DEDUCED.) -/
def State.tensorIn (s : State) (i : BitVec 8) (d : TDesc) : Bool :=
  let n := (s.alloc i d.space).2
  if 3 ≤ d.space then true
  else if d.space = 2 then
    decide (0 ≤ d.hull.1) && decide (d.hull.2 ≤ 2 ^ 25) && nbufRunsIn n (d.span 0 d.count)
  else decide (0 ≤ d.hull.1) && decide (d.hull.2 ≤ n)

/-- The tensor touches a protected region of adapter memory (R371). -/
def State.tensorProt (s : State) (i : BitVec 8) (d : TDesc) : Bool :=
  d.space == 0 &&
    s.prot ((s.alloc i 0).1 + d.hull.1.toNat) (d.hull.2 - d.hull.1).toNat &&
    (d.span 0 d.count).any (fun r => s.prot ((s.alloc i 0).1 + r.1.toNat) r.2)

/-- Where a byte of an on-chip space or of adapter memory stands. -/
inductive Loc
  | mem (a : Nat)
  | tmem (a : Nat)
  | nbuf (a : Nat)
  deriving DecidableEq, Repr

/-- The place of an address of spaces 0x0 to 0x2 for an instance on a cluster. -/
def State.locOf (s : State) (i : BitVec 8) (clu space : Nat) (a : Word) : Loc :=
  match space with
  | 0 => .mem ((s.alloc i 0).1 + a.toNat)
  | 1 => .tmem (tmemSize * clu + (s.alloc i 1).1 + a.toNat)
  | _ => .nbuf (nbufSize * (a.toNat / 2 ^ 23) + (s.alloc i 2).1 + a.toNat % 2 ^ 23)

/-- Reads a byte run of an internal space. -/
def State.readLoc (s : State) (i : BitVec 8) (l : Loc) (n : Nat) : List Byte × Bool × State :=
  match l with
  | .mem a => s.readMem i a n
  | .tmem a => (readTab s.tmem a n, false, s)
  | .nbuf a => (readTab s.nbuf a n, false, s)

/-- Writes a byte run of an internal space; the flag says that a word failed. Words of the on-chip stores that the run covers in
part are written by a read-modify-write too (R362). (Log 133: DEDUCED.) -/
def State.writeLoc (s : State) (i : BitVec 8) (l : Loc) (bs : List Byte) : Bool × State :=
  match l with
  | .mem a => s.writeMem i a bs
  | .tmem a => (false, { s.sramRmw a (bs.map some) with tmem := writeTab s.tmem a bs })
  | .nbuf a => (false, { s.sramRmw a (bs.map some) with nbuf := writeTab s.nbuf a bs })

/-- Reads byte runs of an internal space one after the other. -/
def State.readRuns (s : State) (i : BitVec 8) (clu space : Nat) (rs : List (Word × Nat)) : List Byte × Bool × State :=
  rs.foldl (fun (acc : List Byte × Bool × State) r =>
    let x := acc.2.2.readLoc i (acc.2.2.locOf i clu space r.1) r.2
    (acc.1 ++ x.1, acc.2.1 || x.2.1, x.2.2)) ([], false, s)

/-- Writes bytes to byte runs of an internal space. -/
def State.writeRuns (s : State) (i : BitVec 8) (clu space : Nat) (rs : List (Word × Nat)) (bs : List Byte) :
    Bool × State :=
  let r := rs.foldl (fun (acc : Bool × List Byte × State) r =>
    let x := acc.2.2.writeLoc i (acc.2.2.locOf i clu space r.1) (acc.2.1.take r.2)
    (acc.1 || x.1, acc.2.1.drop r.2, x.2)) (false, bs, s)
  (r.1, r.2.2)

end Sys2Proof.Machine
end

