-- ==== Sys2Proof/Machine/Xlat.lean ====
section
/-!
DEFINITION. The device translation cache and page requests: R322–R325.
-/

namespace Sys2Proof.Machine

/-- The port of a space 0x3 to 0x7. -/
def portOf (space : Nat) : Port :=
  match space with
  | 3 => .h
  | 4 => .a 0
  | 5 => .a 1
  | 6 => .a 2
  | _ => .a 3

/-- The space of a port. -/
def spaceOf : Port → Nat
  | .h => 3
  | .a q => 4 + q.val

/-- The space lies outside the adapter. -/
def isExt (space : Nat) : Bool := decide (3 ≤ space) && decide (space ≤ 7)

/-- Holds a translation in the cache, which replaces the least recently used entry when full (R323). -/
def State.fillAtc (s : State) (e : Atc) : State :=
  let rest := s.atc.filter (fun x => !x.covers e.key)
  { s with atc := (if rest.length < 16384 then rest else rest.tail) ++ [e] }

/-- The pages that byte runs touch, in order, each once. -/
def pagesOf (rs : List (Word × Nat)) : List Word := (rs.flatMap pagesOfRun).eraseDups

/-! ## Page requests (R64, R325) -/

/-- The index of a port's page-request allocation. -/
def allocIdx : Port → Nat
  | .h => 0
  | .a q => 1 + q.val

/-- The number under which a port's function is kept. -/
def fnIdx (p : Port) (fn : BitVec 8) : Nat :=
  match p with
  | .h => fn.toNat
  | .a q => 256 + q.val

/-- The page requests that a port can have outstanding (R310, R313). -/
def priCapacity : Nat := 512

/-- A page request may go out: the port's allocation, within its capacity, has room, and the function may request pages. -/
def State.mayRequest (s : State) (k : XKey) : Bool :=
  decide ((s.pages.filter (fun r => r.sent && r.key.port == k.port)).length
      < min priCapacity (tget 0 s.priAlloc (allocIdx k.port)))
    && (s.fn (fnIdx k.port k.fn)).pri && !s.priStop.contains (k.port, k.fn)

/-- Sends the waiting page request with this handle, if it may go out. -/
def State.sendPage (s : State) (id : Nat) : State :=
  match s.pages.find? (fun r => r.id = id ∧ r.sent = false) with
  | none => s
  | some r =>
    if s.mayRequest r.key then
      ({ s with pages := s.pages.map (fun (x : PageReq) => if x.id = id then { x with sent := true } else x) : State }.emit
        (.pageRequest r.key id)).bump (Reg.XLT_CNT 3)
    else s

/-- Sends every waiting page request that may go out, oldest first. -/
def State.flushPages (s : State) : State := (s.pages.map (·.id)).foldl State.sendPage s

end Sys2Proof.Machine
end

