-- ==== Sys2Proof/Machine/Ports.lean ====
section
/-!
DEFINITION. The shared operations on ports: statistics (R354), timestamps (R351), codewords (R279), what goes on the wire
(R204, R276), the link layer's frames (R277, R278), the forwarding path (R268, R274) and the raw queues
(R348–R350).
-/

namespace Sys2Proof.Machine

/-- Destination address of INIT frames (R276). -/
def initMac : BitVec 48 := 0x03BA30000001#48

/-! ## Statistics (R354) and timestamps (R351) -/

/-- Adds to a statistics counter of a sub-port. -/
def State.mac (s : State) (n k j c : Nat) : State := s.count (Reg.MAC_CNT n k j) c

/-- Counts a frame that a sub-port sends. -/
def State.macTx (s : State) (n k len : Nat) : State := (s.mac n k 2 1).mac n k 3 len

/-- A timestamp under a compensation in ps: Meridian time, rounded to the nearest ns. (Log 55: DESIGN CHOICE.) -/
def State.stamp (s : State) (comp : BitVec 32) : Word :=
  BitVec.ofInt 64 (((s.time.now.toNat : Int) * 1000 + comp.toInt * 2 ^ 32 + 500 * 2 ^ 32) / (1000 * 2 ^ 32))

/-- The transmit timestamp of a port. (Log 55: DESIGN CHOICE.) -/
def State.txStamp (s : State) (n : Nat) : Word := s.stamp (BitVec.ofNat 32 (s.fld (Reg.MAC_PTP_COMP n) 0 32))

/-- The receive timestamp of a port. (Log 55: DESIGN CHOICE.) -/
def State.rxStamp (s : State) (n : Nat) : Word := s.stamp (BitVec.ofNat 32 (s.fld (Reg.MAC_PTP_COMP n) 32 32))

/-! ## Codewords (R279, R343) -/

/-- replay_budget_us in ps. -/
def State.budget (s : State) : Nat := us (s.fld Reg.FAB_LINK_CFG 0 8)

/-- Counts the codewords that came with a frame. More than fec_fail_max uncorrectable ones within one replay budget mark the
sub-port for being declared down. (Log 59: DESIGN CHOICE.) -/
def State.fecSeen (s : State) (n k : Nat) (c : Fec) : State :=
  let s1 := ((s.mac n k 11 c.corr).mac n k 12 c.bad).mac n k 13 c.sym
  if c.bad = 0 then s1
  else s1.updSub n k (fun x =>
    let w := x.fecBad.filter (fun e => decide (s.ps < e.1 + s.budget)) ++ [(s.ps, c.bad)]
    { x with fecBad := w
             fecDue := x.fecDue || decide (s.fld Reg.FAB_LINK_CFG 24 8 < (w.map (·.2)).foldl (· + ·) 0) })

/-! ## The raw transmit queue (R350) -/

/-- The transmit queue's index register. -/
def State.tqProd (s : State) (n : Nat) : BitVec 32 := BitVec.ofNat 32 (s.fld (Reg.MAC_TQ_PROD n) 0 32)

/-- Slots handled. -/
def State.tqCons (s : State) (n : Nat) : BitVec 32 := BitVec.ofNat 32 (s.fld (Reg.MAC_TQ_CONS n) 0 32)

/-- Address of the slot in hand. -/
def State.tqVa (s : State) (n : Nat) : Word :=
  s.reg (Reg.MAC_TQ_BASE n)
    + BitVec.ofNat 64 (16384 * ((s.tqCons n).toNat % 2 ^ s.fld (Reg.MAC_TQ_CFG n) 0 4))

/-- The port of the transmit queue's memory. -/
def State.tqPort (s : State) (n : Nat) : Port := portOf (s.fld (Reg.MAC_TQ_CFG n) 4 4)

/-- A slot of the port's transmit queue is being read, or waits in an egress queue. -/
def State.tqBusy (s : State) (n : Nat) : Bool :=
  s.reads.any (fun r => match r.kind with | .rawTx m _ => m == n | _ => false)
    || (List.range 4).any (fun k => (s.sub n k).queue.any (fun f => match f.body with | .raw .. => true | _ => false))

/-- Reads the next slot that software has handed over (R348, R322). -/
def State.tqNext (s : State) (n : Nat) : State :=
  if !s.flag (Reg.MAC_TQ_CFG n) 8 || s.tqProd n == s.tqCons n || s.tqBusy n then s
  else
    let r := s.engineReach (s.tqPort n) 0 (s.tqVa n) 16384 false
    if !r.1 then r.2
    else
      let keys := (pagesOfRun (s.tqVa n, 16384)).map (fun pg => s.xkey 0 (s.tqPort n) pg)
      let s1 : State := { r.2 with
        fresh := r.2.fresh + 1
        reads := r.2.reads ++ [⟨r.2.fresh, .rawTx n ((s.tqCons n).toNat), 16384, keys, true⟩] }
      s1.emit (.memRead (s.tqPort n) 0 (s.tqVa n) 16384)

/-- Ends a slot: CONS advances, with the interrupt of a slot sent. (Log 54: DESIGN CHOICE.) -/
def State.tqDone (s : State) (n : Nat) (sent : Bool) : State :=
  let c := s.reg (Reg.MAC_TQ_CFG n)
  let s1 := s.setFld (Reg.MAC_TQ_CONS n) 0 32 ((s.tqCons n).toNat + 1)
  let s2 := if sent && bit c 20 then s1.msix 0 (bits c 9 11) else s1
  s2.tqNext n

/-- Writes word 1 of the slot in hand when its header asks for it. -/
def State.tqStamp (s : State) (n : Nat) (w0 ts : Word) : State :=
  if bit w0 19 then
    let r := s.engineReach (s.tqPort n) 0 (s.tqVa n + 8) 8 true
    if r.1 then r.2.emit (.memWrite (s.tqPort n) 0 (s.tqVa n + 8) (leBytes ts.toNat 8)) else r.2
  else s

/-- Ends a slot that sends nothing; the timestamp that its word 1 then gets is left open. (Log 54: DESIGN CHOICE.) -/
def State.tqSkip (s : State) (n : Nat) (w0 : Word) : State :=
  if bit w0 19 then (s.takeFree.2.tqStamp n w0 s.takeFree.1).tqDone n false else s.tqDone n false

/-- The header of a slot names no sub-port or sets a reserved bit. (Log 54: DESIGN CHOICE.) -/
def State.tqBad (s : State) (n : Nat) (w0 : Word) : Bool := decide (s.subCount n ≤ bits w0 14 2) || bits w0 21 43 != 0

/-- A slot of the transmit queue has been read: it is queued on its sub-port once the egress queue has room.
(Log 54: DESIGN CHOICE.) -/
def State.rawReturn (s : State) (id n : Nat) (ext : List Byte) (err : Bool) : State :=
  let w0 := BitVec.ofNat 64 (ofLe (ext.take 8))
  let len := bits w0 0 14
  let k := bits w0 14 2
  let s1 : State := { s with reads := s.reads.filter (fun r => r.id ≠ id) }
  if err then s1.tqDone n false
  else if ext.length < 64 then s
  else if s.tqBad n w0 ∨ (len ≠ 0 ∧ (len ≤ 13 ∨ s.fld (Reg.MAC_FRAME n) 0 14 < len + 4)) then
    (s1.mac n (if s.subCount n ≤ k then 0 else k) 14 1).tqSkip n w0
  else if len = 0 then s1.tqSkip n w0
  else if ext.length < 64 + len ∨ !s.egressFits (4 * n + k) (max len 60 + 4) then s
  else
    let bs := (ext.drop 64).take len
    s1.enqueue (4 * n + k)
      { prio := bits w0 16 3, len := max len 60 + 4, vc := 0, vid := 0, body := .raw w0 (bs ++ List.replicate (60 - len) 0),
        seq := 0, sentAt := 0, stalled := false }

/-! ## Raw receive queues (R349) -/

/-- The words of a receive slot's header. -/
def rqHeader (len k flt : Nat) (tagged phase : Bool) (ts : Word) : List Byte :=
  leBytes (len % 2 ^ 14 + k % 4 * 2 ^ 14 + flt % 16 * 2 ^ 16 + 2 ^ 20 + b2n tagged * 2 ^ 21 + b2n phase * 2 ^ 63) 8
    ++ leBytes ts.toNat 8 ++ List.replicate 48 0

/-- Writes a frame to a receive queue, or drops it when the queue is full, disabled or out of reach.
(Log 122: DESIGN CHOICE.) -/
def State.rqPut (s : State) (n k q flt : Nat) (f : Frame) : State :=
  let c := s.reg (Reg.MAC_RQ_CFG n q)
  let prod := s.fld (Reg.MAC_RQ_PROD n q) 0 32
  let cons := s.fld (Reg.MAC_RQ_CONS n q) 0 32
  let size := 2 ^ bits c 0 4
  let port := portOf (bits c 4 4)
  let va := s.reg (Reg.MAC_RQ_BASE n q) + BitVec.ofNat 64 (16384 * (prod % size))
  if !bit c 8 ∨ (BitVec.ofNat 32 prod - BitVec.ofNat 32 cons).toNat = size then s.mac n k 8 1
  else
    let r := s.engineReach port 0 va (64 + f.bytes.length) true
    if !r.1 then r.2.mac n k 8 1
    else
      let h := rqHeader f.bytes.length k flt f.tagged (decide (prod / size % 2 = 0)) (s.rxStamp n)
      let s1 := (r.2.emit (.memWrite port 0 va (h ++ f.bytes))).setFld (Reg.MAC_RQ_PROD n q) 0 32 (prod + 1)
      if bit c 20 then s1.msix 0 (bits c 9 11) else s1

/-! ## What goes on the wire (R204, R268, R276) -/

/-- The frame with a packet: an Ethernet frame, or in direct mode a DATA frame with a sequence number. -/
def State.wirePkt (s : State) (n k : Nat) (f : EgFrame) (dst : BitVec 48) (ip : IpHdr) (p : Packet) : WireFrame :=
  let x := s.sub n k
  if s.direct then .data x.peerMac (s.portMac n k s.me) f.vc (f.prio == 7) f.seq x.seqRx x.ownCr s.me ip p
  else .ether dst (s.portMac n k s.me) f.vid ip p

/-- What an egress frame is on the wire. -/
def State.wireOf (s : State) (n k : Nat) (f : EgFrame) : WireFrame :=
  match f.body with
  | .own dst ip p => s.wirePkt n k f dst ip p
  | .fwd dst ip x => s.wirePkt n k f dst ip x.pkt
  | .raw w0 bs => .raw (if bit w0 20 then oneStep bs (s.txStamp n) else bs)
  | .mgmt dst a q nodes => .mgmt dst (s.portMac n k s.me) f.vid a q nodes

/-- The bucket of Tally for an egress frame (R436). -/
def State.bucketOf (s : State) (f : EgFrame) : Nat :=
  match f.body with
  | .own _ _ p => (s.ctx p.srcCtx).inst.toNat
  | .fwd .. => transit
  | .raw .. => 0
  | .mgmt .. => transit

/-- The frame belongs to the direct-mode link layer. -/
def State.isData (s : State) (f : EgFrame) : Bool :=
  s.direct && match f.body with
    | .raw .. => false
    | .mgmt .. => false
    | _ => true

/-- Puts a frame on the wire. -/
def State.putWire (s : State) (n k : Nat) (f : EgFrame) : State :=
  (s.macTx n k f.len).emit (.wire n k f.prio f.len (s.bucketOf f) (s.wireOf n k f))

/-- Sends a frame of the link layer without a packet: 1 CTRL, 2 REPLAY, 3 INIT. (Log 53: DESIGN CHOICE.) -/
def State.sendLink (s : State) (n k ltype : Nat) (seq : BitVec 16) : State :=
  let x := s.sub n k
  ((s.updSub n k (fun x => { x with ctrlDue := none })).macTx n k 64).emit
    (.link n k ltype (if ltype = 3 then initMac else x.peerMac) (s.portMac n k s.me) seq x.seqRx x.ownCr s.me)

/-! ## The forwarding path (R268, R274) -/

/-- Marks a forwarded packet: `q` bytes stand in the egress queue of its class. (Log 52: DESIGN CHOICE.) -/
def State.ecnMark (s : State) (ip : IpHdr) (q : Nat) : IpHdr × State :=
  let kmin := s.fld Reg.FAB_ECN 0 12 * 1024
  let kmax := s.fld Reg.FAB_ECN 12 12 * 1024
  let pmax := s.fld Reg.FAB_ECN 24 8
  if !s.flag Reg.FAB_CTRL 2 ∨ (ip.ecn ≠ 1 ∧ ip.ecn ≠ 2) ∨ q < kmin then (ip, s)
  else if kmax ≤ kmin ∨ kmax ≤ q then ({ ip with ecn := 3 }, s.bump (Reg.FAB_CNT 3))
  else if q = kmin ∨ pmax = 0 then (ip, s)
  else
    let b := s.takeBit
    if b.1 then ({ ip with ecn := 3 }, b.2.bump (Reg.FAB_CNT 3)) else (ip, b.2)

/-- Queues a packet for forwarding on a column port, if its egress queue has room. (Log 51: DESIGN CHOICE.) -/
def State.forward (s : State) (prio len : Nat) (ip : IpHdr) (x : Rx) : Option State :=
  match wrrPick s.fwdWrr (s.planes 2 (fun a => a == ip.dstV6.setWidth 16)) with
  | none => none
  | some (i, t) =>
    if s.egressFits i len then
      let m := s.ecnMark ip ((s.sub (i / 4) (i % 4)).queued (some prio))
      let s1 : State := { m.2 with fwdWrr := t }
      let dst := s.portMac (i / 4) (i % 4) (ip.dstV6.setWidth 16)
      some ((s1.enqueue i { prio := prio, len := len, vc := 2, vid := s.vid (i / 4),
                            body := .fwd dst { m.1 with hop := ip.hop - 1 } x, seq := 0, sentAt := 0, stalled := false }).bump
        (Reg.FAB_CNT 0))
    else none

/-- Forwards the packets that wait in ingress for room in an egress queue, oldest first. (Log 51: DESIGN CHOICE.) -/
def State.pumpForward (s : State) : State :=
  (s.ingress.filter (fun f => f.fwd.isSome)).foldl (fun s f =>
    match f.fwd.bind (fun ip => s.forward f.prio f.len ip f.rx) with
    | some t => t.inTake f
    | none => s) s

/-- This adapter forwards a packet that arrived on port `n`. -/
def State.mayForward (s : State) (n : Nat) (ip : IpHdr) : Bool :=
  let dst : AdapterId := ip.dstV6.setWidth 16
  s.role n == 1 && colOf dst == colOf s.me && rowOf dst != rowOf s.me && s.flag Reg.FAB_CTRL 1
    && decide (1 < ip.hop.toNat) && !(s.planes 2 (fun a => a == dst)).isEmpty

/-- A packet of adapter `src` for group `g` is accepted on port `n` (R281). -/
def State.mcAccept (s : State) (n g : Nat) (src : AdapterId) : Bool :=
  s.member g && (s.mc g).role == s.role n && src != s.me

/-- An accepted transport packet goes to the transport, to the forwarding path, or is discarded (R265, R281). -/
def State.transportIn (s : State) (f : InFrame) (ip : IpHdr) : State :=
  let dst : AdapterId := ip.dstV6.setWidth 16
  if ip.dstV6 = s.v6 s.me then s.inPut f
  else if ip.dstV6 = groupV6 dst.toNat then
    if s.mcAccept f.port dst.toNat f.rx.pkt.src then s.inPut f else ((s.inPut f).inTake f).bump (Reg.FAB_CNT 2)
  else if ip.dstV6 = s.v6 dst ∧ gridOf dst = gridOf s.me ∧ s.mayForward f.port ip then
    match s.forward f.prio f.len ip f.rx with
    | some t => (t.inPut f).inTake f
    | none => s.inPut { f with fwd := some ip }
  else ((s.inPut f).inTake f).bump (Reg.FAB_CNT 1)

/-- The bucket of Tally for a received transport packet (R436). -/
def State.bucketIn (s : State) (n : Nat) (ip : IpHdr) (x : Rx) : Nat :=
  let g := (ip.dstV6.setWidth 16 : AdapterId).toNat
  if ip.dstV6 = s.v6 s.me ∨ (ip.dstV6 = groupV6 g ∧ s.mcAccept n g x.pkt.src) then
    (s.ctx x.pkt.dstCtx).inst.toNat
  else transit

end Sys2Proof.Machine
end

