-- ==== Sys2Proof/Machine/Frames.lean ====
section
/-!
DEFINITION. Frames received and sent: FRAME_RECEIVE (R265, R345, R347), FRAME_TRANSMIT (R346), priority flow control (R272)
and the direct-mode link layer (R275–R278).
-/

namespace Sys2Proof.Machine

/-! ## Reception (R347) -/

/-- The addresses of PTP and raw queues that step 2 accepts always. -/
def fixedMacs : List (BitVec 48) :=
  [0x011B19000000#48, 0x0180C200000E#48, 0x333300000181#48, 0x33330000006B#48]

/-- A multicast MAC address. -/
def isMcMac (a : BitVec 48) : Bool := a.getLsbD 40

/-- A frame for a multicast group is accepted on a port (R281). -/
def State.groupFrameOk (s : State) (n : Nat) (f : Frame) : Bool :=
  let g := f.dst.toNat % 2 ^ 16
  if f.kind = .transport then s.mcAccept n g f.rx.pkt.src else s.member g && (s.mc g).role == s.role n

/-- Step 2: the destination address is accepted (R265). -/
def State.macOk (s : State) (n k : Nat) (f : Frame) : Bool :=
  f.dst == s.portMac n k s.me
    || (f.dst.toNat / 2 ^ 16 == 0x3333BA30 && s.groupFrameOk n f)
    || fixedMacs.contains f.dst
    || (f.dst == 0xFFFFFFFFFFFF#48 && s.flag (Reg.MAC_CTRL n) 6)
    || (isMcMac f.dst && f.dst.toNat == s.fld (Reg.MAC_MC_EXTRA n) 0 48)
    || (s.direct && f.dst == initMac)

/-- A filter entry matches a frame. -/
def State.fltHit (s : State) (n k : Nat) (f : Frame) (v : Word) : Bool :=
  bit v 44
    && (bit v 16 || bits v 0 16 == f.etype.toNat)
    && (match bits v 29 2 with
      | 0 => true
      | 1 => f.tagged && bits v 17 12 == f.vid.toNat
      | _ => !f.tagged)
    && (BitVec.ofNat 8 (bits v 31 8)).getLsbD f.pcp.toNat
    && match bits v 39 2 with
      | 0 => true
      | 1 => f.dst == s.portMac n k s.me
      | 2 => f.dst == 0xFFFFFFFFFFFF#48
      | _ => isMcMac f.dst

/-- Step 8: the filter table. (Log 50: DESIGN CHOICE.) -/
def State.rxFilter (s : State) (n k : Nat) (f : Frame) : State :=
  match (List.range 16).find? (fun i => s.fltHit n k f (s.reg (Reg.MAC_FLT n i))) with
  | none => (s.mac n k 7 1).meter transit .rx f.len
  | some i =>
    let v := s.reg (Reg.MAC_FLT n i)
    if bit v 43 then (s.mac n k 7 1).meter transit .rx f.len
    else (s.rqPut n k (bits v 41 2) i f).meter 0 .rx f.len

/-- A frame dropped by the fabric's checks. -/
def State.rxDrop (s : State) (f : Frame) : State := (s.bump (Reg.FAB_CNT 2)).meter transit .rx f.len

/-- A frame without flow control that finds its priority's buffer full (R272), or any that finds the whole buffer full
(R344). -/
def State.noRoom (s : State) (n k : Nat) (f : Frame) : Bool :=
  !s.direct && (s.ingressFull n k f.len || (!s.pfcOn f.pcp.toNat
    && decide (s.pfcBytes n 8 + s.pfcBytes n 32 < s.inBytes n k f.pcp.toNat + f.len)))

/-- Steps 5 to 8. A PTP frame for Zenith firmware is handed to it with its timestamp (R351). -/
def State.rxClass (s : State) (n k : Nat) (f : Frame) : State :=
  match f.kind with
  | .link => if s.direct then s else s.rxFilter n k f
  | .mgmt =>
    if s.flag Reg.DBG_CTRL 12 then s.meter transit .rx f.len else (s.mac n k 7 1).meter transit .rx f.len
  | .ptp =>
    let s1 := s.mac n k 9 1
    if s.flag (Reg.MAC_CTRL n) 5 then (s1.meter transit .rx f.len).emit (.firmware n k (s.rxStamp n) f.bytes)
    else s1.rxFilter n k f
  | .transport =>
    if f.tagged then
      let ip := ipAt f.bytes
      (s.transportIn ⟨n, k, f.pcp.toNat, f.len, vcOf f.rx.pkt.typ, f.rx, none, s.ck⟩ ip).meter (s.bucketIn n ip f.rx) .rx f.len
    else s.rxFilter n k f
  | _ => s.rxFilter n k f

/-- Steps 2 to 8. (Log 50: DESIGN CHOICE.) -/
def State.rxFrom2 (s : State) (n k : Nat) (f : Frame) : State :=
  if s.noRoom n k f then s.rxDrop f
  else if !s.macOk n k f then (s.mac n k 7 1).rxDrop f
  else match f.kind with
    | .pause => (s.mac n k 15 1).meter transit .rx f.len
    | .pfc => s.meter transit .rx f.len
    | _ =>
      if f.tagged ∧ !s.direct ∧ f.vid ≠ s.vid n then s.rxDrop f
      else s.rxClass n k f

/-- A received frame goes through the steps. A sub-port that is not up receives none; on a port of role unused a transport
frame is counted (R262). (Log 50: DESIGN CHOICE.) -/
def State.frameReceive (s : State) (n k : Nat) (f : Frame) : State :=
  if s.role n = 0 then
    match f.kind with
    | .transport => s.bump (Reg.FAB_CNT 2)
    | _ => s
  else if !(s.sub n k).isUp then s
  else
    let s := s.fecSeen n k f.fec
    if !f.good then s.mac n k 4 1
    else if f.len < 64 then s.mac n k 5 1
    else if s.fld (Reg.MAC_FRAME n) 0 14 < f.len then s.mac n k 6 1
    else ((s.mac n k 0 1).mac n k 1 f.len).rxFrom2 n k f

/-- FRAME_RECEIVE. -/
def execFrameReceive (port : Fin 6) (sub : Fin 4) (f : Frame) (s : State) : Out :=
  if s.alive then .next (s.frameReceive port.val sub.val f) else .next s

/-! ## Transmission (R346) -/

/-- Credits of a channel cover a frame (R278). -/
def Sub.hasCredit (x : Sub) (f : EgFrame) : Bool :=
  decide (0 ≤ ((x.peerCr.getD f.vc 0) - (x.used.getD f.vc 0 + BitVec.ofNat 16 (creditsOf f.len))).toInt)

/-- A sub-port's share of its port's replay buffer has room for one more frame (R277, R344). (Log 135: DEDUCED.) -/
def State.replayFits (s : State) (n k len : Nat) : Bool :=
  decide (((s.sub n k).held.map (·.len)).foldl (· + ·) 0 + len ≤ 512 * 1024 / s.subCount n)

/-- A frame may start: its priority is not paused in switched mode; in direct mode its channel holds credits and the
replay buffer has room (R277). -/
def State.mayStart (s : State) (n k : Nat) (f : EgFrame) : Bool :=
  let x := s.sub n k
  if s.direct then !s.isData f || (x.hasCredit f && s.replayFits n k f.len)
  else decide (x.paused.getD f.prio 0 ≤ s.ps)

/-- The first frame of a class that may start; within a class a frame waits only for its own channel. -/
def State.candidate (s : State) (n k c : Nat) : Option EgFrame :=
  (((s.sub n k).queue.filter (fun f => f.prio = c)).foldl (fun (acc : Option EgFrame × List Nat) f =>
    if acc.1.isSome || acc.2.contains f.vc then acc
    else if s.mayStart n k f then (some f, acc.2)
    else (none, f.vc :: acc.2)) (none, [])).1

/-- Deficit weighted round robin over TC0–TC6 from class `t`, which has had its weight at this visit if `v`: the class
served and the deficits. `cand` gives the length of a class's candidate. -/
def drr (cand : Nat → Option Nat) (none_ : Nat → Bool) (quantum : Nat → Nat) :
    Nat → Nat → Bool → List Nat → Option (Nat × List Nat)
  | 0, _, _, _ => none
  | fuel + 1, t, v, d =>
    match cand t with
    | none => drr cand none_ quantum fuel ((t + 1) % 7) false (if none_ t then d.set t 0 else d)
    | some len =>
      let d1 := if v then d else d.set t (d.getD t 0 + quantum t)
      if len ≤ d1.getD t 0 then some (t, d1.set t (d1.getD t 0 - len))
      else drr cand none_ quantum fuel ((t + 1) % 7) false d1

/-- Visits within which some class with a candidate is served: every round adds at least 256 B. -/
def drrFuel : Nat := 462

/-- Picks the next frame of a sub-port: TC7 first, then the round robin. -/
def State.pickFrame (s : State) (n k : Nat) : Option (EgFrame × List Nat × Nat) :=
  let x := s.sub n k
  match s.candidate n k 7 with
  | some f => some (f, x.deficit, x.turn)
  | none =>
    let r := drr (fun c => (s.candidate n k c).map (·.len)) (fun c => x.queue.all (fun f => f.prio != c))
      (fun c => 256 * (s.fld (Reg.MAC_TC_WT n) (8 * c) 8 + 1)) drrFuel x.turn x.visit x.deficit
    r.bind (fun e => (s.candidate n k e.1).map (fun f => (f, e.2, e.1)))

/-- Counts the frames that wait for credits, each once (R284). -/
def State.countStalls (s : State) (n k : Nat) : State :=
  let x := s.sub n k
  let waits := fun (f : EgFrame) => s.isData f && !f.stalled && !x.hasCredit f
  (s.setSub n k { x with queue := x.queue.map (fun (f : EgFrame) => if waits f then { f with stalled := true } else f) }).count
    (Reg.FAB_CNT 9) (x.queue.filter waits).length

/-- A DATA frame takes its sequence number, its credits and a place in the replay buffer. (Log 53: DESIGN CHOICE.) -/
def State.asData (s : State) (n k : Nat) (f : EgFrame) : EgFrame × State :=
  if s.isData f then
    let x := s.sub n k
    let g : EgFrame := { f with seq := x.seqTx, sentAt := s.ps }
    (g, s.setSub n k { x with
      seqTx := x.seqTx + 1
      used := x.used.modify f.vc (· + BitVec.ofNat 16 (creditsOf f.len))
      held := x.held ++ [g]
      ctrlDue := none
      replayAt := match x.replayAt with
        | some t => some t
        | none => some (s.ps + s.fld Reg.FAB_LINK_CFG 8 16 * 1000) })
  else (f, s)

/-- What follows the sending of a raw frame: its timestamp and the end of its slot (R350, R351).
(Log 54: DESIGN CHOICE.) -/
def State.rawSent (s : State) (n k : Nat) (f : EgFrame) : State :=
  match f.body with
  | .raw w0 bs =>
    let s1 := if ptpEvent bs then s.mac n k 10 1 else s
    (s1.tqStamp n w0 (s.txStamp n)).tqDone n true
  | _ => s

/-- Sends the frame picked. -/
def State.sendFrame (s : State) (n k : Nat) (f : EgFrame) (deficit : List Nat) (turn : Nat) : State :=
  let s1 := s.updSub n k (fun x =>
    let q := x.queue.erase f
    { x with queue := q
             deficit := if f.prio ≠ 7 ∧ q.all (fun g => g.prio != f.prio) then deficit.set f.prio 0 else deficit
             turn := turn, visit := if f.prio = 7 then x.visit else true })
  let d := s1.asData n k f
  ((d.2.putWire n k d.1).rawSent n k f).pumpForward

/-- FRAME_TRANSMIT: the egress scheduler starts the next frame of a sub-port. -/
def State.frameTransmit (s : State) (n k : Nat) : State :=
  if !(s.sub n k).isUp ∨ s.role n = 0 then s
  else
    let s1 := s.countStalls n k
    match s1.pickFrame n k with
    | none => s1
    | some (f, d, t) => s1.sendFrame n k f d t

/-- FRAME_TRANSMIT. -/
def execFrameTransmit (port : Fin 6) (sub : Fin 4) (s : State) : Out :=
  if s.alive then .next (s.frameTransmit port.val sub.val) else .next s

/-! ## Priority flow control (R272) -/

/-- A quantum, 512 bit times of the sub-port's rate, in ps (200 Gb/s for each lane). -/
def quantumPs (lanes : Nat) : Nat := 2560 / max 1 lanes

/-- A received PFC frame pauses the priorities that it names; in direct mode it is discarded. -/
def State.pfcFrame (s : State) (n k : Nat) (mask : BitVec 8) (quanta : List Nat) : State :=
  let x := s.sub n k
  if s.direct ∨ !s.pfcRuns n k then s
  else
    let on := fun (p : Nat) => mask.getLsbD p && s.pfcOn p
    (s.setSub n k { x with paused := (x.paused.zipIdx).map (fun e =>
      if on e.2 then s.ps + quanta.getD e.2 0 * quantumPs x.lanes else e.1) }).bump (Reg.FAB_CNT 5)

/-- PFC_FRAME. -/
def execPfcFrame (port : Fin 6) (sub : Fin 4) (mask : BitVec 8) (quanta : List Nat) (s : State) : Out :=
  if s.alive then .next (s.pfcFrame port.val sub.val mask quanta) else .next s

/-- The pause of a priority is over. -/
def State.pfcExpiry (s : State) (n k p : Nat) : State :=
  s.updSub n k (fun x => if x.paused.getD p 0 ≤ s.ps then { x with paused := x.paused.set p 0 } else x)

/-- PFC_PAUSE_EXPIRY. -/
def execPfcPauseExpiry (port : Fin 6) (sub : Fin 4) (prio : Fin 8) (s : State) : Out :=
  if s.alive then .next (s.pfcExpiry port.val sub.val prio.val) else .next s

/-- Repeats the pause 10 µs after the last while the occupancy stays above xon. -/
def State.pfcRefresh (s : State) (n k p : Nat) : State :=
  let x := s.sub n k
  if x.xoff.getLsbD p && s.pfcOn p && s.pfcRuns n k && decide (x.xoffAt.getD p 0 + us 10 ≤ s.ps)
      && decide (s.pfcBytes n 20 < s.inBytes n k p) then
    (s.setSub n k { x with xoffAt := x.xoffAt.set p s.ps }).sendPfc n k p 65535
  else s

/-- PFC_REFRESH. -/
def execPfcRefresh (port : Fin 6) (sub : Fin 4) (prio : Fin 8) (s : State) : Out :=
  if s.alive then .next (s.pfcRefresh port.val sub.val prio.val) else .next s

/-! ## The link layer (R275–R278) -/

/-- Credits that a sub-port grants at first (R278). -/
def State.allocation (s : State) (n : Nat) : List (BitVec 16) :=
  [4096, 3072, 4096, 1024].map (fun c => BitVec.ofNat 16 (c / s.subCount n))

/-- The acknowledgement and the credits that every good frame carries: held frames before the acknowledged number leave
the replay buffer, and the timer starts anew when the acknowledgement advances. -/
def State.linkHead (s : State) (n k : Nat) (f : LinkFrame) : State :=
  let x := s.sub n k
  let keep := x.held.filter (fun g => decide (0 ≤ (g.seq - f.ack).toInt))
  let some_ := decide (keep.length < x.held.length)
  s.setSub n k { x with
    peerCr := [f.credit0, f.credit1, f.credit2, f.credit3]
    held := keep
    ackRx := f.ack
    replayAt := if keep.isEmpty then none
      else if some_ then some (s.ps + s.fld Reg.FAB_LINK_CFG 8 16 * 1000) else x.replayAt }

/-- A link-layer frame reaches a sub-port that runs. -/
def State.linkRuns (s : State) (n k : Nat) : Bool := s.direct && s.role n != 0 && (s.sub n k).isUp

/-- Requests a replay, at most once in a replay timer. -/
def State.askReplay (s : State) (n k : Nat) : State :=
  let x := s.sub n k
  if x.ackAt = 0 ∨ x.ackAt + s.fld Reg.FAB_LINK_CFG 8 16 * 1000 ≤ s.ps + 1 then
    ((s.setSub n k { x with ackAt := s.ps + 1 }).sendLink n k 2 0).bump (Reg.FAB_CNT 7)
  else s

/-- A received DATA frame: accepted in sequence, otherwise discarded with a replay request. On a port of role unused it is
discarded and counted (R262); one without a packet returns its credits at once. -/
def State.dataFrame (s : State) (n k : Nat) (f : LinkFrame) : State :=
  if s.role n = 0 then s.bump (Reg.FAB_CNT 2)
  else if !s.linkRuns n k then s
  else if !f.fcsOk then s.askReplay n k
  else
    let s1 := s.linkHead n k f
    if f.seq ≠ (s1.sub n k).seqRx then (s1.meter transit .rx f.len).askReplay n k
    else
      let s2 := s1.updSub n k (fun x => { x with
        seqRx := x.seqRx + 1
        ctrlDue := match x.ctrlDue with
          | some t => some t
          | none => some (s.ps + 100000) })
      match f.data with
      | none => (s2.creditBack n k f.vc.val f.len).meter transit .rx f.len
      | some (ip, x) =>
        let y : Rx := { x with ce := ip.ecn == 3 }
        (s2.transportIn ⟨n, k, y.tc.toNat, f.len, f.vc.val, y, none, s.ck⟩ ip).meter (s2.bucketIn n ip y) .rx f.len

/-- DATA_FRAME. -/
def execDataFrame (port : Fin 6) (sub : Fin 4) (f : LinkFrame) (s : State) : Out :=
  if s.alive then .next (s.dataFrame port.val sub.val f) else .next s

/-- A received CTRL frame. -/
def State.ctrlFrame (s : State) (n k : Nat) (f : LinkFrame) : State :=
  if s.linkRuns n k && f.fcsOk then (s.linkHead n k f).meter transit .rx f.len else s

/-- CTRL_FRAME. -/
def execCtrlFrame (port : Fin 6) (sub : Fin 4) (f : LinkFrame) (s : State) : Out :=
  if s.alive then .next (s.ctrlFrame port.val sub.val f) else .next s

/-- Sends every held frame again, in order, with its own number and content. (Log 53: DESIGN CHOICE.) -/
def State.replay (s : State) (n k : Nat) : State :=
  let x := s.sub n k
  let s1 := x.held.foldl (fun s f => (s.putWire n k f).bump (Reg.FAB_CNT 6)) s
  s1.updSub n k (fun x => { x with
    replayAt := if x.held.isEmpty then none else some (s.ps + s.fld Reg.FAB_LINK_CFG 8 16 * 1000) })

/-- A received REPLAY frame. -/
def State.replayFrame (s : State) (n k : Nat) (f : LinkFrame) : State :=
  if s.linkRuns n k && f.fcsOk then ((s.linkHead n k f).meter transit .rx f.len).replay n k else s

/-- REPLAY_FRAME. -/
def execReplayFrame (port : Fin 6) (sub : Fin 4) (f : LinkFrame) (s : State) : Out :=
  if s.alive then .next (s.replayFrame port.val sub.val f) else .next s

/-- The peer stands in this adapter's line of a role (R275). -/
def State.sameLine (s : State) (role : Nat) (a : AdapterId) : Bool :=
  gridOf a == gridOf s.me && (if role = 1 then rowOf a == rowOf s.me else colOf a == colOf s.me)

/-- A received INIT frame: the peer is recorded, the numbers and credits start anew, and a peer outside the line marks the
sub-port miswired; while the roles are not settled the peer is only recorded. (Log 53: DESIGN CHOICE.) -/
def State.initFrame (s : State) (n k : Nat) (f : LinkFrame) : State :=
  let x := s.sub n k
  if s.direct && x.isUp && f.fcsOk then
    (s.setSub n k { x with
      peer := f.adapter, peerMac := f.src, known := true, seqRx := f.seq
      used := [0, 0, 0, 0], peerCr := [f.credit0, f.credit1, f.credit2, f.credit3]
      link := if s.role n = 0 ∨ s.sameLine (s.role n) f.adapter then x.link else .miswired }).meter transit .rx f.len
  else s

/-- INIT_FRAME: links also come up during start-up and resets. -/
def execInitFrame (port : Fin 6) (sub : Fin 4) (f : LinkFrame) (s : State) : Out :=
  if s.tripped || s.twilight || s.refusedStart then .next s else .next (s.initFrame port.val sub.val f)

/-- No DATA frame went out within 100 ns of an acceptance: a CTRL frame carries the acknowledgement. -/
def State.ctrlTimer (s : State) (n k : Nat) : State :=
  match (s.sub n k).ctrlDue with
  | some t => if s.linkRuns n k && decide (t ≤ s.ps) then s.sendLink n k 1 0 else s
  | none => s

/-- CTRL_FRAME_TIMER. -/
def execCtrlFrameTimer (port : Fin 6) (sub : Fin 4) (s : State) : Out :=
  if s.alive then .next (s.ctrlTimer port.val sub.val) else .next s

/-- The acknowledgement has not advanced for replay_timer_ns. -/
def State.replayTimer (s : State) (n k : Nat) : State :=
  match (s.sub n k).replayAt with
  | some t => if s.linkRuns n k && decide (t ≤ s.ps) then s.replay n k else s
  | none => s

/-- REPLAY_TIMER_EXPIRY. -/
def execReplayTimerExpiry (port : Fin 6) (sub : Fin 4) (s : State) : Out :=
  if s.alive then .next (s.replayTimer port.val sub.val) else .next s

end Sys2Proof.Machine
end

