-- ==== Sys2Proof/Machine/Links.lean ====
section
/-!
DEFINITION. Links of the fabric ports: training results (R389), links that go down and retrain (R279, R392), admin_up (R342),
and the committed settings of the fabric (R273, R283, R284); the statistics read (R354), the raw transmit queue's index
(R350), block lock, and an attach link that goes down (R429).
-/

namespace Sys2Proof.Machine

/-! ## Training results (R389) -/

/-- Set bits of a mask. -/
def popcount (m : BitVec 8) : Nat := ((List.range 8).filter (fun i => m.getLsbD i)).length

/-- The lanes `lo` to `lo + n − 1` have all trained. -/
def lanesOk (m : BitVec 8) (lo n : Nat) : Bool := (List.range n).all (fun i => m.getLsbD (lo + i))

/-- The lanes with which each sub-port comes up, by split, mode and the ball lanes that trained. -/
def trainSubs (split : Nat) (direct : Bool) (m : BitVec 8) : List Nat :=
  match split with
  | 0 =>
    let c := popcount m
    if c = 8 then [8, 0, 0, 0]
    else if c < 4 then [0, 0, 0, 0]
    else if direct then [c, 0, 0, 0]
    else if lanesOk m 0 4 || lanesOk m 4 4 then [4, 0, 0, 0]
    else [0, 0, 0, 0]
  | 1 => [if lanesOk m 0 4 then 4 else 0, if lanesOk m 4 4 then 4 else 0, 0, 0]
  | _ =>
    let ls := (List.range 4).map (fun k => if lanesOk m (2 * k) 2 then 2 else 0)
    if ls.foldl (· + ·) 0 < 4 then [0, 0, 0, 0] else ls

/-- The state of a sub-port that has trained with so many of the lanes that its split gives it.
(Log 57: DESIGN CHOICE.) -/
def linkOf (lanes full : Nat) : LinkPhase := if lanes = 0 then .absent else if lanes = full then .up else .degraded

/-- The record of the targeted profile says that a port is present (R384). -/
def State.present (s : State) (n : Nat) : Bool :=
  (((s.boot.recs.getD s.boot.target Rec.default).ports).getD n 0).getLsbD 4

/-- The port trains and runs: admin_up, present, and once the profile is settled with a role in a fabric that was not
refused (R342, R390, R429). -/
def State.portOn (s : State) (n : Nat) : Bool :=
  s.flag (Reg.MAC_CTRL n) 0 && s.present n
    && (!s.boot.decided || (s.role n != 0 && !s.flag Reg.GLB_PROFILE 8))

/-- Drops what a sub-port has queued and holds; a raw slot that was queued is done with. -/
def State.dropQueues (s : State) (n k : Nat) : State :=
  let x := s.sub n k
  let raw := x.queue.any (fun f => match f.body with | .raw .. => true | _ => false)
  let s1 := s.setSub n k { x with queue := [], held := [], replayAt := none, ctrlDue := none, deficit := Sub.init.deficit,
                                  turn := 0, visit := false }
  if raw then s1.tqDone n false else s1

/-- Takes a sub-port down. -/
def State.subDown (s : State) (n k : Nat) (ph : LinkPhase) : State :=
  (s.dropQueues n k).updSub n k (fun x => { x with
    link := ph, lanes := 0, lock := false, lockAt := none, downAt := none, xoff := 0, known := false, fecBad := []
    fecDue := false })

/-- Takes a port's sub-ports down. (Log 57: DESIGN CHOICE.) -/
def State.portDown (s : State) (n : Nat) : State :=
  (List.range 4).foldl (fun s k => s.subDown n k (if k < s.subCount n then .down else .absent)) s

/-- A sub-port starts to train: it advertises, or is forced to, the PHY type that split and kr select (R342). -/
def State.subTrain (s : State) (n k : Nat) : State :=
  (s.updSub n k (fun x => { x with link := .training, downAt := some s.ps })).emit
    (.train n k (8 / s.subCount n) (s.flag (Reg.MAC_CTRL n) 3) (s.flag (Reg.MAC_CTRL n) 4))

/-- A port starts to train, and its split takes effect. -/
def State.portTrain (s : State) (n : Nat) : State :=
  if s.portOn n then
    let s0 : State := { s with split := tset 0 s.split n (s.fld (Reg.MAC_CTRL n) 1 2) }
    (List.range 4).foldl (fun s k =>
      if k < s.subCount n then (s.subDown n k .training).subTrain n k else s.subDown n k .absent) s0
  else s

/-! ## The port of PTP (R190) -/

/-- The port carries traffic. -/
def State.portUp (s : State) (n : Nat) : Bool := s.role n != 0 && (List.range 4).any (fun k => (s.sub n k).isUp)

/-- In switched mode Zenith's PTP moves to the lowest-numbered port in service when its own goes (R190).
(Log 58: DESIGN CHOICE.) -/
def State.ptpMove (s : State) : State :=
  if s.fld Reg.TIME_CTRL 0 2 = 1 ∧ !s.direct ∧ !s.portUp (s.fld Reg.TIME_STATUS 5 3) then
    match (List.range 6).find? (fun n => s.portUp n) with
    | some n => (s.setFld Reg.TIME_STATUS 5 3 n).bump Reg.TIME_CNT_LOSS
    | none => s
  else s

/-! ## A port has trained (R389) -/

/-- A sub-port of a port comes up, or does not, and then tries again once the profile is settled: its link layer starts anew
(R278, R279), in direct mode it sends INIT, and in switched mode the priorities whose buffer is above xoff are paused. -/
def State.subTrained (s : State) (n k lanes : Nat) : State :=
  let s1 := s.updSub n k (fun x => { x with
    link := linkOf lanes (8 / s.subCount n), lanes := lanes, seqTx := 0, seqRx := 0, ackRx := 0, held := []
    used := Sub.init.used, peerCr := Sub.init.peerCr, ownCr := s.allocation n, ackAt := 0, replayAt := none
    ctrlDue := none, paused := Sub.init.paused, lock := lanes != 0, lockAt := none
    downAt := if lanes = 0 ∧ s.boot.decided then some s.ps else none })
  if lanes ≠ 0 ∧ s.direct then s1.sendLink n k 3 0 else (List.range 8).foldl (fun t p => t.pfcRaise n k p) s1

/-- The training of a port ends with these ball lanes: the sub-ports that were training come up or not. -/
def State.fabTrained (s : State) (n : Nat) (m : BitVec 8) : State :=
  let ls := trainSubs (tget 0 s.split n) s.direct m
  let s1 : State := { s with boot := { s.boot with fabLanes := tset 0 s.boot.fabLanes n m } }
  ((List.range 4).foldl (fun s k =>
    if (s.sub n k).downAt.isSome then s.subTrained n k (ls.getD k 0) else s) s1).ptpMove

/-! ## Links that go down (R279, R392) -/

/-- The condition of a link's going down holds: the oldest held frame of direct mode, or in switched mode lost lock or too many
uncorrectable codewords. (Log 59: DESIGN CHOICE.) -/
def State.downNow (s : State) (n k : Nat) (cause : DownCause) : Bool :=
  let x := s.sub n k
  (x.isUp || x.link == .miswired) && match cause with
    | .replay => s.direct && match x.held.head? with
      | some f => decide (f.sentAt + s.budget ≤ s.ps)
      | none => false
    | .lock => !s.direct && match x.lockAt with
      | some t => decide (t + s.budget < s.ps)
      | none => false
    | .fec => !s.direct && x.fecDue

/-- LINK_DOWN: the sub-port goes down and retrains at once. (Log 59: DESIGN CHOICE.) -/
def State.linkDown (s : State) (n k : Nat) (cause : DownCause) : State :=
  if s.downNow n k cause then
    (((s.subDown n k .down).updSub n k (fun x => { x with downAt := some s.ps })).bump (Reg.FAB_CNT 8)).ptpMove
  else s

/-- LINK_DOWN. -/
def execLinkDown (port : Fin 6) (sub : Fin 4) (cause : DownCause) (s : State) : Out :=
  if s.alive then .next (s.linkDown port.val sub.val cause) else .next s

/-- PORT_RETRY: a sub-port that has not come up since it last started to train, retry_ms ago, trains again.
(Log 57: DESIGN CHOICE, 59: DESIGN CHOICE.) -/
def State.portRetry (s : State) (n : Nat) : State :=
  if !s.portOn n ∨ !s.boot.decided then s
  else (List.range 4).foldl (fun s k =>
    match (s.sub n k).downAt with
    | some t =>
      if t + ms (s.fld Reg.BOOT_TRAIN_CFG 16 16) ≤ s.ps then
        s.subTrain n k
      else s
    | none => s) s

/-- PORT_RETRY. -/
def execPortRetry (port : Fin 6) (s : State) : Out := if s.alive then .next (s.portRetry port.val) else .next s

/-! ## admin_up (R342) -/

/-- A write of MAC_CTRL: split and kr only while admin_up is 0; a change of admin_up starts or stops the port. -/
def State.macCtrl (s : State) (n : Nat) (v : Word) : State :=
  let old := s.reg (Reg.MAC_CTRL n)
  let up := bit old 0
  let split := if up ∨ bits v 1 2 = 3 then bits old 1 2 else bits v 1 2
  let kr := if up then bits old 3 1 else bits v 3 1
  let s1 := s.setReg (Reg.MAC_CTRL n)
    (BitVec.ofNat 64 (bits v 0 1 + split * 2 + kr * 8 + bits v 4 3 * 16))
  if !up && bit v 0 then s1.portTrain n
  else if up && !bit v 0 then (s1.portDown n).ptpMove
  else s1

/-- ADMIN_UP_WRITE: a write of MAC_CTRL. -/
def execAdminUpWrite (p : Path) (port : Fin 6) (v : Word) (s : State) : Out :=
  .next (s.mapWrite p (Reg.MAC_CTRL port.val) (fun s => s.macCtrl port.val v))

/-! ## FAB_COMMIT (R273) -/

/-- The staged FAB_PFC is refused. -/
def State.fabRefused (s : State) : Bool :=
  let xoff := s.shFld Reg.FAB_PFC 8 12
  decide (3072 < 8 * (xoff + s.shFld Reg.FAB_PFC 32 12)) || decide (xoff ≤ s.shFld Reg.FAB_PFC 20 12) || xoff == 0

/-- The staged planes and PFC settings take effect together; a port that loses its role stops, one that gains one
trains. -/
def State.fabCommit (s : State) : State :=
  if s.fabRefused then s.setFld Reg.FAB_COMMIT 1 1 1
  else
    let s1 := s.setReg Reg.FAB_PFC (s.sh Reg.FAB_PFC)
    ((List.range 6).foldl (fun t n =>
      let t1 := t.setReg (Reg.FAB_PLANE n) (t.sh (Reg.FAB_PLANE n))
      if s.role n ≠ 0 ∧ t1.role n = 0 then t1.portDown n
      else if s.role n = 0 ∧ t1.role n ≠ 0 then t1.portTrain n
      else t1) s1).ptpMove

/-- A write of FAB_COMMIT: bit 1 clears commit_err, bit 0 commits. -/
def State.fabCommitWrite (s : State) (v : Word) : State :=
  let s1 := if bit v 1 then s.setFld Reg.FAB_COMMIT 1 1 0 else s
  if bit v 0 then s1.fabCommit else s1

/-- FAB_COMMIT. -/
def execFabCommit (p : Path) (v : Word) (s : State) : Out :=
  .next (s.mapWrite p Reg.FAB_COMMIT (fun s => s.fabCommitWrite v))

/-! ## The group table (R283, R284) -/

/-- Writes the shadow copies into the selected entry. -/
def State.mcWrite (s : State) : State :=
  let g := s.fld Reg.FAB_MC_SEL 0 12
  { s with mcs := tset (⟨0, 0⟩ : Mc) s.mcs g ⟨s.sh Reg.FAB_MC_DATA0, s.sh Reg.FAB_MC_DATA1⟩ }

/-- Loads the selected entry into the shadow copies. -/
def State.mcLoad (s : State) : State :=
  let m := s.mc (s.fld Reg.FAB_MC_SEL 0 12)
  (s.setSh Reg.FAB_MC_DATA0 m.data0).setSh Reg.FAB_MC_DATA1 m.data1

/-- MC_ENTRY_WRITE. -/
def execMcEntryWrite (p : Path) (s : State) : Out := .next (s.mapWrite p Reg.FAB_MC_CMD State.mcWrite)

/-- MC_ENTRY_LOAD. -/
def execMcEntryLoad (p : Path) (s : State) : Out := .next (s.mapWrite p Reg.FAB_MC_CMD State.mcLoad)

/-! ## Ports' registers -/

/-- A write of TQ PROD: discarded when it would hand over more slots than the queue has (R350). -/
def State.tqProdWrite (s : State) (n : Nat) (v : Word) : State :=
  let prod : BitVec 32 := v.setWidth 32
  if 2 ^ s.fld (Reg.MAC_TQ_CFG n) 0 4 < (prod - s.tqCons n).toNat then s
  else (s.setReg (Reg.MAC_TQ_PROD n) (prod.setWidth 64)).tqNext n

/-- RAW_TX_PROD_WRITE. -/
def execRawTxProdWrite (p : Path) (port : Fin 6) (v : Word) (s : State) : Out :=
  .next (s.mapWrite p (Reg.MAC_TQ_PROD port.val) (fun s => s.tqProdWrite port.val v))

/-- A master's read of a statistics counter: its count, then zero; counters of sub-ports that the split does not create
read zero. A VF's view holds none. -/
def State.statRead (s : State) (p : Path) (n k j : Nat) : State :=
  let a := Reg.MAC_CNT n k j
  if pathCode p = 0 ∨ s.subCount n ≤ k then s.emit (.data p 0)
  else (s.emit (.data p (s.reg a))).setReg a 0

/-- STAT_COUNTER_READ. -/
def execStatCounterRead (p : Path) (port : Fin 6) (sub : Fin 4) (j : Fin 16) (s : State) : Out :=
  if s.alive && s.pathUp p then .next ((s.tlp p 8).statRead p port.val sub.val j.val) else .next s

/-- BLOCK_LOCK_CHANGE: the PCS of a sub-port loses or regains block and alignment lock. -/
def State.lockChange (s : State) (n k : Nat) (lock : Bool) : State :=
  s.updSub n k (fun x => if x.lock = lock then x else { x with lock := lock, lockAt := if lock then none else some s.ps })

/-- BLOCK_LOCK_CHANGE. -/
def execBlockLockChange (port : Fin 6) (sub : Fin 4) (lock : Bool) (s : State) : Out :=
  if s.alive then .next (s.lockChange port.val sub.val lock) else .next s

/-- ATTACH_LINK_DOWN: the link of a logical attach port goes down; accesses through it fail. -/
def State.attachDown (s : State) (q : Nat) : State :=
  { s with boot := { s.boot with attWidth := tset 0 s.boot.attWidth (s.attPhys q) 0
                                 attRate := tset 0 s.boot.attRate (s.attPhys q) 0 } }

/-- ATTACH_LINK_DOWN. -/
def execAttachLinkDown (q : Fin 4) (s : State) : Out :=
  if s.alive && s.attUp q.val then .next (s.attachDown q.val) else .next s

end Sys2Proof.Machine
end

