-- ==== Sys2Proof/WellFormed.lean ====
section
/-!
DEFINITION. Which commands are well formed: the bounds that the operand types do not already give. A descriptor fetch
returns at most 16 descriptors (R293), a PIO slot number is below 32,768 (R317), a write of a cell carries a byte-enable
mask, the capping loop reads eight rail groups (R424) and the thermal loop 32 sensors
(R427).
-/

namespace Sys2Proof

/-- A packet's payload list holds as many bytes as its length field says. -/
def Packet.lenOk (p : Packet) : Bool := p.payload.length == p.len.toNat

/-- A received packet is well formed when its payload list agrees with its header. -/
def Rx.ok (r : Rx) : Bool := r.pkt.lenOk

/-- The opcodes that R74 reserves. -/
def reservedOpcode (o : BitVec 8) : Bool :=
  let n := o.toNat
  (decide (4 ≤ n) && decide (n ≤ 0x0F)) || n == 0x1F || (decide (0x26 ≤ n) && decide (n ≤ 0x2F))
    || (decide (0x33 ≤ n) && decide (n ≤ 0x3F)) || (decide (0x42 ≤ n) && decide (n ≤ 0x4F))
    || (decide (0x51 ≤ n) && decide (n ≤ 0x5F)) || (decide (0x66 ≤ n) && decide (n ≤ 0x6F))
    || (decide (0x74 ≤ n) && decide (n ≤ 0x7F)) || decide (0x85 ≤ n)

/-- The well-formedness of a command. -/
def Instr.wellFormed : Instr → Bool
  | .descriptorFetchReturn _ ds _ => decide (ds.length ≤ 16)
  | .writePacket r => r.ok
  | .writeAccPacket r _ => r.ok
  | .sendPacket r => r.ok
  | .readReq r => r.ok
  | .readResp r => r.ok
  | .semPacket r => r.ok
  | .ack r => r.ok
  | .nack r => r.ok
  | .pioTrigger _ slot _ => decide (slot < 32768)
  | .cappingTick mw => decide (mw.length = 8)
  | .thermalTick ts => decide (ts.length = 32)
  | .pfcFrame _ _ _ q => decide (q.length = 8)
  | .apertureAccess _ (.write _ bs be) => decide (bs.length = be.length)
  | .nop op _ _ => decide (op = 0) || reservedOpcode op
  | _ => true

end Sys2Proof
end

