-- ==== Sys2Proof/Machine/Operands.lean ====
section
/-!
DEFINITION. The encoding of an instruction in instruction memory (R43), its operand forms (R45, R69), its predicate
(R44), and the issue of an instruction at its slot's program counter.
-/

namespace Sys2Proof.Machine

/-! ## Encoding -/

/-- The 128 bits of an instruction (R43). (Log 9: DESIGN CHOICE.) -/
def imemWord (op : BitVec 8) (w : JWord) : BitVec 128 :=
  w.imm ++ w.tag ++ w.opc ++ w.opb ++ w.opa ++ w.flags ++ (BitVec.ofBool w.predNeg) ++ (BitVec.ofNat 3 w.predReg.val) ++ op

/-- The fields of an instruction word. -/
def wordFields (v : BitVec 128) : BitVec 8 × JWord :=
  (v.extractLsb' 0 8,
   { predReg := Fin.ofNat 8 (v.extractLsb' 8 3).toNat, predNeg := v.getLsbD 11, flags := v.extractLsb' 12 4
     opa := v.extractLsb' 16 8, opb := v.extractLsb' 24 8, opc := v.extractLsb' 32 8, tag := v.extractLsb' 40 24
     imm := v.extractLsb' 64 64 })

/-- Flag bit `k` of the word, 12 to 15. -/
def flagOf (w : JWord) (k : Nat) : Bool := w.flags.getLsbD (k - 12)

/-- The field names a scalar register. -/
def isS (v : BitVec 8) : Bool := decide (v.toNat < 0x20)

/-- The field names a scalar register or a constant. -/
def isX (v : BitVec 8) : Bool := decide (v.toNat < 0x20) || decide (0x80 ≤ v.toNat)

/-- The field names a tensor descriptor. -/
def isT (v : BitVec 8) : Bool := decide (0x20 ≤ v.toNat) && decide (v.toNat < 0x30)

/-- The field names a predicate. -/
def isP (v : BitVec 8) : Bool := decide (0x30 ≤ v.toNat) && decide (v.toNat < 0x38)

/-! ## Registers of a slot -/

/-- Scalar register `n`; s0 reads zero (R30). -/
def slotS (x : Slot) (n : Nat) : Word := if n = 0 then 0 else tget 0 x.sregs n

/-- Writes scalar register `n`; writes to s0 are discarded (R30). -/
def setSlotS (x : Slot) (n : Nat) (v : Word) : Slot := if n = 0 then x else { x with sregs := tset 0 x.sregs n v }

/-- The value of an x operand (R69). -/
def valX (x : Slot) (f : BitVec 8) : Word :=
  if f.toNat < 0x20 then slotS x f.toNat else BitVec.ofNat 64 (f.toNat - 0x80)

/-- Tensor descriptor `n`. -/
def slotT (x : Slot) (n : Nat) : TDesc := tget TDesc.zero x.tregs n

/-- The tensor descriptor that an operand names. -/
def valT (x : Slot) (f : BitVec 8) : TDesc := slotT x (f.toNat - 0x20)

/-- Writes the tensor descriptor that an operand names. -/
def setT (x : Slot) (f : BitVec 8) (d : TDesc) : Slot :=
  { x with tregs := tset TDesc.zero x.tregs (f.toNat - 0x20) d }

/-- Predicate `n`; p0 reads 1 (R30). -/
def slotP (x : Slot) (n : Nat) : Bool := n = 0 || x.preds.getLsbD n

/-- The predicate that an operand names. -/
def valP (x : Slot) (f : BitVec 8) : Bool := slotP x (f.toNat - 0x30)

/-- Writes predicate `n`; writes to p0 are discarded (R30). -/
def setSlotP (x : Slot) (n : Nat) (b : Bool) : Slot :=
  if n = 0 then x
  else { x with preds := if b then x.preds ||| BitVec.ofNat 8 (2 ^ n) else x.preds &&& ~~~(BitVec.ofNat 8 (2 ^ n)) }

/-- The predicate condition of an instruction holds (R44). -/
def predHolds (x : Slot) (w : JWord) : Bool := slotP x w.predReg.val != w.predNeg

/-! ## Issue -/

/-- The slot can issue its next instruction; none does while a hang is handled (R453). (Log 9: DESIGN CHOICE.) -/
def State.canIssue (s : State) (sl : Nat) : Bool :=
  s.alive && (s.slot sl).phase == .running && (s.slot sl).wait.isNone && !(s.slot sl).halted && s.watching

/-- The image region of a slot's program (R36). -/
def State.imageOf (s : State) (sl : Nat) : Option Resident :=
  let x := s.slot sl
  s.images.find? (fun r => r.clu = sl / 4 ∧ r.base = x.imemBase ∧ r.addr = x.image.toNat ∧ r.imageId = x.imageId)

/-- The instruction in a slot's image at index `pc`. (Log 9: DESIGN CHOICE.) -/
def State.imemAt (s : State) (sl pc : Nat) : Option (BitVec 128) :=
  match s.imageOf sl with
  | some r => r.words[pc]?
  | none => none

/-- Attempts to issue the instruction `w` with opcode `op` in slot `sl`. Nothing happens unless it is the next
instruction of a slot that can issue. A program counter at instr_count faults (R76), and so does an encoding for which
`enc` fails, whatever the predicate (R44). With a false predicate the instruction retires without effect; otherwise
`run` is its effect. (Log 2: DESIGN CHOICE, 9: DESIGN CHOICE.) -/
def State.issue (s : State) (op : BitVec 8) (sl : Nat) (w : JWord) (enc : Slot → Bool) (run : State → State) : State :=
  let x := s.slot sl
  if !s.canIssue sl then s
  else if x.imemLen ≤ x.pc then s.issueFault sl St.illegalInstruction 0
  else if s.imemAt sl x.pc ≠ some (imemWord op w) then s
  else if !enc x then s.issueFault sl St.illegalInstruction w.tag
  else if !predHolds x w then s.retire sl
  else run s

/-- An instruction that changes only its slot's registers and retires. -/
def State.issueReg (s : State) (op : BitVec 8) (sl : Nat) (w : JWord) (enc : Slot → Bool) (f : Slot → Slot) : State :=
  s.issue op sl w enc (fun s => (s.updSlot sl f).retire sl)

end Sys2Proof.Machine
end

