-- ==== Sys2Proof/Machine/Sems.lean ====
section
/-!
DEFINITION. The operations of the semaphore memory: access (R165), application and saturation (R170), poison (R173),
waiters (R174), barriers of profile 3 (R182–R184) and holding during zeroing (R185).
-/

namespace Sys2Proof.Machine

/-! ## Values -/

/-- The ID names a barrier (R182). -/
def State.isBar (s : State) (id : BitVec 16) : Bool := s.barriers && decide (0xFF00 ≤ id.toNat)

/-- The SEM_BAR register of a barrier's ID. -/
def barReg (id : BitVec 16) : Nat := Reg.SEM_BAR (id.toNat - 0xFF00)

/-- What a read of the ID returns: the semaphore, or the barrier's generation zero-extended (R183). -/
def State.semValue (s : State) (id : BitVec 16) : Word :=
  if s.isBar id then BitVec.ofNat 64 (s.fld (barReg id) 32 32) else tget 0 s.sems id.toNat

/-- The semaphore's word is poisoned (R173). -/
def State.semPoisoned (s : State) (id : BitVec 16) : Bool := !s.isBar id && tget false s.poison (id.toNat / 4)

/-- The semaphore's page is being zeroed (R185). -/
def State.semZeroing (s : State) (id : BitVec 16) : Bool := s.zeroing == some (id.toNat / 256)

/-- Poisons word `k` of the semaphore memory (R173). -/
def State.poisonSem (s : State) (k : Nat) : State :=
  if tget false s.poison k then s
  else { s with poison := tset false s.poison k true }.bump Reg.SEM_CNT_POISON

/-! ## Access (R165) -/

/-- The page register of a semaphore. -/
def State.semPage (s : State) (id : BitVec 16) : Word := s.reg (Reg.SEM_PAGE (id.toNat / 256))

/-- A program of instance `i`, or a completion signal of its operation, may use the semaphore. -/
def State.semProg (s : State) (i : BitVec 8) (id : BitVec 16) : Bool :=
  bit (s.semPage id) 8 && bits (s.semPage id) 0 8 == i.toNat

/-- A cell access by the path may use it. -/
def State.semCell (s : State) (p : Path) (id : BitVec 16) : Bool :=
  let r := s.semPage id
  bit r 8 && match p with
    | .host => bit r 9
    | .vf i => bit r 9 && bits r 0 8 == i.toNat
    | .att q => bit r (10 + q.val)
    | .bmc => false

/-- A request of another adapter with this partition may use it; barriers refuse every one (R183). -/
def State.semRemote (s : State) (part : BitVec 16) (id : BitVec 16) : Bool :=
  let r := s.semPage id
  !s.isBar id && bit r 8 && bit r 14 && bits r 16 16 == part.toNat

/-! ## Waiters (R174) -/

/-- The slot waits on the semaphore and its first comparison is not held. -/
def State.waitsOn (s : State) (sl : Nat) (id : BitVec 16) : Option Word :=
  match (s.slot sl).wait with
  | some (.sem j thr _ _ _ _) =>
    if j = id ∧ !s.semHeld.any (fun h => h.src == .slot sl) then some thr else none
  | _ => none

/-- Compares every waiter of a semaphore and lets the satisfied ones go on. -/
def State.semWake (s : State) (id : BitVec 16) : State :=
  allSlots.foldl (fun s sl => match s.waitsOn sl id with
    | some thr =>
      if thr = 0 ∨ (!s.semPoisoned id ∧ thr.toNat ≤ (s.semValue id).toNat) then s.retire sl else s
    | none => s) s

/-! ## Application (R170, R183) -/

/-- One arrival at a barrier (R183). -/
def State.barArrive (s : State) (id : BitVec 16) : State :=
  let a := barReg id
  let n := s.fld a 12 12 + 1
  if s.fld a 0 12 + 1 ≤ n then (s.setFld a 12 12 0).setFld a 32 32 (s.fld a 32 32 + 1)
  else s.setFld a 12 12 n

/-- The exact sum, saturated to 64 bits, and whether it saturated. -/
def satAdd (x v : Word) : Word × Bool :=
  if x.toNat + v.toNat < 2 ^ 64 then (x + v, false) else (BitVec.allOnes 64, true)

/-- The exact difference, saturated at zero, and whether it saturated. -/
def satSub (x v : Word) : Word × Bool := if v.toNat ≤ x.toNat then (x - v, false) else (0, true)

/-- Stores a semaphore value. -/
def State.putSem (s : State) (id : BitVec 16) (v : Word) : State := { s with sems := tset 0 s.sems id.toNat v }

/-- Stores the result of an add or subtract and counts a saturation (R170). -/
def State.putSat (s : State) (id : BitVec 16) (r : Word × Bool) : State :=
  if r.2 then (s.putSem id r.1).bump Reg.SEM_CNT_SAT else s.putSem id r.1

/-- Changes the value of an unpoisoned semaphore or barrier. -/
def State.semEffect (s : State) (id : BitVec 16) (a : SemAct) : State :=
  match a with
  | .add v => if s.isBar id then (if v = 0 then s else s.barArrive id) else s.putSat id (satAdd (s.semValue id) v)
  | .sub v => if s.isBar id then s else s.putSat id (satSub (s.semValue id) v)
  | .set v => if s.isBar id then s else s.putSem id v
  | .read => s
  | .wait => s

/-- Applies one operation that has passed the access checks: what it reads, whether the semaphore was poisoned (then it
changes nothing), and the state after the waiters have been compared (R170, R173, R174). (Log 27: DESIGN CHOICE.) -/
def State.semApply (s : State) (id : BitVec 16) (a : SemAct) : Word × Bool × State :=
  let v := s.semValue id
  if s.semPoisoned id then (v, true, s)
  else (v, false, ((s.bump Reg.SEM_CNT_OPS).semEffect id a).semWake id)

/-- Holds an operation until its page has been zeroed (R185). (Log 27: DESIGN CHOICE.) -/
def State.holdSem (s : State) (id : BitVec 16) (a : SemAct) (src : SemSrc) : State :=
  { s with semHeld := s.semHeld ++ [⟨id, a, src⟩] }

/-- Applies a completion add of 1 at this adapter; the flag says that the semaphore was poisoned. -/
def State.semSignal (s : State) (inst : BitVec 8) (id : BitVec 16) : Bool × State :=
  if s.semZeroing id then (false, s.holdSem id (.add 1) (.comp inst))
  else ((s.semApply id (.add 1)).2.1, (s.semApply id (.add 1)).2.2)

/-! ## Cells (R167, R168) -/

/-- A path has cells at all: BAR2 of H, the HDM range of an attach port. -/
def State.cellPath (s : State) (p : Path) : Bool :=
  s.alive && s.pathUp p && (match p with | .bmc => false | _ => true)

/-- A write to one 8-byte word of a cell, with byte enables. (Log 28: DEDUCED.) -/
def State.cellWord (s : State) (p : Path) (id : BitVec 16) (word : Nat) (v : Word) (be : BitVec 8) : State :=
  let refuse := s.bump Reg.SEM_CNT_REFUSED
  if be = 0 then s
  else if be ≠ 0xFF ∨ 3 ≤ word ∨ !s.semCell p id then refuse
  else if s.isBar id ∧ word ≠ 1 then refuse
  else
    let a : SemAct := if word = 0 then .set v else if word = 1 then .add v else .sub v
    if s.semZeroing id then s.holdSem id a (.cell p be) else (s.semApply id a).2.2

/-- The bytes of a value under byte enables, zero elsewhere. (Log 28: DEDUCED.) -/
def maskBytes (v : Word) (be : BitVec 8) : Word :=
  BitVec.ofNat 64 (ofLe ((leBytes v.toNat 8).zipIdx.map (fun p => if be.getLsbD p.2 then p.1 else 0)))

/-- The answer to a read of word 0x00 of a cell that has passed its check: the enabled bytes of the semaphore, or a bus error
(R167, R173). -/
def State.cellAnswer (s : State) (p : Path) (id : BitVec 16) (be : BitVec 8) : State :=
  let r := s.semApply id .read
  if r.2.1 then r.2.2.emit (.busError p) else r.2.2.emit (.data p (maskBytes r.1 be))

/-- A read of a word of a cell: words other than 0x00 return zero (R167). -/
def State.cellRead (s : State) (p : Path) (id : BitVec 16) (word : Nat) (be : BitVec 8) : State :=
  if !s.semCell p id then (s.bump Reg.SEM_CNT_REFUSED).emit (.data p 0)
  else if word ≠ 0 then s.emit (.data p 0)
  else if s.semZeroing id then s.holdSem id .read (.cell p be)
  else s.cellAnswer p id be

end Sys2Proof.Machine
end

