-- ==== Sys2Proof/Machine/Memory.lean ====
section
/-!
DEFINITION. The commands of adapter memory: committing the regions (R372), the test commands (R376) and the scrubbers
(R368, R369).
-/

namespace Sys2Proof.Machine

/-! ## Regions -/

/-- First byte and length of a region register's value. -/
def rgnOf (v : Word) : Nat × Nat := (bits v 0 12 * 2 ^ 30, bits v 12 12 * 2 ^ 30)

/-- A region register's value is valid and of kind `k`. -/
def rgnKind (v : Word) (k : Nat) : Bool := bit v 27 && bits v 24 2 == k

/-- Some context is valid or some window entry is not FREE. -/
def State.tablesUsed (s : State) : Bool :=
  s.ctxs.any (fun e => e.2.valid) || s.wins.any (fun e => e.2.phase != .free)

/-- The staged regions are refused (R372). -/
def State.memRefused (s : State) : Bool :=
  let new := (List.range 4).map (fun r => s.sh (Reg.MEM_RGN r))
  let old := (List.range 4).map (fun r => s.reg (Reg.MEM_RGN r))
  let valid := new.zipIdx.filter (fun p => bit p.1 27)
  let changed := fun k => (old.zip new).any (fun p => p.1 != p.2 && (rgnKind p.1 k || rgnKind p.2 k))
  valid.any (fun p => valid.any (fun q => p.2 != q.2
      && overlaps (rgnOf p.1).1 (rgnOf p.1).2 (rgnOf q.1).1 (rgnOf q.1).2))
    || valid.any (fun p => decide (s.memBytes < (rgnOf p.1).1 + (rgnOf p.1).2))
    || new.any (fun v => rgnKind v 2 && (bits v 12 12 == 0 || decide (64 < bits v 12 12)))
    || decide (1 < (new.filter (fun v => rgnKind v 0)).length)
    || decide (1 < (new.filter (fun v => rgnKind v 2)).length)
    || valid.any (fun p => s.insts.any (fun e => match e.2 with
      | some c => overlaps (rgnOf p.1).1 (rgnOf p.1).2 ((c.range .memGib).1 * 2 ^ 30) ((c.range .memGib).2 * 2 ^ 30)
      | none => false))
    || (changed 1 && s.tablesUsed)
    || changed 0

/-- Commits the staged regions, or refuses them with commit_err (R372); a new trace region resets Comet's write pointer
(R448). -/
def State.memCommitGo (s : State) : State :=
  if s.memRefused then s.setFld Reg.MEM_COMMIT 1 1 1
  else
    let old := s.traceRgn
    let s1 := (List.range 4).foldl (fun t r => t.setReg (Reg.MEM_RGN r) (s.sh (Reg.MEM_RGN r))) s
    if s1.traceRgn = old then s1 else (s1.setReg Reg.DBG_COMET_WPTR 0).setFld Reg.DBG_COMET_STATUS 0 1 0

/-- A write of MEM_COMMIT: bit 1 clears commit_err, bit 0 commits. -/
def State.memCommitWrite (s : State) (v : Word) : State :=
  let s1 := if bit v 1 then s.setFld Reg.MEM_COMMIT 1 1 0 else s
  if bit v 0 then s1.memCommitGo else s1

/-- MEM_COMMIT. -/
def execMemCommit (p : Path) (v : Word) (s : State) : Out :=
  .next (s.mapWrite p Reg.MEM_COMMIT (fun s => s.memCommitWrite v))

/-! ## Test commands (R376) -/

/-- Writes the status of a test command. -/
def State.testStatus (s : State) (st : Status) : State := s.setFld Reg.MEM_TEST_RESULT 16 16 st.toNat

/-- A test command whose checks pass acts on the addressed code word. -/
def State.testCmd (s : State) (k : Nat → State → State) : State :=
  let a := (s.reg Reg.MEM_TEST_ADDR).toNat
  if !s.flag Reg.MEM_CTRL 4 then s.testStatus St.accessDenied
  else if a % 32 ≠ 0 ∨ s.memBytes ≤ a then s.testStatus St.badDescriptor
  else k (a / 32) s

/-- The data registers as 256 bits. -/
def State.testData (s : State) : BitVec 256 :=
  s.reg (Reg.MEM_TEST_DATA 3) ++ s.reg (Reg.MEM_TEST_DATA 2) ++ s.reg (Reg.MEM_TEST_DATA 1)
    ++ s.reg (Reg.MEM_TEST_DATA 0)

/-- Loads the data registers. -/
def State.setTestData (s : State) (d : BitVec 256) : State :=
  (List.range 4).foldl (fun t i => t.setReg (Reg.MEM_TEST_DATA i) (d.extractLsb' (64 * i) 64)) s

/-- Stores data and check symbols exactly as given. -/
def State.putRaw (s : State) (w : Nat) (d : BitVec 256) (c : BitVec 64) : State :=
  if c = Config.rsCheck d then s.putWord w (dataBytes d)
  else { s with raw := tset none s.raw w (some ⟨d, c⟩) }

/-- Raw write. -/
def State.rawWriteOp (s : State) : State :=
  s.testCmd (fun w s => (s.putRaw w s.testData (s.reg Reg.MEM_TEST_CHECK)).testStatus St.ok)

/-- The stored bits of a word. -/
def State.storedBits (s : State) (w : Nat) : RawWord :=
  match tget none s.raw w with
  | some r => r
  | none => ⟨dataBits (s.wordBytes w), Config.rsCheck (dataBits (s.wordBytes w))⟩

/-- Raw read. -/
def State.rawReadOp (s : State) : State :=
  s.testCmd (fun w s =>
    ((s.setTestData (s.storedBits w).data).setReg Reg.MEM_TEST_CHECK (s.storedBits w).check).testStatus St.ok)

/-- The fields symbols_corrected and poison of the result register. -/
def State.testFound (s : State) (fixed : Nat) (poison : Bool) : State :=
  (s.setFld Reg.MEM_TEST_RESULT 32 3 fixed).setFld Reg.MEM_TEST_RESULT 35 1 (b2n poison)

/-- Decoded read: counts and logs as a normal read, and writes nothing back. -/
def State.decodedReadOp (s : State) : State :=
  s.testCmd (fun w s => match s.decodeWord w with
    | .good bs n =>
      let s1 := if n = 0 then s else s.countCorr w
      ((s1.setTestData (dataBits bs)).testFound n false).testStatus St.ok
    | .poison =>
      let s1 := (s.bump (Reg.MEM_CNT 1)).bump (Reg.MEM_CNT 2)
      ((s1.setTestData (s.storedBits w).data).testFound 0 true).testStatus St.uncorrectable
    | .bad d =>
      let s1 := (s.bump (Reg.MEM_CNT 1)).logUncorr w 0 false
      ((s1.setTestData d).testFound 0 false).testStatus St.uncorrectable)

/-- RAW_WRITE. -/
def execRawWrite (p : Path) (s : State) : Out := .next (s.mapWrite p Reg.MEM_TEST_CMD State.rawWriteOp)

/-- RAW_READ. -/
def execRawRead (p : Path) (s : State) : Out := .next (s.mapWrite p Reg.MEM_TEST_CMD State.rawReadOp)

/-- DECODED_READ. -/
def execDecodedRead (p : Path) (s : State) : Out := .next (s.mapWrite p Reg.MEM_TEST_CMD State.decodedReadOp)

/-! ## Scrubbing (R368, R369) -/

/-- Code words of one channel. -/
def State.channelWords (s : State) : Nat := s.memBytes / max 1 (s.fld Reg.MEM_STATUS 1 4) / 32

/-- The adapter-memory code word at local word `k` of a channel (R358). (Log 82: DESIGN CHOICE.) -/
def State.channelWord (s : State) (c k : Nat) : Nat :=
  let g := k / 8 * max 1 (s.fld Reg.MEM_STATUS 1 4) + c
  g * 8 + k % 8

/-- The scrubber's read of one code word: a corrected word is written back, an uncorrectable one poisoned.
(Log 82: DESIGN CHOICE.) -/
def State.scrubWord (s : State) (w : Nat) : State :=
  match s.decodeWord w with
  | .good _ 0 => s
  | .good bs _ => ((s.countCorr w).bump (Reg.MEM_CNT 3)).putWord w bs
  | .poison => (s.bump (Reg.MEM_CNT 1)).bump (Reg.MEM_CNT 2)
  | .bad d =>
    let s1 := ((s.bump (Reg.MEM_CNT 1)).bump (Reg.MEM_CNT 4)).logUncorr w 0 true
    if s.flag Reg.MEM_CTRL 2 then s1.poisonWord w d else s1

/-- PATROL_SCRUB: the scrubber of a channel visits its next code word. -/
def execPatrolScrub (c : Fin 12) (s : State) : Out :=
  if !s.alive ∨ !s.flag Reg.MEM_STATUS 0 ∨ !s.flag Reg.MEM_CTRL 0 ∨ s.fld Reg.MEM_STATUS 1 4 ≤ c.val then .next s
  else
    let k := tget 0 s.scrub c.val
    let s1 := s.scrubWord (s.channelWord c.val k)
    if k + 1 < s.channelWords then .next { s1 with scrub := tset 0 s1.scrub c.val (k + 1) }
    else .next ({ s1 with scrub := tset 0 s1.scrub c.val 0 }.bump (Reg.MEM_CNT 5))

/-- What the decoding of an on-chip word does (R364, R365, R173). (Log 81: DESIGN CHOICE.) -/
def State.sramDecoded (s : State) (loc : SramLoc) (o : SramOutcome) : State :=
  match o with
  | .clean => s
  | .corrected => s.bump (Reg.MEM_CNT 9)
  | .uncorrectable =>
    let s1 := s.bump (Reg.MEM_CNT 10)
    match loc with
    | .sem k => s1.poisonSem k.toNat
    | .other => s1

/-- SRAM_SCRUB: the SRAM scrubber visits an on-chip word. (Log 81: DESIGN CHOICE.) -/
def execSramScrub (loc : SramLoc) (o : SramOutcome) (s : State) : Out :=
  if s.alive then .next (s.sramDecoded loc o) else .next s

end Sys2Proof.Machine
end

