-- ==== Sys2Proof/Machine/Boot.lean ====
section
/-!
DEFINITION. Resets and start-up (R378–R392): cold and warm resets, the EEPROM records, the start-up test, training, the
decision of the profile and of the map, and the initialisation of memory.
-/

namespace Sys2Proof.Machine

/-! ## The board's records (R384) -/

/-- One byte into a CRC-32 of IEEE 802.3. -/
def crcByte (c : BitVec 32) (b : Byte) : BitVec 32 :=
  (List.range 8).foldl (fun c _ => if c.getLsbD 0 then (c >>> 1) ^^^ 0xEDB88320#32 else c >>> 1) (c ^^^ b.setWidth 32)

/-- CRC-32 of IEEE 802.3. -/
def crc32 (bs : List Byte) : BitVec 32 := ~~~(bs.foldl crcByte 0xFFFFFFFF#32)

/-- The envelope of a profile in W (R26, R423). -/
def envelope (p : Nat) : Nat := match p with | 0 => 320 | 1 => 250 | _ => 180

/-- The record of profile `p`, if it is valid. -/
def recOf (eeprom : List Byte) (p : Nat) : Option Rec :=
  let r := (eeprom.drop (0x20 * p)).take 0x20
  let f := fun a n => ofLe ((r.drop a).take n)
  let ports := (r.drop 6).take 6
  if r.length = 0x20 ∧ f 0 4 = 0x56505052 ∧ f 4 1 = p ∧ f 5 1 = 1 ∧ f 0x1C 4 = (crc32 (r.take 0x1C)).toNat
      ∧ ports.all (fun b => decide (b.toNat < 32) && decide (b.toNat % 4 ≠ 3)) ∧ f 0x0C 1 < 16 ∧ f 0x0D 1 < 4
      ∧ f 0x10 12 = 0 ∧ f 0x0E 2 ≤ envelope p then
    some ⟨ports, BitVec.ofNat 4 (f 0x0C 1), BitVec.ofNat 2 (f 0x0D 1), BitVec.ofNat 16 (f 0x0E 2)⟩
  else none

/-- Start-up with what the board's EEPROM answers. -/
def Boot.readRecs (b : Boot) (eeprom : List Byte) : Boot :=
  { b with
    recs := (List.range 4).map (fun p => (recOf eeprom p).getD Rec.default)
    recBad := BitVec.ofNat 4 (((List.range 4).filter (fun p => (recOf eeprom p).isNone)).foldl (fun a p => a + 2 ^ p) 0) }

/-- Start-up that reads the EEPROM again, which answers what it last answered unless new content is given. -/
def Boot.readAgain (b : Boot) : Option (List Byte) → Boot
  | some bs => b.readRecs bs
  | none => b

/-- The record that start-up uses. -/
def State.rec_ (s : State) : Rec := s.boot.recs.getD s.boot.target Rec.default

/-! ## What a reset keeps (R379) -/

/-- The registers of Tally. -/
def tlyReg (a : Nat) : Bool := a / 65536 == 0x1B

/-- The registers that a warm reset keeps; `fast`: it takes the fast path. (Log 85: DESIGN CHOICE.) -/
def warmKeeps (fast : Bool) (a : Nat) : Bool :=
  tlyReg a || (decide (0x100 ≤ a) && decide (a ≤ Reg.GLB_RESET_CAUSE)) || (fast && (decide (a < 0x100) || a == Reg.NEB_STATUS))
    || a / 65536 == 0x17 || a == Reg.MEM_CTRL || a == Reg.MEM_SCRUB || a == Reg.MEM_SRAM_REPAIR
    || (decide (Reg.MEM_RGN 0 ≤ a) && decide (a ≤ Reg.MEM_RGN 3))
    || (decide (Reg.MEM_CNT 0 ≤ a) && decide (a / 65536 = 0x18))

/-- Registers after a reset: `keep` says which hold their values. (Log 85: DESIGN CHOICE.) -/
def keepRegs (fresh old : Tab Word) (keep : Nat → Bool) : Tab Word :=
  (old.filter (fun e => keep e.1)).foldl (fun t e => tset 0 t e.1 e.2) (fresh.filter (fun e => !keep e.1))

/-- The fuses and clear_ctx_en show in SEC_STATUS (R422). -/
def State.fuseStatus (s : State) : State :=
  ((s.setFld Reg.SEC_STATUS 2 2 (b2n s.fuses.rev0 + 2 * b2n s.fuses.rev1)).setFld Reg.SEC_STATUS 4 7 s.fuses.minSvn).setFld
    Reg.SEC_STATUS 18 1 (s.fld Reg.SEC_CTRL 0 1)

/-- The state that every reset leaves: reset values, with the queue, the model's own logs and counters, the fuses, Tally,
the JTAG instruction register, and a new device wrap key (R420). (Log 85: DESIGN CHOICE.) -/
def State.cleared (s : State) (keep : Nat → Bool) : State :=
  { State.reset with
    pending := s.pending, free := s.free, out := s.out, fresh := s.fresh, ps := s.ps, ck := s.ck
    regs := keepRegs resetRegs s.regs keep, shadow := keepRegs resetShadow s.shadow keep
    fuses := s.fuses, tally := s.tally, wraps := s.wraps + 1, jtag := s.jtag }

/-- Sets BOOT_STATE. (Log 83: DESIGN CHOICE, 90: DESIGN CHOICE.) -/
def State.bootGo (s : State) (st : Nat) (status : Status) : State :=
  s.setReg Reg.BOOT_STATE (BitVec.ofNat 64 (st + status.toNat * 2 ^ 16))

/-! ## Training starts (R389) -/

/-- A port's MAC_CTRL after start-up: admin_up when it is present, and split, kr and an_en of the record. -/
def macStart (v : Word) (cfg : BitVec 8) : Word :=
  putBits (putBits (putBits (putBits v 0 1 (b2n (cfg.getLsbD 4))) 1 2 (cfg.toNat % 4)) 3 1 (b2n (cfg.getLsbD 2))) 4 1
    (b2n (cfg.getLsbD 3))

/-- Every link starts to train. -/
def State.startTraining (s : State) : State :=
  let s1 : State := { s with boot := { s.boot with trainAt := s.ps, closed := false, fabLanes := [], attWidth := [],
                                                   attRate := [], modules := [], decided := false } }
  let s2 := s1.setFld Reg.FAB_CTRL 0 1 (b2n (s.boot.target == 3))
  let s3 := (List.range 6).foldl (fun t n =>
    (t.setReg (Reg.MAC_CTRL n) (macStart (t.reg (Reg.MAC_CTRL n)) (s.rec_.ports.getD n 0))).portTrain n) s2
  s3.bootGo 1 0

/-! ## Cold and warm resets (R378–R383) -/

/-- A cold reset. (Log 7: DESIGN CHOICE.) -/
def State.cold (s : State) (sel smb : BitVec 2) (eeprom : List Byte) : State :=
  let s1 := s.cleared tlyReg
  let s2 : State := { s1 with
    jtag := State.reset.jtag, boot := ({ Boot.init with target := sel.toNat, smb := smb } : Boot).readRecs eeprom }
  (s2.setFld Reg.GLB_PROFILE 0 2 sel.toNat).fuseStatus

/-- COLD_RESET: POR_N is deasserted; with a rail outside its range the behaviour is undefined (R382).
(Log 111: DESIGN CHOICE.) -/
def execColdReset (railsOk : Bool) (sel smb : BitVec 2) (eeprom : List Byte) (s : State) : Out :=
  if railsOk then .next (s.cold sel smb eeprom) else .fault .undefinedPowerUp

/-- The profile that a warm reset targets: next_profile in force, the active profile, or the target of a start-up that it
abandons before a profile was settled. (Log 84: DESIGN CHOICE.) -/
def State.warmTarget (s : State) : Nat :=
  if s.flag Reg.GLB_PROFILE 6 then s.fld Reg.GLB_PROFILE 4 2
  else if s.mapValid then s.profile else s.boot.target

/-- A reset is at the initialisation of adapter memory. (Log 84: DESIGN CHOICE.) -/
def State.initing (s : State) : Bool := s.bootState == 2 && (s.boot.full || s.flag Reg.BOOT_TRAIN_SUM 12)

/-- A warm reset takes the fast path (R388); during a reset on the full path it starts that one's sequence again (R380).
(Log 84: DESIGN CHOICE.) -/
def State.warmFast (s : State) : Bool :=
  s.mapValid && s.warmTarget == s.profile && !s.flag Reg.GLB_RESET 2 && !(s.initing && s.boot.full)

/-- A warm reset: what R379 keeps, the cause, and on the fast path the start of training.
(Log 83: DESIGN CHOICE, 85: DESIGN CHOICE.) -/
def State.warm (s : State) (cause : Nat) (eeprom : Option (List Byte)) : State :=
  let fast := s.warmFast
  let s1 := s.cleared (warmKeeps fast)
  let s2 : State := { s1 with
    ownRes := s.ownRes, leaseAt := s.leaseAt, time := s.time, ephRows := s.ephRows, ephLive := s.ephLive
    ephCopyAt := s.ephCopyAt
    mem := s.mem, raw := s.raw, scrub := s.scrub
    fns := s.fns.filter (fun e => e.1 < 256), vfEn := s.vfEn, numVfs := s.numVfs, priAlloc := s.priAlloc.filter (fun e => e.1 = 0)
    msixTab := s.msixTab, msixPend := s.msixPend, priStop := s.priStop.filter (fun e => e.1 = .h)
    laneMap := if fast then s.laneMap else []
    boot := ({ Boot.init with
      target := s.warmTarget, full := !fast, smb := s.boot.smb, inReset := true
      recs := s.boot.recs, recBad := s.boot.recBad
      test := if fast then s.boot.test else .empty, lastMem := if s.initing then 0 else s.boot.lastMem
      window := s.fld Reg.BOOT_TRAIN_CFG 0 16 } : Boot).readAgain eeprom }
  let s3 := (s2.setFld Reg.GLB_RESET 2 1 0).setReg Reg.GLB_RESET_CAUSE
    (putBits (putBits (putBits (s.reg Reg.GLB_RESET_CAUSE) 0 2 cause) 2 1 (b2n (!fast))) 32 32
      (s.fld Reg.GLB_RESET_CAUSE 32 32 + 1))
  let s4 := s3.fuseStatus
  if fast then s4.startTraining else s4

/-- WARM_RST_N: a warm reset whatever is in flight; neither Twilight nor a trip is left by it (R428, R433). -/
def execWarmRstN (eeprom : List Byte) (s : State) : Out :=
  if s.twilight || s.tripped then .next s else .next (s.warm 1 (some eeprom))

/-- A program slot is busy or a ring is enabled (R380). -/
def State.atWork (s : State) : Bool :=
  s.slots.any (fun e => e.2.phase != .idle || e.2.launch.isSome) || s.rings.any (fun e => bit e.2.cfg1 27)

/-- A write of GLB_RESET. -/
def State.resetWrite (s : State) (v : Word) (eeprom : Option (List Byte)) : State :=
  let s1 := s.setFld Reg.GLB_RESET 2 1 (bits v 2 1)
  if !bit v 0 then s1
  else if !bit v 1 && s1.atWork then s1.setFld Reg.GLB_RESET_CAUSE 16 16 St.quiesceRequired.toNat
  else (s1.setFld Reg.GLB_RESET_CAUSE 16 16 0).warm 2 eeprom

/-- WARM_RESET_COMMAND. -/
def execWarmResetCommand (p : Path) (v : Word) (eeprom : List Byte) (s : State) : Out :=
  .next (s.mapWrite p Reg.GLB_RESET (fun s => s.resetWrite v (some eeprom)))

/-! ## The start-up test (R374, R387) -/

/-- Units that either set names. -/
def unitsUnion (a b : UnitSet) : UnitSet :=
  ⟨a.clusters ||| b.clusters, a.arrays ||| b.arrays, a.lanes ||| b.lanes, a.slices ||| b.slices, a.attach ||| b.attach,
   a.mem ||| b.mem, a.cipher ||| b.cipher⟩

/-- How many of the first `n` indices are set. -/
def countOf (n : Nat) (f : Nat → Bool) : Nat := ((List.range n).filter f).length

/-- The bad lanes of an array. -/
def unitsBadLanes (u : UnitSet) (a : Nat) : Nat := countOf 132 (fun l => u.lanes.getLsbD (132 * a + l))

/-- An array is bad: itself, or with more than four lanes bad. -/
def unitsBadArray (u : UnitSet) (a : Nat) : Bool := u.arrays.getLsbD a || decide (4 < unitsBadLanes u a)

/-- The units out of service from either source. -/
def State.badUnits (s : State) : UnitSet := unitsUnion s.fuses.bad s.boot.test

/-- The start-up test ends: its results combine with the fuses, MEM_SRAM_REPAIR reports the repairs, and training
starts. -/
def State.testDone (s : State) (t : TestReport) : State :=
  let s1 : State := { s with boot := { s.boot with test := t.bad } }
  (s1.setReg Reg.MEM_SRAM_REPAIR (BitVec.ofNat 64 (s.fuses.rows.toNat + s.fuses.cols.toNat * 2 ^ 16
    + t.rows.toNat * 2 ^ 32 + t.cols.toNat * 2 ^ 48))).startTraining

/-- STARTUP_TEST_DONE. -/
def execStartupTestDone (t : TestReport) (s : State) : Out :=
  if s.bootState = 0 ∧ !s.tripped ∧ !s.twilight then .next (s.testDone t) else .next s

/-! ## Links that finish training (R389, R391) -/

/-- Slices of a port that are in service. -/
def State.slices (s : State) (n : Nat) : Nat := 9 - countOf 9 (fun k => s.badUnits.slices.getLsbD (9 * n + k))

/-- Training is in progress and its window is open. -/
def State.training (s : State) : Bool := s.bootState == 1 && !s.boot.closed

/-- The logical attach port of a physical one, when the settled profile uses it. -/
def State.attLogical (s : State) (q : Nat) : Option Nat :=
  (List.range (s.fld Reg.GLB_CAPS 12 4)).find? (fun i => s.attPhys i = q)

/-- An attach port's link may come up: fitted and not bad, and once the profile is settled, in use. -/
def State.attMay (s : State) (q : Nat) : Bool :=
  s.rec_.attach.getLsbD q && !s.badUnits.attach.getLsbD q && (s.training || (s.boot.decided && (s.attLogical q).isSome))

/-- A link or channel has finished training. -/
def State.linkUp (s : State) (r : TrainResult) : State :=
  match r with
  | .fabric n m =>
    if (s.training || s.boot.decided) && decide (popcount m ≤ s.slices n.val)
        && (List.range 4).any (fun k => (s.sub n.val k).downAt.isSome) then s.fabTrained n.val m
    else s
  | .attach q w rate =>
    if s.attMay q.val && (w == 8 || w == 16) && rate.val != 0 && tget 0 s.boot.attWidth q.val == 0 then
      { s with boot := { s.boot with attWidth := tset 0 s.boot.attWidth q.val w
                                     attRate := tset 0 s.boot.attRate q.val rate.val } }
    else s
  | .memory c m =>
    if s.training && !s.badUnits.mem.getLsbD c.val then
      ({ s with boot := { s.boot with modules := tset none s.boot.modules c.val (some m) } } : State).count (Reg.MEM_CNT 11)
        (if s.boot.full && m.present then m.ppr else 0)
    else s
  | .hostPort => s

/-- Training has ended: every link and channel has finished, or the window has closed. -/
def State.trained (s : State) : Bool :=
  s.boot.closed || (allSubs.all (fun i => (s.sub (i / 4) (i % 4)).downAt.isNone)
    && (List.range 4).all (fun q => !s.attMay q || tget 0 s.boot.attWidth q != 0)
    && (List.range 12).all (fun c => s.badUnits.mem.getLsbD c || (tget none s.boot.modules c).isSome))

/-- The links train after a Twilight. -/
def State.retraining (s : State) : Bool := s.twiState == 3 && !s.boot.waking

/-- twi_state returns to ACTIVE when the links have trained (R433). -/
def State.awake (s : State) : State :=
  if s.retraining && s.trained then s.setFld Reg.PWR_TWI_STATUS 0 2 0 else s

/-- LINK_UP. -/
def execLinkUp (r : TrainResult) (s : State) : Out :=
  if s.tripped || s.twilight || s.refusedStart then .next s else .next (s.linkUp r).awake

/-- The window closes: links that still train have failed. -/
def State.closeWindow (s : State) : State :=
  let s1 : State := { s with boot := { s.boot with closed := true } }
  ((List.range 24).foldl (fun t i =>
    if (t.sub (i / 4) (i % 4)).downAt.isSome then t.subTrained (i / 4) (i % 4) 0 else t) s1).ptpMove

/-- TRAIN_WINDOW_EXPIRY. -/
def execTrainWindowExpiry (s : State) : Out :=
  if (s.training ∨ s.retraining) ∧ s.boot.trainAt + ms s.boot.window ≤ s.ps ∧ !s.tripped then .next s.closeWindow.awake
  else .next s

/-! ## The decision (R385, R386, R390) -/

/-- The good units among `n`, in ascending order (R23). -/
def good (n : Nat) (bad : Nat → Bool) : List Nat := (List.range n).filter (fun i => !bad i)

/-- A module that the adapter supports (R355). -/
def moduleOk (m : Module) : Bool := m.present && m.x4 && (m.gb == 32 || m.gb == 64 || m.gb == 128 || m.gb == 256)

/-- The physical channels with a supported module, before capacities are compared. -/
def State.supported (s : State) : List Nat :=
  (List.range 12).filter (fun c => match tget none s.boot.modules c with | some m => moduleOk m | none => false)

/-- The capacity of the module of logical channel M0. -/
def State.moduleGb (s : State) : Nat :=
  match s.supported with
  | c :: _ => match tget none s.boot.modules c with | some m => m.gb | none => 0
  | [] => 0

/-- A physical channel is in service under R356. -/
def State.chOk (s : State) (c : Nat) : Bool :=
  match tget none s.boot.modules c with
  | some m => moduleOk m && m.gb == s.moduleGb
  | none => false

/-- Channels, clusters, arrays and cipher cores that a profile needs (R385). -/
def needs (p : Nat) : Nat × Nat × Nat × Nat :=
  match p with
  | 0 => (12, 8, 4, 56)
  | 1 => (8, 6, 3, 40)
  | _ => (6, 4, 2, 28)

/-- The fallback of R386: the profile reached, whether it can start, and the causes met on the way. -/
def settleProfile (ch cl ar ci : Nat) : Nat → Nat → Bool → Bool → Nat × Bool × Bool × Bool
  | 0, p, u, m => (p, false, u, m)
  | n + 1, p, u, m =>
    let k := needs p
    let units := decide (k.2.1 ≤ cl) && decide (k.2.2.1 ≤ ar) && decide (k.2.2.2 ≤ ci)
    if units && decide (k.1 ≤ ch) then (p, true, u, m)
    else if p ≤ 1 then settleProfile ch cl ar ci n (p + 1) (u || !units) (m || !decide (k.1 ≤ ch))
    else (p, false, u, m)

/-- The role of a port under a profile (R262). -/
def roleOf (p n : Nat) : Nat :=
  match p with
  | 0 => if n < 3 then 1 else 2
  | 1 => if n < 2 then 1 else if n = 3 ∨ n = 4 then 2 else 0
  | _ => if n < 2 then 1 else if n = 3 then 2 else 0

/-- Some sub-port of a port is up or degraded. -/
def State.carries (s : State) (n : Nat) : Bool := (List.range 4).any (fun k => (s.sub n k).isUp)

/-- Attach ports that a profile uses (R385). -/
def attachUsed (p : Nat) : Nat := if p ≤ 1 then 4 else 2

/-- The highest attach rate of a profile: 1 is 64 GT/s, 2 is 128 GT/s. (Log 87: DESIGN CHOICE.) -/
def rateCap (p : Nat) : Nat := if p = 1 then 1 else 2

/-- A number from nibbles or other fields of `w` bits, lowest first. -/
def packFields (w : Nat) : List Nat → Nat
  | [] => 0
  | x :: xs => x + 2 ^ w * packFields w xs

/-- A free choice of one element of a list. (Log 86: DESIGN CHOICE.) -/
def State.pick (s : State) (l : List Nat) : Nat × State :=
  match l with
  | [] => (0, s)
  | [x] => (x, s)
  | _ => (l.getD (s.takeFree.1.toNat % l.length) 0, s.takeFree.2)

/-- Writes the map registers and the spare counts, and sets map_valid (R23, R24, R29, R129). Which of several unmapped
clusters or arrays the register names is left open. (Log 88: DESIGN CHOICE.) What the fields and registers of logical units
that the map does not provide hold is the model's choice too: zero. (Log 131: DESIGN CHOICE.) -/
def State.writeMap (s : State) : State :=
  let u := s.badUnits
  let clu := (good 9 (fun i => u.clusters.getLsbD i)).take 8
  let neb := (good 5 (unitsBadArray u)).take 4
  let spareC := s.pick ((List.range 9).filter (fun i => !clu.contains i))
  let spareN := spareC.2.pick ((List.range 5).filter (fun i => !neb.contains i))
  let lanesOff := fun a =>
    let use := (good 132 (fun l => u.lanes.getLsbD (132 * a + l))).take 128
    (List.range 132).filter (fun l => !use.contains l)
  let sliceOff := fun n =>
    let use := (good 9 (fun k => u.slices.getLsbD (9 * n + k))).take 8
    ((List.range 9).find? (fun k => !use.contains k)).getD 0
  let excluded := countOf 9 (fun i => u.clusters.getLsbD i) + countOf 5 (unitsBadArray u)
    + countOf 660 (fun i => u.lanes.getLsbD i) + countOf 54 (fun i => u.slices.getLsbD i)
  let extended := decide (unitsUnion s.fuses.bad s.boot.test ≠ s.fuses.bad)
  let s1 := spareN.2.setReg Reg.GLB_MAP_STATUS (BitVec.ofNat 64 (1 + 2 * b2n extended + 256 * excluded))
  let s2 := s1.setReg Reg.GLB_MAP_CLU (BitVec.ofNat 64 (packFields 4 clu + 2 ^ 32 * spareC.1))
  let s3 := s2.setReg Reg.GLB_MAP_NEB (BitVec.ofNat 64 (packFields 3 neb + 2 ^ 12 * spareN.1))
  let s4 := (neb.zipIdx).foldl (fun (t : State) (e : Nat × Nat) =>
    (t.setReg (Reg.GLB_MAP_LANE e.2) (BitVec.ofNat 64 (packFields 8 (lanesOff e.1)))).setFld Reg.NEB_STATUS (8 + 4 * e.2) 3
      (4 - unitsBadLanes u e.1)) s3
  s4.setReg Reg.GLB_MAP_FAB (BitVec.ofNat 64 (packFields 4 ((List.range 6).map sliceOff)))

/-- BOOT_TEST_LOG: what the test found bad and the fuses good. (Log 88: DESIGN CHOICE.) -/
def testLog (fuse test : UnitSet) : Word :=
  let n := fun (k : Nat) (f t : Nat → Bool) => countOf k (fun i => t i && !f i)
  let u := unitsUnion fuse test
  let others := n 4 (fun i => fuse.attach.getLsbD i) (fun i => test.attach.getLsbD i)
    + n 12 (fun i => fuse.mem.getLsbD i) (fun i => test.mem.getLsbD i)
    + n 56 (fun i => fuse.cipher.getLsbD i) (fun i => test.cipher.getLsbD i)
  BitVec.ofNat 64 ((test.clusters &&& ~~~fuse.clusters).toNat
    + 2 ^ 9 * packFields 1 ((List.range 5).map (fun a => b2n (unitsBadArray u a && !unitsBadArray fuse a)))
    + 2 ^ 14 * n 660 (fun i => fuse.lanes.getLsbD i) (fun i => test.lanes.getLsbD i)
    + 2 ^ 24 * n 54 (fun i => fuse.slices.getLsbD i) (fun i => test.slices.getLsbD i)
    + 2 ^ 32 * min 63 others)

/-- The training result of a port: 0 not present, 1 up, 2 degraded, 3 disabled, 4 miswired. -/
def State.fabResult (s : State) (n : Nat) : Nat :=
  let subs := (List.range (s.subCount n)).map (fun k => s.sub n k)
  if !s.present n then 0
  else if subs.any (fun x => x.link == .miswired) then 4
  else if subs.all (fun x => x.link == .up) then 1
  else if subs.any Sub.isUp then 2
  else 3

/-- BOOT_TRAIN_F*n*. -/
def State.trainF (s : State) (n : Nat) : Word :=
  let width := (List.range 4).foldl (fun a k => a + (if (s.sub n k).isUp then (s.sub n k).lanes else 0)) 0
  BitVec.ofNat 64 ((tget 0 s.boot.fabLanes n).toNat + 2 ^ 8 * (9 - s.slices n) + 2 ^ 12 * width + 2 ^ 16 * s.fabResult n)

/-- BOOT_TRAIN_A*q* under a cap of the rate. (Log 87: DESIGN CHOICE.) -/
def State.trainA (s : State) (cap q : Nat) : Word :=
  let w := tget 0 s.boot.attWidth q
  BitVec.ofNat 64 (w + 2 ^ 5 * min (tget 0 s.boot.attRate q) cap + 2 ^ 7 * b2n (s.rec_.attach.getLsbD q))

/-- BOOT_TRAIN_M. (Log 87: DESIGN CHOICE.) -/
def State.trainM (s : State) : Word :=
  let m := fun c => tget none s.boot.modules c
  let mask := fun (f : Nat → Bool) => packFields 1 ((List.range 12).map (fun c => b2n (f c)))
  BitVec.ofNat 64 (mask s.chOk + 2 ^ 12 * mask (fun c => match m c with | some x => !x.present | none => false)
    + 2 ^ 24 * mask (fun c => match m c with | some x => x.present && !s.chOk c | none => false))

/-- BOOT_MAP_IO: the physical channels in use, and the physical attach ports; what the fields of attach ports beyond
those in use hold is left open. (Log 86: DESIGN CHOICE.) -/
def State.mapIo (s : State) (mem att : List Nat) : State :=
  let f := s.takeFree
  let rest := (List.range (4 - att.length)).map (fun i => bits f.1 (2 * i) 2)
  f.2.setReg Reg.BOOT_MAP_IO (BitVec.ofNat 64 (packFields 4 (mem ++ List.replicate (12 - mem.length) 15)
    + 2 ^ 48 * packFields 2 (att ++ rest)))

/-- The layout check: 0 the profile layout, 1 the Lean port layout, 2 fabric refused. -/
def State.layout (s : State) (p : Nat) : Nat :=
  let up := fun r => countOf 6 (fun n => roleOf p n == r && s.carries n)
  if 2 ≤ up 1 ∧ (if p ≤ 1 then 2 else 1) ≤ up 2 then 0
  else if p ≤ 1 ∧ 2 ≤ up 1 ∧ 1 ≤ up 2 then 1
  else 2

/-- Writes the role of a port, both copies. -/
def State.setRole (s : State) (n r : Nat) : State :=
  (s.setFld (Reg.FAB_PLANE n) 0 2 r).setSh (Reg.FAB_PLANE n) (putBits (s.sh (Reg.FAB_PLANE n)) 0 2 r)

/-- The peers that INIT frames have named are held against the roles of profile `p`: one outside its line marks the sub-port
miswired (R275). -/
def State.judge (s : State) (p : Nat) : State :=
  if !s.direct then s
  else allSubs.foldl (fun (t : State) i => t.updSub (i / 4) (i % 4) (fun x =>
    if x.known && x.isUp && roleOf p (i / 4) != 0 && !s.sameLine (roleOf p (i / 4)) x.peer then { x with link := .miswired }
    else x)) s

/-- Writes the training report (R398); `mem` and `att` are the physical channels and attach ports in use, `active` the
profile. (Log 86: DESIGN CHOICE.) -/
def State.report (s : State) (active lay cap : Nat) (fbU fbM lost : Bool) (mem att : List Nat) : State :=
  let s1 := (List.range 6).foldl (fun (t : State) n => t.setReg (Reg.BOOT_TRAIN_F n) (s.trainF n)) s
  let s2 := (List.range 4).foldl (fun (t : State) q => t.setReg (Reg.BOOT_TRAIN_A q) (s.trainA cap q)) s1
  let s3 := s2.setReg Reg.BOOT_TRAIN_M s.trainM
  let s4 := s3.setReg Reg.BOOT_TEST_LOG (testLog s.fuses.bad s.boot.test)
  let s5 := s4.setReg Reg.BOOT_TRAIN_SUM (BitVec.ofNat 64 (s.boot.target + 4 * active + 16 * b2n (lay == 1)
    + 32 * b2n (lay == 2) + 64 * s.boot.recBad.toNat + 2 ^ 10 * b2n fbU + 2 ^ 11 * b2n fbM + 2 ^ 12 * b2n lost))
  s5.mapIo mem att

/-- The speed at which the channels run: the highest that every module in service supports, up to the record's.
(Log 87: DESIGN CHOICE.) -/
def State.memSpeed (s : State) : Nat :=
  (List.range 12).foldl (fun a c => match tget none s.boot.modules c with
    | some m => if s.chOk c then min a m.speed.val else a
    | none => a) (min 2 s.rec_.mem.toNat)

/-- The profile is settled: roles, layout, map, capacities and report are fixed, and memory is next.
(Log 86: DESIGN CHOICE, 109: DEDUCED.) -/
def State.settled (s : State) (p : Nat) (fbU fbM : Bool) (cl ar ci : Nat) : State :=
  let lay := s.layout p
  let mem := ((List.range 12).filter s.chOk).take (needs p).1
  let att := (good 4 (fun q => s.badUnits.attach.getLsbD q)).take (attachUsed p)
  let set := BitVec.ofNat 12 (mem.foldl (fun a c => a + 2 ^ c) 0)
  let lost := !s.boot.full && decide (set ≠ s.boot.lastMem)
  let ports := if lay = 2 then 0 else countOf 6 (fun n => roleOf p n != 0 && s.carries n)
  let s1 := s.report p lay (rateCap p) fbU fbM lost mem att
  let s2 := if s.boot.full then s1.writeMap else s1
  let s3 := s2.setReg Reg.GLB_CAPS (BitVec.ofNat 64 (cl + 2 ^ 4 * ar + 2 ^ 8 * ports + 2 ^ 12 * att.length
    + 2 ^ 16 * mem.length + 2 ^ 20 * ci + 2 ^ 26 * p))
  let s4 := s3.setReg Reg.GLB_PROFILE (putBits (putBits (putBits (s3.reg Reg.GLB_PROFILE) 2 2 p) 7 1 (b2n (lay == 1))) 8 1
    (b2n (lay == 2)))
  let s5 := s4.setReg Reg.MEM_STATUS (BitVec.ofNat 64 (2 * mem.length + 2 ^ 5 * s.memSpeed + 2 ^ 7 * s.moduleGb
    + 2 ^ 16 * (mem.length * s.moduleGb)))
  let s6 := (List.range 6).foldl (fun t n =>
    let t1 := t.setRole n (roleOf p n)
    if lay = 2 ∨ roleOf p n = 0 then t1.portDown n else t1) s5
  let s7 : State := { s6 with boot := { s6.boot with
    decided := true, lastMem := set
    attWidth := s6.boot.attWidth.filter (fun e => att.contains e.1)
    attRate := s6.boot.attRate.filter (fun e => att.contains e.1) } }
  s7.ptpMove.bootGo 2 0

/-- No profile can start (R386): the report is written and nothing else runs. Which profile the report calls active is
left open. (Log 88: DESIGN CHOICE.) -/
def State.startFailed (s : State) (fbU fbM : Bool) : State :=
  let f := s.takeFree
  let att := good 4 (fun q => s.badUnits.attach.getLsbD q)
  let s1 := f.2.report (bits f.1 0 2) 0 (rateCap s.boot.target) fbU fbM false [] att
  let s2 := (List.range 6).foldl (fun t n => t.portDown n) s1
  ({ s2 with boot := { s2.boot with inReset := false } } : State).bootGo 6 St.resourceLimit

/-- The decision. -/
def State.decide_ (s : State) : State :=
  let u := s.badUnits
  let cl := min 8 (good 9 (fun i => u.clusters.getLsbD i)).length
  let ar := min 4 (good 5 (unitsBadArray u)).length
  let ci := (good 56 (fun i => u.cipher.getLsbD i)).length
  let r := settleProfile (countOf 12 s.chOk) cl ar ci 3 s.boot.target false false
  if r.2.1 then (s.judge r.1).settled r.1 r.2.2.1 r.2.2.2 cl ar ci else s.startFailed r.2.2.1 r.2.2.2

/-- PROFILE_DECISION: once the start-up test and the training have ended. -/
def execProfileDecision (s : State) : Out :=
  if s.bootState = 1 ∧ s.trained ∧ !s.tripped then .next s.decide_ else .next s

/-! ## Memory is ready (R373, R381, R391, R393) -/

/-- The firmware region: kind 0, protected, valid, the last GiB of installed memory. -/
def fwRegion (gib : Nat) : Word := BitVec.ofNat 64 (gib - 1 + 2 ^ 12 + 2 ^ 26 + 2 ^ 27)

/-- The step debt becomes lifetime_us (R381). -/
def State.debtFull (s : State) : State := { s with debt := s.fld Reg.XPT_LIFETIME 0 16 * 1000, debtAt := s.now }

/-- Memory is initialised where it must be, is ready, and holds its firmware region; the reset ends.
(Log 85: DESIGN CHOICE.) -/
def State.memReady (s : State) : State :=
  let init := s.boot.full || s.flag Reg.BOOT_TRAIN_SUM 12
  let s1 : State := if init then { s with mem := [], raw := [], scrub := [] } else s
  let v := fwRegion (s.fld Reg.MEM_STATUS 16 12)
  let s2 := if init then (s1.setReg (Reg.MEM_RGN 0) v).setSh (Reg.MEM_RGN 0) v else s1
  let s3 : State := { s2 with leaseAt := s.ps, boot := { s2.boot with inReset := false } }
  ((s3.setFld Reg.MEM_STATUS 0 1 1).debtFull).bootGo 3 0

/-- MEMORY_INIT_DONE. -/
def execMemoryInitDone (s : State) : Out := if s.bootState = 2 ∧ !s.tripped then .next s.memReady else .next s

end Sys2Proof.Machine
end

