-- ==== Sys2Proof/Machine/View.lean ====
section
/-!
DEFINITION. Command registers: the selection, staging and result registers of a path's view (R330), and the status that
a command leaves in its result register (R479).
-/

namespace Sys2Proof.Machine

/-- A register as the path sees it. (Log 77: DESIGN CHOICE.) -/
def State.vreg (s : State) (p : Path) (a : Nat) : Word := s.reg (pathAt p a)

/-- A field of it. -/
def State.vfld (s : State) (p : Path) (a lo w : Nat) : Nat := bits (s.vreg p a) lo w

/-- Sets a register that the path sees. -/
def State.setV (s : State) (p : Path) (a : Nat) (v : Word) : State := s.setReg (pathAt p a) v

/-- Sets a staged register that the path sees, both copies. -/
def State.setVBoth (s : State) (p : Path) (a : Nat) (v : Word) : State := (s.setV p a v).setSh (pathAt p a) v

/-- Commits a staged register of the path's view. -/
def State.commitV (s : State) (p : Path) (a : Nat) : State := s.setV p a (s.sh (pathAt p a))

/-- Leaves a status in a result register, at [31:16], with busy at 0. -/
def State.result (s : State) (p : Path) (a : Nat) (st : Status) : State :=
  (s.setFld (pathAt p a) 16 16 st.toNat).setFld (pathAt p a) 0 1 0

/-- The path is a VF whose instance does not hold the object (R330). -/
def State.outsideView (s : State) (p : Path) (pool : Pool) (n : Nat) : Bool :=
  match p with
  | .vf i => !s.inRange i pool n
  | _ => false

/-- The instance that a command names, replaced by a VF's own (R330). -/
def instFor (p : Path) (i : Nat) : BitVec 8 :=
  match p with
  | .vf j => j
  | _ => BitVec.ofNat 8 i

end Sys2Proof.Machine
end

