-- ==== Sys2Proof/Machine/Contexts.lean ====
section
/-!
DEFINITION. The commands on transport contexts (R230, R234) and the commit of rates and weights (R234).
-/

namespace Sys2Proof.Machine

/-- Valid contexts with pinned set, apart from context `c`. -/
def State.pinnedBut (s : State) (c : Nat) : Nat := (s.ctxs.filter (fun e => e.1 ≠ c && e.2.valid && e.2.pinned)).length

/-- A context cannot be destroyed: sender record, tracker, parked packet or waiting message (R230). -/
def State.ctxHeld (s : State) (c : BitVec 20) : Bool :=
  s.ctxBusy c || s.trackers.any (fun t => t.ctx == c) || s.ctxParked c || s.txq.any (fun r => r.srcCtx == c)

/-- The staged XPT_CTX_DATA0 of the path, with valid set and its instance. -/
def State.ctxStaged (s : State) (p : Path) : Word :=
  let d := s.vreg p Reg.XPT_CTX_DATA0
  putBits (putBits d 0 1 1) 8 8 (instFor p (bits d 8 8)).toNat

/-- A context as created from its data: at its ceiling and with a full bucket (R228). -/
def Ctx.fresh (d : Word) (ps : Nat) : Ctx :=
  let x := { Ctx.init with valid := true, data0 := d, tokens := fullBucket, tokAt := ps, aiAt := ps }
  { x with rate := x.ceiling }

/-- Create. -/
def State.ctxCreate (s : State) (c : BitVec 20) (d : Word) : Status × State :=
  let i : BitVec 8 := BitVec.ofNat 8 (bits d 8 8)
  if s.ctxCount ≤ c.toNat ∨ (s.ctx c).valid then (St.badDescriptor, s)
  else if !s.instExists i ∨ !s.inRange i .ctxs c.toNat then (St.accessDenied, s)
  else if bit d 1 ∧ 1024 ≤ s.pinnedBut c.toNat then (St.resourceLimit, s)
  else (St.ok, s.setCtx c (Ctx.fresh d s.ps))

/-- Modify: the new ceiling bounds the rate at once. -/
def State.ctxModify (s : State) (c : BitVec 20) (d : Word) : Status × State :=
  let x := s.ctx c
  if !s.ctxOk c ∨ bits d 8 8 ≠ bits x.data0 8 8 ∨ bits d 16 16 ≠ bits x.data0 16 16 then (St.badDescriptor, s)
  else if bit d 1 ∧ 1024 ≤ s.pinnedBut c.toNat then (St.resourceLimit, s)
  else
    let s1 := s.updCtx c (fun x => { x with data0 := d })
    (St.ok, (s1.setRate c (min x.rate (s1.ctx c).ceiling)).pumpFetch)

/-- Destroy. -/
def State.ctxDestroy (s : State) (c : BitVec 20) : Status × State :=
  if !s.ctxOk c then (St.badDescriptor, s)
  else if s.ctxHeld c then (St.quiesceRequired, s)
  else (St.ok, (s.setCtx c Ctx.init).pumpFetch)

/-- Read, into the path's data registers. -/
def State.ctxRead (s : State) (p : Path) (c : BitVec 20) : Status × State :=
  let x := s.ctx c
  if s.ctxCount ≤ c.toNat then (St.badDescriptor, s)
  else
    let n := (s.srecs.filter (fun r => r.srcCtx = c)).length
    let d1 := if x.valid then x.rate / 256 % 2 ^ 13 + n * 2 ^ 13 + b2n x.resident * 2 ^ 30 else 0
    (St.ok, (s.setV p Reg.XPT_CTX_DATA0 x.data0).setV p Reg.XPT_CTX_DATA1 (BitVec.ofNat 64 d1))

/-- A command on the selected context, with the check of a VF's view. -/
def State.ctxDo (s : State) (p : Path) (k : State → BitVec 20 → Status × State) : State :=
  let n := s.vfld p Reg.XPT_CTX_SEL 0 20
  let r := if s.outsideView p .ctxs n then (St.accessDenied, s) else k s (BitVec.ofNat 20 n)
  r.2.result p Reg.XPT_CTX_RESULT r.1

/-- A write of XPT_CTX_CMD. -/
def State.ctxCmd (s : State) (p : Path) (k : State → BitVec 20 → Status × State) : State :=
  s.viewWrite p Reg.XPT_CTX_CMD (fun s => s.ctxDo p k)

/-- CTX_CREATE. -/
def execCtxCreate (p : Path) (s : State) : Out := .next (s.ctxCmd p (fun s c => s.ctxCreate c (s.ctxStaged p)))

/-- CTX_MODIFY. -/
def execCtxModify (p : Path) (s : State) : Out := .next (s.ctxCmd p (fun s c => s.ctxModify c (s.ctxStaged p)))

/-- CTX_DESTROY. -/
def execCtxDestroy (p : Path) (s : State) : Out := .next (s.ctxCmd p (fun s c => s.ctxDestroy c))

/-- CTX_READ. -/
def execCtxRead (p : Path) (s : State) : Out := .next (s.ctxCmd p (fun s c => s.ctxRead p c))

/-! ## Commit (R234) -/

/-- A context after the commit: bucket zero or full, rate in the new range. -/
def Ctx.committed (x : Ctx) (low ps : Nat) (fill : Bool) : Ctx :=
  { x with tokens := if fill then fullBucket else 0, tokAt := ps, rate := min x.ceiling (max low x.rate) }

/-- XPT_COMMIT takes effect: the staged rates and weights, every bucket and every rate. -/
def State.xptCommit (s : State) (fill : Bool) : State :=
  let s1 := (Reg.XPT_RATE_CFG :: (List.range 6).map Reg.XPT_PLANE_WT).foldl (fun s a => s.setReg a (s.sh a)) s
  (s1.ctxs.map (·.1)).foldl (fun s c =>
    let x := s.ctx (BitVec.ofNat 20 c)
    if x.valid then s.setCtx (BitVec.ofNat 20 c) (x.committed s.rateMin s.ps fill) else s) s1

/-- XPT_COMMIT. -/
def execXptCommit (p : Path) (v : Word) (s : State) : Out :=
  .next (s.mapWrite p Reg.XPT_COMMIT (fun s => if bit v 0 then s.xptCommit (bit v 1) else s))

end Sys2Proof.Machine
end

