-- ==== Sys2Proof/Machine/Wins.lean ====
section
/-!
DEFINITION. The window table: entries and their cache (R238, R239), the checks on a packet that reaches a window (R243),
the in-flight count and the completion of a revoke (R244, R245), and the reference counts of key slots (R407).
-/

namespace Sys2Proof.Machine

/-! ## Entries -/

/-- A window entry. -/
def State.win (s : State) (w : Nat) : Win := tget Win.init s.wins w

/-- Sets an entry. -/
def State.setWin (s : State) (w : Nat) (x : Win) : State := { s with wins := tset Win.init s.wins w x }

/-- Changes an entry. -/
def State.updWin (s : State) (w : Nat) (f : Win → Win) : State := s.setWin w (f (s.win w))

/-- window_count. -/
def State.winCount (s : State) : Nat := s.fld Reg.WIN_TBL_COUNT 0 21

/-- The window ID that a target field or a reference carries. -/
def winId (tgtA : BitVec 32) : Nat := tgtA.toNat % 2 ^ 20

/-- The generation that it carries. -/
def winGen (tgtA : BitVec 32) : BitVec 8 := BitVec.ofNat 8 (tgtA.toNat / 2 ^ 20)

/-- Base of the window. -/
def Win.base (x : Win) : Word := x.data0

/-- Size in bytes. -/
def Win.size (x : Win) : Nat := bits x.data1 0 48

/-- Space. -/
def Win.space (x : Win) : Nat := bits x.data1 48 4

/-- Traffic of the window is encrypted. -/
def Win.enc (x : Win) : Bool := bit x.data1 56

/-- Owning instance. -/
def Win.inst (x : Win) : BitVec 8 := BitVec.ofNat 8 (bits x.data2 0 8)

/-- Partition. -/
def Win.part (x : Win) : Nat := bits x.data2 8 16

/-- Key slot. -/
def Win.keySlot (x : Win) : Nat := bits x.data2 24 12

/-- acc_format. -/
def Win.accFmt (x : Win) : Nat := bits x.data2 36 5

/-! ## The cache (R238) -/

/-- Entries cached or on their way. -/
def State.winCached (s : State) : Nat := (s.wins.filter (fun e => e.2.cached || e.2.fetching)).length

/-- The least recently used entry that may leave the cache: neither REVOKING nor with packets in flight. -/
def State.winVictim (s : State) : Option Nat :=
  (s.wins.foldl (fun (b : Option (Nat × Nat)) e =>
    if e.2.cached && e.2.phase != .revoking && e.2.flight == 0 then
      match b with
      | none => some (e.1, e.2.used)
      | some v => if e.2.used < v.2 then some (e.1, e.2.used) else some v
    else b) none).map (·.1)

/-- Where an entry lies in the window table: 64 bytes each. -/
def State.winAt (s : State) (w : Nat) : Nat := (s.reg Reg.WIN_TBL_BASE).toNat + 64 * w

/-- Writes an entry back to the table; how the bytes spell it is left open. (Log 41: DEDUCED.) -/
def State.winBack (s : State) (w : Nat) : State :=
  let b := s.openBytes 64
  b.2.ownStore (b.2.winAt w) b.1

/-- Starts the fetch of an entry that is not cached. -/
def State.fetchWin (s : State) (w : Nat) : State :=
  let x := s.win w
  if x.cached ∨ x.fetching then s
  else if s.winCached < 16384 then (s.setWin w { x with fetching := true }).bump (Reg.WIN_CNT 7)
  else match s.winVictim with
    | none => s
    | some v =>
      (((s.winBack v).updWin v (fun y => { y with cached := false })).updWin w (fun y => { y with fetching := true })).bump
        (Reg.WIN_CNT 7)

/-- Marks an entry as just used. -/
def State.useWin (s : State) (w : Nat) : State :=
  { s.updWin w (fun x => { x with used := s.fresh }) with fresh := s.fresh + 1 }

/-! ## Revoking (R245) -/

/-- Completes the revoke of an entry that is REVOKING with nothing in flight: the entry becomes FREE, the revoke time is
recorded, and the semaphore of the command, or of a ring's descriptor, is raised; that descriptor finishes. -/
def State.revokeDone (s : State) (w : Nat) : State :=
  let x := s.win w
  if x.phase ≠ .revoking ∨ x.flight ≠ 0 then s
  else
    let y := { x with phase := .free, revAt := some s.now, sem := none, ring := none }
    let s1 := (s.setWin w y).bump (Reg.WIN_CNT 6)
    let s2 := match x.sem with
      | some id => if s1.semProg x.inst id then (s1.semSignal x.inst id).2 else s1
      | none => s1
    match x.ring with
    | none => s2
    | some r =>
      { s2 with rings := tupd Ring.init s2.rings r.1 (fun g =>
          { g with
            descs := g.descs.map (fun d => if d.idx = r.2 then { d with phase := .finished St.ok } else d) }) }

/-- A packet of the window has ended (R244). -/
def State.winLeave (s : State) (w : Option Nat) : State :=
  match w with
  | none => s
  | some w => (s.updWin w (fun x => { x with flight := x.flight - 1 })).revokeDone w

/-! ## Checks on a packet (R243) -/

/-- Byte length of one element group of a format (R243). -/
def groupBytes (f : Fmt) : Nat := byteOff f (groupOf f)

/-- Elements in a full packet of WRITE_ACC: the largest number that fits in 4,096 B and is a multiple of the element
group (R209). -/
def accPer (f : Fmt) : Nat := 4096 / groupBytes f * groupOf f

/-- Elements that `n` payload bytes hold (R209). -/
def accCount (f : Fmt) (n : Nat) : Nat := n / groupBytes f * groupOf f

/-- The source format of a WRITE_ACC. -/
def accSrc (p : Packet) : Option Fmt := fmtOf (p.attr.toNat / 2 ^ 11)

/-- First byte in the window, relative to the message's offset, and byte count of a packet's target. For WRITE_ACC the
elements lie as acc_format places them (R237, R249). -/
def spanOf (e : Win) (p : Packet) : Nat × Nat :=
  if p.typ = 2 then
    match accSrc p, fmtOf e.accFmt with
    | some f, some g =>
      let first := p.idx.toNat * accPer f
      (byteOff g first, byteOff g (first + accCount f p.payload.length) - byteOff g first)
    | _, _ => (0, 0)
  else (p.idx.toNat * 4096, p.payload.length)

/-- The furthest byte that the arriving packet proves the message to reach, relative to its offset. -/
def reachOf (e : Win) (p : Packet) : Nat :=
  let here := (spanOf e p).1 + (spanOf e p).2
  if p.idx = p.last then here
  else
    let lastAt := (spanOf e { p with idx := p.last }).1
    max here (lastAt + 1)

/-- The furthest byte that a READ_REQ asks for, from its offset and the length of the last response packet. -/
def readReach (p : Packet) : Nat := p.last.toNat * 4096 + p.attr.toNat % 2 ^ 13

/-- The permission that the packet needs. -/
def Win.permits (x : Win) (p : Packet) : Bool :=
  (!p.mcast || bit x.data1 55)
    && (if p.typ = 1 then bit x.data1 52 else if p.typ = 2 then bit x.data1 54 else bit x.data1 53)

/-- The checks of R243, the first that fails giving the status. -/
def State.winCheck (s : State) (p : Packet) : Option Status :=
  let w := winId p.tgtA
  let e := s.win w
  let off := bits p.tgtB 0 48
  let reach := if p.typ = 4 then readReach p else reachOf e p
  if s.winCount ≤ w ∨ e.phase ≠ .open_ ∨ winGen p.tgtA ≠ e.gen then some St.windowClosed
  else if e.inst ≠ (s.ctx p.dstCtx).inst ∨ p.part.toNat ≠ e.part then some St.accessDenied
  else if !e.permits p then some St.accessDenied
  else if p.typ ≠ 4 ∧ p.enc ≠ e.enc then some St.accessDenied
  else if e.size < off + reach then some St.accessDenied
  else if p.typ = 2 && (match fmtOf e.accFmt with
      | some g => off % groupBytes g != 0
      | none => true) then some St.accessDenied
  else none

/-- Counts a refusal of R243. -/
def State.countRefusal (s : State) (st : Status) : State :=
  if st = St.windowClosed then s.bump (Reg.WIN_CNT 3)
  else if st = St.accessDenied then s.bump (Reg.WIN_CNT 4)
  else s

/-! ## Encryption (R248) -/

/-- The adapter's own entry for a window of a message: OPEN, with encryption, and of the instance. -/
def State.ownKey (s : State) (w : Nat) (inst : BitVec 8) : Option Nat :=
  let e := s.win w
  if w < s.winCount ∧ e.phase = .open_ ∧ e.enc ∧ e.inst = inst then some e.keySlot else none

/-- Reference count of a key slot: the entries OPEN or REVOKING that name it with encryption (R407). -/
def State.keyRefs (s : State) (k : Nat) : Nat :=
  (s.wins.filter (fun e => e.2.phase != .free && e.2.enc && e.2.keySlot == k)).length

end Sys2Proof.Machine
end

