-- ==== Sys2Proof/Machine/Cipher.lean ====
section
/-!
DEFINITION. The cipher engine: key slots (R407, R409, R410), the IV, additional data and GCM of a packet (R411–R414), and
the cipher cores with their schedulers and preemption (R416–R418).
-/

namespace Sys2Proof.Machine

/-! ## Key slots -/

/-- A key slot. -/
def State.key (s : State) (k : Nat) : KeySlot := tget KeySlot.init s.keys k

/-- Sets a key slot. -/
def State.setKey (s : State) (k : Nat) (x : KeySlot) : State := { s with keys := tset KeySlot.init s.keys k x }

/-- The state of a key slot: a loaded key expires after 2^32 − 2 message IDs (R409). -/
def State.keyPhase (s : State) (k : Nat) : KeyPhase :=
  let x := s.key k
  if x.phase = .loaded ∧ x.at_ + (2 ^ 32 - 2) ≤ s.msgCount then .expired else x.phase

/-- The slot can cipher packets at all: neither EMPTY nor of usage key-encryption (R414). -/
def State.keyUsable (s : State) (k : Nat) : Bool := s.keyPhase k != .empty && !(s.key k).kek

/-- Why a message cannot be encrypted under a slot (R409, R414). -/
def State.keyRefusal (s : State) (k : Nat) : Option Status :=
  if !s.keyUsable k then some St.accessDenied
  else if s.keyPhase k = .expired then some St.resourceLimit
  else none

/-! ## A packet under GCM -/

/-- The 96-bit IV (R412). -/
def packetIv (p : Packet) : BitVec 96 :=
  (if p.typ = 5 then p.dst else p.src) ++ p.msg ++ p.ts ++ p.idx

/-- The 48 bytes of a transport header (R206). -/
def headerBytes (p : Packet) : List Byte :=
  let f := b2n p.urgent * 128 + b2n p.enc * 64 + b2n p.mcast * 32 + b2n p.ordered * 16 + b2n p.sig * 8 + b2n p.retx * 4
    + b2n p.ece * 2 + b2n p.fin
  [BitVec.ofNat 8 (p.ver.toNat * 16 + p.typ.toNat), BitVec.ofNat 8 f]
    ++ beBytes p.attr.toNat 2 ++ beBytes p.src.toNat 2 ++ beBytes p.dst.toNat 2
    ++ beBytes p.srcCtx.toNat 4 ++ beBytes p.dstCtx.toNat 4 ++ beBytes p.msg.toNat 4
    ++ beBytes p.idx.toNat 2 ++ beBytes p.last.toNat 2 ++ beBytes p.ts.toNat 4
    ++ beBytes p.part.toNat 2 ++ beBytes p.len.toNat 2 ++ beBytes p.prev.toNat 4
    ++ beBytes p.tgtA.toNat 4 ++ beBytes p.tgtB.toNat 8

/-- The additional authenticated data (R413). -/
def packetAad (p : Packet) : List Byte :=
  headerBytes { p with dst := 0, mcast := false, retx := false, ece := false, fin := false }

/-- The payload under the key stream. -/
def ctr (key : BitVec 256) (iv : BitVec 96) (bs : List Byte) : List Byte :=
  bs.zipIdx.map (fun e => e.1 ^^^ Config.gcmStream key iv e.2)

/-- The packet encrypted, with its tag. -/
def sealPacket (key : BitVec 256) (p : Packet) : Packet :=
  let q := { p with enc := true }
  let ct := ctr key (packetIv q) p.payload
  { q with payload := ct, gcmTag := Config.gcmTag key (packetIv q) (packetAad q) ct }

/-- The plaintext of a packet that authenticates. -/
def openPacket (key : BitVec 256) (p : Packet) : Option (List Byte) :=
  if Config.gcmTag key (packetIv p) (packetAad p) p.payload = p.gcmTag then some (ctr key (packetIv p) p.payload) else none

/-! ## Cores and schedulers -/

/-- Cipher cores in service. -/
def State.cipherCores (s : State) : Nat := s.fld Reg.GLB_CAPS 20 6

/-- The cores of a pool: the lower half encrypts, the rest decrypt (R416). -/
def State.pool (s : State) (ingress : Bool) : List Nat :=
  let n := s.cipherCores
  if ingress then (List.range (n - n / 2)).map (· + n / 2) else List.range (n / 2)

/-- A core. -/
def State.core (s : State) (i : Nat) : Core := tget Core.init s.cores i

/-- Sets a core. -/
def State.setCore (s : State) (i : Nat) (x : Core) : State := { s with cores := tset Core.init s.cores i x }

/-- The core can take a new packet. -/
def Core.idle (x : Core) : Bool := x.job.isNone && x.susp.isNone && !x.held

/-- An urgent packet may take the core (R418). -/
def Core.preemptible (x : Core) : Bool :=
  x.susp.isNone && !x.held && match x.job with
    | some j => !j.rx.pkt.urgent
    | none => false

/-- The chaining state of a packet suspended at block `b` (R418, R419). (Log 94: DEDUCED.) -/
def chainOf (j : CJob) (b : Nat) : Chain :=
  let p := j.rx.pkt
  { counter := packetIv p ++ BitVec.ofNat 32 (2 + b)
    ghash := Config.ghashAt j.key (packetIv p) p.payload b
    aadBits := 384
    dataBits := BitVec.ofNat 64 (8 * p.payload.length)
    slot := BitVec.ofNat 16 j.slot, gen := j.gen, block := BitVec.ofNat 32 b }

/-- Suspends what a core runs at a block boundary, which one is left open. (Log 94: DEDUCED.) -/
def State.suspend (s : State) (i : Nat) : State :=
  match (s.core i).job with
  | none => s
  | some j =>
    let f := s.takeFree
    let b := f.1.toNat % (j.rx.pkt.payload.length / 16 + 1)
    f.2.setCore i { s.core i with job := none, susp := some (some j, chainOf j b) }

/-- A core starts a packet, with the key as it stands. -/
def State.startCore (s : State) (i : Nat) (j : CJob) : State :=
  s.setCore i { s.core i with job := some { j with key := (s.key j.slot).key, gen := (s.key j.slot).gen } }

/-- A packet reaches the scheduler of its pool: the idle core of lowest index takes it; without one, an urgent packet
takes the lowest core that runs a packet of another class (R417, R418); otherwise it waits. -/
def State.cipherPut (s : State) (j : CJob) : State :=
  let pool := s.pool j.ingress
  match pool.find? (fun i => (s.core i).idle) with
  | some i => s.startCore i j
  | none =>
    match if j.rx.pkt.urgent then pool.find? (fun i => (s.core i).preemptible) else none with
    | some i => ((s.suspend i).bump (Reg.SEC_CNT 3)).startCore i j
    | none => { s with cipherQ := s.cipherQ ++ [j] }

/-- The next waiting packet of a pool: urgent ones first, oldest first. -/
def State.cipherNext (s : State) (ingress : Bool) : Option CJob :=
  let w := s.cipherQ.filter (fun j => !j.fin && j.ingress == ingress)
  match w.find? (fun j => j.rx.pkt.urgent) with
  | some j => some j
  | none => w.head?

/-- A core that runs nothing resumes its suspended packet, or takes the next waiting one; a held core does neither.
(Log 94: DEDUCED.) -/
def State.coreNext (s : State) (i : Nat) : State :=
  let x := s.core i
  if x.held ∨ x.job.isSome then s
  else match x.susp with
    | some (j, _) => s.setCore i { x with job := j, susp := none }
    | none =>
      match s.cipherNext (decide (s.cipherCores / 2 ≤ i)) with
      | some j => { s with cipherQ := s.cipherQ.erase j }.startCore i j
      | none => s

/-- A packet of the message with an earlier index is still in the egress pool (R417). -/
def State.earlier (s : State) (j : CJob) : Bool :=
  let before := fun (k : CJob) => !k.ingress && !k.fin && k.rx.pkt.msg == j.rx.pkt.msg && k.rx.pkt.typ == j.rx.pkt.typ
    && k.rx.pkt.dst == j.rx.pkt.dst && decide (k.rx.pkt.idx.toNat < j.rx.pkt.idx.toNat)
  s.cipherQ.any before || s.cores.any (fun e =>
    (match e.2.job with | some k => before k | none => false)
      || (match e.2.susp with | some (some k, _) => before k | _ => false))

/-- Releases to their planes the ciphered packets that wait for no earlier index, oldest first. -/
def State.cipherFlush (s : State) : State :=
  s.cipherQ.foldl (fun s j =>
    if j.fin && !s.earlier j then
      { s with cipherQ := s.cipherQ.erase j }.toPlane j.plane j.rx.tc.toNat j.rx.pkt
    else s) s

/-- A packet of this adapter leaves for its plane: ciphered first when it has a key slot. -/
def State.send (s : State) (plane : Option Nat) (tc : BitVec 3) (slot : Option Nat) (p : Packet) : State :=
  match slot with
  | none => s.toPlane plane tc.toNat p
  | some k =>
    s.cipherPut { ingress := false, slot := k, key := 0, gen := 0, rx := ⟨p, true, 0, false, tc⟩, win := none,
                  upset := none, plane := plane, fin := false, moved := false, at_ := s.ck }

/-- An egress core finishes its packet. What a core makes of a packet whose chaining state was replaced is left open.
(Log 94: DEDUCED.) -/
def State.egressDone (s : State) (j : CJob) : State :=
  let p := sealPacket j.key j.rx.pkt
  let n := p.payload.length
  let q := if j.moved then
      { p with payload := p.payload.zipIdx.map (fun e => (Config.freeWord (s.free + e.2)).setWidth 8)
               gcmTag := Config.freeWord (s.free + n) ++ Config.freeWord (s.free + n + 1) }
    else p
  let s1 := (if j.moved then { s with free := s.free + n + 2 } else s).bump (Reg.SEC_CNT 0)
  { s1 with cipherQ := s1.cipherQ ++ [{ j with rx := { j.rx with pkt := q }, fin := true }] }.cipherFlush

end Sys2Proof.Machine
end

