-- ==== Sys2Proof/Machine/Instances.lean ====
section
/-!
DEFINITION. Instances I1–I255: creation, destruction, hold bits (R326–R329, R341).
-/

namespace Sys2Proof.Machine

/-- The staged configuration. -/
def State.instStaged (s : State) : Inst :=
  ⟨s.sh Reg.XLT_INST_CFG0, s.sh Reg.XLT_INST_CFG1, s.sh Reg.XLT_INST_CFG2, s.sh Reg.XLT_INST_CFG3, s.sh Reg.XLT_INST_CFG4,
   s.sh Reg.XLT_INST_CFG5, s.sh Reg.XLT_INST_CFG6⟩

/-- Every pool. -/
def allPools : List Pool := [.rings, .pages, .ctxs, .wins, .memGib, .keys, .groups, .pios, .tmem, .nbuf]

/-- Two ranges share an element. -/
def rangesMeet (a b : Nat × Nat) : Bool := a.2 != 0 && b.2 != 0 && overlaps a.1 a.2 b.1 b.2

/-- The other instances that exist. -/
def State.others (s : State) : List Inst := s.insts.filterMap (·.2)

/-- A staged configuration goes beyond the resources (R327). -/
def State.overRange (s : State) (c : Inst) : Bool :=
  allPools.any (fun p =>
    let r := c.range p
    (r.2 != 0 && decide (s.poolSize p < r.1 + r.2)) || s.others.any (fun o => rangesMeet r (o.range p)))
    || (List.range 4).any (fun r => s.rgnValid r
      && rangesMeet ((c.range .memGib).1 * 2 ^ 30, (c.range .memGib).2 * 2 ^ 30) (s.rgn r))

/-- Create. (Log 68: DESIGN CHOICE.) -/
def State.instCreate (s : State) (i : Nat) : Status × State :=
  let c := s.instStaged
  if i = 0 ∨ (tget none s.insts i).isSome ∨ s.others.any (fun o => bits o.c0 0 20 == bits c.c0 0 20) then
    (St.badDescriptor, s)
  else if s.overRange c then (St.resourceLimit, s)
  else (St.ok, { s with insts := tset none s.insts i (some c) })

/-- A context has work (R328 bit 3). -/
def State.ctxInUse (s : State) (c : BitVec 20) : Bool :=
  s.ctxBusy c || s.trackers.any (fun t => t.ctx == c) || s.parked.any (fun q => q.rx.pkt.dstCtx == c)
    || s.txq.any (fun r => r.srcCtx == c)

/-- The hold bits of an instance (R328). -/
def State.holdBits (s : State) (i : BitVec 8) : Nat :=
  b2n (s.rings.any (fun e => bits e.2.cfg1 28 8 == i.toNat && (bit e.2.cfg1 27 || e.2.head != e.2.fetched)))
    + 2 * b2n (s.slots.any (fun e => e.2.inst == i && e.2.phase != .idle))
    + 4 * b2n (s.wins.any (fun e => e.2.inst == i && e.2.phase != .free))
    + 8 * b2n (s.ctxs.any (fun e => e.2.valid && e.2.inst == i && s.ctxInUse (BitVec.ofNat 20 e.1)))
    + 16 * b2n (s.posted.any (fun b => match s.op? b.op with | some o => o.inst == i | none => false))
    + 32 * b2n (s.pages.any (fun r => r.inst == i))

/-- The key slots of a range become EMPTY, every field at its reset value (R410). -/
def State.clearKeys (s : State) (first count : Nat) : State :=
  { s with keys := s.keys.filter (fun e => !(decide (first ≤ e.1) && decide (e.1 < first + count))) }

/-- What a successful destroy does, in one step (R329). -/
def State.instGone (s : State) (i : BitVec 8) : State :=
  let pas := s.pasid i
  let kr := s.range i .keys
  let s1 : State := { s with
    ctxs := s.ctxs.filter (fun e => e.2.inst ≠ i)
    mcs := s.mcs.foldl (fun (t : Tab Mc) e =>
      if bits e.2.data1 8 8 = i.toNat then tset (⟨0, 0⟩ : Mc) t e.1 ⟨e.2.data0, putBits e.2.data1 0 1 0⟩ else t) s.mcs
    atc := s.atc.filter (fun e => !((e.key.port == .h && e.key.fn == i) || (e.key.port != .h && e.key.pasid == pas))) }
  let s2 := (List.range 256).foldl (fun s g =>
    if s.fld (Reg.SEM_PAGE g) 0 8 = i.toNat then s.setFld (Reg.SEM_PAGE g) 8 1 0 else s) s1
  let s3 := (s2.clearKeys kr.1 kr.2).setFld (Reg.RING_FQ_CTRL i.toNat) 0 1 0
  { s3 with insts := tset none s3.insts i.toNat none }

/-- Destroy: the hold bits, and the status with what follows. (Log 69: DEDUCED.) -/
def State.instDestroy (s : State) (i : Nat) : Nat × Status × State :=
  if i = 0 ∨ (tget none s.insts i).isNone then (0, St.badDescriptor, s)
  else
    let h := s.holdBits (BitVec.ofNat 8 i)
    if h ≠ 0 then (h, St.quiesceRequired, s) else (0, St.ok, s.instGone (BitVec.ofNat 8 i))

/-- Loads a configuration into XLT_INST_CFG0–CFG6. -/
def State.loadInst (s : State) (c : Inst) : State :=
  [(Reg.XLT_INST_CFG0, c.c0), (Reg.XLT_INST_CFG1, c.c1), (Reg.XLT_INST_CFG2, c.c2), (Reg.XLT_INST_CFG3, c.c3),
   (Reg.XLT_INST_CFG4, c.c4), (Reg.XLT_INST_CFG5, c.c5), (Reg.XLT_INST_CFG6, c.c6)].foldl
    (fun s e => (s.setReg e.1 e.2).setSh e.1 e.2) s

/-- Read. Nothing is configured for I0. (Log 68: DESIGN CHOICE, 69: DEDUCED.) -/
def State.instRead (s : State) (i : Nat) : Status × State :=
  match tget none s.insts i with
  | some c => (St.ok, s.loadInst c)
  | none => if i = 0 then (St.ok, s.loadInst ⟨0, 0, 0, 0, 0, 0, 0⟩) else (St.badDescriptor, s)

/-- Leaves status, existence and hold bits in XLT_INST_RESULT. (Log 69: DEDUCED.) -/
def State.instResult (s : State) (i h : Nat) (st : Status) : State :=
  s.setReg Reg.XLT_INST_RESULT (BitVec.ofNat 64 (st.toNat * 2 ^ 16 + b2n (s.instExists (BitVec.ofNat 8 i)) * 2 ^ 32 + h * 2 ^ 33))

/-- The instance that commands act on. -/
def State.instSel (s : State) : Nat := s.fld Reg.XLT_INST_SEL 0 8

/-- Op 1 of XLT_INST_CMD. -/
def State.instCreateOp (s : State) : State :=
  let r := s.instCreate s.instSel
  r.2.instResult s.instSel 0 r.1

/-- INSTANCE_CREATE. -/
def execInstanceCreate (p : Path) (s : State) : Out := .next (s.mapWrite p Reg.XLT_INST_CMD State.instCreateOp)

/-- Op 2. -/
def State.instDestroyOp (s : State) : State :=
  let r := s.instDestroy s.instSel
  r.2.2.instResult s.instSel r.1 r.2.1

/-- INSTANCE_DESTROY. -/
def execInstanceDestroy (p : Path) (s : State) : Out := .next (s.mapWrite p Reg.XLT_INST_CMD State.instDestroyOp)

/-- Op 3. -/
def State.instReadOp (s : State) : State :=
  let r := s.instRead s.instSel
  r.2.instResult s.instSel 0 r.1

/-- INSTANCE_READ. -/
def execInstanceRead (p : Path) (s : State) : Out := .next (s.mapWrite p Reg.XLT_INST_CMD State.instReadOp)

/-- Op 4. -/
def State.instQueryOp (s : State) : State :=
  if s.instExists (BitVec.ofNat 8 s.instSel) then s.instResult s.instSel (s.holdBits (BitVec.ofNat 8 s.instSel)) St.ok
  else s.instResult s.instSel 0 St.badDescriptor

/-- INSTANCE_QUERY. -/
def execInstanceQuery (p : Path) (s : State) : Out := .next (s.mapWrite p Reg.XLT_INST_CMD State.instQueryOp)

end Sys2Proof.Machine
end

