-- ==== Sys2Proof/Machine/Segments.lean ====
section
/-!
DEFINITION. How an operation runs: its segments (R51, R52), translation faults (R64, R65), reads, Nebula results and
writes (R53), fences and tile waits (R56, R99), and the requests it makes to the send engines.
-/

namespace Sys2Proof.Machine

/-! ## Operands of an operation -/

/-- The operation's message goes out from a source tensor. -/
def Op.isSend (o : Op) : Bool := o.kind == .put || o.kind == .send || o.kind == .mput || o.kind == .putacc

/-- The operation belongs to group 0x6. -/
def Op.isMsg (o : Op) : Bool := o.isSend || o.kind == .get || o.kind == .recv

/-- The source tensors that the operation's segments read, first to last. -/
def Op.srcs (o : Op) : List TDesc :=
  match o.kind with
  | .copy | .convert | .scale => [o.a]
  | .red => [o.a, o.b]
  | .quant => if o.residOff then [o.a] else [o.a, o.b]
  | .put | .send | .mput | .putacc => [o.a]
  | _ => []

/-- The tensors that the operation's segments write here. -/
def Op.dsts (o : Op) : List TDesc :=
  match o.kind with
  | .copy | .convert | .fill | .red | .scale | .get => [o.dst]
  | .quant => if o.residOff then [o.dst] else [o.dst, o.b]
  | _ => []

/-- The segment source (R83, R89). -/
def Op.segSrc (o : Op) : TDesc :=
  match o.kind with
  | .copy | .convert | .red | .scale | .quant => if o.srcFlag then o.dst else o.a
  | .put | .send | .mput | .putacc => o.a
  | _ => o.dst

/-- First element and element count of segment `k`; SEND and RECV have one segment (R91). -/
def Op.part (o : Op) (k : Nat) : Nat × Nat :=
  if o.kind = .send ∨ o.kind = .recv then (0, o.segSrc.count) else o.segSrc.segment o.group k

/-- The operation runs on an array: not a copy, and not a conversion between equal formats, which equals one (R85). -/
def Op.onArray (o : Op) : Bool :=
  match o.kind with
  | .convert => o.dst.format != o.a.format
  | .red | .scale | .quant => true
  | _ => false

/-- The cluster of the operation's slot. -/
def Op.clu (o : Op) : Nat := o.sl / 4

/-- A segment of an operation by handle. -/
def Op.seg? (o : Op) (g : Nat) : Option Seg := o.segs.find? (fun x => x.id = g)

/-- Changes a segment. -/
def State.updSeg (s : State) (op g : Nat) (f : Seg → Seg) : State :=
  s.updOp op (fun o => { o with segs := o.segs.map (fun x => if x.id = g then f x else x) })

/-- Drops the segments for which `p` holds, with their jobs and waiting messages. Their reads and writes that have been
issued stay outstanding: the operation is not complete before they have ended (R53), and an invalidation waits for
them (R60). -/
def State.dropSegs (s : State) (op : Nat) (p : Seg → Bool) : State :=
  match s.op? op with
  | none => s
  | some o =>
    let gone := (o.segs.filter p).map (·.id)
    { s.updOp op (fun o => { o with segs := o.segs.filter (fun x => !p x) }) with
      jobs := s.jobs.filter (fun j => !(j.op == op && gone.contains j.seg))
      txq := s.txq.filter (fun r => match r.src with
        | .op a b => !(a == op && gone.contains b)
        | _ => true) }

/-- A read of the operation is outstanding. -/
def State.readsOut (s : State) (op : Nat) : Bool :=
  s.reads.any (fun r => match r.kind with
    | .seg a _ _ => a == op
    | _ => false)

/-- A write of the operation is outstanding. -/
def State.writesOut (s : State) (op : Nat) : Bool :=
  s.writes.any (fun w => match w.kind with
    | .seg a _ => a == op
    | _ => false)

/-! ## Fences and tile waits (R56, R99) -/

/-- Every read of the operation has returned its data. -/
def Op.readsDone (o : Op) : Bool :=
  match o.kind with
  | .recv | .semOp _ => true
  | _ => !o.held && o.next == o.nseg
      && o.segs.all (fun x => x.reads == 0 && x.phase != .xlat && x.phase != .reading)

/-- Every write of the operation is acknowledged at its destination. -/
def Op.writesDone (o : Op) : Bool :=
  match o.kind with
  | .semOp _ => true
  | .recv => o.done
  | _ => !o.held && o.next == o.nseg && o.segs.all (fun x => x.phase == .done)

/-- The operation is no remote semaphore operation, or it has been applied. A completion signal that another operation
raises at another adapter is none: R183 and R208 name such signals apart. (Log 113: DEDUCED.) -/
def Op.semsDone (o : Op) : Bool :=
  match o.kind with
  | .semOp _ => o.done
  | _ => true

/-- The scope of a fence is met by every outstanding operation of the slot. -/
def State.fenceOk (s : State) (sl : Nat) (scope : BitVec 3) : Bool :=
  let sc := if scope = 0 then 7#3 else scope
  (s.ops.filter (fun o => o.sl = sl)).all (fun o =>
    (!sc.getLsbD 0 || (o.readsDone && !s.readsOut o.id)) && (!sc.getLsbD 1 || (o.writesDone && !s.writesOut o.id))
      && (!sc.getLsbD 2 || o.semsDone))

/-- The tile wait is satisfied: the operation is gone or has signalled enough. -/
def State.tileOk (s : State) (op : Nat) (count : Word) : Bool :=
  match s.op? op with
  | none => true
  | some o => decide (count.toNat ≤ o.signalled)

/-- Lets every slot go on whose fence or tile wait is now met. -/
def State.settle (s : State) : State :=
  allSlots.foldl (fun s sl => match (s.slot sl).wait with
    | some (.fence sc) => if s.fenceOk sl sc then s.retire sl else s
    | some (.tile op n) => if s.tileOk op n then s.retire sl else s
    | _ => s) s

/-! ## Requests to the send engines (R218) -/

/-- Queues a message for a send engine. -/
def State.txAsk (s : State) (src : MsgSrc) (sl : Nat) (inst : BitVec 8) (srcCtx : BitVec 20) (dst : AdapterId)
    (dstCtx : BitVec 20) (tc : BitVec 3) (urgent : Bool) (data : List Byte) (trig : List Word) : State :=
  { s with fresh := s.fresh + 1
           txq := s.txq ++ [{ id := s.fresh, src := src, sl := sl, inst := inst, srcCtx := srcCtx, dst := dst,
                              dstCtx := dstCtx, tc := tc, urgent := urgent, since := s.ck,
                              trkWait := false, recWait := false, data := data, trig := trig }] }

/-- The context of an instance's semaphore messages (R178). -/
def State.sigCtx (s : State) (i : BitVec 8) : BitVec 20 := BitVec.ofNat 20 (s.fld (Reg.SEM_SIGCTX i.toNat) 0 20)

/-- SEM_SIGCTX of the instance is valid. -/
def State.sigCtxOk (s : State) (i : BitVec 8) : Bool := s.flag (Reg.SEM_SIGCTX i.toNat) 20

/-- Requests the semaphore message of a completion signal with sig_where 2 (R178, R180). -/
def State.askSignal (s : State) (o : Op) (k : Nat) : State :=
  if s.sigCtxOk o.inst then
    (s.updOp o.id (fun o => { o with sigs := o.sigs + 1 })).txAsk (.sig o.id k) o.sl o.inst (s.sigCtx o.inst) o.semAd
      (s.sigCtx o.inst) (if o.urgent then 7 else o.tc) o.urgent [] []
  else s.updOp o.id (·.failed St.accessDenied)

/-- Requests the signal of a finished operation with sig_mode 1 and sig_where 2 (R54, R180). -/
def State.lastSignal (s : State) (o : Op) : State :=
  if o.sigMode = 1 ∧ o.sigWhere = 2 then s.askSignal o (o.nseg - 1) else s

/-- The destination of an operation of group 0x6: the window reference's adapter, s[b] of SEND, or the group of MPUT (R91,
R92, R235). -/
def Op.target (o : Op) : AdapterId :=
  match o.kind with
  | .send => o.dest.setWidth 16
  | .get => BitVec.ofNat 16 (bits o.a.base 48 16)
  | .mput => BitVec.ofNat 16 (bits o.ctxv 32 16)
  | _ => BitVec.ofNat 16 (bits o.dst.base 48 16)

/-- The context of an operation of group 0x6. -/
def Op.srcCtx (o : Op) : BitVec 20 := o.ctxv.setWidth 20

/-- The context at the destination: that of s[b] for SEND, otherwise the operation's own (R89, R91). -/
def Op.dstCtx (o : Op) : BitVec 20 := if o.kind = .send then BitVec.ofNat 20 (bits o.dest 16 20) else o.srcCtx

/-- Requests the message of a segment of an operation of group 0x6, with the bytes it carries (R89, R91). -/
def State.askSeg (s : State) (o : Op) (x : Seg) (data : List Byte) : State :=
  s.txAsk (.op o.id x.id) o.sl o.inst o.srcCtx o.target o.dstCtx (if o.urgent then 7 else o.tc) o.urgent data []

/-! ## Writes (R53, R315) -/

/-- A write to one byte run of an internal space. -/
def State.storeRun (s : State) (inst : BitVec 8) (clu space : Nat) (k : WriteKind) (a : Word) (bs : List Byte) :
    Bool × Bool × State :=
  match s.locOf inst clu space a with
  | .mem x => s.storeMem inst k x bs none
  | l =>
    let r := s.writeLoc inst l bs
    (r.1, false, r.2)

/-- The flushing zero-length read that follows the last posted write of a segment over H (R53); those of a received
message (R251) and of the responses to a GET follow their last packet. -/
def flushOf (k : WriteKind) (p : Port) (inst : BitVec 8) (rs : List (Word × Nat)) : List Emission :=
  match k, p, rs.getLast? with
  | .seg .., .h, some r => [.memRead .h inst r.1 0]
  | _, _, _ => []

/-- Writes bytes to byte runs: whether a word failed, how many acknowledgements are awaited, and the state. Over H the
acknowledgement is the return of the flushing read. -/
def State.storeRuns (s : State) (inst : BitVec 8) (clu space : Nat) (k : WriteKind) (rs : List (Word × Nat))
    (bs : List Byte) : Bool × Nat × State :=
  if bs.isEmpty then (false, 0, s)
  else if isExt space then
    let p := portOf space
    let es := (rs.foldl (fun (acc : List Emission × List Byte) r =>
      (acc.1 ++ [.memWrite p inst r.1 (acc.2.take r.2)], acc.2.drop r.2)) ([], bs)).1
    (false, 1, { s with
                        fresh := s.fresh + 1
                        writes := s.writes ++ [⟨s.fresh, k, inst, some p, [], (match rs.getLast? with | some r => r.1.toNat | none => 0), [],
                                                bs.length⟩] : State }.emits
      (es ++ flushOf k p inst rs))
  else
    let r := rs.foldl (fun (acc : Bool × Nat × List Byte × State) r =>
      let x := acc.2.2.2.storeRun inst clu space k r.1 (acc.2.2.1.take r.2)
      (acc.1 || x.1, acc.2.1 + b2n x.2.1, acc.2.2.1.drop r.2, x.2.2)) (false, 0, bs, s)
    (r.1, r.2.1, r.2.2.2)

/-! ## The order of requests (R21) -/

/-- The blocks that make requests at a port. -/
inductive ReqSource
  | cluster (c : Nat)
  | transport
  deriving DecidableEq, Repr

/-- Who made a read; the reads of WRITE_ACC packets go one at a time (R93), and a raw queue has one at a time (R350). -/
def State.readSource (s : State) : ReadKind → Option ReqSource
  | .seg op _ _ => (s.op? op).map (fun o => .cluster o.clu)
  | .win .. => some .transport
  | .acc .. => none
  | .rawTx .. => none

/-- Who made a write. The packets that the transport posts over H complete with the flushing read of their message, not in
their own order (R251). -/
def State.writeSource (s : State) (w : WriteReq) : Option ReqSource :=
  match w.kind with
  | .seg op _ => (s.op? op).map (fun o => .cluster o.clu)
  | .rx .. => if w.port = some .h then none else some .transport
  | .resp .. => if w.port = some .h then none else some .transport
  | .acc .. => none
  | .accMem .. => none
  | .hdm _ => none
  | .store => none

/-- The port of a read outside the adapter. -/
def ReadReq.port (r : ReadReq) : Option Port := r.keys.head?.map (·.port)

/-- No earlier request of a source is outstanding at a port, so that the request `id` is the next that completes (R21). Both
reads and writes are requests of channel VC0 (R17). (Log 123: DEDUCED.) -/
def State.inOrder (s : State) (src : Option ReqSource) (p : Option Port) (id : Nat) : Bool :=
  src.isNone || p.isNone ||
    !(s.reads.any (fun r => r.sent && decide (r.id < id) && s.readSource r.kind == src && r.port == p)
      || s.writes.any (fun w => decide (w.id < id) && s.writeSource w == src && w.port == p))

/-! ## Counting -/

/-- Counts bytes read by an operation at their sources (R444). -/
def State.countRead (s : State) (o : Op) (n : Nat) : State := s.count (Reg.DBG_CNT o.clu 4) n

/-- Counts bytes written by an operation and acknowledged (R444, R445). -/
def State.countWrite (s : State) (o : Op) (n : Nat) : State :=
  (((s.count (Reg.DBG_CNT o.clu 5) n).tagCount o.filters 1 n).updOp o.id (fun o => { o with moved := o.moved + n }))

/-! ## The segments of an operation -/

/-- The message of segment `k` carries a signal for the destination, so it waits for every earlier segment to signal
(R52, R54, R180). -/
def Op.sigGate (o : Op) (k : Nat) : Bool :=
  o.sigWhere == 1 && (o.sigMode == 2 || (o.sigMode == 1 && k + 1 == o.nseg))

/-- The message of a segment still waits at the send engine. -/
def State.atEngine (s : State) (op g : Nat) : Bool := s.txq.any (fun r => r.src == .op op g)

/-- The message of a segment has to wait for the messages or signals of earlier segments: it carries a signal, or goes out on
an ordered context (R52, R224). -/
def State.chained (s : State) (o : Op) (k : Nat) : Bool := o.sigGate k || (tget Ctx.init s.ctxs o.srcCtx.toNat).ordered

/-- A segment fails: it is dropped without a result, and the operation ends with the status once its other segments in
progress have completed (R128); segments whose messages wait to carry a signal that can no longer be in order are not
sent (R54). -/
def State.failSeg (s : State) (op g : Nat) (st : Status) : State :=
  match (s.op? op).bind (fun o => (o.seg? g).map (fun x => (o, x))) with
  | none => s.updOp op (·.failed st)
  | some (o, _) =>
    let s1 := s.updOp op (fun o => { o.failed st with held := false })
    s1.dropSegs op (fun y => y.id == g || (y.idx != o.signalled && o.sigGate y.idx && s1.atEngine op y.id))

/-- The bytes that segment `k` writes here or at another adapter (R444). -/
def Op.written (o : Op) (k : Nat) : Nat :=
  let p := o.part k
  match o.kind with
  | .put | .send | .mput => o.a.denseBytes p.1 p.2
  | .putacc => o.dst.denseBytes p.1 p.2
  | _ => (o.dsts.map (fun d => d.denseBytes p.1 p.2)).foldl (· + ·) 0

/-- The marks and place of a translation fault (R64, R305). -/
def State.partialRec (s : State) (o : Op) (k : Nat) (st : Status) (va : Word) (space : Nat) : FaultRec :=
  { s.opRec o st 1 with
    w4 := BitVec.ofNat 64 k, w5 := va,
    w6 := BitVec.ofNat 64 ((s.pasid o.inst).toNat + space * 2 ^ 20) }

/-- A segment of QUANT that has written its results while an earlier one met a translation fault: it is not run again
(R159). (Log 114: DEDUCED.) -/
def Op.keeps (o : Op) (x : Seg) : Bool := o.kind == .quant && x.phase == .done && decide (o.signalled < x.idx)

/-- Once the segments before a translation fault have signalled and those after it have ended, the held operation records PARTIAL_FAULT with the first
unsignalled segment and makes its one page request (R64). -/
def State.partialNow (s : State) (op : Nat) : State :=
  match s.op? op with
  | none => s
  | some o =>
    if !o.held ∨ !o.segs.all o.keeps ∨ s.pages.any (fun r => r.op == op) then s
    else
      let port := if o.faultSpace = 3 then Port.h else portOf o.faultSpace
      let key := s.xkey o.inst port (o.faultVa >>> (12 : Nat))
      let s1 : State := { s with
        fresh := s.fresh + 1
        pages := s.pages ++ [{ id := s.fresh, key := key, inst := o.inst, op := op, sent := false }] }
      let s2 := (s1.record (s1.partialRec o o.signalled St.partialFault o.faultVa o.faultSpace)).updSlot o.sl
        (fun x => { x with faultSeg := BitVec.ofNat 32 o.signalled, faultTag := o.tag, faultPc := o.pc,
                           faultSt := St.partialFault })
      s2.sendPage s.fresh

/-- The segment's data is complete (R53): its bytes are counted, and it waits to signal in order. In an operation that is
held on a page fault of an earlier segment it cannot signal and is abandoned (R64). -/
def State.segDone (s : State) (o : Op) (g : Nat) : State :=
  match (s.op? o.id).bind (fun p => (p.seg? g).map (fun x => (p, x))) with
  | none => s
  | some (p, x) =>
    let s1 := (s.countWrite o (o.written x.idx)).updSeg o.id g
      (fun x => { x with phase := .done, reads := 0, writes := 0, held := [] })
    if !p.held then s1
    else if p.next ≤ x.idx ∧ p.kind ≠ .quant then (s1.dropSegs o.id (fun y => y.id == g)).partialNow o.id
    else s1.partialNow o.id

/-- Writes the results of a segment, one list of bytes per destination tensor. -/
def State.writeSeg (s : State) (o : Op) (x : Seg) (bss : List (List Byte)) : State :=
  let p := o.part x.idx
  let r := (o.dsts.zip bss).foldl (fun (acc : Bool × Nat × State) e =>
    let w := acc.2.2.storeRuns o.inst o.clu e.1.space (.seg o.id x.id) (e.1.span p.1 p.2) e.2
    (acc.1 || w.1, acc.2.1 + w.2.1, w.2.2)) (false, 0, s)
  if r.1 then r.2.2.failSeg o.id x.id St.uncorrectable
  else if r.2.1 = 0 then r.2.2.segDone o x.id
  else r.2.2.updSeg o.id x.id (fun x => { x with phase := .writing, writes := r.2.1, held := [] })

/-- The bytes that FILL writes: the low bits of its value in every element (R85). -/
def Op.fillBytes (o : Op) (n : Nat) : List Byte :=
  packBits o.dst.fmt.elem.w (List.replicate n (o.val.toNat % 2 ^ o.dst.fmt.elem.w))

/-! ## Arrays (R121, R122, R129) -/

/-- Passes that a job still has to run; a segment of QUANT with two lane operations for each element counts each pass once.
(Log 116: DESIGN CHOICE.) -/
def Job.left (j : Job) : Nat := (j.elems - j.done + j.per - 1) / max 1 j.per

/-- Passes queued on an array. -/
def State.queued (s : State) (a : Nat) : Nat := ((s.jobs.filter (fun j => j.arr = a)).map Job.left).foldl (· + ·) 0

/-- The array is in service. -/
def State.arrayUp (s : State) (a : Nat) : Bool :=
  decide (a < s.arrays) && !(s.reg Reg.NEB_STATUS).getLsbD a

/-- The array in service with the fewest queued passes, the lowest among equals (R121). -/
def State.pickArray (s : State) : Option Nat :=
  (List.range 4).foldl (fun best a =>
    if s.arrayUp a then
      match best with
      | none => some a
      | some b => if s.queued a < s.queued b then some a else some b
    else best) none

/-- Elements that an array takes in one pass, by class (R122): one per lane in the 64-bit class, for which the table gives a
quarter of an element per lane and ck. (Log 116: DESIGN CHOICE.) -/
def perPass (width : Nat) : Nat := if 32 ≤ width then 128 else if width = 16 then 256 else 512

/-- The widest element width among all tensor operands. -/
def Op.width (o : Op) : Nat := (o.srcs ++ o.dsts).foldl (fun m d => max m (classBits d.fmt)) 0

/-- Some tensor operand has format FP64 (R112, R113). -/
def Op.wide (o : Op) : Bool := (o.srcs ++ o.dsts).any (fun d => d.format == 0)

/-- Queues a segment on an array; with none in service it fails with CHECK_FAIL (R129). -/
def State.queueSeg (s : State) (o : Op) (x : Seg) : State :=
  match s.pickArray with
  | none => s.failSeg o.id x.id St.checkFail
  | some a =>
    { s.updSeg o.id x.id (fun x => { x with phase := .array }) with
      jobs := s.jobs ++ [{ arr := a, op := o.id, seg := x.id, elems := (o.part x.idx).2, per := perPass o.width,
                           done := 0, began := false, tally := [0, 0, 0, 0],
                           lanes := if o.kind = .quant ∧ !o.residOff then 2 else 1 }] }

/-- The policy that an operation took from NEB_CTRL. -/
def Op.policy (o : Op) : Policy := ⟨bit o.nebCtrl 0, bit o.nebCtrl 1⟩

/-- The values of a segment before rounding (R85–R88, R114). -/
def Op.values (o : Op) (x : Seg) : List Num :=
  let a := decodeDense o.a.fmt x.bufA
  match o.kind with
  | .red => (a.zip (decodeDense o.b.fmt x.bufB)).map (fun p => combine o.redOp p.1 p.2)
  | .scale =>
    let v := decodeElem ⟨64, 11, 52, 1023, .ieee⟩ o.val.toNat
    let v := if o.wide then v else roundSig 24 v
    a.map (fun y => numMul y v)
  | .quant =>
    if o.residOff then a
    else (a.zip (decodeDense o.b.fmt x.bufB)).map (fun p => roundSig (if o.wide then 106 else 52) (numAdd p.1 p.2))
  | _ => a

/-- Values with their random values (R120). -/
def Op.draws (o : Op) (x : Seg) (vs : List Num) : List (Num × Nat) :=
  let key := randomKey o.seed o.seedXor x.idx (bit o.nebCtrl 2) x.arr x.seq
  vs.zipIdx.map (fun p => (p.1, if o.round = 2 then randomAt key p.2 else 0))

/-- QUANT without its residual between equal formats writes what CONVERT writes, which is a copy (R85, R114). -/
def Op.copies (o : Op) : Bool := o.kind == .quant && o.residOff && o.dst.format == o.a.format

/-- The results of a segment that an array has run, one per destination tensor. -/
def Op.results (o : Op) (x : Seg) : List Dense :=
  if o.copies then [{ bytes := x.bufA, vals := [], sat := 0, lost := 0 }] else
  let vs := o.values x
  let d := encodeDense o.dst.fmt o.policy (modeOf o.round) (o.draws x vs)
  if o.kind = .quant ∧ !o.residOff then
    [d, encodeDense o.b.fmt o.policy .nearest ((vs.zip d.vals).map (fun p => (numAdd p.1 (numNeg p.2), 0)))]
  else [d]

/-! ## Reading -/

/-- A segment whose message would have to wait for one that is not sent any more, because the operation has failed or is
held, ends here (R54, R64). -/
def State.outOfTurn (s : State) (o : Op) (x : Seg) : Bool :=
  match s.op? o.id with
  | some p => o.isMsg && ((p.status != 0 && p.sigGate x.idx && x.idx != p.signalled)
      || (p.held && decide (p.next ≤ x.idx) && s.chained p x.idx))
  | none => false

/-- Every source of the segment has returned: a message is requested, moves write at once, the others go to an array. -/
def State.afterReads (s : State) (o : Op) (x : Seg) : State :=
  if s.outOfTurn o x then (s.dropSegs o.id (fun y => y.id == x.id)).partialNow o.id
  else if o.isMsg then (s.updSeg o.id x.id (fun x => { x with phase := .message, held := [] })).askSeg o x x.bufA
  else if o.onArray then s.queueSeg o x
  else if o.kind = .fill then s.writeSeg o x [o.fillBytes (o.part x.idx).2]
  else s.writeSeg o x [x.bufA]

/-- The translations that a part of a tensor outside the adapter needs. -/
def State.keysOf (s : State) (o : Op) (d : TDesc) (p : Nat × Nat) : List XKey :=
  if isExt d.space ∧ p.2 ≠ 0 then (pagesOf (d.span p.1 p.2)).map (s.xkey o.inst (portOf d.space)) else []

/-- Issues the read of one source of a segment. -/
def State.askRead (s : State) (o : Op) (x : Seg) (which : Nat) (d : TDesc) : State :=
  let p := o.part x.idx
  let rs := d.span p.1 p.2
  let s1 : State := { s with
                             fresh := s.fresh + 1
                             reads := s.reads ++ [⟨s.fresh, .seg o.id x.id which, d.denseBytes p.1 p.2, s.keysOf o d p, true⟩] }
  if isExt d.space then s1.emits (rs.map (fun r => .memRead (portOf d.space) o.inst r.1 r.2)) else s1

/-- A segment whose accesses are all translated goes on: its sources are read. A GET without sources here requests its
message and reads until the responses have arrived. -/
def State.goSeg (s : State) (o : Op) (x : Seg) : State :=
  if o.kind = .get then
    (s.updSeg o.id x.id (fun x => { x with phase := .message, reads := 1 })).askSeg o x []
  else
    let n := o.srcs.length
    let s1 := s.updSeg o.id x.id (fun x => { x with phase := .reading, reads := n })
    if n = 0 ∨ (o.part x.idx).2 = 0 then (s1.updSeg o.id x.id (fun x => { x with reads := 0 })).afterReads o x
    else (o.srcs.zipIdx).foldl (fun s e => s.askRead o x e.2 e.1) s1

/-- A translation fault of segment `k` ends segment `x` at once: the one that met it, and later ones whose accesses are
not all translated, whose message has to wait for an earlier one, or, of QUANT, in their first stage (R64, R159). Other later
segments are completed first. (Log 114: DEDUCED.) -/
def State.abandons (s : State) (o : Op) (k : Nat) (x : Seg) : Bool :=
  x.idx == k || (decide (k < x.idx) && (x.phase == .xlat || (s.chained o x.idx && s.atEngine o.id x.id)
    || (o.kind == .quant && (x.phase == .reading || x.phase == .array))))

/-- A translation fault of segment index `k` on a page (R64): segments are abandoned and the operation is held, to be
reissued from there. An operation whose slot has stopped already ends with ABORTED, as one that was held when the slot
stopped does (R65): no page is requested and no PARTIAL_FAULT recorded. (Log 114: DEDUCED, 115: DESIGN CHOICE.) -/
def State.pageFault (s : State) (op k : Nat) (key : XKey) : State :=
  match s.op? op with
  | none => s
  | some o =>
    let stopped := (s.slot o.sl).stopped
    let first := !o.held || decide (k < o.next)
    let s1 := (s.dropSegs op (s.abandons o k)).updOp op (fun o =>
      { (if o.status = 0 ∧ stopped then o.failed St.aborted else o) with
        next := min o.next k
        faultVa := if first then key.page <<< (12 : Nat) else o.faultVa
        faultSpace := if first then spaceOf key.port else o.faultSpace
        held := o.status == 0 && !stopped })
    s1.partialNow op

/-- The translations that a segment needs: its external sources for reading, its external destinations for writing. -/
def State.segKeys (s : State) (o : Op) (k : Nat) : List (XKey × Bool) :=
  let of := fun (w : Bool) (d : TDesc) => (s.keysOf o d (o.part k)).map (fun g => (g, w))
  o.srcs.flatMap (of false) ++ o.dsts.flatMap (of true)

/-- The external ports that a segment uses can all translate (R322). -/
def State.segReach (s : State) (o : Op) (k : Nat) : Bool :=
  (s.segKeys o k).all (fun e => s.canTranslate e.1.port o.inst)

/-- Looks up the translations of a new segment: the first refused one, those missing, those held. -/
def State.segLookup (s : State) (ks : List (XKey × Bool)) :
    Option XKey × List (XKey × Bool) × List (XKey × Bool) × State :=
  ks.foldl (fun acc e =>
    let r := acc.2.2.2.lookupCount e.1 e.2
    match r.1 with
    | .hit => (acc.1, acc.2.1, acc.2.2.1 ++ [e], r.2)
    | .miss => (acc.1, acc.2.1 ++ [e], acc.2.2.1, r.2)
    | .fault => (acc.1.orElse (fun _ => some e.1), acc.2.1, acc.2.2.1, r.2)) (none, [], [], s)

/-- The segment that starts next: the first from `next` on that is not in progress (at most four are, R52). -/
def Op.upNext (o : Op) : Nat :=
  (((List.range 5).map (· + o.next)).find? (fun k => !o.segs.any (fun x => x.idx == k))).getD o.next

/-- Starts the next segment of an operation. -/
def State.startSeg (s : State) (op : Nat) : State :=
  match s.op? op with
  | none => s
  | some o =>
    if o.held ∨ o.status ≠ 0 ∨ o.nseg ≤ o.upNext ∨ 4 ≤ o.segs.length then s
    else
      let k := o.upNext
      let x : Seg := { id := s.fresh, idx := k, phase := .xlat, waits := [], held := [], reads := 0, writes := 0,
                       bufA := [], bufB := [], arr := 0, seq := 0 }
      let s0 := { s with fresh := s.fresh + 1 }
      if (o.part k).2 = 0 ∧ !o.isMsg then
        s0.updOp op (fun o => { o with next := k + 1, segs := o.segs ++ [{ x with phase := .done }] })
      else if !s.segReach o k then
        let key := ((s.segKeys o k).find? (fun e => !s.canTranslate e.1.port o.inst)).map (·.1)
        s.updOp op (fun o => { o.failed St.translationFault with
          faultVa := match key with | some y => y.page <<< (12 : Nat) | none => 0
          faultSpace := match key with | some y => spaceOf y.port | none => 0 })
      else
        let l := s0.segLookup (s.segKeys o k)
        let y := { x with waits := l.2.1, held := l.2.2.1 }
        let s1 := l.2.2.2.updOp op (fun o => { o with next := k + 1, segs := o.segs ++ [y] })
        match l.1 with
        | some key => s1.pageFault op k key
        | none => if l.2.1.isEmpty then s1.goSeg o y else s1

/-- Starts segments until four are in progress (R52). -/
def State.startSegs (s : State) (op : Nat) : State :=
  (((s.startSeg op).startSeg op).startSeg op).startSeg op

end Sys2Proof.Machine
end

