-- ==== Sys2Proof/Machine/Issue.lean ====
section
/-!
DEFINITION. The issue of an operation: its immediate fields (R72, R73), the checks made at issue (R50, R83, R165, R178,
R371), the limits of R41, and the operation record with the values it takes (R66, R71, R132).
-/

namespace Sys2Proof.Machine

/-! ## Immediate fields (R72–R74) -/

/-- sig_mode. -/
def sigMode (w : JWord) : Nat := bits w.imm 32 2

/-- sig_where. -/
def sigWhere (w : JWord) : Nat := bits w.imm 34 2

/-- sem_id. -/
def sigSem (w : JWord) : BitVec 16 := BitVec.ofNat 16 (bits w.imm 0 16)

/-- round. -/
def roundOf (w : JWord) : Nat := bits w.imm 36 2

/-- red_op. -/
def redOf (w : JWord) : Nat := bits w.imm 38 4

/-- resid_off. -/
def residOffOf (w : JWord) : Bool := bit w.imm 42

/-- match. -/
def matchOf (w : JWord) : BitVec 24 := BitVec.ofNat 24 (bits w.imm 40 24)

/-- The completion-signal fields hold no reserved encoding; sig_where 1 is for messages (R72). -/
def sigEnc (w : JWord) (msg : Bool) : Bool :=
  sigMode w != 3 && sigWhere w != 3 && (sigWhere w != 1 || msg)

/-! ## Checks at issue -/

/-- The limits of R41 leave room for one more operation of the slot. -/
def State.canOp (s : State) (sl : Nat) : Bool :=
  decide (s.cluOps (sl / 4) < 64)
    && decide (s.slotOps sl < s.fld (Reg.CLU_SLOT_CAP (sl / 4)) (8 * (sl % 4)) 6 + 1)

/-- The completion signal is refused at issue (R165, R178). -/
def State.sigDenied (s : State) (i : BitVec 8) (w : JWord) : Bool :=
  sigMode w != 0 &&
    ((sigWhere w == 0 && !s.semProg i (sigSem w)) || (sigWhere w == 2 && !s.sigCtxOk i))

/-- Some tensor lies outside the instance's allocation. -/
def State.outside (s : State) (i : BitVec 8) (ds : List TDesc) : Bool :=
  ds.any (fun d => !d.isEmpty && !s.tensorIn i d)

/-- Some tensor touches a protected region (R371). -/
def State.protected_ (s : State) (i : BitVec 8) (ds : List TDesc) : Bool :=
  ds.any (fun d => !d.isEmpty && s.tensorProt i d)

/-- The largest element group of an instruction's tensors (R51). -/
def groupAll (ds : List TDesc) : Nat := ds.foldl (fun m d => max m (groupOf d.fmt)) 1

/-- The checks on the division into segments (R50, R51). -/
def segsOk (src : TDesc) (g : Nat) : Bool :=
  src.isEmpty
    || ((src.tileDim == 0 || src.segElems g % g == 0) && decide (src.segments g < 2 ^ 32))

/-- No tensor in host memory moves more than 4 KiB (R50). -/
def hostOk (ds : List TDesc) : Bool :=
  ds.all (fun d => d.isEmpty || d.space != 3 || decide (d.denseBytes 0 d.count ≤ 4096))

/-- All tensors hold equal element counts (R83). -/
def countsEqual (ds : List TDesc) : Bool :=
  match ds with
  | [] => true
  | d :: es => es.all (fun e => e.count == d.count)

/-! ## The operation -/

/-- The mark filters whose condition the marks satisfy (R445). -/
def State.filtersOf (s : State) (layer oper : BitVec 32) : BitVec 8 :=
  (List.range 8).foldl (fun acc t =>
    let m := s.reg (Reg.DBG_TAG_MATCH t)
    let k := s.reg (Reg.DBG_TAG_MASK t)
    let marks : Word := oper ++ layer
    if s.flag (Reg.DBG_TAG_CTRL t) 0 ∧ marks &&& k = m &&& k then acc ||| BitVec.ofNat 8 (2 ^ t) else acc) 0

/-- The record of an operation that the slot's instruction issues. -/
def State.newOp (s : State) (sl : Nat) (w : JWord) (kind : OpKind) (dst a b : TDesc) (val dest : Word) (group nseg : Nat) :
    Op :=
  let x := s.slot sl
  { id := s.fresh, sl := sl, kind := kind, tag := w.tag, pc := x.pc, inst := x.inst, layer := x.layer, oper := x.oper,
    tc := x.tc, urgent := flagOf w 15, dst := dst, a := a, b := b, val := val, dest := dest,
    ctxv := slotS x (w.opc.toNat % 32), sigMode := sigMode w, sigWhere := sigWhere w, semId := sigSem w,
    semAd := BitVec.ofNat 16 (bits w.imm 16 16), round := roundOf w, redOp := redOf w, residOff := residOffOf w,
    match_ := matchOf w, srcFlag := flagOf w 12, nebCtrl := s.reg Reg.NEB_CTRL, seedXor := s.reg Reg.NEB_SEED_XOR,
    seed := slotS x 31, group := group, nseg := nseg, next := 0, signalled := 0, segs := [], status := 0, held := false,
    done := false, sigs := 0, moved := 0, filters := s.filtersOf x.layer x.oper, faultVa := 0, faultSpace := 0 }

/-- Issues an operation: it is outstanding from now on, it is counted and traced, and the instruction retires (R37,
R444, R445, R451). -/
def State.addOp (s : State) (o : Op) : State :=
  let s1 : State := { s with fresh := s.fresh + 1, ops := s.ops ++ [o] }
  (((s1.bump (Reg.DBG_CNT o.clu 0)).tagCount o.filters 0 1).traceOp o 0 0 0).retire o.sl

/-- The operation of a tensor instruction of groups 0x3 to 0x5 on the tensors `ds`, once its operands have been decoded;
`ok` is what the instruction itself demands of them. (Log 14: DEDUCED.) -/
def State.issueTensor (s : State) (sl : Nat) (w : JWord) (kind : OpKind) (dst a b : TDesc) (val : Word)
    (ds : List TDesc) (ok : Bool) : State :=
  let i := (s.slot sl).inst
  let g := groupAll ds
  let o := s.newOp sl w kind dst a b val 0 g 1
  let o := { o with nseg := o.segSrc.segments g }
  if !s.canOp sl then s
  else if !ds.all (·.checks false) ∨ !countsEqual ds ∨ !ok ∨ !segsOk o.segSrc g ∨ !hostOk ds then
    s.issueFault sl St.badTensor w.tag
  else if s.outside i ds then s.issueFault sl St.accessDenied w.tag
  else if s.protected_ i ds then (s.bump (Reg.MEM_CNT 8)).issueFault sl St.accessDenied w.tag
  else if s.sigDenied i w then s.issueFault sl St.accessDenied w.tag
  else (s.addOp o).startSegs o.id

end Sys2Proof.Machine
end

