-- ==== Sys2Proof/Machine/Complete.lean ====
section
/-!
DEFINITION. The end of an operation: when it is complete (R53), its completion signal (R54), its failure record (R61, R63)
and the buffers that RECVs post (R255).
-/

namespace Sys2Proof.Machine

/-! ## Operations (R53, R54, R61, R63) -/

/-- An operation without segments of its own. -/
def Op.bare (o : Op) : Bool :=
  match o.kind with
  | .recv => true
  | .semOp _ => true
  | _ => false

/-- The operation has nothing left to do itself. -/
def Op.ended (o : Op) : Bool :=
  !o.held && o.sigs == 0 &&
    (if o.bare then o.done
     else if o.status = 0 then o.signalled == o.nseg && o.segs.isEmpty
     else o.segs.all (fun x => x.phase == .done))

/-- The operation is complete: no read or write that it made is outstanding either (R53). -/
def State.opEnded (s : State) (o : Op) : Bool := o.ended && !s.readsOut o.id && !s.writesOut o.id

/-- The completion signal of an operation in sig_mode 1 at this adapter; the status that results. -/
def State.opSignal (s : State) (o : Op) : Status × State :=
  if o.status = 0 ∧ o.sigMode = 1 ∧ o.sigWhere = 0 then
    let r := s.semSignal o.inst o.semId
    (if r.1 then St.uncorrectable else 0, r.2)
  else (o.status, s)

/-- The fault record of an operation that ended with a failure. -/
def State.endRec (s : State) (o : Op) (st : Status) : FaultRec :=
  if st = St.translationFault then s.partialRec o o.signalled st o.faultVa o.faultSpace else s.opRec o st (classOf st)

/-! ## Posted buffers (R255) -/

/-- Posts the buffers of waiting RECVs, in order of issue, while the table has room. -/
def State.postWaiting (s : State) : State :=
  s.ops.foldl (fun s o =>
    if o.kind = .recv ∧ !o.done ∧ !s.posted.any (fun b => b.op == o.id) ∧ s.posted.length < 16384 then
      { s with posted := s.posted ++
          [⟨o.id, o.ctxv.setWidth 20, o.match_, o.dst.denseBytes 0 o.dst.count, none⟩] }
    else s) s

/-! ## Completion -/

/-- An operation completes: its signal takes effect, and a failure stops its slot. A page request of it that had not been
sent is dropped, and a withdrawn buffer makes room for a waiting RECV. (Log 2: DESIGN CHOICE.) -/
def State.operationComplete (s : State) (op : Nat) : State :=
  match s.op? op with
  | none => s
  | some o =>
    if !s.opEnded o then s
    else
      let r := s.opSignal o
      let s1 : State := { r.2 with
        ops := r.2.ops.filter (fun x => x.id ≠ op)
        pages := r.2.pages.filter (fun x => x.sent || x.op != op) }
      let s2 := (s1.traceOp o 2 r.1 o.moved).progressed o.sl
      (if r.1 = 0 then s2 else (s2.slotFault o.sl (s2.endRec o r.1)).stopSlot o.sl).settle.postWaiting

end Sys2Proof.Machine
end

