-- ==== Sys2Proof/Machine/Nebula.lean ====
section
/-!
DEFINITION. The Nebula arrays: passes under residue checking (R121, R126, R127), fences of lanes and arrays (R128, R129),
and the injection of residue errors (R134).
-/

namespace Sys2Proof.Machine

/-! ## One pass under residue checking -/

/-- A residue mismatch of a pass: its lane, and whether the retry mismatches too. (Log 22: DESIGN CHOICE.) -/
abbrev Mismatch := Option (Fin 128 × Bool)

/-- Lanes that a pass of `n` elements uses when `per` fill the array (R121). -/
def lanesUsed (n per : Nat) : Nat := (n + per / 128 - 1) / (per / 128)

/-- Runs the residue check of one pass of `n` elements on array `a` (R126–R128, R134): an armed injection on a lane that
executes the pass, or an upset of one. A pass that makes no significand addition or multiplication (`checked` false)
has no residue to compare; it spends the injection all the same. Gives the lane whose retry mismatched as well.
(Log 23: DEDUCED.) -/
def State.residue (s : State) (a n per : Nat) (checked : Bool) (upset : Mismatch) : Option Nat × State :=
  let used := lanesUsed n per
  let hit := match s.armed with
    | some r => if r.arr = a ∧ r.lane < used then some (r.lane, r.persist) else none
    | none => none
  let up := match upset with
    | some (l, p) => if l.val < used then some (l.val, p) else none
    | none => none
  let s1 := if hit.isSome then { s with armed := none } else s
  match if checked then [hit, up].filterMap id else [] with
  | [] => (none, s1)
  | (l, p) :: rest =>
    match ((l, p) :: rest).find? (·.2) with
    | some e => (some e.1, s1.bump Reg.NEB_CNT_RES_FAIL)
    | none => (none, s1.bump Reg.NEB_CNT_RES_RETRY)

/-! ## Fences (R128, R129, R133) -/

/-- Where the spare count of array `a` stands in NEB_STATUS. (Log 25: DESIGN CHOICE.) -/
def spareBit (a : Nat) : Nat := 8 + 4 * a

/-- Writes the fence log, if it is free. -/
def State.logFence (s : State) (a lane : Nat) (tag : BitVec 24) (inst : BitVec 8) : State :=
  if s.flag Reg.NEB_FENCE_LOG 0 then s
  else s.setReg Reg.NEB_FENCE_LOG
    (BitVec.ofNat 64 (1 + a * 2 + lane * 2 ^ 3 + tag.toNat * 2 ^ 16 + inst.toNat * 2 ^ 40))

/-- Moves one queued segment to another array in service; with none its operation fails with CHECK_FAIL. A segment that had
begun keeps the array and array_seq of its random values (R120): it takes no number on the new array.
(Log 25: DESIGN CHOICE, 117: DESIGN CHOICE.) -/
def State.moveJob (s : State) (j : Job) : State :=
  let rest := { s with jobs := s.jobs.erase j }
  match rest.pickArray with
  | none => rest.failSeg j.op j.seg St.checkFail
  | some b => { rest with jobs := rest.jobs ++ [{ j with arr := b }] }

/-- Fences a lane: a spare takes its place, or the whole array is fenced and its queued segments move (R128, R129).
(Log 25: DESIGN CHOICE.) -/
def State.fenceLane (s : State) (a lane : Nat) (tag : BitVec 24) (inst : BitVec 8) : State :=
  let s1 := s.logFence a lane tag inst
  let n := s1.fld Reg.NEB_STATUS (spareBit a) 3
  if n = 0 then
    let s2 := s1.setFld Reg.NEB_STATUS a 1 1
    (s2.jobs.filter (fun j => j.arr = a)).foldl State.moveJob s2
  else
    let k := 128 * a + lane
    { s1.setFld Reg.NEB_STATUS (spareBit a) 3 (n - 1) with laneMap := tset 0 s1.laneMap k (tget 0 s1.laneMap k + 1) }

/-! ## Passes of segments -/

/-- Counts the element operations of a finished segment on each array that ran some (R131). -/
def State.countOps (s : State) (j : Job) : State :=
  (List.range 4).foldl (fun s a => s.count (Reg.NEB_CNT_OPS a) (j.tally.getD a 0 * j.lanes)) s

/-- The last pass of a segment is done: its results are rounded and written. -/
def State.finishJob (s : State) (j : Job) (o : Op) (x : Seg) : State :=
  let ds := o.results x
  let sat := (ds.map Dense.sat).foldl (· + ·) 0
  let lost := (ds.map Dense.lost).foldl (· + ·) 0
  ((((s.countOps j).count Reg.NEB_CNT_SAT sat).count Reg.NEB_CNT_NAN_LOST lost).writeSeg o x (ds.map Dense.bytes))

/-- Puts job `k` in the place of job `j`. -/
def State.putJob (s : State) (j k : Job) : State :=
  { s with jobs := s.jobs.map (fun x => if x.op = j.op ∧ x.seg = j.seg then k else x) }

/-- The array starts a segment: it takes its number on the array (R120). -/
def State.beginJob (s : State) (j : Job) : State :=
  if j.began then s
  else
    let n := tget 0 s.arrSeq j.arr
    { s.updSeg j.op j.seg (fun x => { x with arr := j.arr, seq := BitVec.ofNat 48 n }) with
      arrSeq := tset 0 s.arrSeq j.arr (n + 1) }

/-- A pass that failed its check twice: the segment fails with CHECK_FAIL, and the lane is fenced when the operation
took res_fence_en as 1 (R128). (Log 23: DEDUCED.) -/
def State.passFailed (s : State) (j : Job) (o : Op) (lane : Nat) : State :=
  let s1 := s.failSeg j.op j.seg St.checkFail
  if bit o.nebCtrl 3 then s1.fenceLane j.arr lane o.tag o.inst else s1

/-- The operation's passes add or multiply significands: a conversion does not, nor does QUANT without its residual
(R102, R114, R126). (Log 23: DEDUCED.) -/
def Op.checked (o : Op) : Bool := o.kind != .convert && !(o.kind == .quant && o.residOff)

/-- One pass of the segment at the head of an array's queue. (Log 22: DESIGN CHOICE, 23: DEDUCED.) -/
def State.nebulaPass (s : State) (a : Nat) (upset : Mismatch) : State :=
  match s.jobs.find? (fun j => j.arr = a) with
  | none => s
  | some j =>
    let n := min j.per (j.elems - j.done)
    let b := s.beginJob j
    match b.op? j.op with
    | none => s
    | some o =>
      let r := b.residue a n j.per o.checked upset
      match r.1 with
      | some lane => (r.2.passFailed j o lane).settle
      | none =>
        let k := { j with done := j.done + n, began := true, tally := j.tally.modify a (· + n) }
        if k.done < j.elems then r.2.putJob j k
        else
          match o.seg? j.seg with
          | none => s
          | some x => ({ r.2 with jobs := r.2.jobs.erase j }.finishJob k o x).settle

/-- NEBULA_PASS. (Log 22: DESIGN CHOICE.) -/
def execNebulaPass (arr : Fin 4) (upset : Option (Fin 128 × Bool)) (s : State) : Out :=
  if s.alive ∧ s.arrayUp arr.val then .next (s.nebulaPass arr.val upset) else .next s

/-- A write of NEB_RES_INJECT: arm replaces what was armed (R134). -/
def State.injectWrite (s : State) (v : Word) : State :=
  if bit v 0 then { s with armed := some ⟨bits v 1 2, bits v 3 7, bit v 10⟩ } else s

/-- RESIDUE_INJECT. -/
def execResidueInject (p : Path) (v : Word) (s : State) : Out :=
  .next (s.mapWrite p Reg.NEB_RES_INJECT (fun s => s.injectWrite v))

end Sys2Proof.Machine
end

