-- ==== Sys2Proof/Machine/Sender.lean ====
section
/-!
DEFINITION. The sending side of the transport: sender records and ordering trackers (R218, R224), the packets of a message
(R207–R209), the Ephemeris schedule (R195, R196, R199), acknowledgement and retransmission (R212, R220, R221, R223, R232)
and the end of a message (R233).
-/

namespace Sys2Proof.Machine

/-! ## Records -/

/-- The sender record of a message. -/
def State.srec? (s : State) (m : MsgId) : Option SRec := s.srecs.find? (fun r => r.msg = m)

/-- Changes a sender record. -/
def State.updSrec (s : State) (m : MsgId) (f : SRec → SRec) : State :=
  { s with srecs := s.srecs.map (fun r => if r.msg = m then f r else r) }

/-- Lets the deadline of the retransmission timer start again. -/
def State.restartTimer (s : State) (m : MsgId) : State :=
  s.updSrec m (fun r => { r with timer := some (s.ps + us (s.rtoUs r.expo)) })

/-- The tracker of a pair: context, destination adapter or group, and destination context. -/
def State.tracker? (s : State) (c : BitVec 20) (mcast : Bool) (dst : AdapterId) (dc : BitVec 20) : Option Tracker :=
  s.trackers.find? (fun t => t.ctx = c ∧ t.mcast = mcast ∧ t.dst = dst ∧ t.dstCtx = dc)

/-- The trackers but that of a pair. -/
def State.trackersBut (s : State) (c : BitVec 20) (mcast : Bool) (dst : AdapterId) (dc : BitVec 20) : List Tracker :=
  s.trackers.filter (fun t => !(t.ctx == c && t.mcast == mcast && t.dst == dst && t.dstCtx == dc))

/-- Frees the tracker of an ended message's pair once no message of the pair has a record (R224). -/
def State.freeTracker (s : State) (r : SRec) : State :=
  if s.srecs.any (fun x => x.ordered && x.srcCtx == r.srcCtx && x.mcast == r.mcast && x.dst == r.dst
      && x.dstCtx == r.dstCtx) then s
  else { s with trackers := s.trackersBut r.srcCtx r.mcast r.dst r.dstCtx }

/-! ## The end of a message -/

/-- What the end of a message means for what it carried: the segment of its operation completes or fails, a remote
semaphore operation ends, a signal has been raised or refused (R181), a PIO message raises its local semaphore or is
recorded (R320, R321). -/
def State.msgEnded (s : State) (src : MsgSrc) (inst : BitVec 8) (trig : List Word) (st : Status) : State :=
  match src with
  | .op id g =>
    match (s.op? id).bind (fun o => (o.seg? g).map (fun x => (o, x))) with
    | none => s
    | some (o, x) =>
      if st = 0 then
        (if o.kind = .get then s.countRead o (o.written x.idx) else s).segDone o g |>.settle
      else (s.failSeg id g st).settle
  | .semOp id _ _ _ =>
    (s.updOp id (fun o => { (if st = 0 then o else o.failed st) with done := true })).settle
  | .sig id _ =>
    (s.updOp id (fun o => { (if st = 0 then o else o.failed st) with sigs := o.sigs - 1 })).settle
  | .pio slot =>
    let w := trig.getD 3 0
    if st ≠ 0 then
      s.fault inst.toNat { faultRec s.now st 2 inst with w4 := BitVec.ofNat 64 slot }
    else if bit w 48 ∧ s.semProg inst (BitVec.ofNat 16 (bits w 32 16)) then
      (s.semSignal inst (BitVec.ofNat 16 (bits w 32 16))).2
    else s

/-- Ends a message: its record and, where due, its tracker are freed. -/
def State.endMsg (s : State) (r : SRec) (st : Status) : State :=
  let s1 := { s with srecs := s.srecs.filter (fun x => x.msg ≠ r.msg) }.freeTracker r
  (s1.msgEnded r.src r.inst r.trig st).pumpFetch

/-- Ends a message that has no record yet. -/
def State.endReq (s : State) (r : TxReq) (st : Status) : State :=
  { s with txq := s.txq.filter (fun x => x.id ≠ r.id) }.msgEnded r.src r.inst r.trig st

/-! ## Creating a message (R207–R210, R214, R218, R224) -/

/-- What a message carries in its header and how it is cut into packets. -/
structure MsgForm where
  typ   : BitVec 4
  attr  : BitVec 16
  tgtA  : BitVec 32
  tgtB  : Word
  sig   : Bool
  mcast : Bool
  unit  : Nat
  bytes : Nat
  deriving DecidableEq, Repr

/-- Window and generation of a reference, as tgt_a carries them (R207, R235). -/
def refTgtA (ref : Word) : BitVec 32 := BitVec.ofNat 32 (bits ref 20 28)

/-- tgt_b of a message with a semaphore and a byte offset (R207). -/
def tgtBOf (sem : BitVec 16) (off : Nat) : Word := BitVec.ofNat 64 (sem.toNat * 2 ^ 48 + off % 2 ^ 48)

/-- The byte offset in the window of the first element of segment `k` of a window operand (R237). -/
def winOff (d : TDesc) (first : Nat) : Nat := bits d.base 0 20 * 256 + byteOff d.fmt first

/-- The form of the message of a segment of an operation of group 0x6. -/
def Op.form (o : Op) (k : Nat) : MsgForm :=
  let p := o.part k
  let plain : MsgForm :=
    { typ := 1, attr := 0, tgtA := refTgtA o.dst.base, tgtB := tgtBOf o.semId (winOff o.dst p.1),
      sig := o.sigGate k, mcast := o.kind == .mput, unit := 4096, bytes := o.a.denseBytes p.1 p.2 }
  match o.kind with
  | .putacc =>
    { plain with
      typ := 2
      attr := BitVec.ofNat 16 (o.a.format * 2 ^ 11 + o.redOp * 2 ^ 8 + o.round * 2 ^ 7)
      unit := accPer o.a.fmt / groupOf o.a.fmt * groupBytes o.a.fmt }
  | .send => { plain with typ := 3, tgtA := o.match_.setWidth 32, tgtB := tgtBOf o.semId 0 }
  | .get =>
    let n := o.dst.denseBytes p.1 p.2
    { plain with
      typ := 4
      attr := BitVec.ofNat 16 (n - 4096 * ((n + 4095) / 4096 - 1))
      tgtA := refTgtA o.a.base
      tgtB := tgtBOf 0 (winOff o.a p.1)
      bytes := n }
  | _ => plain

/-- The form of a SEM message (R207). -/
def semForm (code : Nat) (sem : BitVec 16) (v : Word) : MsgForm :=
  { typ := 6, attr := BitVec.ofNat 16 code, tgtA := sem.setWidth 32, tgtB := v, sig := false, mcast := false,
    unit := 4096, bytes := 0 }

/-- The form of a PIO message (R318). -/
def pioForm (trig : List Word) (n : Nat) : MsgForm :=
  let w0 := trig.getD 0 0
  let w2 := trig.getD 2 0
  let w3 := trig.getD 3 0
  let sem := BitVec.ofNat 16 (bits w3 0 16)
  if bits w0 13 2 = 1 then
    { typ := 1, attr := 0, tgtA := refTgtA w2, tgtB := tgtBOf sem (bits w2 0 20 * 256), sig := bit w3 16, mcast := false,
      unit := 4096, bytes := n }
  else
    { typ := 3, attr := 0, tgtA := BitVec.ofNat 32 (bits w2 0 24), tgtB := tgtBOf sem 0, sig := bit w3 16, mcast := false,
      unit := 4096, bytes := n }

/-- The segment index of a message's segment. -/
def State.segIdx (s : State) (id g : Nat) : Option (Op × Nat) :=
  (s.op? id).bind (fun o => (o.seg? g).map (fun x => (o, x.idx)))

/-- The form of a waiting message; none where its segment is gone. -/
def State.formOf (s : State) (r : TxReq) : Option MsgForm :=
  match r.src with
  | .op id g => (s.segIdx id g).map (fun p => p.1.form p.2)
  | .semOp _ code sem v => some (semForm code sem v)
  | .sig id _ => (s.op? id).map (fun o => semForm 1 o.semId 1)
  | .pio _ => some (pioForm r.trig r.data.length)

/-- The partition of a message: that of SEM_SIGCTX for SEM messages, otherwise the context's (R178). -/
def State.partOf (s : State) (r : TxReq) (typ : BitVec 4) : BitVec 16 :=
  if typ = 6 then BitVec.ofNat 16 (s.fld (Reg.SEM_SIGCTX r.inst.toNat) 32 16) else (s.ctx r.srcCtx).part

/-- A segment of the operation before segment `k` has a message still to be created. (Log 35: DEDUCED.) -/
def State.uncreated (s : State) (o : Op) (k : Nat) : Bool :=
  decide (o.next < k)
    || o.segs.any (fun x => decide (x.idx < k) && (x.phase == .xlat || x.phase == .reading || s.atEngine o.id x.id))

/-- An operation of the pair is issued before operation `id` and has a message to create: messages of an ordered context go
in issue order. One that has failed, or is held on a page request, which holds no other (R64), is passed over.
(Log 35: DEDUCED.) -/
def State.earlierOp (s : State) (r : TxReq) (mcast : Bool) (id : Nat) : Bool :=
  (s.ops.takeWhile (fun o => o.id != id)).any (fun o =>
    (o.isSend || o.kind == .get) && o.srcCtx == r.srcCtx && (o.kind == .mput) == mcast && o.target == r.dst
      && o.dstCtx == r.dstCtx && o.status == 0 && !o.held && s.uncreated o o.nseg)

/-- The request is for the message of an operation's segment. -/
def TxReq.ofOp (r : TxReq) : Bool :=
  match r.src with
  | .op .. => true
  | _ => false

/-- The message may be created now as far as the order of messages goes: semaphore messages of a slot to one adapter one
at a time (R179), messages of an ordered pair in order of issue (R224), signals in the order of segments (R52).
(Log 35: DEDUCED.) -/
def State.inTurn (s : State) (r : TxReq) : Bool :=
  let before := s.txq.takeWhile (fun x => x.id != r.id)
  let ordered := (s.ctx r.srcCtx).ordered
  match r.src with
  | .op id g =>
    match s.segIdx id g with
    | some (o, k) =>
      (!o.sigGate k || o.signalled == k)
        && (!ordered || (!s.earlierOp r (o.kind == .mput) id && !s.uncreated o k))
    | none => true
  | _ =>
    (!ordered || !before.any (fun x => !x.ofOp && x.srcCtx == r.srcCtx && x.dst == r.dst && x.dstCtx == r.dstCtx))
      && (match r.src with
        | .semOp .. =>
          !s.srecs.any (fun x => x.sl == r.sl && x.dst == r.dst && (match x.src with | .semOp .. => true | _ => false))
            && !before.any (fun x => x.sl == r.sl && x.dst == r.dst && (match x.src with | .semOp .. => true | _ => false))
        | _ => true)

/-- The members that a multicast message is for: those of the entry but this adapter (R282).
(Log 46: DESIGN CHOICE.) -/
def State.mcMembers (s : State) (g : Nat) : BitVec 64 :=
  let m := s.mc g
  m.data0 &&& ~~~(BitVec.ofNat 64 (2 ^ s.rank m))

/-- The next message ID: ascending, skipping 0 (R210). -/
def nextMsgId (m : MsgId) : MsgId := if m + 1 = 0 then 1 else m + 1

/-- Creates the sender record. -/
def State.newRecord (s : State) (r : TxReq) (f : MsgForm) (key : Option Nat) : State :=
  let c := s.ctx r.srcCtx
  let m := s.nextMsg
  let rec_ : SRec :=
    { msg := m, src := r.src, sl := r.sl, inst := r.inst, typ := f.typ, srcCtx := r.srcCtx, dst := r.dst,
      dstCtx := r.dstCtx, mcast := f.mcast, birth := s.now, last := (f.bytes + f.unit - 1) / max 1 f.unit - 1, cum := 0,
      acked := 0, sent := 0, fast := [], again := [], busy := [],
      members := if f.mcast then s.mcMembers r.dst.toNat else 0, line := s.mc r.dst.toNat, retx := 0, expo := 0, timer := none, status := none,
      ordered := c.ordered,
      prev := if c.ordered then ((s.tracker? r.srcCtx f.mcast r.dst r.dstCtx).map (·.msg)).getD 0 else 0,
      part := s.partOf r f.typ, tc := r.tc, urgent := r.urgent, key := key, plane := [], attr := f.attr, tgtA := f.tgtA,
      tgtB := f.tgtB, sig := f.sig, unit := f.unit, data := r.data, trig := r.trig, group := c.group, made := s.ck }
  let ts := s.trackersBut r.srcCtx f.mcast r.dst r.dstCtx
  let s1 : State := { s with
    txq := s.txq.filter (fun x => x.id ≠ r.id)
    srecs := s.srecs ++ [rec_]
    nextMsg := nextMsgId m
    msgCount := s.msgCount + 1
    trackers := if c.ordered then ts ++ [⟨r.srcCtx, f.mcast, r.dst, r.dstCtx, m⟩] else s.trackers }
  let s2 := s1.useCtx r.srcCtx
  if f.mcast ∧ rec_.members = 0 then s2.endMsg rec_ 0 else s2

/-- The in-flight message table: its records, of both kinds (R218). -/
def recordTable : Nat := 65536

/-- A sender record may still be created: in the sender's share, and in the table, which holds the records of both kinds
that an earlier division of it has left (R218). -/
def State.sendRoom (s : State) : Bool :=
  decide (s.srecs.length < s.fld Reg.XPT_TX_REC 0 17) && decide (s.srecs.length + s.rrecs.length < recordTable)

/-- Marks a waiting message and counts its wait once. -/
def State.markWait (s : State) (r : TxReq) (already : Bool) (reg : Nat) (f : TxReq → TxReq) : State :=
  if already then s else { s with txq := s.txq.map (fun (x : TxReq) => if x.id = r.id then f x else x) : State }.bump reg

/-- The send engine's attempt to create a waiting message. -/
def State.messageCreate (s : State) (id : Nat) : State :=
  match s.txq.find? (fun r => r.id = id) with
  | none => s
  | some r =>
    if !s.flag Reg.XPT_CTRL 0 ∨ !s.inTurn r then s
    else match s.formOf r with
      | none => { s with txq := s.txq.filter (fun x => x.id ≠ r.id) }
      | some f =>
        let c := s.ctx r.srcCtx
        let key := if f.typ = 1 ∨ f.typ = 2 then s.ownKey (winId f.tgtA) r.inst else none
        if !s.ctxOk r.srcCtx then s.endReq r St.accessDenied
        else if !c.resident then s.fetchCtx r.srcCtx
        else match key.bind s.keyRefusal with
          | some st => (if st = St.resourceLimit then s.bump (Reg.SEC_CNT 4) else s).endReq r st
          | none =>
            if !s.sendRoom then
              s.markWait r r.recWait (Reg.XPT_CNT 18) (fun x => { x with recWait := true })
            else if c.ordered ∧ (s.tracker? r.srcCtx f.mcast r.dst r.dstCtx).isNone ∧ 16384 ≤ s.trackers.length then
              s.markWait r r.trkWait (Reg.XPT_CNT 19) (fun x => { x with trkWait := true })
            else s.newRecord r f key

/-- MESSAGE_CREATE. -/
def execMessageCreate (req : Nat) (s : State) : Out := if s.alive then .next (s.messageCreate req) else .next s

/-! ## The Ephemeris schedule (R194–R196, R199) -/

/-- A row of the active bank. -/
def State.ephRow (s : State) (n : Nat) : EphRow :=
  tget (⟨0, 0⟩ : EphRow) s.ephRows (4096 * s.fld Reg.TIME_EPH_STATUS 2 1 + n)

/-- The row is valid, of group `g`, and open at the present Meridian time. -/
def State.rowOpen (s : State) (g : Nat) (r : EphRow) : Bool :=
  let base := (s.reg (Reg.TIME_EPH_GRP_BASE g)).toNat
  let cyc := s.reg (Reg.TIME_EPH_GRP_CYCLE g)
  let period := bits cyc 0 32
  let phase := (s.nowNs - base) % period
  bit r.r1 36 && bits r.r1 32 4 == g && decide (0 < period) && decide (base ≤ s.nowNs)
    && decide (bits r.r0 0 32 ≤ phase) && decide (phase + bits cyc 32 16 < bits r.r0 0 32 + bits r.r0 32 32)

/-- The row admits a destination. -/
def rowAdmits (r : EphRow) (dst : AdapterId) : Bool :=
  let m := BitVec.ofNat 16 (bits r.r1 16 16)
  dst &&& m == BitVec.ofNat 16 (bits r.r1 0 16) &&& m

/-- Some open row of the group admits the destination. -/
def State.ephAdmits (s : State) (g : Nat) (dst : AdapterId) : Bool :=
  (List.range 4096).any (fun n => s.rowOpen g (s.ephRow n) && rowAdmits (s.ephRow n) dst)

/-- The group that holds a packet of a message to the schedule, if any. -/
def State.ephGroup (s : State) (r : SRec) : Option Nat :=
  if r.urgent ∨ !s.flag Reg.TIME_EPH_CTRL 0 then none
  else r.group.filter (fun g => s.flag (Reg.TIME_EPH_GRP_CYCLE g) 48)

/-- Every row counts as open because the time unit is not LOCKED (R199). -/
def State.ephUnlocked (s : State) : Bool := s.flag Reg.TIME_EPH_CTRL 1 && s.time.phase != .locked

/-- Some row takes part in the group, whose period is not zero: such a row can count as open. (Log 125: DEDUCED.) -/
def State.ephRowed (s : State) (g : Nat) : Bool :=
  s.fld (Reg.TIME_EPH_GRP_CYCLE g) 0 32 != 0
    && (List.range 4096).any (fun n => bit (s.ephRow n).r1 36 && bits (s.ephRow n).r1 32 4 == g)

/-- The schedule lets the packet go. -/
def State.ephOpen (s : State) (r : SRec) (dst : AdapterId) : Bool :=
  match s.ephGroup r with
  | none => true
  | some g => (s.ephUnlocked && s.ephRowed g) || s.ephAdmits g dst

/-- Counts a packet released only because the time unit is not LOCKED. -/
def State.countBypass (s : State) (r : SRec) (dst : AdapterId) : State :=
  match s.ephGroup r with
  | some g => if s.ephAdmits g dst then s else s.bump (Reg.TIME_EPH_GRP_BYPASS g)
  | none => s

/-! ## Releasing packets (R197, R204, R220, R226) -/

/-- Packet `idx` of a message, to the adapter or group given. -/
def State.packetOf (s : State) (r : SRec) (idx : Nat) (retx : Bool) (dst : AdapterId) (mcast : Bool) : Packet :=
  let body := if r.typ = 4 then [] else (r.data.drop (idx * r.unit)).take r.unit
  { ver := 1, typ := r.typ, urgent := r.urgent, enc := r.key.isSome, mcast := mcast, ordered := r.ordered, sig := r.sig,
    retx := retx, ece := false, fin := false, attr := r.attr, src := s.me, dst := dst, srcCtx := r.srcCtx,
    dstCtx := r.dstCtx, msg := r.msg, idx := BitVec.ofNat 16 idx, last := BitVec.ofNat 16 r.last, ts := shortTs r.birth,
    part := r.part, len := BitVec.ofNat 13 body.length, prev := r.prev, tgtA := r.tgtA, tgtB := r.tgtB, payload := body,
    gcmTag := 0 }

/-- The packet of a message that may be sent next under an index: one to be sent again, or the next in order within 256
unacknowledged ones. A multicast message, which draws no ACK before the last (R212), is not held by that limit. -/
def SRec.nextPacket (r : SRec) (idx : Nat) : Option (Option Resend) :=
  match r.again.find? (fun e => e.idx = idx) with
  | some e => some (some e)
  | none =>
    if r.status.isNone && idx == r.sent && decide (idx ≤ r.last) && (r.mcast || decide (idx < r.cum + 256))
        && (r.typ != 4 || idx == 0) then some none
    else none

/-- The planes of a packet's route; a multicast message keeps the line of its creation (R283). -/
def State.packetPlanes (s : State) (r : SRec) (dst : AdapterId) (mcast : Bool) : List (Nat × Nat) :=
  if mcast then s.mcPlanes r.line else s.routePlanes dst

/-- The plane that a packet takes, with the round robin afterwards: a packet sent again takes the plane after its last
and leaves the round robin as it is. (Log 36: DESIGN CHOICE.) -/
def State.pickPlane (s : State) (r : SRec) (idx : Nat) (again : Bool) (ws : List (Nat × Nat)) : Option (Nat × Tab Int) :=
  let cur := (s.ctx r.srcCtx).wrr
  if again ∧ tget 0 r.plane idx ≠ 0 then (nextPlane (tget 0 r.plane idx - 1) ws).map (fun i => (i, cur)) else wrrPick cur ws

/-- The sub-ports that carry a packet: in direct mode a multicast packet goes to every member on its own sub-port of the
chosen plane (R282). (Log 46: DESIGN CHOICE.) -/
def State.copies (s : State) (r : SRec) (mcast : Bool) (i : Nat) : List Nat :=
  if mcast ∧ s.direct then
    (List.range 4).filterMap (fun k =>
      let x := s.sub (i / 4) k
      if x.isUp && r.members.getLsbD (rankIn r.line x.peer) then some (4 * (i / 4) + k) else none)
  else [i]

/-- The record after one of its packets has been sent. -/
def SRec.sentOne (r : SRec) (idx : Nat) (e : Option Resend) (plane : Option Nat) : SRec :=
  { r with
    sent := if e.isNone then (if r.typ = 4 then r.last + 1 else r.sent + 1) else r.sent
    again := match e with | some x => r.again.erase x | none => r.again
    plane := match plane with | some i => tset 0 r.plane idx (i + 1) | none => r.plane }

/-- Counts a data packet sent, and one sent again (R234). -/
def State.countSent (s : State) (e : Option Resend) : State :=
  let s1 := s.bump (Reg.XPT_CNT 0)
  match e with
  | some x => match x.why with
    | .timer => s1.bump (Reg.XPT_CNT 2)
    | .fast => s1.bump (Reg.XPT_CNT 3)
    | .busy => s1
  | none => s1

/-- The release of packet `idx` on the planes given; `none` is the internal loopback. -/
def State.releaseOn (s : State) (r : SRec) (idx : Nat) (e : Option Resend) (p : Packet) (planes : List (Option Nat)) :
    State :=
  let s1 := (s.countSent e).updSrec r.msg (fun x => x.sentOne idx e (planes.head?.join))
  let s2 := if (r.timer.isNone) then s1.restartTimer r.msg else s1
  planes.foldl (fun s i => s.send i r.tc r.key p) s2

/-- PACKET_RELEASE, for a message with a record: the packet passes its rate limit and the schedule and goes to its plane,
or waits. -/
def State.packetRelease (s : State) (m : MsgId) (idx : Nat) : State :=
  match s.srec? m with
  | none => s
  | some r =>
    match r.nextPacket idx with
    | none => s
    | some e =>
      let dst := match e with | some x => x.dst | none => r.dst
      let mcast := r.mcast && e.isNone
      let p := s.packetOf r idx e.isSome dst mcast
      let c := s.ctx r.srcCtx
      let len := s.frameLen p
      if e.isSome ∧ !s.mayRetx r.birth then s
      else if r.key.any (fun k => !s.keyUsable k) then s.endMsg r St.accessDenied
      else if !mcast ∧ s.hop dst = .loop then s.releaseOn r idx e p [none]
      else if !(r.urgent || decide (tokenCost len ≤ s.tokens c)) ∨ !s.ephOpen r dst then s
      else match s.pickPlane r idx e.isSome (s.packetPlanes r dst mcast) with
        | none => s
        | some (i, wrr) =>
          let is := s.copies r mcast i
          if !is.all (fun j => s.egressFits j len) then s
          else
            let s1 := (s.spend r.srcCtx len).updCtx r.srcCtx (fun x => { x with wrr := wrr })
            (s1.countBypass r dst).releaseOn r idx e p (is.map some)

/-- PACKET_RELEASE. -/
def execPacketRelease (msg : MsgId) (idx : BitVec 16) (s : State) : Out :=
  if s.alive then .next (s.packetRelease msg idx.toNat) else .next s

/-! ## Acknowledgements (R212, R220, R223, R232) -/

/-- The first index from `i` on that is not in a bitmap, at most `n` further. -/
def firstClear (m : Nat) : Nat → Nat → Nat
  | i, 0 => i
  | i, n + 1 => if m.testBit i then firstClear m (i + 1) n else i

/-- The indices that an ACK shows as received, among those of the message. -/
def ackShows (p : Packet) (last : Nat) : Nat :=
  let below := 2 ^ p.idx.toNat - 1
  (below ||| p.tgtB.toNat <<< (p.idx.toNat + 1)) % 2 ^ (last + 1)

/-- One past the highest index that an ACK shows as received above its cumulative index. -/
def ackTop (p : Packet) : Nat := if p.tgtB = 0 then 0 else p.idx.toNat + 2 + Nat.log2 p.tgtB.toNat

/-- The packets that an ACK makes the sender send again at once (R220). (Log 39: DESIGN CHOICE.) -/
def State.fastList (s : State) (r : SRec) (top : Nat) : List Nat :=
  if !s.mayRetx r.birth then []
  else ((List.range (min top r.sent - r.cum)).map (· + r.cum)).filter (fun i =>
    !r.acked.testBit i && !r.again.any (fun e => e.idx == i)
      && (let t := tget 0 r.fast i; t == 0 || decide (t - 1 + us (s.rtoUs r.expo) ≤ s.ps)))

/-- A non-final ACK marks packets, restarts the timer when it advances, and has missing packets sent again.
(Log 39: DESIGN CHOICE.) -/
def State.ackMark (s : State) (r : SRec) (p : Packet) : State :=
  let acked := r.acked ||| ackShows p r.last
  let cum := firstClear acked r.cum (r.last + 1)
  let r1 := { r with acked := acked, cum := cum, again := r.again.filter (fun e => !acked.testBit e.idx) }
  let fs := s.fastList r1 (ackTop p)
  let r2 := { r1 with
    again := r1.again ++ fs.map (fun i => ⟨i, .fast, r.dst, s.now⟩)
    fast := fs.foldl (fun t i => tset 0 t i (s.ps + 1)) r1.fast }
  let s1 := s.updSrec r.msg (fun _ => r2)
  if acked ≠ r.acked then s1.restartTimer r.msg else s1

/-- A member's final ACK for a multicast message (R232). (Log 46: DESIGN CHOICE.) -/
def State.ackMember (s : State) (r : SRec) (p : Packet) : State :=
  let left := r.members &&& ~~~(BitVec.ofNat 64 (2 ^ rankIn r.line p.src))
  if p.attr ≠ 0 then s.endMsg r p.attr
  else if left = 0 then s.endMsg r 0
  else s.updSrec r.msg (fun x => { x with members := left, again := x.again.filter (fun e => e.dst ≠ p.src) })

/-- An ACK that names a sender record. -/
def State.onAck (s : State) (r : SRec) (p : Packet) : State :=
  let s1 := if p.ece then (s.bump (Reg.XPT_CNT 15)).rateDown r.srcCtx else s
  if r.mcast then (if p.fin then s1.ackMember r p else s1)
  else if p.fin then s1.endMsg r p.attr
  else if r.typ = 4 then s1
  else s1.ackMark r p

/-- A NACK that names a sender record: BUSY holds the packet; any other status stops new packets, and ends a GET at once,
which draws no final ACK (R223, R231). -/
def State.onNack (s : State) (r : SRec) (p : Packet) : State :=
  let s1 := s.bump (Reg.XPT_CNT 11)
  if p.attr = St.busy then
    s1.updSrec r.msg (fun x => { x with
      busy := x.busy ++ [(⟨p.idx.toNat, .busy, if r.mcast then p.src else r.dst, s.now⟩, s.ps + us (s.fld Reg.XPT_BUSY 0 16))] })
  else if r.typ = 4 then s1.endMsg r p.attr
  else s1.updSrec r.msg (fun x => { x with status := some (x.status.getD p.attr) })

/-! ## Timers of a sender record (R221, R223, R231, R232) -/

/-- The ranks whose bits are set. -/
def ranksOf (m : BitVec 64) : List Nat := (List.range 64).filter (fun i => m.getLsbD i)

/-- What a timer expiry sends again. (Log 38: DESIGN CHOICE.) -/
def State.timerList (s : State) (r : SRec) : List Resend :=
  if r.mcast then
    (ranksOf r.members).flatMap (fun k =>
      (List.range r.sent).map (fun i => ⟨i, .timer, s.memberId r.line k, s.now⟩))
  else if r.typ = 4 then [⟨r.cum, .timer, r.dst, s.now⟩]
  else if r.last < r.cum then [⟨r.last, .timer, r.dst, s.now⟩]
  else (((List.range (min r.sent (r.cum + 256) - r.cum)).map (· + r.cum)).filter (fun i => !r.acked.testBit i)).map
    (fun i => ⟨i, .timer, r.dst, s.now⟩)

/-- The retransmission timer of a message expires. (Log 38: DESIGN CHOICE.) -/
def State.retxExpiry (s : State) (m : MsgId) : State :=
  match s.srec? m with
  | none => s
  | some r =>
    match r.timer with
    | none => s
    | some t =>
      if s.ps < t then s
      else if !s.mayRetx r.birth ∨ s.fld Reg.XPT_RTO_CFG 32 4 ≤ r.retx then
        s.updSrec m (fun x => { x with timer := none })
      else
        (s.updSrec m (fun x => { x with again := s.timerList r, expo := x.expo + 1, retx := x.retx + 1 })).restartTimer m

/-- RETX_TIMER_EXPIRY. -/
def execRetxTimerExpiry (msg : MsgId) (s : State) : Out := if s.alive then .next (s.retxExpiry msg) else .next s

/-- The route of a message has a plane in service (R221). -/
def State.msgRouteUp (s : State) (r : SRec) : Bool :=
  if r.mcast then !(s.mcPlanes r.line).isEmpty else s.routeUp r.dst

/-- A message reaches its lifetime without a final ACK. -/
def State.lifeExpiry (s : State) (m : MsgId) : State :=
  match s.srec? m with
  | none => s
  | some r =>
    if s.msgAge r.birth < (s.lifeNs : Int) then s
    else if s.msgRouteUp r then (s.bump (Reg.XPT_CNT 17)).endMsg r St.timeout
    else s.endMsg r St.unreachable

/-- LIFETIME_EXPIRY. -/
def execLifetimeExpiry (msg : MsgId) (s : State) : Out := if s.alive then .next (s.lifeExpiry msg) else .next s

/-- The hold of a packet refused with BUSY ends: it is sent once more, unless it has been acknowledged. -/
def State.busyResend (s : State) (m : MsgId) (idx : Nat) : State :=
  match s.srec? m with
  | none => s
  | some r =>
    match r.busy.find? (fun e => e.1.idx = idx ∧ e.2 ≤ s.ps) with
    | none => s
    | some e =>
      s.updSrec m (fun x => { x with
        busy := x.busy.erase e
        again := if !x.mcast ∧ x.acked.testBit idx then x.again else x.again ++ [{ e.1 with at_ := s.now }] })

/-- BUSY_RESEND. -/
def execBusyResend (msg : MsgId) (idx : BitVec 16) (s : State) : Out :=
  if s.alive then .next (s.busyResend msg idx.toNat) else .next s

/-! ## Rate (R228) -/

/-- A rate increase: an interval has passed since the last increase and the last decrease. (Log 37: DESIGN CHOICE.) -/
def State.rateUp (s : State) (c : BitVec 20) : State :=
  let x := s.ctx c
  let since := max x.aiAt (x.mdAt.getD 0)
  if !s.ctxOk c ∨ s.ps < since + us (s.fld Reg.XPT_RATE_CFG 16 8) then s
  else (s.setRate c (min x.ceiling (x.rate + 256 * s.fld Reg.XPT_RATE_CFG 32 13))).updCtx c (fun x => { x with aiAt := s.ps })

/-- RATE_INCREASE. -/
def execRateIncrease (ctx : BitVec 20) (s : State) : Out := if s.alive then .next (s.rateUp ctx) else .next s

end Sys2Proof.Machine
end

