-- ==== Sys2Proof/Machine/Receiver.lean ====
section
/-!
DEFINITION. The receiving side of the transport: the steps of R213, receive records and their publication (R212,
R215–R217, R225), placement into windows, posted buffers and semaphores (R243–R249, R256–R259, R481), reads (R231) and
the authentication of packets (R414).
-/

namespace Sys2Proof.Machine

/-! ## Records -/

/-- The receive record of a message. -/
def State.rrec? (s : State) (src : AdapterId) (m : MsgId) : Option RRec :=
  s.rrecs.find? (fun r => r.src = src ∧ r.msg = m)

/-- Changes a receive record. -/
def State.updRrec (s : State) (src : AdapterId) (m : MsgId) (f : RRec → RRec) : State :=
  { s with rrecs := s.rrecs.map (fun r => if r.src = src ∧ r.msg = m then f r else r) }

/-- The record has ended its message: published, or failed. -/
def RRec.over (r : RRec) : Bool := r.phase == .published || r.phase == .failed

/-- A placeholder for a message not yet seen (R225). -/
def RRec.expect (src : AdapterId) (m : MsgId) (ts : BitVec 32) (ck : Nat) : RRec :=
  { src := src, msg := m, typ := 0, ts := ts, last := 0, cum := 0, got := 0, phase := .expected, status := 0, dstCtx := 0,
    srcCtx := 0, part := 0, tc := 0, urgent := false, writes := 0, prev := 0, hasPrev := false, prevGone := none,
    sig := false, semId := 0, mcast := false, bound := none, length := none, unacked := 0, ackDue := none, ece := false,
    finalSent := false, semHeld := false, flushed := false, ctrl := none, bytes := 0, made := ck }

/-- A record filled from the first packet of its own message. -/
def RRec.fill (r : RRec) (x : Rx) : RRec :=
  let p := x.pkt
  { r with typ := p.typ, ts := p.ts, last := p.last.toNat, phase := .receiving, dstCtx := p.dstCtx, srcCtx := p.srcCtx,
           part := p.part, tc := x.tc, urgent := p.urgent, prev := p.prev, hasPrev := p.prev != 0, sig := p.sig,
           semId := BitVec.ofNat 16 (bits p.tgtB 48 16), mcast := p.mcast }

/-! ## Replies (R207, R212) -/

/-- A packet that answers one: source and destination exchanged, with its message, last index, ts and partition. -/
def State.replyTo (s : State) (p : Packet) (typ : BitVec 4) (idx : BitVec 16) (attr : BitVec 16) : Packet :=
  { ver := 1, typ := typ, urgent := p.urgent, enc := false, mcast := false, ordered := false, sig := false, retx := false,
    ece := false, fin := false, attr := attr, src := s.me, dst := p.src, srcCtx := p.dstCtx, dstCtx := p.srcCtx,
    msg := p.msg, idx := idx, last := p.last, ts := p.ts, part := p.part, len := 0, prev := 0, tgtA := 0, tgtB := 0,
    payload := [], gcmTag := 0 }

/-- The packet belongs to a multicast message, of which a member returns only the final ACK (R212, R232). -/
def State.ofMcast (s : State) (p : Packet) : Bool := p.mcast || (s.rrec? p.src p.msg).any (·.mcast)

/-- Sends a NACK for a packet, counted by its status (R234, R480); none for a multicast message. -/
def State.nack (s : State) (x : Rx) (st : Status) : State :=
  if s.ofMcast x.pkt then s
  else (s.bump (Reg.XPT_CNT (if st = St.busy then 12 else 10))).sendCtl x.pkt.dstCtx x.tc.toNat
    (s.replyTo x.pkt 9 x.pkt.idx st)

/-- Refuses a packet that creates no record: a NACK and at once the final ACK (R480). -/
def State.refuse (s : State) (x : Rx) (st : Status) : State :=
  (s.nack x st).sendCtl x.pkt.dstCtx x.tc.toNat { s.replyTo x.pkt 8 0 st with fin := true }

/-- The selective bitmap of a record (R212). -/
def RRec.bitmap (r : RRec) : Word := BitVec.ofNat 64 (r.got >>> (r.cum + 1))

/-- The ACK that a record sends. -/
def State.ackPacket (s : State) (r : RRec) (fin : Bool) : Packet :=
  { ver := 1, typ := 8, urgent := r.urgent, enc := false, mcast := false, ordered := false, sig := false, retx := false,
    ece := r.ece, fin := fin, attr := r.status, src := s.me, dst := r.src, srcCtx := r.dstCtx, dstCtx := r.srcCtx,
    msg := r.msg, idx := BitVec.ofNat 16 r.cum, last := BitVec.ofNat 16 r.last, ts := r.ts, part := r.part, len := 0,
    prev := 0, tgtA := 0, tgtB := r.bitmap, payload := [], gcmTag := 0 }

/-- Sends an ACK of a record; a member of a multicast message sends only the final one (R212). -/
def State.sendAck (s : State) (src : AdapterId) (m : MsgId) (fin : Bool) : State :=
  match s.rrec? src m with
  | none => s
  | some r =>
    if r.mcast ∧ !fin then s.updRrec src m (fun r => { r with unacked := 0, ackDue := none })
    else (s.updRrec src m (fun r => { r with unacked := 0, ackDue := none, ece := false })).sendCtl r.dstCtx r.tc.toNat
      (s.ackPacket r fin)

/-! ## Posted buffers (R255–R259) -/

/-- A RECV's bound message is published or has failed: the buffer leaves the table and the operation completes in the same
step (R252, R258, R259). -/
def State.delivered (s : State) (op : Nat) (st : Status) (bytes : Nat) : State :=
  let s1 := { s with posted := s.posted.filter (fun b => b.op ≠ op) }
  match s1.op? op with
  | none => s1.postWaiting
  | some o =>
    let s2 := (s1.countWrite o bytes).updOp op (fun o =>
      { (if st = 0 then o else o.failed st) with done := true, signalled := if st = 0 then 1 else 0 })
    ((if st = 0 then (s2.traceOp o 1 0 0).lastSignal o else s2).postWaiting.settle).operationComplete op

/-- Completes the RECV bound to a record. (Log 17: DEDUCED.) -/
def State.deliverBound (s : State) (r : RRec) (st : Status) : State :=
  match r.bound with
  | some op => s.delivered op st r.bytes
  | none => s

/-! ## Publication (R215, R225) -/

/-- What the sig add of a message gives at this adapter (R165, R173, R180). (Log 44: DEDUCED.) -/
def State.sigAdd (s : State) (r : RRec) : Status × State :=
  if !r.sig then (0, s)
  else if !s.semRemote r.part r.semId then (St.accessDenied, s.bump Reg.SEM_CNT_REFUSED)
  else
    let a := s.semApply r.semId (.add 1)
    (if a.2.1 then St.uncorrectable else 0, a.2.2)

/-- A packet of a record's message, as far as a reply to it needs. -/
def State.rxOf (s : State) (r : RRec) (idx : BitVec 16) : Rx :=
  ⟨{ s.ackPacket r false with
      typ := r.typ, idx := idx, attr := 0, ece := false, tgtB := 0, mcast := r.mcast, src := r.src, dst := s.me,
      srcCtx := r.srcCtx, dstCtx := r.dstCtx }, true, 0, false, r.tc⟩

/-- Publishes a finished message whose signal has given a status: its completion event and the final ACK; a failure also
draws a NACK (R233). (Log 43: DESIGN CHOICE, 44: DEDUCED.) -/
def State.publishAs (s : State) (r : RRec) (st : Status) : State :=
  let s1 := s.updRrec r.src r.msg (fun x => { x with
    phase := if st = 0 then .published else .failed, status := st, finalSent := true, semHeld := false })
  let s2 := if st = 0 then s1 else s1.nack (s.rxOf r (BitVec.ofNat 16 r.last)) st
  (s2.deliverBound r st).sendAck r.src r.msg true

/-- Publishes a finished message: its signal, its completion event and the final ACK in one step. The signal waits while
its page is being zeroed (R185). (Log 43: DESIGN CHOICE, 44: DEDUCED.) -/
def State.publish (s : State) (r : RRec) : State :=
  if r.sig ∧ s.semRemote r.part r.semId ∧ s.semZeroing r.semId then
    (s.updRrec r.src r.msg (fun x => { x with phase := .complete, semHeld := true })).holdSem r.semId (.add 1)
      (.remote r.src r.msg)
  else (s.sigAdd r).2.publishAs r (s.sigAdd r).1

/-- Publishes the messages held behind one that has been published or has failed, and their successors, in chain
order; one whose signal waits ends the chain for now (R225). -/
def State.release (s : State) (src : AdapterId) (m : MsgId) : Nat → State
  | 0 => s
  | n + 1 =>
    match s.rrecs.find? (fun r => r.src = src ∧ r.hasPrev ∧ r.prev = m ∧ r.phase = .held) with
    | none => s
    | some r =>
      let s1 := s.publish r
      match s1.rrec? src r.msg with
      | some y => if y.over then State.release s1 src r.msg n else s1
      | none => s1

/-- The message that a record follows has been published, has failed, or has been freed (R225). -/
def State.prevOver (s : State) (r : RRec) : Bool :=
  !r.hasPrev || r.prevGone.isSome || (match s.rrec? r.src r.prev with
    | some p => p.over
    | none => true)

/-- Publishes, or holds, a message all of whose packets have arrived and all of whose writes are acknowledged. -/
def State.rxFinish (s : State) (src : AdapterId) (m : MsgId) : State :=
  match s.rrec? src m with
  | none => s
  | some r =>
    if r.phase ≠ .receiving ∨ r.writes ≠ 0 ∨ r.cum ≤ r.last then s
    else if s.prevOver r then
      let t := s.publish r
      if (t.rrec? src m).any RRec.over then t.release src m s.rrecs.length else t
    else (s.updRrec src m (fun x => { x with phase := .held })).bump (Reg.XPT_CNT 20)

/-- The writes of a message that are posted over H. -/
def State.postedH (s : State) (src : AdapterId) (m : MsgId) : List WriteReq :=
  s.writes.filter (fun w => w.port == some .h && (match w.kind with
    | .rx a b _ _ => a == src && b == m
    | .acc a b _ _ => a == src && b == m
    | _ => false))

/-- Issues the one flushing zero-length read of a message whose last write over H has been posted: every packet has been
placed, or the message has failed (R53, R251). -/
def State.rxFlush (s : State) (src : AdapterId) (m : MsgId) : State :=
  match s.rrec? src m, (s.postedH src m).getLast? with
  | some r, some w =>
    if !r.flushed ∧ (r.phase = .failed ∨ (r.last < r.cum ∧ (s.postedH src m).length = r.writes)) then
      (s.updRrec src m (fun x => { x with flushed := true })).emit (.memRead .h w.inst (BitVec.ofNat 64 w.addr) 0)
    else s
  | _, _ => s

/-- Sends the final ACK of a failed message once every write that it had started is acknowledged (R216). -/
def State.rxFailFinal (s : State) (src : AdapterId) (m : MsgId) : State :=
  match s.rrec? src m with
  | none => s
  | some r =>
    if r.phase ≠ .failed ∨ r.writes ≠ 0 ∨ r.finalSent then s
    else ((s.updRrec src m (fun x => { x with finalSent := true })).sendAck src m true).deliverBound r r.status

/-- Step 9 refuses a packet: NACK, and the record becomes FAILED (R213, R216, R225). A request without a record draws the
NACK alone. -/
def State.rxFail (s : State) (x : Rx) (st : Status) : State :=
  let p := x.pkt
  let s1 := s.nack x st
  match s1.rrec? p.src p.msg with
  | none => s1
  | some r =>
    if p.typ = 4 then s1
    else if r.over then s1.rxFailFinal p.src p.msg
    else
      let s2 := (s1.updRrec p.src p.msg (fun y => { y with phase := .failed, status := st })).rxFlush p.src p.msg
      (s2.release p.src p.msg s2.rrecs.length).rxFailFinal p.src p.msg

/-- One write of a message, or one packet of it in progress, has ended. -/
def State.rxWriteDone (s : State) (src : AdapterId) (m : MsgId) (w : Option Nat) : State :=
  ((((s.winLeave w).updRrec src m (fun r => { r with writes := r.writes - 1 })).rxFlush src m).rxFinish src m).rxFailFinal
    src m

/-- One packet of a message in progress has ended with a failure: it is refused as at step 9. (Log 49: DEDUCED.) -/
def State.rxWriteFail (s : State) (x : Rx) (w : Option Nat) (st : Status) : State :=
  ((s.updRrec x.pkt.src x.pkt.msg (fun r => { r with writes := r.writes - 1 })).winLeave w).rxFail x st

/-- A write of a message fails at its destination: its packet is refused as at step 9 (R216, R233). -/
def State.rxLate (s : State) (src : AdapterId) (m : MsgId) (idx : BitVec 16) (w : Option Nat) : State :=
  match s.rrec? src m with
  | none => s.winLeave w
  | some r => s.rxWriteFail (s.rxOf r idx) w St.uncorrectable

/-! ## Acceptance (R212, R215, R244) -/

/-- Marks a packet received, with the acknowledgement that is due, and in progress. -/
def State.accept (s : State) (x : Rx) (w : Option Nat) : State :=
  let p := x.pkt
  let every := s.fld Reg.XPT_ACK 0 8
  let s1 := s.updRrec p.src p.msg (fun r =>
    let got := r.got ||| 2 ^ p.idx.toNat
    { r with
      got := got
      cum := firstClear got r.cum (r.last + 1)
      writes := r.writes + 1
      unacked := r.unacked + 1
      ece := r.ece || x.ce
      ctrl := some (r.ctrl.getD (s.reg Reg.NEB_CTRL))
      ackDue := match r.ackDue with
        | some t => some t
        | none => some (s.ps + s.fld Reg.XPT_ACK 8 16 * 1000) })
  let s2 := match w with
    | some n => (s1.updWin n (fun e => { e with flight := e.flight + 1 })).useWin n
    | none => s1
  match s2.rrec? p.src p.msg with
  | some r => if every ≤ r.unacked then s2.sendAck p.src p.msg false else s2
  | none => s2

/-! ## Placement -/

/-- The part of byte runs that bytes `a` to `a + n − 1` of their concatenation occupy. -/
def sliceRuns : List (Word × Nat) → Nat → Nat → List (Word × Nat)
  | [], _, _ => []
  | (va, len) :: rs, a, n =>
    if n = 0 then []
    else if len ≤ a then sliceRuns rs (a - len) n
    else
      let k := min n (len - a)
      (va + BitVec.ofNat 64 a, k) :: sliceRuns rs 0 (n - k)

/-- Where the payload of an accepted packet goes: instance, cluster, space and byte runs. -/
structure Target where
  inst  : BitVec 8
  clu   : Nat
  space : Nat
  runs  : List (Word × Nat)
  deriving DecidableEq, Repr

/-- The target of a packet in its window or its bound buffer. -/
def State.targetOf (s : State) (p : Packet) : Option Target :=
  if p.typ = 3 then
    match (s.rrec? p.src p.msg).bind (fun r => r.bound.bind (fun op => s.op? op)) with
    | some o => some ⟨o.inst, o.clu, o.dst.space, sliceRuns (o.dst.span 0 o.dst.count) (p.idx.toNat * 4096) p.payload.length⟩
    | none => none
  else
    let e := s.win (winId p.tgtA)
    let sp := spanOf e p
    some ⟨e.inst, 0, e.space, if sp.2 = 0 then [] else [(e.base + BitVec.ofNat 64 (bits p.tgtB 0 48 + sp.1), sp.2)]⟩

/-- The window of a packet, for the in-flight count. -/
def winOf (p : Packet) : Option Nat := if p.typ = 3 then none else some (winId p.tgtA)

/-- Ends a placement: refused, waiting for `n` acknowledgements, or done. -/
def State.placed (s : State) (x : Rx) (failed : Bool) (n : Nat) : State :=
  let p := x.pkt
  if failed then s.rxWriteFail x (winOf p) St.uncorrectable
  else if n = 0 then s.rxWriteDone p.src p.msg (winOf p)
  else (s.updRrec p.src p.msg (fun r => { r with writes := r.writes - 1 + n })).rxFlush p.src p.msg

/-- Places the payload of a WRITE or SEND (R249, R256). -/
def State.placeWrite (s : State) (x : Rx) (t : Target) : State :=
  let p := x.pkt
  let r := s.storeRuns t.inst t.clu t.space (.rx p.src p.msg p.idx (winOf p)) t.runs p.payload
  let s1 := if r.1 then r.2.2 else
    (if p.typ = 1 then r.2.2.bump (Reg.WIN_CNT 0) else r.2.2).updRrec p.src p.msg
      (fun y => { y with bytes := y.bytes + p.payload.length })
  s1.placed x r.1 r.2.1

/-- The passes of `n` elements under residue checking, the mismatch falling in the first. -/
def State.accPasses (s : State) (a per : Nat) : Nat → Nat → Mismatch → Option Nat × State
  | 0, _, _ => (none, s)
  | k + 1, n, upset =>
    if n = 0 then (none, s)
    else
      let r := s.residue a (min per n) per true upset
      match r.1 with
      | some l => (some l, r.2)
      | none => State.accPasses r.2 a per k (n - per) none

/-- The results of a WRITE_ACC on window bytes `old`: its elements combined and rounded (R93). -/
def accResult (ctrl : Word) (e : Win) (p : Packet) (old : List Byte) : Dense :=
  match accSrc p, fmtOf e.accFmt with
  | some f, some g =>
    let op := p.attr.toNat / 2 ^ 8 % 8
    let md := modeOf (p.attr.toNat / 2 ^ 7 % 2)
    let vs := ((decodeDense g old).zip (decodeDense f p.payload)).map (fun q => combine op q.1 q.2)
    encodeDense g ⟨bit ctrl 0, bit ctrl 1⟩ md (vs.map (fun v => (v, 0)))
  | _, _ => Dense.empty

/-- The tag of a PUTACC that comes from this adapter; 0 for another's (R131). -/
def State.accTag (s : State) (p : Packet) : BitVec 24 :=
  if p.src ≠ s.me then 0
  else match s.srec? p.msg with
    | none => 0
    | some r => match r.src with
      | .op id _ => ((s.op? id).map (·.tag)).getD 0
      | _ => 0

/-- A WRITE_ACC meets an array: the results for window bytes `old`, or the failure of its residue check (R93, R121,
R128, R129). It is no segment, so it counts none in array_seq (R120). (Log 128: DEDUCED.) -/
def State.accRun (s : State) (p : Packet) (upset : Mismatch) (old : List Byte) : Option (List Byte) × State :=
  let e := s.win (winId p.tgtA)
  let ctrl := ((s.rrec? p.src p.msg).bind (·.ctrl)).getD (s.reg Reg.NEB_CTRL)
  match s.pickArray, accSrc p, fmtOf e.accFmt with
  | some a, some f, some g =>
    let n := accCount f p.payload.length
    let r := s.accPasses a (perPass (max (classBits f) (classBits g))) (n + 1) n upset
    match r.1 with
    | some lane => (none, if bit ctrl 3 then r.2.fenceLane a lane (r.2.accTag p) e.inst else r.2)
    | none =>
      let d := accResult ctrl e p old
      (some d.bytes, ((r.2.count (Reg.NEB_CNT_OPS a) n).count Reg.NEB_CNT_SAT d.sat).count Reg.NEB_CNT_NAN_LOST d.lost)
  | _, _, _ => (none, s)

/-- Combines a WRITE_ACC into window bytes inside the adapter: read, combination and write in one step (R93). -/
def State.accInside (s : State) (x : Rx) (t : Target) (upset : Mismatch) : State :=
  let p := x.pkt
  let r := s.readRuns t.inst t.clu t.space t.runs
  if r.2.1 then r.2.2.rxWriteFail x (winOf p) St.uncorrectable
  else
    let a := r.2.2.accRun p upset r.1
    match a.1 with
    | none => a.2.rxWriteFail x (winOf p) St.checkFail
    | some bs =>
      let w := a.2.writeRuns t.inst t.clu t.space t.runs bs
      let s1 := if w.1 then w.2 else (w.2.bump (Reg.WIN_CNT 1)).updRrec p.src p.msg
        (fun y => { y with bytes := y.bytes + p.payload.length })
      s1.placed x w.1 0

/-- Lines of attach ports that a WRITE_ACC into adapter memory must take back first (R315). -/
def State.accLines (s : State) (t : Target) : List (Nat × Nat) :=
  if t.space ≠ 0 then []
  else t.runs.flatMap (fun r => match s.locOf t.inst t.clu t.space r.1 with
    | .mem a => s.linesOf a r.2 none
    | _ => [])

/-- An update of a window outside the adapter is in progress, so that another must wait (R93). One whose write has been
posted over H is not: the next read over H stays behind that write. (Log 48: DESIGN CHOICE.) -/
def State.accBusy (s : State) : Bool :=
  s.reads.any (fun r => r.sent && match r.kind with | .acc .. => true | _ => false)
    || s.writes.any (fun w => w.port != some .h && match w.kind with | .acc .. => true | _ => false)

/-- Lets the next waiting update of a window outside the adapter read its operands. (Log 48: DESIGN CHOICE.) -/
def State.accNext (s : State) : State :=
  if s.accBusy then s
  else match s.reads.find? (fun r => !r.sent) with
    | none => s
    | some q =>
      match q.kind with
      | .acc p w _ =>
        let e := s.win w
        let s1 : State := { s with
          reads := s.reads.map (fun (r : ReadReq) => if r.id = q.id then { r with sent := true } else r) }
        s1.emit (.memRead (portOf e.space) e.inst (e.base + BitVec.ofNat 64 (bits p.tgtB 0 48 + (spanOf e p).1)) q.len)
      | _ => s

/-- Places a WRITE_ACC: at once inside the adapter, after back-invalidations where packages hold its lines, and by a read
and a write over the port outside it. (Log 48: DESIGN CHOICE.) -/
def State.placeAcc (s : State) (x : Rx) (t : Target) (upset : Mismatch) (keys : List XKey) : State :=
  let p := x.pkt
  if t.runs.isEmpty then (s.bump (Reg.WIN_CNT 1)).placed x false 0
  else if isExt t.space then
    let s1 : State := { s with
      fresh := s.fresh + 1
      reads := s.reads ++ [⟨s.fresh, .acc p (winId p.tgtA) upset, (t.runs.map (·.2)).foldl (· + ·) 0, keys, false⟩] }
    s1.accNext
  else
    let ls := s.accLines t
    if ls.isEmpty then s.accInside x t upset
    else
      let s1 : State := { s with
        fresh := s.fresh + 1
        writes := s.writes ++ [⟨s.fresh, .accMem p (winId p.tgtA) upset, t.inst, none, ls, 0, [], 0⟩] }
      s1.askLines ls

/-- Places an accepted packet whose translations are held. -/
def State.place (s : State) (x : Rx) (upset : Mismatch) (keys : List XKey) : State :=
  match s.targetOf x.pkt with
  | none => s.rxWriteDone x.pkt.src x.pkt.msg (winOf x.pkt)
  | some t => if x.pkt.typ = 2 then s.placeAcc x t upset keys else s.placeWrite x t

/-- Refuses an accepted packet whose translation is not present (R241, R481). -/
def State.xlatFail (s : State) (x : Rx) : State :=
  (s.bump (Reg.WIN_CNT 5)).rxWriteFail x (winOf x.pkt) St.accessDenied

/-- The pages and permissions that a target needs. -/
def State.targetKeys (s : State) (t : Target) (wr rd : Bool) : List (XKey × Bool) :=
  if isExt t.space then
    (pagesOf t.runs).flatMap (fun g =>
      let k := s.xkey t.inst (portOf t.space) g
      (if wr then [(k, true)] else []) ++ (if rd then [(k, false)] else []))
  else []

/-- Translates the target of an accepted packet and places it, parks it for its translations, or refuses it. -/
def State.translate (s : State) (x : Rx) (upset : Mismatch) : State :=
  match s.targetOf x.pkt with
  | none => s.rxWriteDone x.pkt.src x.pkt.msg (winOf x.pkt)
  | some t =>
    let ks := s.targetKeys t true (x.pkt.typ == 2)
    if ks.any (fun e => !s.canTranslate e.1.port t.inst) then s.xlatFail x
    else
      let l := s.segLookup ks
      if l.1.isSome then l.2.2.2.xlatFail x
      else if l.2.1.isEmpty then l.2.2.2.place x upset ((ks.map (·.1)).eraseDups)
      else { l.2.2.2 with parked := l.2.2.2.parked ++ [⟨x, .xlat ((l.2.1.map (·.1)).eraseDups), upset, s.ck⟩] }

/-! ## Windows (R238, R243, R371, R414) -/

/-- The target of a packet touches a protected region of adapter memory. -/
def State.winProt (s : State) (e : Win) (off n : Nat) : Bool :=
  e.space == 0 && decide (n ≠ 0) && s.prot ((s.alloc e.inst 0).1 + e.base.toNat + off) n

/-- An arriving packet waits for its window entry. -/
def State.parkWin (s : State) (x : Rx) (upset : Mismatch) : State :=
  let s1 : State := { s with parked := s.parked ++ [⟨x, .win (winId x.pkt.tgtA), upset, s.ck⟩] }
  s1.fetchWin (winId x.pkt.tgtA)

/-- Hands an encrypted packet to an ingress core, or drops it when its key slot cannot authenticate it (R414). -/
def State.authStart (s : State) (x : Rx) (slot : Nat) (w : Option Nat) (upset : Mismatch) : State :=
  if s.keyUsable slot then
    s.cipherPut { ingress := true, slot := slot, key := 0, gen := 0, rx := x, win := w, upset := upset, plane := none,
                  fin := false, moved := false, at_ := s.ck }
  else (s.bump (Reg.XPT_CNT 9)).winLeave w

/-- Counts a packet in the in-flight count of its window. -/
def State.winEnter (s : State) (w : Nat) : State := (s.updWin w (fun e => { e with flight := e.flight + 1 })).useWin w

/-- Step 9 and step 10 for WRITE and WRITE_ACC. -/
def State.rxWindow (s : State) (x : Rx) (upset : Mismatch) : State :=
  let p := x.pkt
  let w := winId p.tgtA
  let e := s.win w
  if s.winCount ≤ w then (s.countRefusal St.windowClosed).rxFail x St.windowClosed
  else if !e.cached then s.parkWin x upset
  else match s.winCheck p with
    | some st => (s.countRefusal st).rxFail x st
    | none =>
      if s.winProt e (bits p.tgtB 0 48 + (spanOf e p).1) (spanOf e p).2 then
        (s.bump (Reg.MEM_CNT 8)).rxFail x St.accessDenied
      else if p.enc then (s.winEnter w).authStart x e.keySlot (some w) upset
      else (s.accept x (some w)).translate x upset

/-! ## SEND and SEM (R165, R179, R256, R257) -/

/-- Binds a posted buffer to a message. -/
def State.bindBuffer (s : State) (x : Rx) (b : Posted) : State :=
  let p := x.pkt
  { s.updRrec p.src p.msg (fun r => { r with bound := some b.op }) with
    posted := s.posted.map (fun (y : Posted) => if y.op = b.op then { y with bound := some (p.src.toNat, p.msg.toNat) } else y) }.bump
      (Reg.WIN_CNT 8)

/-- Refuses a SEND for want of a buffer. -/
def State.noBuffer (s : State) (x : Rx) (small : Bool) : State :=
  let s1 := s.bump (Reg.WIN_CNT 9)
  (if small then s1.bump (Reg.WIN_CNT 10) else s1).rxFail x St.noBuffer

/-- Moves a buffer back, unmatched, to the head of the posted buffers of its context. -/
def State.unbind (s : State) (op : Nat) : State :=
  match s.posted.find? (fun b => b.op = op) with
  | none => s
  | some b => { s with posted := { b with bound := none } :: s.posted.filter (fun y => y.op ≠ op) }

/-- Step 9 and step 10 for SEND: the message length that the packet proves, the buffer bound or found too short.
(Log 47: DEDUCED.) -/
def State.rxSend (s : State) (x : Rx) (r : RRec) : State :=
  let p := x.pkt
  let exact := p.idx = p.last
  let need := if exact then p.last.toNat * 4096 + p.payload.length else p.last.toNat * 4096 + 1
  if p.enc then s.bump (Reg.XPT_CNT 9)
  else match r.bound with
    | some op =>
      match s.posted.find? (fun b => b.op = op) with
      | some b =>
        if exact ∧ b.size < need then
          ((s.unbind op).updRrec p.src p.msg (fun r => { r with bound := none })).noBuffer x true
        else (s.accept x none).translate x none
      | none => s
    | none =>
      let fits := fun (b : Posted) => b.bound.isNone && b.ctx == p.dstCtx && b.match_ == p.tgtA.setWidth 24
      match s.posted.find? (fun b => fits b && decide (need ≤ b.size)) with
      | some b => ((s.bindBuffer x b).accept x none).translate x none
      | none => s.noBuffer x (s.posted.any fits)

/-- The operation of a SEM message. -/
def semAct (p : Packet) : SemAct :=
  let code := p.attr.toNat % 256
  if code = 1 then .add p.tgtB else if code = 2 then .sub p.tgtB else .set p.tgtB

/-- Step 9 and step 10 for SEM: checked, then applied exactly once (R179). (Log 47: DEDUCED.) -/
def State.rxSem (s : State) (x : Rx) : State :=
  let p := x.pkt
  let id : BitVec 16 := p.tgtA.setWidth 16
  if p.enc then s.bump (Reg.XPT_CNT 9)
  else if !s.semRemote p.part id then (s.bump Reg.SEM_CNT_REFUSED).rxFail x St.accessDenied
  else if s.semZeroing id then (s.accept x none).holdSem id (semAct p) (.remote p.src p.msg)
  else
    let a := s.semApply id (semAct p)
    if a.2.1 then a.2.2.rxFail x St.uncorrectable
    else (a.2.2.accept x none).rxWriteDone p.src p.msg none

/-! ## Reads (R231, R244) -/

/-- Payload length of a response packet. -/
def respLen (p : Packet) (i : Nat) : Nat := if i = p.last.toNat then p.attr.toNat % 2 ^ 13 else 4096

/-- The address in its window of a response packet's bytes. -/
def respVa (e : Win) (p : Packet) (i : Nat) : Word := e.base + BitVec.ofNat 64 (bits p.tgtB 0 48 + 4096 * i)

/-- Issues the reads of every response packet that a request wants; one that wants none has ended with its window
(R244). -/
def State.readStart (s : State) (x : Rx) (keys : List XKey) : State :=
  let p := x.pkt
  let e := s.win (winId p.tgtA)
  let is := (List.range (p.last.toNat + 1 - p.idx.toNat)).map (· + p.idx.toNat)
  let g := s.fresh
  if is.isEmpty then s.winLeave (some (winId p.tgtA))
  else is.foldl (fun (s : State) i =>
    let s1 : State := { s with
      fresh := s.fresh + 1
      reads := s.reads ++ [⟨s.fresh, .win g p x.tc i (winId p.tgtA), respLen p i, keys, true⟩] }
    if isExt e.space ∧ respLen p i ≠ 0 then s1.emit (.memRead (portOf e.space) e.inst (respVa e p i) (respLen p i)) else s1)
    { s with fresh := s.fresh + 1 }

/-- The target of a READ_REQ. -/
def State.readTarget (s : State) (p : Packet) : Target :=
  let e := s.win (winId p.tgtA)
  let from_ := 4096 * p.idx.toNat
  ⟨e.inst, 0, e.space, if readReach p ≤ from_ then [] else [(respVa e p p.idx.toNat, readReach p - from_)]⟩

/-- Refuses a READ_REQ that had passed R243. -/
def State.readFail (s : State) (x : Rx) (st : Status) : State := (s.nack x st).winLeave (some (winId x.pkt.tgtA))

/-- Translates a READ_REQ that has passed R243 and issues its reads. (Log 45: DESIGN CHOICE.) -/
def State.readGo (s : State) (x : Rx) : State :=
  let t := s.readTarget x.pkt
  let ks := s.targetKeys t false true
  if ks.any (fun e => !s.canTranslate e.1.port t.inst) then (s.bump (Reg.WIN_CNT 5)).readFail x St.accessDenied
  else
    let l := s.segLookup ks
    if l.1.isSome then (l.2.2.2.bump (Reg.WIN_CNT 5)).readFail x St.accessDenied
    else if l.2.1.isEmpty then l.2.2.2.readStart x (ks.map (·.1))
    else { l.2.2.2 with parked := l.2.2.2.parked ++ [⟨x, .xlat ((l.2.1.map (·.1)).eraseDups), none, s.ck⟩] }

/-- Step 9 and step 10 for READ_REQ. -/
def State.rxRead (s : State) (x : Rx) : State :=
  let p := x.pkt
  let w := winId p.tgtA
  let e := s.win w
  if s.winCount ≤ w then (s.countRefusal St.windowClosed).nack x St.windowClosed
  else if !e.cached then s.parkWin x none
  else match s.winCheck p with
    | some st => (s.countRefusal st).nack x st
    | none =>
      if s.winProt e (bits p.tgtB 0 48) (readReach p) then (s.bump (Reg.MEM_CNT 8)).nack x St.accessDenied
      else match if e.enc then s.keyRefusal e.keySlot else none with
        | some st => (if st = St.resourceLimit then s.bump (Reg.SEC_CNT 4) else s).nack x st
        | none => (s.winEnter w).readGo x

/-- The response packet for index `i` of a request. -/
def State.respPacket (s : State) (p : Packet) (i : Nat) (enc : Bool) (bs : List Byte) : Packet :=
  { s.replyTo p 5 (BitVec.ofNat 16 i) 0 with len := BitVec.ofNat 13 bs.length, payload := bs, enc := enc }

/-- The response's turn: its frame finds its tokens, which an urgent request does not wait for (R228, R231). -/
def State.respReady (s : State) (p q : Packet) : Bool :=
  p.src == s.me || p.urgent || decide (tokenCost (s.frameLen q) ≤ s.tokens (s.ctx p.dstCtx))

/-- A request all of whose reads have returned leaves its window. -/
def State.readLeave (s : State) (g w : Nat) : State :=
  if s.reads.any (fun r => match r.kind with | .win h _ _ _ _ => h == g | _ => false) then s else s.winLeave (some w)

/-- The data of one response packet is sent, in the class of its request, under the context's rate and the entry's key. It is
lost, and counts as not sent, where the route has no plane. (Log 45: DESIGN CHOICE.) -/
def State.respSend (s : State) (p : Packet) (tc : BitVec 3) (w : Nat) (q : Packet) : State :=
  let e := s.win w
  let key := if e.enc then some e.keySlot else none
  let c : BitVec 3 := if p.urgent then 7 else tc
  let s1 := s.bump (Reg.WIN_CNT 2)
  if s.hop q.dst = .loop then (s1.bump (Reg.XPT_CNT 0)).send none c key q
  else match wrrPick (s.ctx p.dstCtx).wrr (s.routePlanes q.dst) with
    | none => s1
    | some r => ((((s1.bump (Reg.XPT_CNT 0)).spend p.dstCtx (s.frameLen q)).updCtx p.dstCtx
        (fun y => { y with wrr := r.2 })).send (some r.1) c key q)

/-- The data of a response packet returns; an error ends the request with UNCORRECTABLE (R233). (Log 45: DESIGN CHOICE.) -/
def State.respReturn (s : State) (q : ReadReq) (g : Nat) (p : Packet) (tc : BitVec 3) (i w : Nat) (ext : List Byte)
    (err : Bool) : State :=
  let e := s.win w
  let n := respLen p i
  let r := if isExt e.space then (ext, err, s)
    else if err then ([], true, s.bump (Reg.MEM_CNT 10))
    else s.readRuns e.inst 0 e.space (if n = 0 then [] else [(respVa e p i, n)])
  let a := s.respPacket p i e.enc r.1
  if !s.respReady p a ∨ (isExt e.space ∧ !err ∧ ext.length ≠ n) then s
  else
    let s1 : State := { r.2.2 with reads := r.2.2.reads.filter (fun y => y.id ≠ q.id) }
    if r.2.1 then
      let s2 : State := { s1 with reads := s1.reads.filter (fun y => match y.kind with | .win h _ _ _ _ => h ≠ g | _ => true) }
      (s2.nack ⟨p, true, 0, false, if p.urgent then 7 else tc⟩ St.uncorrectable).readLeave g w
    else (s1.respSend p tc w a).readLeave g w

/-! ## Responses at the requester (R231) -/

/-- A response has been written and acknowledged. -/
def State.respDone (s : State) (m : MsgId) (i : Nat) : State :=
  match s.srec? m with
  | none => s
  | some r =>
    let acked := r.acked ||| 2 ^ i
    let cum := firstClear acked r.cum (r.last + 1)
    let s1 := (s.updSrec m (fun x => { x with acked := acked, cum := cum })).restartTimer m
    if r.last < cum then s1.endMsg r 0 else s1

/-- The response is already recorded, or being written. -/
def State.respDup (s : State) (r : SRec) (i : Nat) : Bool :=
  r.acked.testBit i || s.writes.any (fun w => match w.kind with | .resp m j => m == r.msg && j == i | _ => false)

/-- Every response of a GET is recorded or being written. -/
def State.respAll (s : State) (r : SRec) : Bool := (List.range (r.last + 1)).all (s.respDup r)

/-- Issues the flushing read of a GET's segment once the last of its responses has been posted over H (R53). -/
def State.respFlush (s : State) (m : MsgId) : State :=
  match s.srec? m, (s.writes.filter (fun w => w.port == some .h && (match w.kind with | .resp a _ => a == m | _ => false))).getLast? with
  | some r, some w => if s.respAll r then s.emit (.memRead .h w.inst (BitVec.ofNat 64 w.addr) 0) else s
  | _, _ => s

/-- Places the payload of a response in the GET's destination. -/
def State.respPlace (s : State) (r : SRec) (p : Packet) : State :=
  match r.src with
  | .op id g =>
    match s.segIdx id g with
    | none => s.respDone r.msg p.idx.toNat
    | some (o, k) =>
      let runs := sliceRuns (o.dst.span (o.part k).1 (o.part k).2) (p.idx.toNat * 4096) p.payload.length
      let w := s.storeRuns o.inst o.clu o.dst.space (.resp r.msg p.idx.toNat) runs p.payload
      if w.1 then w.2.2.endMsg r St.uncorrectable
      else if w.2.1 = 0 then (w.2.2.respDone r.msg p.idx.toNat).respFlush r.msg
      else w.2.2.respFlush r.msg
  | _ => s

/-- A READ_RESP that names a GET's record: duplicates are counted, encrypted ones authenticated under the own entry. -/
def State.rxResp (s : State) (x : Rx) (r : SRec) : State :=
  let p := x.pkt
  if s.respDup r p.idx.toNat then s.bump (Reg.XPT_CNT 4)
  else if !p.enc then s.respPlace r p
  else match s.ownKey (winId r.tgtA) r.inst with
    | some k => s.authStart x k none none
    | none => (s.bump (Reg.XPT_CNT 9)).bump (Reg.SEC_CNT 2)

/-! ## The steps of R213 -/

/-- The type is one of R207. -/
def typKnown (t : BitVec 4) : Bool :=
  t == 1 || t == 2 || t == 3 || t == 4 || t == 5 || t == 6 || t == 8 || t == 9

/-- attr holds no reserved encoding. -/
def attrOk (p : Packet) : Bool :=
  if p.typ = 2 then (accSrc p).isSome && decide (p.attr.toNat / 2 ^ 8 % 8 ≤ 2)
  else if p.typ = 6 then decide (1 ≤ p.attr.toNat % 256) && decide (p.attr.toNat % 256 ≤ 3)
  else true

/-- Step 1. -/
def State.headerOk (s : State) (x : Rx) : Bool :=
  let p := x.pkt
  s.flag Reg.XPT_CTRL 1 && x.cksumOk && p.ver == 1 && typKnown p.typ && attrOk p && decide (p.len.toNat ≤ 4096)
    && decide (p.len.toNat + 48 + (if p.enc then 16 else 0) = x.udpLen)
    && (if p.mcast then s.member p.dst.toNat else p.dst == s.me)

/-- Step 3: the age is outside the lifetime, or too near its end for a packet that would create a record.
(Log 42: DESIGN CHOICE.) -/
def State.tooOld (s : State) (x : Rx) (fresh : Bool) : Bool :=
  let age := s.ageNs x.pkt.ts
  let life : Int := s.acceptNs
  decide (life < age) || decide (age < -life) || (fresh && decide (life - (s.debtNs : Int) < age))

/-- Receive records may still be created: `n` more fit in the receive share, and in the table (R218). -/
def State.recRoom (s : State) (n : Nat) : Bool :=
  decide (s.rrecs.length + n ≤ recordTable - s.fld Reg.XPT_TX_REC 0 17)
    && decide (s.srecs.length + s.rrecs.length + n ≤ recordTable)

/-- Step 7: the record, created with the placeholder of its predecessor where these do not exist; none when no record
can be created (R215, R225). -/
def State.withRecord (s : State) (x : Rx) : Option State :=
  let p := x.pkt
  let hold := p.prev ≠ 0 ∧ (s.rrec? p.src p.prev).isNone
  let extra := if hold then [RRec.expect p.src p.prev p.ts s.ck] else []
  match s.rrec? p.src p.msg with
  | some r =>
    if r.phase ≠ .expected then some s
    else if extra.isEmpty || s.recRoom 1 then
      some { s.updRrec p.src p.msg (·.fill x) with
        rrecs := (s.updRrec p.src p.msg (·.fill x)).rrecs ++ extra }
    else none
  | none =>
    if s.recRoom (1 + extra.length) then
      some { s with rrecs := s.rrecs ++ [(RRec.expect p.src p.msg p.ts s.ck).fill x] ++ extra }
    else none

/-- Steps 8 to 10 for a message with a record. -/
def State.rxFrom8 (s : State) (x : Rx) (upset : Mismatch) : State :=
  let p := x.pkt
  match s.rrec? p.src p.msg with
  | none => s
  | some r =>
    if r.got.testBit p.idx.toNat ∨ r.phase ≠ .receiving then
      (s.bump (Reg.XPT_CNT 4)).sendAck p.src p.msg (r.phase == .published || (r.phase == .failed && r.writes == 0))
    else if r.cum + 256 ≤ p.idx.toNat then s.bump (Reg.XPT_CNT 8)
    else if p.typ = 3 then s.rxSend x r
    else if p.typ = 6 then s.rxSem x
    else s.rxWindow x upset

/-- Steps 6 to 10. -/
def State.rxFrom6 (s : State) (x : Rx) (upset : Mismatch) : State :=
  let p := x.pkt
  if p.part ≠ (s.ctx p.dstCtx).part then s.refuse x St.accessDenied
  else if p.typ = 5 then
    match s.srec? p.msg with
    | some r => s.rxResp x r
    | none => s
  else if p.typ = 4 then s.rxRead x
  else match s.withRecord x with
    | none => s.nack x St.busy
    | some t => t.rxFrom8 x upset

/-- Steps 3 to 10. -/
def State.rxFrom3 (s : State) (x : Rx) (upset : Mismatch) : State :=
  let p := x.pkt
  let fresh := p.typ ≠ 4 ∧ p.typ ≠ 5 ∧ (s.rrec? p.src p.msg).isNone
  if s.tooOld x fresh then s.bump (Reg.XPT_CNT 5)
  else if !s.ctxOk p.dstCtx then s.refuse x St.accessDenied
  else if (s.ctx p.dstCtx).resident then (s.useCtx p.dstCtx).rxFrom6 x upset
  else if (s.parked.filter (fun q => q.why = .ctx)).length < 512 then
    let s1 : State := { s with parked := s.parked ++ [⟨x, .ctx, upset, s.ck⟩] }
    s1.fetchCtx p.dstCtx
  else s.nack x St.busy

/-- A received transport packet goes through the steps of R213. -/
def State.receive (s : State) (x : Rx) (upset : Mismatch) : State :=
  let s1 := (s.takeIngress x).bump (Reg.XPT_CNT 1)
  let p := x.pkt
  if !s.headerOk x then s1.bump (Reg.XPT_CNT 6)
  else if p.typ = 5 ∨ p.typ = 8 ∨ p.typ = 9 then
    match s1.srec? p.msg with
    | none => s1.bump (Reg.XPT_CNT 7)
    | some r =>
      if p.typ = 8 then s1.onAck r p
      else if p.typ = 9 then s1.onNack r p
      else if r.typ ≠ 4 then s1.bump (Reg.XPT_CNT 7)
      else s1.rxFrom3 x upset
  else s1.rxFrom3 x upset

/-- A packet of the type that its command names reaches the transport; a reserved type is dropped at step 1. -/
def State.receiveTyped (s : State) (x : Rx) (t : BitVec 4) (upset : Mismatch) : State :=
  if s.alive ∧ (x.pkt.typ = t ∨ !typKnown x.pkt.typ) then s.receive x upset else s

/-- WRITE_PACKET. -/
def execWritePacket (rx : Rx) (s : State) : Out := .next (s.receiveTyped rx 1 none)

/-- WRITE_ACC_PACKET. -/
def execWriteAccPacket (rx : Rx) (upset : Option (Fin 128 × Bool)) (s : State) : Out := .next (s.receiveTyped rx 2 upset)

/-- SEND_PACKET. -/
def execSendPacket (rx : Rx) (s : State) : Out := .next (s.receiveTyped rx 3 none)

/-- READ_REQ. -/
def execReadReq (rx : Rx) (s : State) : Out := .next (s.receiveTyped rx 4 none)

/-- READ_RESP. -/
def execReadResp (rx : Rx) (s : State) : Out := .next (s.receiveTyped rx 5 none)

/-- SEM_PACKET. -/
def execSemPacket (rx : Rx) (s : State) : Out := .next (s.receiveTyped rx 6 none)

/-- ACK. -/
def execAck (rx : Rx) (s : State) : Out := .next (s.receiveTyped rx 8 none)

/-- NACK. -/
def execNack (rx : Rx) (s : State) : Out := .next (s.receiveTyped rx 9 none)

/-! ## The cipher's end of an arriving packet (R414) -/

/-- An ingress core finishes a packet: one that authenticates goes on as plaintext, another is dropped. The outcome of a
packet whose chaining state was replaced is left open. (Log 94: DEDUCED.) -/
def State.ingressDone (s : State) (j : CJob) : State :=
  let x := j.rx
  let plain := (openPacket j.key x.pkt).getD (if j.moved then x.pkt.payload else [])
  let ok := if j.moved then Config.freeBit s.free else (openPacket j.key x.pkt).isSome
  let s1 : State := if j.moved then { s with free := s.free + 1 } else s
  if !ok then (((s1.bump (Reg.XPT_CNT 9)).bump (Reg.SEC_CNT 2))).winLeave j.win
  else
    let y : Rx := { x with pkt := { x.pkt with payload := plain } }
    let s2 := s1.bump (Reg.SEC_CNT 1)
    match j.win with
    | none =>
      match s2.srec? x.pkt.msg with
      | some r => if s2.respDup r x.pkt.idx.toNat then s2.bump (Reg.XPT_CNT 4) else s2.respPlace r y.pkt
      | none => s2.bump (Reg.XPT_CNT 7)
    | some w =>
      match s2.rrec? x.pkt.src x.pkt.msg with
      | none => s2.winLeave (some w)
      | some r =>
        if r.got.testBit x.pkt.idx.toNat ∨ r.phase ≠ .receiving then
          ((s2.bump (Reg.XPT_CNT 4)).sendAck x.pkt.src x.pkt.msg
            (r.phase == .published || (r.phase == .failed && r.writes == 0))).winLeave (some w)
        else (s2.accept y none).translate y j.upset

/-- CIPHER_PACKET_DONE: a core finishes what it runs and goes on with its suspended packet or the next (R417, R418). -/
def execCipherPacketDone (core : Fin 56) (s : State) : Out :=
  let i := core.val
  match (s.core i).job with
  | none => .next s
  | some j =>
    if !s.alive then .next s
    else
      let s1 := s.setCore i { s.core i with job := none }
      let s2 := if j.ingress then s1.ingressDone j else s1.egressDone j
      .next (s2.coreNext i)

/-! ## Timers of a receive record (R212, R217) -/

/-- ack_delay_ns has passed since the first packet that no ACK covers. (Log 43: DESIGN CHOICE.) -/
def State.ackDelay (s : State) (src : AdapterId) (m : MsgId) : State :=
  match s.rrec? src m with
  | none => s
  | some r =>
    match r.ackDue with
    | some t => if t ≤ s.ps ∧ !r.finalSent then s.sendAck src m false else s
    | none => s

/-- ACK_DELAY_EXPIRY. -/
def execAckDelayExpiry (src : AdapterId) (msg : MsgId) (s : State) : Out :=
  if s.alive then .next (s.ackDelay src msg) else .next s

/-- A record's retention ends: it is freed, unless writes of it are outstanding. One that is not finished counts as FAILED,
and messages held behind it are published (R217, R225). A RECV that is still bound to it completes with TIMEOUT, as that of
an unfinished one does. (Log 40: DESIGN CHOICE.) -/
def State.retentionEnd (s : State) (src : AdapterId) (m : MsgId) : State :=
  match s.rrec? src m with
  | none => s
  | some r =>
    if s.ageNs r.ts ≤ (s.lifeNs : Int) ∨ r.writes ≠ 0 then s
    else
      let s1 := if r.phase = .expected then s.bump (Reg.XPT_CNT 21) else s
      let s2 := if r.over then s1 else s1.deliverBound r St.timeout
      let s3 : State := { s2 with
        rrecs := (s2.rrecs.filter (fun y => !(y.src == src && y.msg == m))).map (fun y =>
          if y.src = src ∧ y.hasPrev ∧ y.prev = m then { y with prevGone := some (r.phase == .published) } else y) }
      s3.release src m s3.rrecs.length

/-- RECORD_RETENTION_EXPIRY. -/
def execRecordRetentionExpiry (src : AdapterId) (msg : MsgId) (s : State) : Out :=
  if s.alive then .next (s.retentionEnd src msg) else .next s

end Sys2Proof.Machine
end

