-- ==== Sys2Proof/Machine/JadomMessage.lean ====
section
/-!
DEFINITION. The message instructions of group 0x6: R89–R93, R237, R255, R282.
-/

namespace Sys2Proof.Machine

/-- The context of a group 0x6 instruction exists and belongs to the instance (R89). -/
def State.ctxOf (s : State) (i : BitVec 8) (c : BitVec 20) : Bool := s.ctxOk c && (s.ctx c).inst == i

/-- The window operand is one (R89, R237): space 0x8 unless it is empty (R49), with as many elements as the data operand, of
the same format unless the instruction accumulates. (Log 16: DEDUCED.) -/
def winArgOk (win data : TDesc) (anyFmt : Bool) : Bool :=
  win.checks true && (win.isEmpty || win.space == 8) && win.count == data.count && (anyFmt || win.format == data.format)

/-- The data operand is a tensor of this adapter's side, unless it is empty (R49), whose segments fit in a message (R50,
R51, R89). (Log 16: DEDUCED.) -/
def dataArgOk (o : Op) (data : TDesc) (one : Bool) : Bool :=
  data.checks false && (data.isEmpty || data.space != 8) && hostOk [data] && (one || segsOk data o.group)
    && decide (data.denseBytes (o.part 0).1 (o.part 0).2 ≤ 2 ^ 28)

/-- The group of an MPUT passes R282 at issue. An entry names the row or the column of this adapter, a line that always
contains it, and a sender need not be a member (R280). (Log 118: DEDUCED.) -/
def State.groupOk (s : State) (i : BitVec 8) (c : Word) : Bool :=
  let g := bits c 32 16
  decide (g < 4096) && bit (s.mc g).data1 0 && bits (s.mc g).data1 8 8 == i.toNat

/-- The operation of a message instruction, once its operands have been decoded: `data` is the operand that is not a
window. -/
def State.msgOp (s : State) (sl : Nat) (w : JWord) (kind : OpKind) (dst a : TDesc) (dest : Word) (win : List TDesc)
    (data : TDesc) : Op :=
  let one := kind == .send || kind == .recv
  let g := groupAll (win ++ [data])
  let o := s.newOp sl w kind dst a TDesc.zero 0 dest g 1
  { o with nseg := if one then 1 else data.segments g
           sigMode := if one && o.sigMode == 2 then 1 else o.sigMode }

/-- Issues a message instruction: its checks, then the operation. (Log 14: DEDUCED.) -/
def State.issueMsg (s : State) (sl : Nat) (w : JWord) (o : Op) (win : List TDesc) (data : TDesc) : State :=
  let i := (s.slot sl).inst
  let one := o.kind == .send || o.kind == .recv
  if !s.canOp sl then s
  else if !win.all (fun d => winArgOk d data (o.kind == .putacc)) ∨ !dataArgOk o data one then
    s.issueFault sl St.badTensor w.tag
  else if s.outside i [data] then s.issueFault sl St.accessDenied w.tag
  else if s.protected_ i [data] then (s.bump (Reg.MEM_CNT 8)).issueFault sl St.accessDenied w.tag
  else if !s.ctxOf i (o.ctxv.setWidth 20) ∨ s.sigDenied i w ∨ (o.kind = .mput ∧ !s.groupOk i o.ctxv) then
    s.issueFault sl St.accessDenied w.tag
  else s.addOp o

/-- An instruction with a window and a tensor. (Log 16: DEDUCED.) -/
def State.issueWin (s : State) (sl : Nat) (w : JWord) (kind : OpKind) : State :=
  let x := s.slot sl
  let dst := valT x w.opa
  let a := valT x w.opb
  let win := if kind = .get then a else dst
  let data := if kind = .get then dst else a
  let o := s.msgOp sl w kind dst a 0 [win] data
  (s.issueMsg sl w o [win] data).startSegs o.id

/-- PUT: remote write. -/
def execPut (sl : Fin 32) (w : JWord) (s : State) : Out :=
  .next (s.issue 0x60 sl w (fun _ => isT w.opa && isT w.opb && isS w.opc && sigEnc w true) (fun s => s.issueWin sl w .put))

/-- GET: remote read. -/
def execGet (sl : Fin 32) (w : JWord) (s : State) : Out :=
  .next (s.issue 0x61 sl w (fun _ => isT w.opa && isT w.opb && isS w.opc && sigEnc w false)
    (fun s => s.issueWin sl w .get))

/-- SEND: a message to a posted buffer. -/
def execSend (sl : Fin 32) (w : JWord) (s : State) : Out :=
  .next (s.issue 0x62 sl w (fun _ => isT w.opa && isS w.opb && isS w.opc && sigEnc w true) (fun s =>
    let x := s.slot sl
    let a := valT x w.opa
    let o := s.msgOp sl w .send TDesc.zero a (slotS x w.opb.toNat) [] a
    (s.issueMsg sl w o [] a).startSegs o.id))

/-- RECV: posts its destination as a receive buffer, or waits for room in the table (R255). (Log 17: DEDUCED.) -/
def execRecv (sl : Fin 32) (w : JWord) (s : State) : Out :=
  .next (s.issue 0x63 sl w (fun _ => isT w.opa && isS w.opc && sigEnc w false) (fun s =>
    let d := valT (s.slot sl) w.opa
    let o := s.msgOp sl w .recv d TDesc.zero 0 [] d
    let s1 := (s.issueMsg sl w o [] d).postWaiting
    if (s1.op? o.id).isSome ∧ !s1.posted.any (fun b => b.op == o.id) then s1.bump (Reg.WIN_CNT 11) else s1))

/-- MPUT: multicast write. -/
def execMput (sl : Fin 32) (w : JWord) (s : State) : Out :=
  .next (s.issue 0x64 sl w (fun _ => isT w.opa && isT w.opb && isS w.opc && sigEnc w true)
    (fun s => s.issueWin sl w .mput))

/-- PUTACC: accumulating remote write. -/
def execPutacc (sl : Fin 32) (w : JWord) (s : State) : Out :=
  .next (s.issue 0x65 sl w
    (fun _ => isT w.opa && isT w.opb && isS w.opc && sigEnc w true && decide (roundOf w < 2) && decide (redOf w < 3))
    (fun s => s.issueWin sl w .putacc))

end Sys2Proof.Machine
end

