-- ==== Sys2Proof/Machine/Flags.lean ====
section
/-!
DEFINITION. What the scalar, comparison and predicate instructions compute (R77–R79).
-/

namespace Sys2Proof.Machine

/-- The functions of the ALU opcodes on the values of b and c (R77). -/
inductive AluOp
  | add | sub | mul | and | or | xor | shl | shr | sra | minu | maxu
  deriving DecidableEq, Repr

/-- The result of an ALU opcode, modulo 2^64. -/
def alu (o : AluOp) (b c : Word) : Word :=
  match o with
  | .add => b + c
  | .sub => b - c
  | .mul => b * c
  | .and => b &&& c
  | .or => b ||| c
  | .xor => b ^^^ c
  | .shl => b <<< (c.toNat % 64)
  | .shr => b >>> (c.toNat % 64)
  | .sra => b.sshiftRight (c.toNat % 64)
  | .minu => if b.toNat ≤ c.toNat then b else c
  | .maxu => if b.toNat ≤ c.toNat then c else b

/-- The opcode of an ALU function (R77). -/
def aluCode : AluOp → BitVec 8
  | .add => 0x10
  | .sub => 0x11
  | .mul => 0x12
  | .and => 0x13
  | .or => 0x14
  | .xor => 0x15
  | .shl => 0x16
  | .shr => 0x17
  | .sra => 0x18
  | .minu => 0x19
  | .maxu => 0x1A

/-- The comparison that a condition code selects (R78); `none` for the reserved codes. -/
def cmpRel (code : Nat) (b c : Word) : Option Bool :=
  match code with
  | 0 => some (b == c)
  | 1 => some (b != c)
  | 2 => some (decide (b.toInt < c.toInt))
  | 3 => some (decide (c.toInt ≤ b.toInt))
  | 4 => some (decide (b.toNat < c.toNat))
  | 5 => some (decide (c.toNat ≤ b.toNat))
  | _ => none

/-- The predicate function that PLOG selects (R79). -/
def plogFn (fn : Nat) (b c : Bool) : Bool :=
  match fn with
  | 0 => b && c
  | 1 => b || c
  | 2 => b != c
  | _ => b && !c

end Sys2Proof.Machine
end

