-- ==== Sys2Proof/Machine/JadomScalar.lean ====
section
/-!
DEFINITION. The control-flow instructions (group 0x0), the scalar and predicate instructions (group 0x1) and the
descriptor set-up instructions (group 0x2) of the Jadom set: R75–R82.
-/

namespace Sys2Proof.Machine

/-! ## Control flow (R75, R76) -/

/-- NOP: nothing. Every opcode that R74 reserves faults; an opcode of another instruction is no NOP.
(Log 9: DESIGN CHOICE.) -/
def execNop (opcode : BitVec 8) (sl : Fin 32) (w : JWord) (s : State) : Out :=
  if opcode = 0 ∨ reservedOpcode opcode then
    .next (s.issue opcode sl w (fun _ => opcode == 0) (fun s => s.retire sl))
  else .next s

/-- END: the slot drains. -/
def execEndProg (sl : Fin 32) (w : JWord) (s : State) : Out :=
  .next (s.issue 0x01 sl w (fun _ => true)
    (fun s => (s.retire sl).updSlot sl (fun x => { x with phase := .draining })))

/-- The target of a jump. -/
def jumpTarget (w : JWord) : Nat := bits w.imm 0 14

/-- The target lies in the image (R44, R75). -/
def targetOk (w : JWord) (x : Slot) : Bool := decide (jumpTarget w < x.imemLen)

/-- JMP. -/
def execJmp (sl : Fin 32) (w : JWord) (s : State) : Out :=
  .next (s.issue 0x02 sl w (targetOk w) (fun s => s.retireTo sl (jumpTarget w)))

/-- What LOOP leaves in s[a]: one less, and 0 for 0. -/
def loopCount (x : Slot) (w : JWord) : Word :=
  if slotS x w.opa.toNat = 0 then 0 else slotS x w.opa.toNat - 1

/-- LOOP: counts s[a] down to zero and jumps while it is not zero. -/
def execLoop (sl : Fin 32) (w : JWord) (s : State) : Out :=
  .next (s.issue 0x03 sl w (fun x => isS w.opa && w.opa != 0 && targetOk w x) (fun s =>
    let n := loopCount (s.slot sl) w
    let s1 := s.updSlot sl (fun x => setSlotS x w.opa.toNat n)
    if n = 0 then s1.retire sl else s1.retireTo sl (jumpTarget w)))

/-! ## ALU (R77) -/

/-- The second source: imm with flags[12], value(c) otherwise. -/
def aluC (x : Slot) (w : JWord) : Word := if flagOf w 12 then w.imm else valX x w.opc

/-- The effect of an ALU opcode on its slot. -/
def Slot.alu (x : Slot) (o : AluOp) (w : JWord) : Slot :=
  setSlotS x w.opa.toNat (Sys2Proof.Machine.alu o (valX x w.opb) (aluC x w))

/-- The operand kinds of an ALU opcode; with flags[12] the field c is ignored. -/
def aluEnc (w : JWord) (_ : Slot) : Bool := isS w.opa && isX w.opb && (flagOf w 12 || isX w.opc)

/-- An ALU instruction. -/
def State.aluInstr (s : State) (o : AluOp) (sl : Fin 32) (w : JWord) : State :=
  s.issueReg (aluCode o) sl w (aluEnc w) (fun x => x.alu o w)

/-- ADD. -/
def execAdd (sl : Fin 32) (w : JWord) (s : State) : Out := .next (s.aluInstr .add sl w)

/-- SUB. -/
def execSub (sl : Fin 32) (w : JWord) (s : State) : Out := .next (s.aluInstr .sub sl w)

/-- MUL. -/
def execMul (sl : Fin 32) (w : JWord) (s : State) : Out := .next (s.aluInstr .mul sl w)

/-- AND. -/
def execAnd (sl : Fin 32) (w : JWord) (s : State) : Out := .next (s.aluInstr .and sl w)

/-- OR. -/
def execOr (sl : Fin 32) (w : JWord) (s : State) : Out := .next (s.aluInstr .or sl w)

/-- XOR. -/
def execXor (sl : Fin 32) (w : JWord) (s : State) : Out := .next (s.aluInstr .xor sl w)

/-- SHL. -/
def execShl (sl : Fin 32) (w : JWord) (s : State) : Out := .next (s.aluInstr .shl sl w)

/-- SHR. -/
def execShr (sl : Fin 32) (w : JWord) (s : State) : Out := .next (s.aluInstr .shr sl w)

/-- SRA. -/
def execSra (sl : Fin 32) (w : JWord) (s : State) : Out := .next (s.aluInstr .sra sl w)

/-- MINU. -/
def execMinu (sl : Fin 32) (w : JWord) (s : State) : Out := .next (s.aluInstr .minu sl w)

/-- MAXU. -/
def execMaxu (sl : Fin 32) (w : JWord) (s : State) : Out := .next (s.aluInstr .maxu sl w)

/-- LI: s[a] = imm. -/
def execLi (sl : Fin 32) (w : JWord) (s : State) : Out :=
  .next (s.issueReg 0x1B sl w (fun _ => isS w.opa) (fun x => setSlotS x w.opa.toNat w.imm))

/-! ## Predicates (R78, R79) -/

/-- The effect of CMP on its slot. -/
def Slot.cmp (x : Slot) (w : JWord) : Slot :=
  match cmpRel (bits w.imm 0 3) (valX x w.opb) (valX x w.opc) with
  | some b => setSlotP x (w.opa.toNat - 0x30) b
  | none => x

/-- CMP. -/
def execCmp (sl : Fin 32) (w : JWord) (s : State) : Out :=
  .next (s.issueReg 0x1C sl w
    (fun _ => isP w.opa && isX w.opb && isX w.opc && decide (bits w.imm 0 3 < 6)) (fun x => x.cmp w))

/-- The effect of PLOG on its slot. -/
def Slot.plog (x : Slot) (w : JWord) : Slot :=
  setSlotP x (w.opa.toNat - 0x30) (plogFn (bits w.imm 0 2) (valP x w.opb) (valP x w.opc))

/-- PLOG. -/
def execPlog (sl : Fin 32) (w : JWord) (s : State) : Out :=
  .next (s.issueReg 0x1D sl w (fun _ => isP w.opa && isP w.opb && isP w.opc) (fun x => x.plog w))

/-- What GETS reads in slot `sl`, whose registers are those of `x` (R80). -/
def State.getsValue (s : State) (sl : Nat) (x : Slot) (sel : Nat) : Word :=
  match sel with
  | 0 => BitVec.ofNat 64 s.me.toNat
  | 1 => BitVec.ofNat 64 sl
  | 2 => BitVec.ofNat 64 x.inst.toNat
  | 3 => BitVec.ofNat 64 x.layer.toNat
  | 4 => BitVec.ofNat 64 x.oper.toNat
  | _ => s.now

/-- GETS. -/
def execGets (sl : Fin 32) (w : JWord) (s : State) : Out :=
  .next (s.issueReg 0x1E sl w (fun _ => isS w.opa && decide (bits w.imm 0 4 < 6))
    (fun x => setSlotS x w.opa.toNat (s.getsValue sl x (bits w.imm 0 4))))

/-! ## Tensor descriptors (R81, R82) -/

/-- A base with the byte offset of a window reference replaced; for the other spaces the whole base (R82). The offset
of a reference is in units of 256 bytes at [19:0] (R235, R236). -/
def TDesc.withOffset (d : TDesc) (v : Word) : TDesc :=
  if d.space = 8 then { d with base := putBits d.base 0 20 (bits v 8 20) } else { d with base := v }

/-- The present base, or the byte offset of a window reference (R82). -/
def TDesc.offset (d : TDesc) : Word :=
  if d.space = 8 then BitVec.ofNat 64 (bits d.base 0 20 * 256) else d.base

/-- The effect of TCOPY on its slot. -/
def Slot.tcopy (x : Slot) (w : JWord) : Slot :=
  setT x w.opa (valT x w.opb)

/-- TCOPY. -/
def execTcopy (sl : Fin 32) (w : JWord) (s : State) : Out :=
  .next (s.issueReg 0x20 sl w (fun _ => isT w.opa && isT w.opb) (fun x => x.tcopy w))

/-- The effect of TBASE on its slot. -/
def Slot.tbase (x : Slot) (w : JWord) : Slot :=
  setT x w.opa ((valT x w.opa).withOffset (valX x w.opb + w.imm))

/-- TBASE. -/
def execTbase (sl : Fin 32) (w : JWord) (s : State) : Out :=
  .next (s.issueReg 0x21 sl w (fun _ => isT w.opa && isX w.opb)
    (fun x => x.tbase w))

/-- The effect of TADD on its slot. -/
def Slot.tadd (x : Slot) (w : JWord) : Slot :=
  setT x w.opa ((valT x w.opa).withOffset ((valT x w.opa).offset + valX x w.opb * w.imm))

/-- TADD. -/
def execTadd (sl : Fin 32) (w : JWord) (s : State) : Out :=
  .next (s.issueReg 0x22 sl w (fun _ => isT w.opa && isX w.opb)
    (fun x => x.tadd w))

/-- A descriptor with extent `k` replaced. -/
def TDesc.setExtent (d : TDesc) (k : Nat) (v : BitVec 32) : TDesc :=
  match k with
  | 0 => { d with e0 := v }
  | 1 => { d with e1 := v }
  | 2 => { d with e2 := v }
  | 3 => { d with e3 := v }
  | 4 => { d with e4 := v }
  | _ => d

/-- A descriptor with stride `k` replaced. -/
def TDesc.setStride (d : TDesc) (k : Nat) (v : Word) : TDesc :=
  match k with
  | 1 => { d with s1 := v }
  | 2 => { d with s2 := v }
  | 3 => { d with s3 := v }
  | 4 => { d with s4 := v }
  | _ => d

/-- The effect of TEXT on its slot. -/
def Slot.text (x : Slot) (w : JWord) : Slot :=
  setT x w.opa ((valT x w.opa).setExtent (bits w.imm 0 3) ((valX x w.opb).setWidth 32))

/-- TEXT. -/
def execText (sl : Fin 32) (w : JWord) (s : State) : Out :=
  .next (s.issueReg 0x23 sl w (fun _ => isT w.opa && isX w.opb && decide (bits w.imm 0 3 < 5))
    (fun x => x.text w))

/-- The effect of TSTR on its slot. -/
def Slot.tstr (x : Slot) (w : JWord) : Slot :=
  setT x w.opa ((valT x w.opa).setStride (bits w.imm 0 3) (valX x w.opb))

/-- TSTR. -/
def execTstr (sl : Fin 32) (w : JWord) (s : State) : Out :=
  .next (s.issueReg 0x24 sl w
    (fun _ => isT w.opa && isX w.opb && decide (1 ≤ bits w.imm 0 3) && decide (bits w.imm 0 3 < 5))
    (fun x => x.tstr w))

/-- The effect of TATTR on its slot. -/
def Slot.tattr (x : Slot) (w : JWord) : Slot :=
  setT x w.opa { valT x w.opa with attr := w.imm.setWidth 32 }

/-- TATTR. -/
def execTattr (sl : Fin 32) (w : JWord) (s : State) : Out :=
  .next (s.issueReg 0x25 sl w (fun _ => isT w.opa)
    (fun x => x.tattr w))

end Sys2Proof.Machine
end

