-- ==== Sys2Proof/Machine/JadomSync.lean ====
section
/-!
DEFINITION. The semaphore instructions (group 0x7: R94, R95, R165, R170–R173, R178, R183, R185) and the fence, waits and
marks (group 0x8: R96–R100, R174).
-/

namespace Sys2Proof.Machine

/-! ## Group 0x7 -/

/-- The reference of a semaphore instruction (R94). -/
def semRef (x : Slot) (w : JWord) : Word := if flagOf w 12 then slotS x (w.opc.toNat % 32) else w.imm

/-- The field c of a semaphore instruction or a WAIT: a scalar register when flags[12] is 1, otherwise ignored. -/
def refEnc (w : JWord) : Bool := !flagOf w 12 || isS w.opc

/-- The semaphore operation of a code: 1 add, 2 subtract, 3 set (R207). -/
def actOf (code : Nat) (v : Word) : SemAct := if code = 1 then .add v else if code = 2 then .sub v else .set v

/-- A semaphore operation of a program on this adapter's memory: applied at once, or held with its slot while its page is
being zeroed. -/
def State.semLocal (s : State) (sl : Nat) (id : BitVec 16) (a : SemAct) (tag : BitVec 24) : State :=
  if s.semZeroing id then (s.holdSem id a (.slot sl)).updSlot sl (fun x => { x with wait := some .signal })
  else
    let r := s.semApply id a
    if r.2.1 then s.issueFault sl St.uncorrectable tag else r.2.2.retire sl

/-- The operation of a semaphore instruction with the remote bit: it raises no signal of its own. -/
def State.semOp (s : State) (sl : Nat) (w : JWord) (code : Nat) (id : BitVec 16) (v : Word) : Op :=
  { s.newOp sl w (.semOp code) TDesc.zero TDesc.zero TDesc.zero v 0 1 0 with sigMode := 0, sigWhere := 0, semId := id }

/-- A remote reference that names this adapter: applied here, and still an operation (R94). (Log 26: DEDUCED.) -/
def State.semSelf (s : State) (sl : Nat) (w : JWord) (code : Nat) (id : BitVec 16) (v : Word) : State :=
  let o := s.semOp sl w code id v
  let s1 := s.addOp o
  if s.semZeroing id then s1.holdSem id (actOf code v) (.op o.id)
  else
    let r := s1.semApply id (actOf code v)
    r.2.2.updOp o.id (fun o => { (if r.2.1 then o.failed St.uncorrectable else o) with done := true })

/-- A semaphore operation at another adapter (R178, R179). -/
def State.semFar (s : State) (sl : Nat) (w : JWord) (code : Nat) (id : BitVec 16) (dst : AdapterId) (v : Word) : State :=
  let o := s.semOp sl w code id v
  let c := s.sigCtx o.inst
  (s.addOp o).txAsk (.semOp o.id code id v) sl o.inst c dst c (if o.urgent then 7 else o.tc) o.urgent [] []

/-- An operation of the slot on this adapter's memory, made by a remote reference, is held while its page is being zeroed: a
later one of the slot does not overtake it (R58). -/
def State.semBehind (s : State) (sl : Nat) : Bool :=
  s.semHeld.any (fun h => match h.src with
    | .op id => s.ops.any (fun o => o.id == id && o.sl == sl)
    | _ => false)

/-- SADD, SSUB and SSET with reference `ref` and value `v`. -/
def State.semInstr (s : State) (sl : Nat) (w : JWord) (code : Nat) (ref v : Word) : State :=
  let i := (s.slot sl).inst
  let id := BitVec.ofNat 16 (bits ref 0 16)
  let dst : AdapterId := BitVec.ofNat 16 (bits ref 16 16)
  let here := !bit ref 32 || dst == s.me
  if bit ref 32 && !s.canOp sl then s
  else if here && s.semBehind sl then s
  else if here then
    if s.isBar id ∧ code ≠ 1 then s.issueFault sl St.illegalInstruction w.tag
    else if !s.semProg i id then s.issueFault sl St.accessDenied w.tag
    else if bit ref 32 then s.semSelf sl w code id v
    else s.semLocal sl id (actOf code v) w.tag
  else if !s.sigCtxOk i then s.issueFault sl St.accessDenied w.tag
  else s.semFar sl w code id dst v

/-- A semaphore instruction that writes. -/
def State.issueSem (s : State) (op : BitVec 8) (sl : Nat) (w : JWord) (code : Nat) : State :=
  s.issue op sl w (fun _ => isX w.opb && refEnc w)
    (fun s => s.semInstr sl w code (semRef (s.slot sl) w) (valX (s.slot sl) w.opb))

/-- SADD. -/
def execSadd (sl : Fin 32) (w : JWord) (s : State) : Out := .next (s.issueSem 0x70 sl w 1)

/-- SSUB. -/
def execSsub (sl : Fin 32) (w : JWord) (s : State) : Out := .next (s.issueSem 0x71 sl w 2)

/-- SSET. -/
def execSset (sl : Fin 32) (w : JWord) (s : State) : Out := .next (s.issueSem 0x72 sl w 3)

/-- The effect of an SREAD whose value has been read. -/
def State.sreadGo (s : State) (sl reg : Nat) (v : Word) : State :=
  (s.updSlot sl (fun x => setSlotS x reg v)).retire sl

/-- SREAD with reference `ref`. (Log 13: DEDUCED.) -/
def State.semRead (s : State) (sl : Nat) (w : JWord) (ref : Word) : State :=
  let id := BitVec.ofNat 16 (bits ref 0 16)
  if bit ref 32 then s.issueFault sl St.illegalInstruction w.tag
  else if s.semBehind sl then s
  else if !s.semProg (s.slot sl).inst id then s.issueFault sl St.accessDenied w.tag
  else if s.semZeroing id then
    (s.holdSem id .read (.slot sl)).updSlot sl (fun x => { x with wait := some (.sread w.opa.toNat) })
  else
    let r := s.semApply id .read
    if r.2.1 then s.issueFault sl St.uncorrectable w.tag else r.2.2.sreadGo sl w.opa.toNat r.1

/-- SREAD: a remote bit in the immediate is refused whatever the predicate (R44, R95). (Log 13: DEDUCED.) -/
def execSread (sl : Fin 32) (w : JWord) (s : State) : Out :=
  .next (s.issue 0x73 sl w (fun _ => isS w.opa && refEnc w && (flagOf w 12 || !bit w.imm 32))
    (fun s => s.semRead sl w (semRef (s.slot sl) w)))

/-! ## Group 0x8 -/

/-- FENCE: retires once its scope is met. -/
def execFence (sl : Fin 32) (w : JWord) (s : State) : Out :=
  .next (s.issue 0x80 sl w (fun _ => true) (fun s =>
    let sc : BitVec 3 := w.flags.setWidth 3
    if s.fenceOk sl sc then s.retire sl else s.updSlot sl (fun x => { x with wait := some (.fence sc) })))

/-- The timeout of a WAIT in units of 16 µs (R97, R175). -/
def State.waitUnits (s : State) (w : JWord) : Nat :=
  if bits w.imm 48 16 = 0 then s.fld Reg.SEM_CTRL 0 16 else bits w.imm 48 16

/-- WAIT on semaphore `id` with threshold `thr`: satisfied at once, or registered; while the page is being zeroed its first
comparison is held. -/
def State.waitGo (s : State) (sl : Nat) (w : JWord) (id : BitVec 16) (thr : Word) : State :=
  if !s.semProg (s.slot sl).inst id then s.issueFault sl St.accessDenied w.tag
  else if thr = 0 then s.retire sl
  else
    let s1 := s.updSlot sl (fun x => { x with wait := some (.sem id thr s.ps (s.waitUnits w) w.tag s.ck) })
    if s.semZeroing id then s1.holdSem id .wait (.slot sl)
    else if !s.semPoisoned id && decide (thr.toNat ≤ (s.semValue id).toNat) then s.retire sl
    else s1

/-- WAIT. -/
def execWait (sl : Fin 32) (w : JWord) (s : State) : Out :=
  .next (s.issue 0x81 sl w (fun _ => isX w.opb && refEnc w) (fun s =>
    s.waitGo sl w (BitVec.ofNat 16 (bits (semRef (s.slot sl) w) 0 16)) (valX (s.slot sl) w.opb)))

/-- TWAIT: until Meridian time is at least its target; one already passed counts as late. (Log 18: DEDUCED.) -/
def execTwait (sl : Fin 32) (w : JWord) (s : State) : Out :=
  .next (s.issue 0x82 sl w (fun _ => isX w.opb) (fun s =>
    let v := valX (s.slot sl) w.opb
    if v.toNat ≤ s.nowNs then (s.bump (Reg.DBG_CNT (sl / 4) 3)).retire sl
    else s.updSlot sl (fun x => { x with wait := some (.until_ v) })))

/-- The operation that a tile wait names: the one of the slot with the tag that issued last (R47, R99). -/
def State.tagged (s : State) (sl : Nat) (tag : BitVec 24) : Option Op :=
  (s.ops.filter (fun o => o.sl = sl ∧ o.tag = tag)).getLast?

/-- TILEWAIT. -/
def execTilewait (sl : Fin 32) (w : JWord) (s : State) : Out :=
  .next (s.issue 0x83 sl w (fun _ => isX w.opb) (fun s =>
    let n := valX (s.slot sl) w.opb
    match s.tagged sl (BitVec.ofNat 24 (bits w.imm 0 24)) with
    | none => s.retire sl
    | some o => if s.tileOk o.id n then s.retire sl else s.updSlot sl (fun x => { x with wait := some (.tile o.id n) })))

/-- A slot with its marks changed. -/
def Slot.mark (x : Slot) (w : JWord) : Slot :=
  { x with layer := if flagOf w 12 then BitVec.ofNat 32 (bits w.imm 0 32) else x.layer
           oper := if flagOf w 13 then BitVec.ofNat 32 (bits w.imm 32 32) else x.oper }

/-- The MARK record of Comet (R451 kind 5), with the marks that the slot now has. -/
def State.traceMark (s : State) (sl : Nat) : State :=
  if s.tracing then
    s.stage { src := 15, w0 := BitVec.ofNat 64 (5 + 15 * 16 + sl % 32 * 2 ^ 8), w1 := s.now,
              w2 := BitVec.ofNat 64 ((s.slot sl).layer.toNat + (s.slot sl).oper.toNat * 2 ^ 32), w3 := 0 }
  else s

/-- MARK. -/
def execMark (sl : Fin 32) (w : JWord) (s : State) : Out :=
  .next (s.issue 0x84 sl w (fun _ => true) (fun s => ((s.updSlot sl (·.mark w)).traceMark sl).retire sl))

end Sys2Proof.Machine
end

