-- ==== Sys2Proof/Machine/Lookahead.lean ====
section
/-!
DEFINITION. The Lookahead engines: the entries of the issue queue (R38), the stop on a register whose value is still to come
from the execute side (R39), and the translations that are requested ahead of waits and fences (R40).
-/

namespace Sys2Proof.Machine

/-! ## The issue queue (R38) -/

/-- Entries of the issue queue that a slot holds: those decoded ahead, and the instruction that waits at the execute
point. (Log 67: DESIGN CHOICE.) -/
def Slot.entries (x : Slot) : Nat := max x.ahead.length (b2n x.wait.isSome)

/-- Entries of the shared part that a slot holds, beyond the eight reserved to it. -/
def Slot.shared (x : Slot) : Nat := x.entries - 8

/-- The most entries that slot `sl` may hold: its eight, and what the other slots of its cluster leave of the 32 shared ones;
so never more than 40. -/
def State.queueRoom (s : State) (sl : Nat) : Nat :=
  let others := (List.range 4).filter (fun m => m != sl % 4)
  8 + (32 - (others.map (fun m => (s.slot (sl / 4 * 4 + m)).shared)).foldl (· + ·) 0)

/-- Entries in use in a cluster. -/
def State.queueUsed (s : State) (c : Nat) : Nat :=
  ((List.range 4).map (fun m => (s.slot (4 * c + m)).entries)).foldl (· + ·) 0

/-! ## What the Lookahead engine executes (R37) -/

/-- The scalar registers that an instruction reads. -/
def lookReads (op : BitVec 8) (w : JWord) : List Nat :=
  let o := op.toNat
  let seed : List (BitVec 8) := if roundOf w = 2 then [31] else []
  let ref := if flagOf w 12 then [w.opc] else []
  let fs : List (BitVec 8) :=
    if o = 0x03 then [w.opa]
    else if 0x10 ≤ o ∧ o ≤ 0x1A then (if flagOf w 12 then [w.opb] else [w.opb, w.opc])
    else if o = 0x1C then [w.opb, w.opc]
    else if 0x21 ≤ o ∧ o ≤ 0x24 then [w.opb]
    else if o = 0x31 ∨ o = 0x40 ∨ o = 0x50 then seed
    else if o = 0x32 then [w.opb]
    else if o = 0x41 then w.opc :: seed
    else if o = 0x62 then [w.opb, w.opc]
    else if 0x60 ≤ o ∧ o ≤ 0x65 then [w.opc]
    else if (0x70 ≤ o ∧ o ≤ 0x72) ∨ o = 0x81 then w.opb :: ref
    else if o = 0x73 then ref
    else if o = 0x82 ∨ o = 0x83 then [w.opb]
    else []
  (fs.filter (fun f => isS f && f != 0)).map (·.toNat)

/-- The registers whose values are still to come from the execute side, after an instruction: SREAD and GETS of Meridian time
add theirs, an instruction of the Lookahead engine gives its own a value. -/
def lateAfter (op : BitVec 8) (w : JWord) (late : List Nat) : List Nat :=
  let o := op.toNat
  let a := w.opa.toNat
  if o = 0x73 ∨ (o = 0x1E ∧ bits w.imm 0 4 = 5) then a :: late
  else if o = 0x03 ∨ (0x10 ≤ o ∧ o ≤ 0x1B) ∨ o = 0x1E then late.filter (· ≠ a)
  else late

/-- The ALU function of an opcode. -/
def aluOf (o : Nat) : Option AluOp :=
  [AluOp.add, .sub, .mul, .and, .or, .xor, .shl, .shr, .sra, .minu, .maxu][o - 0x10]?

/-- The registers of a slot after the Lookahead engine has passed an instruction that executes. -/
def State.lookRegs (s : State) (sl : Nat) (x : Slot) (op : BitVec 8) (w : JWord) : Slot :=
  let o := op.toNat
  if 0x10 ≤ o ∧ o ≤ 0x1A then (match aluOf o with | some f => x.alu f w | none => x)
  else match o with
    | 0x03 => setSlotS x w.opa.toNat (loopCount x w)
    | 0x1B => setSlotS x w.opa.toNat w.imm
    | 0x1C => x.cmp w
    | 0x1D => x.plog w
    | 0x1E => setSlotS x w.opa.toNat (s.getsValue sl x (bits w.imm 0 4))
    | 0x20 => x.tcopy w
    | 0x21 => x.tbase w
    | 0x22 => x.tadd w
    | 0x23 => x.text w
    | 0x24 => x.tstr w
    | 0x25 => x.tattr w
    | 0x84 => x.mark w
    | _ => x

/-- Where the Lookahead engine goes on after an instruction that executes; branches are resolved (R39). -/
def lookPc (x : Slot) (op : BitVec 8) (w : JWord) : Nat :=
  if op = 0x02 then jumpTarget w
  else if op = 0x03 then (if loopCount x w = 0 then x.pc + 1 else jumpTarget w)
  else x.pc + 1

/-- The Lookahead engine decodes up to `n` instructions of a slot from the registers `x`: each with the registers that it
finds, unless its predicate is false; and whether the engine stops on a register that is late. It goes no further than
END or the end of the image. -/
def State.lookGo (s : State) (sl : Nat) : Nat → Slot → List Nat → List (Option (BitVec 8 × JWord × Slot)) × Bool
  | 0, _, _ => ([], false)
  | n + 1, x, late =>
    match if x.pc < x.imemLen then s.imemAt sl x.pc else none with
    | none => ([], false)
    | some v =>
      let op := (wordFields v).1
      let w := (wordFields v).2
      if !predHolds x w then
        let r := State.lookGo s sl n { x with pc := x.pc + 1 } late
        (none :: r.1, r.2)
      else if (lookReads op w).any (fun k => late.contains k) then ([], true)
      else if op = 0x01 then ([some (op, w, x)], false)
      else
        let r := State.lookGo s sl n { s.lookRegs sl x op w with pc := lookPc x op w } (lateAfter op w late)
        (some (op, w, x) :: r.1, r.2)

/-! ## Prefetched translations (R40) -/

/-- The operation that a decoded instruction of groups 0x3 to 0x6 would issue with the registers `x`. -/
def State.lookOp (s : State) (sl : Nat) (op : BitVec 8) (w : JWord) (x : Slot) : Option Op :=
  let kind : Option OpKind := match op.toNat with
    | 0x30 => some .copy | 0x31 => some .convert | 0x32 => some .fill | 0x40 => some .red | 0x41 => some .scale
    | 0x50 => some .quant | 0x60 => some .put | 0x61 => some .get | 0x62 => some .send | 0x64 => some .mput
    | 0x65 => some .putacc | _ => none
  kind.bind (fun k =>
    let d := if k = .send then TDesc.zero else valT x w.opa
    let a := if k = .send then valT x w.opa else if k = .fill then TDesc.zero else valT x w.opb
    let b := if k = .red ∨ (k = .quant ∧ !residOffOf w) then valT x w.opc else TDesc.zero
    let ds := [d, a, b].filter (fun t => t != TDesc.zero)
    let o := (s.setSlot sl x).newOp sl w k d a b 0 0 (groupAll ds) 1
    if ds.all (fun t => t.checks true) then
      some { o with nseg := if k = .send then 1 else o.segSrc.segments (groupAll ds) } else none)

/-- Requests the translations of the segments that an instruction would start with, at most four (R52). A translation that
faults has no effect. (Log 10: DESIGN CHOICE.) -/
def State.prefetch (s : State) (sl : Nat) (e : Option (BitVec 8 × JWord × Slot)) : State :=
  match e.bind (fun e => s.lookOp sl e.1 e.2.1 e.2.2) with
  | none => s
  | some o =>
    (((List.range (min 4 o.nseg)).flatMap (s.segKeys o)).filter (fun k => s.canTranslate k.1.port o.inst)).foldl
      (fun t k => (t.lookupCount k.1 k.2).2) s

/-! ## The engine at work -/

/-- The Lookahead engine of a running slot goes on. How far it gets between two instants is left open, within the room that
the issue queue leaves. Each stop on a late register counts once. (Log 10: DESIGN CHOICE.) -/
def State.lookSlot (s : State) (sl : Nat) : State :=
  let x := s.slot sl
  if x.phase ≠ .running ∨ x.halted then s
  else
    let f := s.takeFree
    let r := f.2.lookGo sl (min (f.1.toNat % 41) (s.queueRoom sl)) x []
    let s1 := (r.1.drop x.ahead.length).foldl (fun t e => t.prefetch sl e) f.2
    let s2 := s1.updSlot sl (fun y => { y with
      ahead := y.ahead ++ List.replicate (r.1.length - y.ahead.length) s.ck, stalled := r.2 })
    if r.2 && !x.stalled then s2.bump (Reg.DBG_CNT (sl / 4) 2) else s2

/-- The Lookahead engines of all slots. -/
def State.look (s : State) : State :=
  if s.alive && s.watching then (s.slots.map (·.1)).foldl State.lookSlot s else s

end Sys2Proof.Machine
end

