-- ==== Sys2Proof/Machine/RingOps.lean ====
section
/-!
DEFINITION. The shared operations on rings: their configuration (R285, R309), counts (R286), the finish of a descriptor
(R290) and the class-6 records (R300, R306).
-/

namespace Sys2Proof.Machine

/-! ## Fields -/

/-- A ring. -/
def State.ring (s : State) (r : Nat) : Ring := tget Ring.init s.rings r

/-- Sets a ring. -/
def State.setRing (s : State) (r : Nat) (x : Ring) : State := { s with rings := tset Ring.init s.rings r x }

/-- Changes a ring. -/
def State.updRing (s : State) (r : Nat) (f : Ring → Ring) : State := s.setRing r (f (s.ring r))

/-- log2 of the number of descriptors. -/
def Ring.log2 (g : Ring) : Nat := bits g.cfg1 0 5

/-- Traffic class. -/
def Ring.tc (g : Ring) : Nat := bits g.cfg1 5 3

/-- Space of the ring and of its head record. -/
def Ring.space (g : Ring) : Nat := bits g.cfg1 8 4

/-- Weight. -/
def Ring.weight (g : Ring) : Nat := bits g.cfg1 12 8

/-- Burst. -/
def Ring.burst (g : Ring) : Nat := bits g.cfg1 20 7

/-- Enabled. -/
def Ring.enable (g : Ring) : Bool := bit g.cfg1 27

/-- Owning instance. -/
def Ring.inst (g : Ring) : BitVec 8 := BitVec.ofNat 8 (bits g.cfg1 28 8)

/-- Address of descriptor `j` (R285). -/
def Ring.descVa (g : Ring) (j : BitVec 32) : Word := g.cfg0 + BitVec.ofNat 64 (64 * (j.toNat % 2 ^ g.log2))

/-- The port of the ring's memory. -/
def Ring.port (g : Ring) : Port := portOf g.space

/-- The function of H that the ring's instance uses: the PF for I0, otherwise its VF (R322). -/
def Ring.fn (g : Ring) : BitVec 8 := g.inst

/-! ## Faults -/

/-- A class-6 record of a ring, for descriptor `idx` with word 0 as read. -/
def State.ringFault (s : State) (r : Nat) (st : Status) (idx : BitVec 32) (w0 : Word) : State :=
  s.record { faultRec s.now st 6 (s.ring r).inst with
    ring := some r
    w4 := idx.setWidth 64
    w5 := w0 }

/-- A failed access to ring memory puts the ring in ERROR (R300). (Log 63: DEDUCED.) -/
def State.ringError (s : State) (r : Nat) (st : Status) (idx : BitVec 32) (w0 : Word) : State :=
  if (s.ring r).phase = .error then s
  else (s.updRing r (fun g => { g with phase := .error, lastSt := st, want := 0, backoff := none })).ringFault r st idx w0

/-! ## Descriptors -/

/-- The descriptor has finished. -/
def RDesc.over (d : RDesc) : Bool :=
  match d.phase with
  | .finished _ => true
  | .published _ => true
  | _ => false

/-- A descriptor between fetch and head. -/
def Ring.desc? (g : Ring) (idx : BitVec 32) : Option RDesc := g.descs.find? (fun d => d.idx = idx)

/-- Sets the progress of a descriptor. -/
def State.setDesc (s : State) (r : Nat) (idx : BitVec 32) (p : DPhase) : State :=
  s.updRing r (fun g => { g with descs := g.descs.map (fun d => if d.idx = idx then { d with phase := p } else d) })

/-- A descriptor finishes with a status (R290); BAD_DESCRIPTOR and BAD_IMAGE are recorded (R306). -/
def State.finishDesc (s : State) (r : Nat) (idx : BitVec 32) (st : Status) : State :=
  match (s.ring r).desc? idx with
  | none => s
  | some d =>
    if d.over then s
    else
      let s1 := (s.setDesc r idx (.finished st)).updRing r (fun g =>
        { g with lastSt := if st = 0 then g.lastSt else st })
      let s2 := if st = St.aborted then s1.bump (Reg.RING_CNT 5) else s1
      if st = St.badDescriptor ∨ st = St.badImage then s2.ringFault r st idx d.d.w0 else s2

/-! ## Interrupts (R301) -/

/-- Raises a ring's vector under its holdoff. -/
def State.ringIrq (s : State) (r : Nat) : State :=
  let g := s.ring r
  if !bit g.cfg3 11 then s
  else
    let due := match g.irqAt with
      | none => true
      | some t => decide (t + us (bits g.cfg3 12 16) ≤ s.ps)
    if due then (s.updRing r (fun g => { g with irqAt := some s.ps, irqHeld := false })).msix g.fn (bits g.cfg3 0 11)
    else s.updRing r (fun g => { g with irqHeld := true })

end Sys2Proof.Machine
end

