-- ==== Sys2Proof/Machine/Operation.lean ====
section
/-!
DEFINITION. The events of operations and slots: segments and operations that complete (R52–R54, R63), waits that end
(R98, R175–R177), programs that complete (R63, R76), page responses, translations and invalidations (R60, R64, R65,
R322–R325), the slot's stop, the flush of images, and the end of the zeroing of a page (R185).
-/

namespace Sys2Proof.Machine

/-! ## Segments (R52, R54) -/

/-- The signal of one segment in segment mode (R54): here at once, at another adapter by a message. A poisoned semaphore
fails the operation (R173). (Log 24: DEDUCED.) -/
def State.segSignal (s : State) (o : Op) (k : Nat) : State :=
  if o.sigMode ≠ 2 then s
  else if o.sigWhere = 0 then
    let r := s.semSignal o.inst o.semId
    if r.1 then r.2.updOp o.id (·.failed St.uncorrectable) else r.2
  else if o.sigWhere = 2 then s.askSignal o k
  else s

/-- The first unsignalled segment signals if its data is complete; a failed operation signals no more.
(Log 2: DESIGN CHOICE, 24: DEDUCED.) -/
def State.segmentComplete (s : State) (op : Nat) : State :=
  match s.op? op with
  | none => s
  | some o =>
    match o.segs.find? (fun x => x.idx = o.signalled ∧ x.phase = .done) with
    | none => s
    | some x =>
      if o.status ≠ 0 then s
      else
        let s1 := s.updOp op (fun o => { o with signalled := o.signalled + 1, segs := o.segs.filter (fun y => y.id ≠ x.id) })
        let s2 := ((s1.traceOp o 1 0 x.idx).progressed o.sl).segSignal o x.idx
        let s3 := if x.idx + 1 = o.nseg then s2.lastSignal o else s2
        ((s3.startSegs op).partialNow op).settle

/-- SEGMENT_COMPLETE. -/
def execSegmentComplete (op : Nat) (s : State) : Out := if s.alive then .next (s.segmentComplete op) else .next s

/-! ## Operations (R53) -/

/-- OPERATION_COMPLETE. -/
def execOperationComplete (op : Nat) (s : State) : Out := if s.alive then .next (s.operationComplete op) else .next s

/-! ## Waits (R98, R175–R177) -/

/-- 16 µs in ps. -/
def waitTick : Nat := us 16

/-- A wait registered at `since` with a timeout of `n` units ends at the present tick of the timeout clock. -/
def State.timedOut (s : State) (since n : Nat) : Bool := decide (since + n * waitTick ≤ s.ps / waitTick * waitTick)

/-- The log of the first timeout (R177). -/
def State.logTimeout (s : State) (sl : Nat) (id : BitVec 16) (thr : Word) (tag : BitVec 24) : State :=
  if s.flag Reg.SEM_TO_LOG0 0 then s
  else
    let w := 1 + b2n (s.semPoisoned id) * 2 + (s.slot sl).inst.toNat * 2 ^ 8 + sl % 32 * 2 ^ 16 + id.toNat * 2 ^ 24
      + tag.toNat * 2 ^ 40
    ((s.setReg Reg.SEM_TO_LOG0 (BitVec.ofNat 64 w)).setReg Reg.SEM_TO_LOG1 thr).setReg Reg.SEM_TO_LOG2 (s.semValue id)

/-- An unsatisfied wait times out; a halted slot raises no fault (R453). -/
def State.waitTimeout (s : State) (sl : Nat) : State :=
  match (s.slot sl).wait with
  | some (.sem id thr since n tag _) =>
    if !s.timedOut since n || (s.slot sl).halted then s
    else
      let r := { s.slotRec sl St.timeout 3 tag with
        w4 := BitVec.ofNat 64 (id.toNat + b2n (s.semPoisoned id) * 2 ^ 16)
        w5 := thr
        w6 := s.semValue id }
      (((s.bump Reg.SEM_CNT_TIMEOUT).logTimeout sl id thr tag).slotFault sl r).stopSlot sl
  | _ => s

/-- A time wait whose target Meridian time has reached. (Log 18: DEDUCED.) -/
def State.twaitRelease (s : State) (sl : Nat) : State :=
  match (s.slot sl).wait with
  | some (.until_ t) => if t.toNat ≤ s.nowNs then s.retire sl else s
  | _ => s

/-- TWAIT_RELEASE. -/
def execTwaitRelease (sl : Fin 32) (s : State) : Out := if s.alive then .next (s.twaitRelease sl) else .next s

/-! ## Programs (R63, R76) -/

/-- The fault registers of a slot take its most recent fault (R63, R67). -/
def Slot.faulted (x : Slot) : Slot :=
  match x.info.getLast? with
  | none => x
  | some r => { x with faultTag := r.tag, faultPc := r.index, faultSt := r.status }

/-- A slot without operations outstanding ends its program: fault registers, fault records, the launch's completion, and
the slot is free. Its other registers keep the last program's values, of which the spec says nothing.
(Log 12: DESIGN CHOICE, 119: DESIGN CHOICE.) -/
def State.programComplete (s : State) (sl : Nat) : State :=
  let x := s.slot sl
  if x.phase ≠ .draining ∨ s.slotOps sl ≠ 0 then s
  else
    let s1 := x.info.foldl State.record (s.updSlot sl Slot.faulted)
    let s2 := s1.finishDesc x.ring.toNat x.desc x.status
    (s2.updSlot sl (fun x => { x with phase := .idle, stopped := false, wait := none, halted := false, info := [] })).progressed sl

/-- PROGRAM_COMPLETE. -/
def execProgramComplete (sl : Fin 32) (s : State) : Out := if s.alive then .next (s.programComplete sl) else .next s

/-- A stop of a slot that is not idle (R61, R67). (Log 19: DEDUCED.) -/
def State.slotStop (s : State) (sl : Nat) : State :=
  let x := s.slot sl
  if x.phase = .idle ∨ x.stopped then s else (s.slotFault sl (s.slotRec sl St.aborted 7 0)).stopSlot sl

/-- The slot holds a program that has started. -/
def Slot.started (x : Slot) : Bool := x.phase == .running || x.phase == .draining

/-- Some program in a slot of the cluster uses the image. -/
def State.imageUsed (s : State) (r : Resident) : Bool :=
  allSlots.any (fun i => i / 4 == r.clu && (s.slot i).started && s.imageOf i == some r)

/-- Discards every resident image of a cluster that no slot is using (R35, R67). -/
def State.imemFlush (s : State) (clu : Nat) : State :=
  { s with images := s.images.filter (fun r => r.clu ≠ clu || s.imageUsed r) }

/-- A write of CLU_CTRL: launch_en, and imem_flush. -/
def State.cluCtrl (s : State) (clu : Nat) (v : Word) : State :=
  let s1 := s.setFld (Reg.CLU_CTRL clu) 0 1 (b2n (bit v 0))
  if bit v 1 then s1.imemFlush clu else s1

/-- IMEM_FLUSH. -/
def execImemFlush (p : Path) (clu : Fin 8) (v : Word) (s : State) : Out :=
  .next (s.mapWrite p (Reg.CLU_CTRL clu) (fun s => s.cluCtrl clu v))

/-! ## Translations (R322–R324) -/

/-- A translation that a segment waited for has come: it goes on when it waits for no other. -/
def State.segTranslated (s : State) (op g : Nat) (k : XKey) : State :=
  match (s.op? op).bind (fun o => (o.seg? g).map (fun x => (o, x))) with
  | none => s
  | some (o, x) =>
    if !x.waits.any (fun e => e.1 == k) then s
    else
      let got := x.waits.filter (fun e => e.1 == k)
      if got.any (fun e => s.lookup k e.2 != .hit) then s.pageFault op x.idx k
      else
        let y := { x with waits := x.waits.filter (fun e => e.1 != k), held := x.held ++ got }
        let s1 := s.updSeg op g (fun _ => y)
        if y.waits.isEmpty then s1.goSeg o y else s1

/-- Every segment that waits for a translation meets its answer. -/
def State.segsTranslated (s : State) (k : XKey) : State :=
  (s.ops.flatMap (fun o => o.segs.map (fun x => (o.id, x.id)))).foldl (fun s e => s.segTranslated e.1 e.2 k) s

/-- An accepted packet, or a request, whose last translation has come; a failed message places nothing more (R216). -/
def State.parkedGo (s : State) (q : Parked) : State :=
  let p := q.rx.pkt
  if p.typ = 4 then s.readGo q.rx
  else if (s.rrec? p.src p.msg).any RRec.over then s.rxWriteDone p.src p.msg (winOf p)
  else match s.targetOf p with
    | none => s.rxWriteDone p.src p.msg (winOf p)
    | some t =>
      let ks := s.targetKeys t true (p.typ == 2)
      if ks.any (fun e => s.lookup e.1 e.2 == .fault) then s.xlatFail q.rx
      else s.place q.rx q.upset ((ks.map (·.1)).eraseDups)

/-- Refuses an accepted packet, or a request, whose page is not present (R241, R481). -/
def State.parkedFail (s : State) (q : Parked) : State :=
  if q.rx.pkt.typ = 4 then (s.bump (Reg.WIN_CNT 5)).readFail q.rx St.accessDenied else s.xlatFail q.rx

/-- The packets parked for a translation meet its answer. -/
def State.parkedTranslated (s : State) (k : XKey) (ok : Bool) : State :=
  s.parked.foldl (fun s q =>
    match q.why with
    | .xlat ks =>
      if !ks.contains k then s
      else
        let rest := ks.filter (· ≠ k)
        let out : State := { s with parked := s.parked.erase q }
        if !ok then out.parkedFail q
        else if rest.isEmpty then out.parkedGo q
        else { out with parked := out.parked ++ [{ q with why := .xlat rest }] }
    | _ => s) s

/-- A ring whose outstanding read needs the page fails (R300). -/
def State.ringAbsent (s : State) (k : XKey) (r : Nat) : State :=
  let g := s.ring r
  if g.want ≠ 0 ∧ (pagesOfRun (g.descVa g.fetched, 64 * g.want)).any (fun pg => s.xkey g.inst g.port pg == k) then
    s.ringError r St.translationFault g.fetched 0
  else s

/-- A fault queue whose records lie in the page is disabled (R339). -/
def State.fqAbsent (s : State) (k : XKey) (q : Nat) : State :=
  if s.flag (Reg.RING_FQ_CTRL q) 0 ∧ k.port = .h ∧ k.fn = fqFn q
      ∧ overlaps (4096 * k.page.toNat) 4096 (s.reg (Reg.RING_FQ_BASE q)).toNat (64 * 4096) = true then
    s.setFld (Reg.RING_FQ_CTRL q) 0 1 0
  else s

/-- The accesses of rings and fault queues meet an absent page. (Log 122: DESIGN CHOICE.) -/
def State.enginesAbsent (s : State) (k : XKey) : State :=
  let t := (s.rings.map (·.1)).foldl (fun s r => s.ringAbsent k r) s
  (List.range 257).foldl (fun s q => s.fqAbsent k q) t

/-- ATS_TRANSLATION_RESPONSE: a present page is held in the cache and those that wait for it go on; an absent one is a
translation fault. -/
def State.atsAnswer (s : State) (k : XKey) (a : AtsAnswer) : State :=
  if !s.xlating.contains k then s
  else
    let s1 : State := { s with xlating := s.xlating.filter (· ≠ k) }
    match a with
    | .present n rd wr phys =>
      if n < 12 ∨ 30 < n then s
      else
        let t := s1.fillAtc ⟨k, n, rd, wr, phys⟩
        (t.segsTranslated k).parkedTranslated k true
    | .absent => ((s1.segsTranslated k).parkedTranslated k false).enginesAbsent k

/-- ATS_TRANSLATION_RESPONSE. -/
def execAtsTranslationResponse (port : Port) (fn : BitVec 8) (pasid : BitVec 20) (page : Word) (ans : AtsAnswer)
    (s : State) : Out :=
  if s.alive then .next (s.atsAnswer ⟨port, fn, pasid, page⟩ ans) else .next s

/-- A key's page lies in a byte range under a port, function and PASID. -/
def keyIn (k : XKey) (port : Port) (fn : BitVec 8) (pasid : BitVec 20) (base size : Nat) : Bool :=
  k.port == port && k.fn == fn && k.pasid == pasid && overlaps (4096 * k.page.toNat) 4096 base size

/-- A cache entry's page meets the range. -/
def Atc.inRange (e : Atc) (port : Port) (fn : BitVec 8) (pasid : BitVec 20) (base size : Nat) : Bool :=
  e.key.port == port && e.key.fn == fn && e.key.pasid == pasid
    && overlaps (e.key.page.toNat * 4096 / 2 ^ e.log2 * 2 ^ e.log2) (2 ^ e.log2) base size

/-- The handles of the segments and reads that hold translations for which `p` holds. -/
def State.usersOf (s : State) (p : XKey → Bool) : List Nat :=
  (s.ops.flatMap (fun o => (o.segs.filter (fun x => x.held.any (fun e => p e.1))).map (·.id)))
    ++ (s.reads.filter (fun r => r.keys.any p)).map (·.id)

/-- ATS_INVALIDATION: removes the matching entries; its completion waits for the accesses in progress (R60, R324). -/
def State.invalidate (s : State) (port : Port) (fn : BitVec 8) (pasid : BitVec 20) (base : Word) (size : Nat) : State :=
  let hit := fun k => keyIn k port fn pasid base.toNat size
  { (s.bump (Reg.XLT_CNT 2)) with
    fresh := s.fresh + 1
    atc := s.atc.filter (fun e => !e.inRange port fn pasid base.toNat size)
    invals := s.invals ++ [⟨s.fresh, port, fn, pasid, base.toNat, size, s.usersOf hit⟩] }

/-- The invalidate queue depth of a function (R310, R313). -/
def invalDepth : Nat := 32

/-- The function's invalidate queue has room for one more request. (Log 132: PRESUMED.) -/
def State.invalRoom (s : State) (port : Port) (fn : BitVec 8) : Bool :=
  decide ((s.invals.filter (fun v => v.port == port && v.fn == fn)).length < invalDepth)

/-- ATS_INVALIDATION. -/
def execAtsInvalidation (port : Port) (fn : BitVec 8) (pasid : BitVec 20) (base : Word) (size : Nat) (s : State) : Out :=
  if s.alive && s.invalRoom port fn then .next (s.invalidate port fn pasid base size) else .next s

/-- An access with this handle still holds translations. -/
def State.inProgress (s : State) (h : Nat) : Bool :=
  s.ops.any (fun o => o.segs.any (fun x => x.id == h && !x.held.isEmpty)) || s.reads.any (fun r => r.id == h)

/-- INVALIDATION_COMPLETE: no access that looked up an invalidated translation is in progress any more. -/
def State.invalDone (s : State) (id : Nat) : State :=
  match s.invals.find? (fun v => v.id = id) with
  | none => s
  | some v =>
    if v.users.any s.inProgress then s
    else { s with invals := s.invals.filter (fun x => x.id ≠ id) }.emit (.invDone v.port id)

/-- INVALIDATION_COMPLETE. -/
def execInvalidationComplete (id : Nat) (s : State) : Out := if s.alive then .next (s.invalDone id) else .next s

/-! ## Page responses (R64, R65, R325) -/

/-- An operation held on a page request goes on from its first unsignalled segment. -/
def State.reissue (s : State) (op : Nat) : State :=
  match s.op? op with
  | none => s
  | some o =>
    if !o.held then s
    else (s.updOp op (fun o => { o with held := false, next := o.signalled })).startSegs op

/-- An operation held on a page request ends with TRANSLATION_FAULT. -/
def State.refused (s : State) (op : Nat) : State :=
  s.updOp op (fun o => if o.held then { o.failed St.translationFault with held := false } else o)

/-- A page response to an outstanding request. -/
def State.pageResponse (s : State) (port : Port) (id : Nat) (code : PageCode) : State :=
  match s.pages.find? (fun r => r.id = id ∧ r.sent ∧ r.key.port = port) with
  | none => s
  | some r =>
    let s1 : State := { s with pages := s.pages.filter (fun x => x.id ≠ id) }
    match code with
    | .success => (s1.reissue r.op).flushPages
    | .invalid => ((s1.bump (Reg.XLT_CNT 4)).refused r.op).flushPages
    | .failure =>
      let same := fun (x : PageReq) => x.key.port == port && x.key.fn == r.key.fn
      let hit := r.op :: (s1.pages.filter same).map (·.op)
      let s2 := hit.foldl State.refused (s1.bump (Reg.XLT_CNT 4))
      { s2 with
        pages := s2.pages.filter (fun x => !same x || x.sent)
        priStop := if s2.priStop.contains (port, r.key.fn) then s2.priStop else s2.priStop ++ [(port, r.key.fn)] }.flushPages

/-- PAGE_RESPONSE. -/
def execPageResponse (port : Port) (id : Nat) (code : PageCode) (s : State) : Out :=
  if s.alive then .next (s.pageResponse port id code) else .next s

/-! ## The end of zeroing (R185) -/

/-- The page reads zero, unpoisoned; in profile 3 the barriers of page 255 start over. -/
def State.zeroPage (s : State) (p : Nat) : State :=
  let s1 : State := { s with
    zeroing := none
    sems := s.sems.filter (fun e => e.1 / 256 ≠ p)
    poison := s.poison.filter (fun e => e.1 / 64 ≠ p) }
  if s.barriers ∧ p = 255 then
    (List.range 256).foldl (fun s b => (s.setFld (Reg.SEM_BAR b) 12 12 0).setFld (Reg.SEM_BAR b) 32 32 0) s1
  else s1

/-- Applies an operation that was held. Its access was checked when it reached the memory (R166). -/
def State.applyHeld (s : State) (h : HeldSem) : State :=
  match h.src with
  | .slot sl =>
    match (s.slot sl).wait with
    | some (.sread reg) =>
      let r := s.semApply h.sem .read
      r.2.2.sreadGo sl reg r.1
    | some .signal => (s.semApply h.sem h.act).2.2.retire sl
    | some (.sem _ _ _ _ _ _) => s.semWake h.sem
    | _ => s
  | .comp _ => (s.semApply h.sem h.act).2.2
  | .cell p be =>
    match h.act with
    | .read => s.cellAnswer p h.sem be
    | a => (s.semApply h.sem a).2.2
  | .remote src m =>
    match s.rrec? src m with
    | none => (s.semApply h.sem h.act).2.2
    | some r =>
      let a := s.semApply h.sem h.act
      let st := if a.2.1 then St.uncorrectable else 0
      if r.semHeld then (a.2.2.publishAs r st).release src m s.rrecs.length
      else if st ≠ 0 then a.2.2.rxLate src m (BitVec.ofNat 16 r.last) none
      else a.2.2.rxWriteDone src m none
  | .op id => ((s.semApply h.sem h.act).2.2.updOp id (fun o => { o with done := true })).settle
  | .desc r idx => (s.semApply h.sem h.act).2.2.finishDesc r idx St.ok

/-- Applies the held operations in their order of arrival; each leaves the list as its turn comes. -/
def State.applyAll (s : State) : Nat → State
  | 0 => s
  | n + 1 =>
    match s.semHeld with
    | [] => s
    | h :: rest => State.applyAll ({ s with semHeld := rest }.applyHeld h) n

/-- PAGE_ZERO_COMPLETE: the page is zero, its waiters are compared again, and what was held is applied. -/
def State.pageZeroed (s : State) : State :=
  match s.zeroing with
  | none => s
  | some p =>
    let s1 := s.zeroPage p
    let s2 := allSlots.foldl (fun s sl => match (s.slot sl).wait with
      | some (.sem id _ _ _ _ _) => if id.toNat / 256 = p then s.semWake id else s
      | _ => s) s1
    s2.applyAll s2.semHeld.length

/-- PAGE_ZERO_COMPLETE. -/
def execPageZeroComplete (s : State) : Out := if s.alive then .next s.pageZeroed else .next s

end Sys2Proof.Machine
end

