-- ==== Sys2Proof/Machine/Windows.lean ====
section
/-!
DEFINITION. The commands on windows: open, revoke and read (R240, R242, R261).
-/

namespace Sys2Proof.Machine

/-- Commits the staged registers of a window command (R261). -/
def State.winCommit (s : State) (p : Path) : State :=
  ((s.commitV p Reg.WIN_DATA0).commitV p Reg.WIN_DATA1).commitV p Reg.WIN_DATA2

/-- The window's fields as the path has committed them, in an entry. -/
def State.winStaged (s : State) (p : Path) (x : Win) : Win :=
  let d2 := s.vreg p Reg.WIN_DATA2
  { x with data0 := s.vreg p Reg.WIN_DATA0
           data1 := s.vreg p Reg.WIN_DATA1 &&& 0x01FFFFFFFFFFFFFF#64
           data2 := putBits d2 0 8 (instFor p (bits d2 0 8)).toNat &&& 0x1FFFFFFFFFF#64 }

/-- The form of a window is one that R240 accepts. -/
def Win.formOk (x : Win) : Bool :=
  x.size != 0 && x.size % 256 == 0 && x.base.toNat % 256 == 0
    && (x.space == 0 || (decide (2 ≤ x.space) && decide (x.space ≤ 7)))
    && (x.space != 2 || decide (x.base.toNat < 2 ^ 25))
    && (!bit x.data1 54 || (fmtOf x.accFmt).isSome)

/-- The window lies in its instance's allocation; only spaces 0x0 and 0x2 have one. (Log 15: DEDUCED.) -/
def State.winFits (s : State) (x : Win) : Bool :=
  let n := (s.alloc x.inst x.space).2
  if x.space = 0 then decide (x.base.toNat + x.size ≤ n)
  else if x.space = 2 then decide (x.base.toNat % 2 ^ 23 + x.size ≤ n)
  else true

/-- The first condition of R240 that applies to opening window `w` as `x`. -/
def State.openStatus (s : State) (w : Nat) (x : Win) : Status :=
  if s.winCount ≤ w ∨ (s.win w).phase ≠ .free then St.badDescriptor
  else if !s.inRange x.inst .wins w ∨ !s.instExists x.inst ∨ (x.enc ∧ s.holder .keys x.keySlot ≠ x.inst) then
    St.accessDenied
  else if !x.formOk then St.badDescriptor
  else if !s.winFits x then St.accessDenied
  else match (s.win w).revAt with
    | some t => if s.nowNs < t.toNat + s.lifeNs then St.busy else St.ok
    | none => St.ok

/-- Opens a window. -/
def State.winOpen (s : State) (p : Path) (w : Nat) : Status × State :=
  let x := s.winStaged p (s.win w)
  let st := s.openStatus w x
  (st, if st = St.ok then s.setWin w { x with phase := .open_, flight := 0, sem := none, ring := none } else s)

/-- Revokes an OPEN window; `sem` and `ring` are what its completion raises and completes (R242, R245). -/
def State.winRevoke (s : State) (w : Nat) (sem : Option (BitVec 16)) (ring : Option (Nat × BitVec 32)) : Status × State :=
  if s.winCount ≤ w ∨ (s.win w).phase ≠ .open_ then (St.badDescriptor, s)
  else (St.ok, (s.updWin w (fun x => { x with phase := .revoking, gen := x.gen + 1, sem := sem, ring := ring })).revokeDone w)

/-- The code of a window's state. -/
def WinPhase.code : WinPhase → Nat
  | .free => 0
  | .open_ => 1
  | .revoking => 2

/-- Reads an entry into the path's data registers. -/
def State.winRead (s : State) (p : Path) (w : Nat) : Status × State :=
  let x := s.win w
  if s.winCount ≤ w then (St.badDescriptor, s)
  else
    let d2 := x.data2 ||| BitVec.ofNat 64 (x.gen.toNat * 2 ^ 48 + x.phase.code * 2 ^ 56)
    (St.ok, ((s.setVBoth p Reg.WIN_DATA0 x.data0).setVBoth p Reg.WIN_DATA1 x.data1).setVBoth p Reg.WIN_DATA2 d2)

/-- A command on the selected window, with the check of a VF's view; the result carries the generation now in force. -/
def State.winDo (s : State) (p : Path) (k : State → Nat → Status × State) : State :=
  let s0 := s.winCommit p
  let w := s0.vfld p Reg.WIN_SEL 0 20
  let r := if s0.outsideView p .wins w then (St.accessDenied, s0) else k s0 w
  (r.2.result p Reg.WIN_RESULT r.1).setFld (pathAt p Reg.WIN_RESULT) 32 8 (r.2.win w).gen.toNat

/-- A write of WIN_CMD. -/
def State.winCmd (s : State) (p : Path) (k : State → Nat → Status × State) : State :=
  s.viewWrite p Reg.WIN_CMD (fun s => s.winDo p k)

/-- WINDOW_OPEN. -/
def execWindowOpen (p : Path) (s : State) : Out := .next (s.winCmd p (fun s w => s.winOpen p w))

/-- sem_en and sem_id of WIN_CMD. -/
def revokeSem (v : Word) : Option (BitVec 16) := if bit v 3 then some (BitVec.ofNat 16 (bits v 16 16)) else none

/-- WINDOW_REVOKE_CMD: `v` gives sem_en and sem_id. -/
def execWindowRevokeCmd (p : Path) (v : Word) (s : State) : Out :=
  .next (s.winCmd p (fun s w => s.winRevoke w (revokeSem v) none))

/-- WINDOW_READ. -/
def execWindowRead (p : Path) (s : State) : Out := .next (s.winCmd p (fun s w => s.winRead p w))

end Sys2Proof.Machine
end

