-- ==== Sys2Proof/Machine/Rings.lean ====
section
/-!
DEFINITION. Rings: doorbells and fetches (R291–R294), checks (R289), dispatch (R290, R295–R297), publication (R298–R301),
the ring commands (R302, R303) and the fault queues' registers (R304, R307).
-/

namespace Sys2Proof.Machine

/-! ## Fetching (R293, R300) -/

/-- Descriptors fetched and not dispatched. -/
def Ring.undispatched (g : Ring) : Nat := (g.fetched - g.dispatched).toNat

/-- The ring may read descriptors now. -/
def State.mayFetch (s : State) (g : Ring) : Bool :=
  s.flag Reg.RING_CTRL 0 && g.enable && (g.phase == .idle || g.phase == .active) && g.want == 0 && g.backoff.isNone

/-- Descriptors between fetched and tail; none where software has put tail below fetched. -/
def Ring.work (g : Ring) : Nat := (g.tail - g.head).toNat - (g.fetched - g.head).toNat

/-- Reads up to 16 contiguous descriptors from fetched upward, up to tail, as far as 16 may be held. -/
def State.ringFetch (s : State) (r : Nat) : State :=
  let g := s.ring r
  let n := min (min (16 - g.undispatched) g.work) (2 ^ g.log2 - g.fetched.toNat % 2 ^ g.log2)
  if !s.mayFetch g ∨ n = 0 then s
  else
    let a := s.engineReach g.port g.inst (g.descVa g.fetched) (64 * n) false
    if !a.1 then a.2.ringError r St.translationFault g.fetched 0
    else (a.2.updRing r (fun g => { g with want := n })).emit (.memRead g.port g.inst (g.descVa g.fetched) (64 * n))

/-- A write of RING_CTRL: an engine that is enabled fetches for every ring (R293, R309). -/
def State.ringCtrl (s : State) (v : Word) : State :=
  let s1 := s.setFld Reg.RING_CTRL 0 1 (b2n (bit v 0))
  if bit v 0 then (s1.rings.map (·.1)).foldl State.ringFetch s1 else s1

/-! ## The checks of R289 -/

/-- Type of a descriptor. -/
def descTyp (d : Desc) : Nat := bits d.w0 0 8

/-- The owner bit: the adapter's. -/
def descOwned (d : Desc) : Bool := bit d.w0 63

/-- Space of argument `m` + 1 of a launch. -/
def descArgSpace (d : Desc) (m : Nat) : Nat := bits d.w7 (32 + 4 * m) 4

/-- Argument `m` + 1 of a launch. -/
def descArg (d : Desc) (m : Nat) : Word :=
  match m with
  | 0 => d.w3
  | 1 => d.w4
  | 2 => d.w5
  | _ => d.w6

/-- The descriptor passes the checks made on fetch. -/
def descOk (d : Desc) : Bool :=
  let plain := bits d.w0 10 6 == 0 && bits d.w0 28 4 == 0 && bits d.w0 48 15 == 0
  let noLaunch := bits d.w0 16 12 == 0
  let rest := d.w3 == 0 && d.w4 == 0 && d.w5 == 0 && d.w6 == 0
  plain && match descTyp d with
    | 0 => noLaunch && d.w1 == 0 && d.w2 == 0 && rest && d.w7 == 0
    | 1 =>
      bits d.w0 16 8 != 0 && bits d.w1 0 8 == 0 && bits d.w7 17 15 == 0 && bits d.w7 48 16 == 0
        && (List.range 4).all (fun m => !bit d.w0 (24 + m) || (decide (3 ≤ descArgSpace d m) && decide (descArgSpace d m ≤ 7)))
    | 2 => noLaunch && bits d.w1 20 44 == 0 && d.w2 == 0 && rest && bits d.w7 17 47 == 0
    | 3 => noLaunch && bits d.w1 18 46 == 0 && bits d.w1 16 2 != 0 && rest && d.w7 == 0
    | _ => false

/-! ## Acceptance (R286, R289, R294) -/

/-- Requests the translation of an address at enqueue; a failure has no effect (R294). -/
def State.preXlate (s : State) (i : BitVec 8) (space : Nat) (a : Word) : State :=
  if isExt space ∧ s.canTranslate (portOf space) i then
    (s.lookupCount (s.xkey i (portOf space) (a >>> (12 : Nat))) false).2
  else s

/-- The addresses that a launch's arg_xlt marks are translated. -/
def State.preArgs (s : State) (i : BitVec 8) (d : Desc) : State :=
  if descTyp d ≠ 1 then s
  else (List.range 4).foldl (fun s m => if bit d.w0 (24 + m) then s.preXlate i (descArgSpace d m) (descArg d m) else s) s

/-- Descriptors refused on fetch pass the dispatched count as their turn comes. (Log 62: DEDUCED.) -/
def Ring.skipBad (g : Ring) : Nat → Ring
  | 0 => g
  | n + 1 =>
    match g.desc? g.dispatched with
    | some d => if d.over then Ring.skipBad { g with dispatched := g.dispatched + 1 } n else g
    | none => g

/-- Skips them in a ring, which holds at most 16. (Log 62: DEDUCED.) -/
def State.skipRefused (s : State) (r : Nat) : State := s.updRing r (fun g => g.skipBad 16)

/-- Accepts a descriptor with owner 1; one that fails its checks finishes with BAD_DESCRIPTOR in its place.
(Log 62: DEDUCED.) -/
def State.acceptDesc (s : State) (r : Nat) (d : Desc) : State :=
  let g := s.ring r
  let s1 := s.updRing r (fun g =>
    { g with fetched := g.fetched + 1, rereads := 0, progress := s.ps, descs := g.descs ++ [⟨g.fetched, d, .fetched, s.ck⟩] })
  if descOk d then (s1.preXlate g.inst g.space (g.descVa g.fetched)).preArgs g.inst d
  else (s1.finishDesc r g.fetched St.badDescriptor).skipRefused r

/-- Cycles of the engine clock in 10^-6 ck. -/
def cks (n : Nat) : Nat := n * 1000000

/-- Accepts descriptors up to the first whose owner is 0, which is read again after 64 ck. -/
def State.acceptAll (s : State) (r : Nat) : List Desc → State
  | [] => s
  | d :: ds =>
    if descOwned d then State.acceptAll (s.acceptDesc r d) r ds
    else s.updRing r (fun g => { g with rereads := 0, backoff := some (s.ck + cks 64) })

/-- DESCRIPTOR_FETCH_RETURN: the outstanding read of a ring returns, or ends with an error. -/
def State.fetchReturn (s : State) (r : Nat) (ds : List Desc) (ok : Bool) : State :=
  let g := s.ring r
  if g.want = 0 ∨ (ok ∧ ds.length ≠ g.want) then s
  else if !ok then s.ringError r St.uncorrectable g.fetched 0
  else ((s.updRing r (fun g => { g with want := 0 })).acceptAll r ds).ringFetch r

/-- DESCRIPTOR_FETCH_RETURN. -/
def execDescriptorFetchReturn (ring : BitVec 14) (descs : List Desc) (ok : Bool) (s : State) : Out :=
  if s.alive then .next (s.fetchReturn ring.toNat descs ok) else .next s

/-- A ring stops on a descriptor whose owner stayed 0 (R293). -/
def State.ringStop (s : State) (r : Nat) : State :=
  (s.updRing r (fun g => { g with
    phase := .stopped, lastSt := St.earlyDoorbell, backoff := none, rereads := 0, stopAt := s.ps })).bump (Reg.RING_CNT 3)

/-- A backoff ends: the descriptor is read again; the eighth re-read with owner 0 stops the ring. -/
def State.reread (s : State) (r : Nat) (d : Desc) (ok : Bool) : State :=
  let g := s.ring r
  match g.backoff with
  | none => s
  | some t =>
    if s.ck < t then s
    else
      let n := g.rereads + 1
      let a := (s.bump (Reg.RING_CNT 2)).engineReach g.port g.inst (g.descVa g.fetched) 64 false
      let s1 := a.2.emit (.memRead g.port g.inst (g.descVa g.fetched) 64)
      if !a.1 then a.2.ringError r St.translationFault g.fetched 0
      else if !ok then s1.ringError r St.uncorrectable g.fetched 0
      else if descOwned d then ((s1.updRing r (fun g => { g with backoff := none })).acceptDesc r d).ringFetch r
      else if 8 ≤ n then s1.ringStop r
      else s1.updRing r (fun g => { g with rereads := n, backoff := some (s.ck + cks (64 * 2 ^ n)) })

/-- DESCRIPTOR_REREAD. -/
def execDescriptorReread (ring : BitVec 14) (d : Desc) (ok : Bool) (s : State) : Out :=
  if s.alive then .next (s.reread ring.toNat d ok) else .next s

/-- The re-poll timer of a stopped ring expires. -/
def State.repoll (s : State) (r : Nat) : State :=
  let g := s.ring r
  let n := bits g.cfg3 28 16
  if g.phase ≠ .stopped ∨ n = 0 ∨ s.ps < g.stopAt + us n then s
  else (s.updRing r (fun g => { g with phase := .idle, progress := s.ps })).ringFetch r

/-- RING_REPOLL. -/
def execRingRepoll (ring : BitVec 14) (s : State) : Out := if s.alive then .next (s.repoll ring.toNat) else .next s

/-! ## Doorbells (R291, R292) -/

/-- A doorbell write is discarded (R292). -/
def State.badDoorbell (_s : State) (p : Path) (g : Ring) (v : Word) (full : Bool) : Bool :=
  (match p with
    | .vf i => g.inst != i
    | .att q => g.space != 4 + q.val
    | _ => false)
    || !full || decide (2 ^ g.log2 < (v.setWidth 32 - g.head).toNat)

/-- A doorbell write: sets tail, and restarts a stopped ring; a ring that has work again is watched afresh (R452). -/
def State.doorbell (s : State) (p : Path) (r : Nat) (v : Word) (full : Bool) : State :=
  let g := s.ring r
  if s.badDoorbell p g v full then s.bump (Reg.RING_CNT 4)
  else
    ((s.bump (Reg.RING_CNT 0)).updRing r (fun g => { g with
      tail := v.setWidth 32
      progress := if g.tail = g.head ∨ g.phase = .stopped then s.ps else g.progress
      phase := if g.phase = .stopped ∧ g.enable then .idle else g.phase })).ringFetch r

/-- The path reaches doorbells: BAR2 of H or of a VF that can master, or the range of an attach port (R331). -/
def State.bellPath (s : State) (p : Path) : Bool :=
  s.alive && s.pathUp p && match p with
    | .bmc => false
    | .vf i => s.vfUp i
    | _ => true

/-- DOORBELL. -/
def execDoorbell (p : Path) (ring : BitVec 14) (v : Word) (full : Bool) (s : State) : Out :=
  if s.bellPath p then .next ((s.tlp p 8).doorbell p ring.toNat v full) else .next s

/-! ## The image header (R31, R32) -/

/-- An image header. -/
structure Header where
  imageId : BitVec 32
  count   : Nat
  entry   : Nat
  tdescs  : Nat
  instrAt : Nat
  tdescAt : Nat
  deriving DecidableEq, Repr

/-- The number that `n` bytes from byte `a` spell. -/
def field (bs : List Byte) (a n : Nat) : Nat := ofLe ((bs.drop a).take n)

/-- The header that 256 bytes give, when it passes R32; an image without instructions has no entry to check. -/
def headerOf (bs : List Byte) : Option Header :=
  let h : Header := ⟨BitVec.ofNat 32 (field bs 8 4), field bs 0x0C 4, field bs 0x10 4, field bs 0x14 1, field bs 0x20 8,
    field bs 0x28 8⟩
  if field bs 0 4 = 0x4A444D31 ∧ field bs 4 2 = 1 ∧ field bs 6 2 = 0 ∧ h.count ≤ 16384
      ∧ (h.count = 0 ∨ h.entry < h.count) ∧ h.tdescs ≤ 16 ∧ h.instrAt % 256 = 0 ∧ h.tdescAt % 64 = 0
      ∧ field bs 0x15 11 = 0 ∧ (bs.drop 0x30).all (· == 0) then some h
  else none

/-- Absolute address of `n` bytes of a launch's image; none where they lie outside the instance's allocation. -/
def State.imageAt (s : State) (i : BitVec 8) (off : Word) (n : Nat) : Option Nat :=
  let a := s.alloc i 0
  if off.toNat + n ≤ a.2 then some (a.1 + off.toNat) else none

/-- The read of `n` bytes of a launch's image from byte `o` of it: nothing is read of zero bytes, and otherwise the status
is ACCESS_DENIED outside the allocation and in a protected region, which is counted (R371), and UNCORRECTABLE on a bus error.
(Log 121: DEDUCED.) -/
def State.imageRead (s : State) (i : BitVec 8) (off : Word) (o n : Nat) : List Byte × Status × State :=
  if n = 0 then ([], 0, s)
  else match s.imageAt i (BitVec.ofNat 64 ((off.toNat + o) % 2 ^ 64)) n with
    | none => ([], St.accessDenied, s)
    | some a =>
      if s.prot a n then ([], St.accessDenied, s.bump (Reg.MEM_CNT 8))
      else
        let r := s.readMem i a n
        (r.1, if r.2.1 then St.uncorrectable else 0, r.2.2)

/-! ## Placement (R34–R36) -/

/-- A resident image that a launch reuses. -/
def State.residentOf (s : State) (clu addr : Nat) (h : Header) : Option Resident :=
  s.images.find? (fun r => r.clu = clu ∧ r.addr = addr ∧ r.imageId = h.imageId ∧ r.count = h.count)

/-- Where a region of `n` instructions may begin among resident images: at the start, or after one of them.
(Log 20: DESIGN CHOICE.) -/
def gapsFor (rs : List Resident) (n : Nat) : List Nat :=
  (0 :: rs.map (fun r => r.base + r.count)).filter (fun b =>
    decide (b + n ≤ 16384) && rs.all (fun r => !overlaps b n r.base r.count))

/-- The unused image of a cluster launched longest ago. -/
def State.oldestUnused (s : State) (rs : List Resident) : Option Resident :=
  (rs.filter (fun r => !s.imageUsed r)).foldl (fun b r =>
    match b with
    | none => some r
    | some x => if r.launched < x.launched then some r else some x) none

/-- The images of a cluster that stay when room for `n` instructions is made by discarding unused ones, least recently
launched first; none when it cannot be made. (Log 20: DESIGN CHOICE.) -/
def State.makeRoom (s : State) (n : Nat) : Nat → List Resident → Option (List Resident)
  | 0, rs => if (gapsFor rs n).isEmpty then none else some rs
  | k + 1, rs =>
    if !(gapsFor rs n).isEmpty then some rs
    else match s.oldestUnused rs with
      | none => none
      | some r => State.makeRoom s n k (rs.erase r)

/-- The images of a cluster. -/
def State.imagesOf (s : State) (clu : Nat) : List Resident := s.images.filter (fun r => r.clu = clu)

/-- The cluster can take an image. -/
def State.canHold (s : State) (clu addr : Nat) (h : Header) : Bool :=
  h.count == 0 || (s.residentOf clu addr h).isSome
    || (s.makeRoom h.count (s.imagesOf clu).length (s.imagesOf clu)).isSome

/-- An idle slot on which no launch is placed. -/
def Slot.vacant (x : Slot) : Bool := x.phase == .idle && x.launch.isNone

/-- The idle slot of a cluster that takes a launch: R34 names only the cluster, and the model takes the lowest.
(Log 120: DESIGN CHOICE.) -/
def State.idleSlot (s : State) (clu : Nat) : Option Nat :=
  ((List.range 4).map (· + 4 * clu)).find? (fun i => (s.slot i).vacant)

/-- The header of a launch as adapter memory holds it, if it is readable and passes R32. (Log 21: DEDUCED.) -/
def State.peekHeader (s : State) (i : BitVec 8) (off : Word) : Option (Nat × Header) :=
  match s.imageAt i off 256 with
  | none => none
  | some a =>
    let r := s.imageRead i off 0 256
    if r.2.1 ≠ 0 then none else (headerOf r.1).map (fun h => (a, h))

/-- The cluster qualifies for a launch (R34); a launch whose header will be refused needs no room. -/
def State.qualifies (s : State) (i : BitVec 8) (d : Desc) (clu : Nat) : Bool :=
  decide (clu < s.clusters) && bit d.w0 (16 + clu) && s.flag (Reg.CLU_CTRL clu) 0 && (s.idleSlot clu).isSome
    && match s.peekHeader i d.w1 with
      | some (a, h) => s.canHold clu a h
      | none => true

/-- The qualifying cluster with the fewest outstanding operations, the lowest among equals. -/
def State.chooseCluster (s : State) (i : BitVec 8) (d : Desc) : Option Nat :=
  (List.range 8).foldl (fun best c =>
    if s.qualifies i d c then
      match best with
      | none => some c
      | some b => if s.cluOps c < s.cluOps b then some c else some b
    else best) none

/-! ## Eligibility and choice (R295–R297) -/

/-- The oldest undispatched descriptor of a ring. -/
def Ring.first? (g : Ring) : Option RDesc := (g.desc? g.dispatched).filter (fun d => d.phase = .fetched)

/-- The ring is eligible. -/
def State.eligible (s : State) (g : Ring) : Bool :=
  g.enable && g.weight != 0 && g.burst != 0 && !g.descs.any (fun d => d.phase == .waiting)
    && match g.first? with
      | none => false
      | some d =>
        (!bit d.d.w0 9 || (g.descs.takeWhile (fun x => x.idx != d.idx)).all RDesc.over)
          && (descTyp d.d != 1 || (s.chooseCluster g.inst d.d).isSome)

/-- The eligible rings, by index. -/
def State.eligibleRings (s : State) : List (Nat × Ring) := s.rings.filter (fun e => s.eligible e.2)

/-- The ring that the scheduler serves among eligible TC7 rings: the one being visited, or the next in order. -/
def chooseTc7 (q : Sched) (es : List (Nat × Ring)) : Option (Nat × Sched) :=
  match es.find? (fun e => e.1 + 1 = q.tc7Next ∧ 0 < q.tc7Left) with
  | some e => some (e.1, { q with tc7Left := q.tc7Left - 1 })
  | none =>
    match (es.find? (fun e => q.tc7Next ≤ e.1)).orElse (fun _ => es.head?) with
    | some e => some (e.1, { q with tc7Next := e.1 + 1, tc7Left := e.2.burst - 1 })
    | none => none

/-- The ring that the weighted round robin serves: the one being visited, the next of the pass, or the first of the next
pass that visits any. -/
def chooseWrr (q : Sched) (es : List (Nat × Ring)) : Option (Nat × Sched) :=
  match es.find? (fun e => e.1 + 1 = q.next ∧ 0 < q.left) with
  | some e => some (e.1, { q with left := q.left - 1 })
  | none =>
    match es.find? (fun e => q.next ≤ e.1 ∧ q.pass ≤ e.2.weight) with
    | some e => some (e.1, { q with next := e.1 + 1, left := e.2.burst - 1 })
    | none =>
      let p := if es.any (fun e => q.pass < e.2.weight) then q.pass + 1 else 1
      match es.find? (fun e => p ≤ e.2.weight) with
      | some e => some (e.1, { q with pass := p, next := e.1 + 1, left := e.2.burst - 1 })
      | none => none

/-- The ring served next. -/
def State.chooseRing (s : State) : Option (Nat × Sched) :=
  let es := s.eligibleRings
  let hot := es.filter (fun e => e.2.tc = 7)
  if hot.isEmpty then chooseWrr s.sched es else chooseTc7 s.sched hot

/-- Ends the visits of rings that have ceased to be eligible (R296). -/
def State.schedTrim (s : State) : State :=
  let ok := fun (one : Nat) => decide (0 < one) && s.eligible (s.ring (one - 1))
  { s with sched := { s.sched with
      tc7Left := if ok s.sched.tc7Next then s.sched.tc7Left else 0
      left := if ok s.sched.next then s.sched.left else 0 } }

/-! ## Dispatch (R290) -/

/-- A WINDOW_REVOKE of a ring's instance: I0 may revoke any window. (Log 66: DESIGN CHOICE.) -/
def State.ringRevoke (s : State) (r : Nat) (i : BitVec 8) (d : RDesc) : State :=
  let w := bits d.d.w1 0 20
  let a := s.setDesc r d.idx .dispatched
  if s.winCount ≤ w ∨ (s.win w).phase ≠ .open_ then a.finishDesc r d.idx St.badDescriptor
  else if i ≠ 0 ∧ (!s.inRange i .wins w ∨ (s.win w).inst ≠ i) then a.finishDesc r d.idx St.accessDenied
  else (a.winRevoke w none (some (r, d.idx))).2

/-- A SEM_OP as a program of the ring's instance. -/
def State.ringSem (s : State) (r : Nat) (i : BitVec 8) (d : RDesc) : State :=
  let id := BitVec.ofNat 16 (bits d.d.w1 0 16)
  let act := actOf (bits d.d.w1 16 2) d.d.w2
  let a := s.setDesc r d.idx .dispatched
  if !s.semProg i id ∨ (s.isBar id ∧ bits d.d.w1 16 2 ≠ 1) then a.finishDesc r d.idx St.accessDenied
  else if s.semZeroing id then a.holdSem id act (.desc r d.idx)
  else
    let x := a.semApply id act
    x.2.2.finishDesc r d.idx (if x.2.1 then St.uncorrectable else St.ok)

/-- Dispatches the oldest undispatched descriptor of a ring. -/
def State.dispatchRing (s : State) (r : Nat) : State :=
  match (s.ring r).first? with
  | none => s
  | some d =>
    let i := (s.ring r).inst
    let s1 := (s.updRing r (fun g => { g with dispatched := g.dispatched + 1, progress := s.ps })).bump (Reg.RING_CNT 1)
    let s2 := match descTyp d.d with
      | 0 => s1.finishDesc r d.idx St.ok
      | 1 => s1.setDesc r d.idx .waiting
      | 2 => s1.ringRevoke r i d
      | _ => s1.ringSem r i d
    (s2.skipRefused r).ringFetch r

/-- DESCRIPTOR_DISPATCH: one dispatch of the scheduler, at most one per 32 ck. -/
def State.dispatch (s : State) : State :=
  let due := match s.sched.last with
    | none => true
    | some t => decide (t + cks 32 ≤ s.ck)
  if !s.flag Reg.RING_CTRL 0 ∨ !due then s
  else
    let s1 := s.schedTrim
    match s1.chooseRing with
    | none => s1
    | some (r, q) => ({ s1 with sched := { q with last := some s.ck } }.dispatchRing r).schedTrim

/-- DESCRIPTOR_DISPATCH; a hang that is being handled stops it (R453). -/
def execDescriptorDispatch (s : State) : Out := if s.alive && s.watching then .next s.dispatch else .next s

/-! ## Launches (R30–R36, R68) -/

/-- The launch that a ring holds at its head waiting for a cluster. -/
def Ring.waiting? (g : Ring) : Option RDesc := g.descs.find? (fun d => d.phase = .waiting)

/-- PROGRAM_LAUNCH: Zenith places a launch on a cluster and a slot, whose header it checks next, or the launch waits.
(Log 21: DEDUCED.) -/
def State.programLaunch (s : State) (r : Nat) : State :=
  match (s.ring r).waiting? with
  | none => s
  | some d =>
    match (s.chooseCluster (s.ring r).inst d.d).bind s.idleSlot with
    | none => s
    | some sl =>
      ((s.setDesc r d.idx .dispatched).updSlot sl (fun x =>
        { x with launch := some (BitVec.ofNat 14 r, d.idx, BitVec.ofNat 3 (s.ring r).tc) })).schedTrim

/-- PROGRAM_LAUNCH. Zenith runs once the firmware does (R393). -/
def execProgramLaunch (ring : BitVec 14) (s : State) : Out :=
  if s.alive && s.running && s.watching then .next (s.programLaunch ring.toNat) else .next s

/-- The tensor descriptor that 64 bytes give (R48). -/
def tdescOf (bs : List Byte) : TDesc :=
  let w := fun a => BitVec.ofNat 32 (field bs a 4)
  let v := fun a => BitVec.ofNat 64 (field bs a 8)
  ⟨v 0, w 8, w 12, w 16, w 20, w 24, w 28, v 32, v 40, v 48, v 56⟩

/-- The instruction words that bytes give. -/
def wordsOf (bs : List Byte) (n : Nat) : List (BitVec 128) := (List.range n).map (fun k => BitVec.ofNat 128 (field bs (16 * k) 16))

/-- The slot that Zenith claims for a launch of ring `r` whose header has passed: it loads, and its fault registers are
clear (R32, R68). -/
def Slot.claimed (r : BitVec 14) (idx : BitVec 32) (tc : BitVec 3) (inst : BitVec 8) (ps : Nat) : Slot :=
  { Slot.init with phase := .loading, ring := r, desc := idx, tc := tc, inst := inst, progress := ps }

/-- The slot of a program that starts (R30, R33, R68). -/
def Slot.start (x : Slot) (d : Desc) (h : Header) (a base : Nat) (halted : Bool) (ts : Tab TDesc) : Slot :=
  { x with
    phase := if h.count = 0 then .draining else .running
    sregs := [(1, d.w3), (2, d.w4), (3, d.w5), (4, d.w6)].filter (fun e => e.2 ≠ 0)
    tregs := ts
    pc := h.entry % 2 ^ 15
    layer := BitVec.ofNat 32 (bits d.w2 0 32)
    oper := BitVec.ofNat 32 (bits d.w2 32 32)
    image := BitVec.ofNat 64 a, imageId := h.imageId, imemBase := base, imemLen := h.count
    args := [d.w3, d.w4, d.w5, d.w6], halted := halted }

/-- Makes the image of a launch resident, or reuses it: its region and the state. Where a new image goes among the gaps
that hold it is left open. (Log 20: DESIGN CHOICE.) -/
def State.makeResident (s : State) (clu a : Nat) (h : Header) (ws : List (BitVec 128)) : Option (Nat × State) :=
  if h.count = 0 then some (0, s)
  else match s.residentOf clu a h with
    | some r =>
      some (r.base, { s with
        fresh := s.fresh + 1
        images := s.images.map (fun x => if x = r then { x with launched := s.fresh } else x) })
    | none =>
      match s.makeRoom h.count (s.imagesOf clu).length (s.imagesOf clu) with
      | none => none
      | some rs =>
        let gs := gapsFor rs h.count
        let f := s.takeFree
        let b := gs.getD (f.1.toNat % gs.length) 0
        some (b, { f.2 with
          fresh := f.2.fresh + 1
          images := f.2.images.filter (fun x => x.clu ≠ clu) ++ rs ++ [⟨clu, a, h.imageId, h.count, b, ws, f.2.fresh⟩] })

/-- A launch of a ring ends without its program running, with a record of its failure (R306); the slot is free. -/
def State.launchFails (s : State) (sl r : Nat) (idx : BitVec 32) (st : Status) : State :=
  let s1 := (s.finishDesc r idx st).updSlot sl (fun x => { x with phase := .idle, launch := none })
  if st = St.badImage then s1
  else s1.record { faultRec s.now st (if st = St.uncorrectable then 4 else 7) (s.ring r).inst with ring := some r }

/-- The launch placed on a slot waits at the head of its ring again. -/
def State.launchBack (s : State) (sl r : Nat) (idx : BitVec 32) : State :=
  (s.setDesc r idx .waiting).updSlot sl (fun x => { x with launch := none })

/-- Claims the slot for a launch whose header passed and loads the image behind it: the instructions unless they are
resident, and the initial descriptors. A launch for which the cluster has no room any more waits again. -/
def State.loadImage (s : State) (sl r : Nat) (d : RDesc) (tc : BitVec 3) (a : Nat) (h : Header) : State :=
  let i := (s.ring r).inst
  let fresh := (s.residentOf (sl / 4) a h).isNone
  let s0 := s.setSlot sl (Slot.claimed (BitVec.ofNat 14 r) d.idx tc i s.ps)
  let ins := if fresh then s0.imageRead i d.d.w1 h.instrAt (16 * h.count) else ([], 0, s0)
  let tds := ins.2.2.imageRead i d.d.w1 h.tdescAt (64 * h.tdescs)
  if !s.canHold (sl / 4) a h then s.launchBack sl r d.idx
  else if ins.2.1 ≠ 0 then ins.2.2.launchFails sl r d.idx ins.2.1
  else if tds.2.1 ≠ 0 then tds.2.2.launchFails sl r d.idx tds.2.1
  else match tds.2.2.makeResident (sl / 4) a h (wordsOf ins.1 h.count) with
    | none => s.launchBack sl r d.idx
    | some (b, t) =>
      let ts := (List.range h.tdescs).foldl (fun m k => tset TDesc.zero m k (tdescOf (tds.1.drop (64 * k)))) []
      t.updSlot sl (fun x => x.start d.d h a b (!s.watching) ts)

/-- IMAGE_CHECK: the header of the launch placed on a slot is checked; the program starts, or the launch ends.
(Log 8: DESIGN CHOICE, 21: DEDUCED.) -/
def State.imageCheck (s : State) (sl : Nat) : State :=
  match (s.slot sl).launch with
  | none => s
  | some (r, idx, tc) =>
    match (s.ring r.toNat).desc? idx with
    | none => s
    | some d =>
      let i := (s.ring r.toNat).inst
      let x := s.imageRead i d.d.w1 0 256
      if x.2.1 ≠ 0 then x.2.2.launchFails sl r.toNat idx x.2.1
      else match headerOf x.1, s.imageAt i d.d.w1 256 with
        | some h, some a => x.2.2.loadImage sl r.toNat d tc a h
        | _, _ => x.2.2.launchFails sl r.toNat idx St.badImage

/-- IMAGE_CHECK. -/
def execImageCheck (sl : Fin 32) (s : State) : Out := if s.alive then .next (s.imageCheck sl) else .next s

/-! ## Publication (R298–R300) -/

/-- Word 0 of a finished descriptor: owner 0 and the status. -/
def descDoneWord (d : Desc) (st : Status) : Word := putBits (putBits d.w0 32 16 st.toNat) 63 1 0

/-- The descriptor raises a semaphore: sig_en of a launch or revoke. -/
def descSigSem (d : Desc) : Option (BitVec 16) :=
  if (descTyp d = 1 ∨ descTyp d = 2) ∧ bit d.w7 16 then some (BitVec.ofNat 16 (bits d.w7 0 16)) else none

/-- The words of a head record (R299). -/
def headWords (r : Nat) (g : Ring) (now : Word) : List Word :=
  [BitVec.ofNat 64 (g.head.toNat + r % 2 ^ 14 * 2 ^ 32), BitVec.ofNat 64 (g.failSt.toNat + g.failIdx.toNat * 2 ^ 16), now, 0,
   0, 0, 0, 0]

/-- The head passes every descriptor published in unbroken order: the ring, and how many of them request an interrupt. -/
def Ring.advance (g : Ring) : Nat → Nat → Ring × Nat
  | 0, q => (g, q)
  | n + 1, q =>
    match g.desc? g.head with
    | some d =>
      match d.phase with
      | .published st =>
        let g1 := { g with
          head := g.head + 1
          descs := g.descs.erase d
          failSt := if st = 0 then g.failSt else st
          failIdx := if st = 0 then g.failIdx else d.idx }
        Ring.advance g1 n (q + b2n (bit d.d.w0 8))
      | _ => (g, q)
    | none => (g, q)

/-- An abort command completes once head equals fetched (R302). (Log 65: DESIGN CHOICE.) -/
def State.abortDone (s : State) (r : Nat) : State :=
  let g := s.ring r
  if g.abortBy.isEmpty ∨ g.head ≠ g.fetched then s
  else
    let s1 := s.updRing r (fun g => { g with abortBy := [], phase := if g.phase = .error then .error else .disabled })
    g.abortBy.foldl (fun s p => s.result p Reg.RING_RESULT St.ok) s1

/-- The flushing zero-length read that acknowledges a write to ring memory of host memory (R53, R298). -/
def State.ringFlush (s : State) (g : Ring) (va : Word) : State :=
  if g.port = .h then s.emit (.memRead .h g.inst va 0) else s

/-- Where a ring's head record stands (R299). -/
def Ring.headVa (g : Ring) : Word := g.cfg2 &&& ~~~63#64

/-- The head record is written after an advance that passed `irqs` descriptors with an interrupt, and each passage requests
the interrupt. (Log 63: DEDUCED.) -/
def State.headWrite (s : State) (r irqs : Nat) (ok : Bool) : State :=
  let g := s.ring r
  let a := (s.ringFlush g g.headVa).engineReach g.port g.inst g.headVa 64 true
  let s1 := a.2.emit (.memWrite g.port g.inst g.headVa ((headWords r g s.now).flatMap (fun w => leBytes w.toNat 8)))
  if !a.1 then a.2.ringError r St.translationFault g.head 0
  else if !ok then s1.ringError r St.uncorrectable g.head 0
  else (List.range irqs).foldl (fun s _ => s.ringIrq r) s1

/-- The writeback of a finished descriptor, and the add to its semaphore once the writeback is acknowledged.
(Log 63: DEDUCED.) -/
def State.writeBack (s : State) (r : Nat) (d : RDesc) (st : Status) (ok : Bool) : State :=
  let g := s.ring r
  let va := g.descVa d.idx
  let a := s.engineReach g.port g.inst va 8 true
  let s1 := a.2.emit (.memWrite g.port g.inst va (leBytes (descDoneWord d.d st).toNat 8))
  if !a.1 then a.2.ringError r St.translationFault d.idx d.d.w0
  else if !ok then s1.ringError r St.uncorrectable d.idx d.d.w0
  else match descSigSem d.d with
    | some id =>
      let s2 := s1.ringFlush g va
      if s2.semProg g.inst id then (s2.semSignal g.inst id).2 else s2
    | none => s1

/-- DESCRIPTOR_PUBLISH: writeback, semaphore, head record and interrupt of a finished descriptor, in order.
(Log 63: DEDUCED.) -/
def State.publishDesc (s : State) (r : Nat) (idx : BitVec 32) (wbOk headOk : Bool) : State :=
  match (s.ring r).desc? idx with
  | none => s
  | some d =>
    match d.phase with
    | .finished st =>
      let s1 := (s.writeBack r d st wbOk).setDesc r idx (.published st)
      let g := s1.ring r
      let a := g.advance g.descs.length 0
      let s2 := s1.setRing r { a.1 with progress := if a.1.head = g.head then g.progress else s1.ps }
      (if a.1.head = g.head then s2 else s2.headWrite r a.2 headOk).abortDone r
    | _ => s

/-- DESCRIPTOR_PUBLISH. -/
def execDescriptorPublish (ring : BitVec 14) (idx : BitVec 32) (wbOk headOk : Bool) (s : State) : Out :=
  if s.alive then .next (s.publishDesc ring.toNat idx wbOk headOk) else .next s

/-- IRQ_HOLDOFF_EXPIRY: the holdoff of a source that held a passage ends. -/
def State.irqExpiry (s : State) (src : IrqSrc) : State :=
  match src with
  | .ring r =>
    let g := s.ring r.toNat
    let due := match g.irqAt with
      | none => true
      | some t => decide (t + us (bits g.cfg3 12 16) ≤ s.ps)
    if g.irqHeld && due then s.ringIrq r.toNat else s
  | .fq q =>
    let due := match (s.fq q).irqAt with
      | none => true
      | some t => decide (t + us (s.fld (Reg.RING_FQ_CTRL q) 13 16) ≤ s.ps)
    if (s.fq q).irqHeld && due then s.fqIrq q else s

/-- IRQ_HOLDOFF_EXPIRY. -/
def execIrqHoldoffExpiry (src : IrqSrc) (s : State) : Out := if s.alive then .next (s.irqExpiry src) else .next s

/-! ## Commands (R302, R303, R309) -/

/-- A ring command of the path is in progress. -/
def State.ringBusy (s : State) (p : Path) : Bool := bit (s.vreg p Reg.RING_RESULT) 0

/-- A command on the selected ring; discarded while one is in progress. -/
def State.ringDo (s : State) (p : Path) (k : State → Nat → State) : State :=
  let r := s.vfld p Reg.RING_SEL 0 14
  if s.ringBusy p then s
  else if s.outsideView p .rings r then s.result p Reg.RING_RESULT St.accessDenied
  else k s r

/-- A write of RING_CMD. -/
def State.ringCmd (s : State) (p : Path) (k : State → Nat → State) : State :=
  s.viewWrite p Reg.RING_CMD (fun s => s.ringDo p k)

/-- The staged configuration of a ring. -/
def State.ringStaged (s : State) (p : Path) (g : Ring) : Ring :=
  let c1 := s.sh (pathAt p Reg.RING_CFG1)
  { g with cfg0 := s.sh (pathAt p Reg.RING_CFG0)
           cfg1 := putBits c1 28 8 (instFor p (bits c1 28 8)).toNat
           cfg2 := s.sh (pathAt p Reg.RING_CFG2)
           cfg3 := s.sh (pathAt p Reg.RING_CFG3) }

/-- What may not change while work is in flight (R303). -/
def Ring.fixed (g : Ring) : Word × Nat × Nat × BitVec 8 × Word := (g.cfg0, g.log2, g.space, g.inst, g.cfg2)

/-- The state of a ring after a new configuration: enabling makes it idle, disabling ends its fetching. -/
def Ring.reconfigured (g : Ring) (was : Bool) : Ring :=
  let p := if g.phase = .error ∨ g.phase = .aborting then g.phase
    else if !g.enable then .disabled
    else if !was then .idle
    else g.phase
  if g.enable then { g with phase := p } else { g with phase := p, want := 0, backoff := none, rereads := 0 }

/-- Configure. -/
def State.ringConfigure (s : State) (p : Path) (r : Nat) : State :=
  let g := s.ring r
  let n := s.ringStaged p g
  if n.cfg0.toNat % 4096 ≠ 0 ∨ (n.inst ≠ 0 ∧ 64 ≤ bits n.cfg3 0 11) then s.result p Reg.RING_RESULT St.badDescriptor
  else if g.head ≠ g.fetched ∧ n.fixed ≠ g.fixed then s.result p Reg.RING_RESULT St.quiesceRequired
  else
    let s1 := (((s.commitV p Reg.RING_CFG0).commitV p Reg.RING_CFG1).commitV p Reg.RING_CFG2).commitV p Reg.RING_CFG3
    (((s1.setRing r { n.reconfigured g.enable with progress := s.ps }).ringFetch r).result p Reg.RING_RESULT St.ok).schedTrim

/-- RING_CONFIGURE. -/
def execRingConfigure (p : Path) (s : State) : Out := .next (s.ringCmd p (fun s r => s.ringConfigure p r))

/-- RING_STATE.state of a ring. (Log 64: DEDUCED.) -/
def Ring.code (g : Ring) : Nat :=
  match g.phase with
  | .error => 5
  | .aborting => 4
  | .stopped => 3
  | .disabled => 0
  | _ => if g.tail = g.head ∧ g.descs.isEmpty then 1 else 2

/-- Reads a ring into the path's registers. -/
def State.ringRead (s : State) (p : Path) (r : Nat) : State :=
  let g := s.ring r
  let s1 := (((s.setVBoth p Reg.RING_CFG0 g.cfg0).setVBoth p Reg.RING_CFG1 g.cfg1).setVBoth p Reg.RING_CFG2 g.cfg2).setVBoth
    p Reg.RING_CFG3 g.cfg3
  (((s1.setV p Reg.RING_STATE (BitVec.ofNat 64 (g.code + g.lastSt.toNat * 2 ^ 16))).setV p Reg.RING_IDX0 (g.head ++ g.tail)).setV
    p Reg.RING_IDX1 (g.dispatched ++ g.fetched)).result p Reg.RING_RESULT St.ok

/-- RING_READ. -/
def execRingRead (p : Path) (s : State) : Out := .next (s.ringCmd p (fun s r => s.ringRead p r))

/-- The slots that run programs of a ring. -/
def State.slotsOfRing (s : State) (r : Nat) : List Nat :=
  allSlots.filter (fun i => (s.slot i).phase != .idle && (s.slot i).ring.toNat == r)

/-- The launch of a ring that is placed on a slot, whose image is not checked yet, finishes with ABORTED.
(Log 65: DESIGN CHOICE.) -/
def State.launchAborted (s : State) (r sl : Nat) : State :=
  match (s.slot sl).launch with
  | some (x, idx, _) =>
    if x.toNat = r then (s.finishDesc r idx St.aborted).updSlot sl (fun y => { y with launch := none }) else s
  | none => s

/-- Abort: fetched descriptors that are not dispatched, and a launch that waits or whose image is not checked yet, finish
with ABORTED; launched programs are stopped. (Log 65: DESIGN CHOICE.) -/
def State.ringAbort (s : State) (p : Path) (r : Nat) : State :=
  let g := s.ring r
  let gone := (g.descs.filter (fun d => d.phase = .fetched ∨ d.phase = .waiting)).map (·.idx)
  let s1 := s.updRing r (fun g => { g with
    cfg1 := putBits g.cfg1 27 1 0, phase := if g.phase = .error then .error else .aborting
    want := 0, backoff := none, rereads := 0, dispatched := g.fetched, abortBy := g.abortBy ++ [p] })
  let s2 := gone.foldl (fun s i => s.finishDesc r i St.aborted) (s1.setFld (pathAt p Reg.RING_RESULT) 0 1 1)
  let s3 := allSlots.foldl (fun s sl => s.launchAborted r sl) s2
  (((s3.slotsOfRing r).foldl State.slotStop s3).abortDone r).schedTrim

/-- RING_ABORT. -/
def execRingAbort (p : Path) (s : State) : Out := .next (s.ringCmd p (fun s r => s.ringAbort p r))

/-- Reset of the indices. (Log 64: DEDUCED.) -/
def State.ringReset (s : State) (p : Path) (r : Nat) : State :=
  let g := s.ring r
  if g.head ≠ g.fetched then s.result p Reg.RING_RESULT St.quiesceRequired
  else (s.setRing r { g with
      tail := 0, fetched := 0, dispatched := 0, head := 0, descs := [], failIdx := 0, failSt := 0, want := 0, rereads := 0
      backoff := none, phase := .idle }).schedTrim.result p Reg.RING_RESULT St.ok

/-- RING_RESET_INDICES. -/
def execRingResetIndices (p : Path) (s : State) : Out := .next (s.ringCmd p (fun s r => s.ringReset p r))

/-! ## Fault queues (R304, R307, R330) -/

/-- The path reaches a fault queue: a VF only its own. -/
def fqPath (p : Path) (q : Nat) : Bool :=
  match p with
  | .vf i => i.toNat == q
  | _ => true

/-- A write of CONS. -/
def State.consWrite (s : State) (q : Nat) (v : Word) : State :=
  let n : BitVec 32 := BitVec.ofNat 32 (s.fld (Reg.RING_FQ_PROD q) 0 32) - v.setWidth 32
  if 4096 < n.toNat then s else (s.setFld (Reg.RING_FQ_CONS q) 0 32 (bits v 0 32)).fqFlush q

/-- FAULT_QUEUE_CONS_WRITE. -/
def execFaultQueueConsWrite (p : Path) (q : Fin 257) (v : Word) (s : State) : Out :=
  .next (if fqPath p q then s.viewWrite p (Reg.RING_FQ_CONS q) (fun s => s.consWrite q v) else s)

/-- A write of the control register; enabling writes the pending overflow record. -/
def State.fqControl (s : State) (q : Nat) (v : Word) : State :=
  (s.setReg (Reg.RING_FQ_CTRL q) (v &&& 0x1FFFFFFF#64)).fqFlush q

/-- FAULT_QUEUE_ENABLE. -/
def execFaultQueueEnable (p : Path) (q : Fin 257) (v : Word) (s : State) : Out :=
  .next (if fqPath p q then s.viewWrite p (Reg.RING_FQ_CTRL q) (fun s => s.fqControl q v) else s)

end Sys2Proof.Machine
end

