-- ==== Sys2Proof/Machine/HostPort.lean ====
section
/-!
DEFINITION. Resets of port H and of virtual functions (R331, R338), writes of configuration space (R314, R325, R331), and
ownership of the register map (R332–R336, R340).
-/

namespace Sys2Proof.Machine

/-! ## Functions that lose their PCIe state -/

/-- The operations' segments that wait for translations for which `p` holds end with TRANSLATION_FAULT (R322).
(Log 71: DESIGN CHOICE.) -/
def State.failWaiting (s : State) (p : XKey → Bool) : State :=
  (s.ops.flatMap (fun o => (o.segs.filterMap (fun x =>
      (x.waits.find? (fun e => p e.1)).map (fun e => (o.id, x.id, e.1)))))).foldl (fun (s : State) (e : Nat × Nat × XKey) =>
    (s.updOp e.1 (fun (o : Op) =>
      { o with faultVa := e.2.2.page <<< (12 : Nat), faultSpace := spaceOf e.2.2.port })).failSeg
        e.1 e.2.1 St.translationFault) s

/-- The packets that wait for such translations are refused (R241, R481). (Log 71: DESIGN CHOICE.) -/
def State.refuseWaiting (s : State) (p : XKey → Bool) : State :=
  s.parked.foldl (fun s q =>
    match q.why with
    | .xlat ks => if ks.any p then ({ s with parked := s.parked.erase q } : State).parkedFail q else s
    | _ => s) s

/-- A function loses its translations: its cache entries go, its page requests are discarded and their operations end
with TRANSLATION_FAULT, and so does what waits for an answer of it. -/
def State.keysLost (s : State) (p : XKey → Bool) : State :=
  let s1 : State := { s with
    atc := s.atc.filter (fun e => !p e.key)
    xlating := s.xlating.filter (fun k => !p k)
    pages := s.pages.filter (fun r => !p r.key) }
  (((((s.pages.filter (fun r => p r.key)).map (·.op)).foldl State.refused s1).failWaiting p).refuseWaiting p).settle

/-- The vectors of functions for which `p` holds are as after reset. -/
def State.vectorsLost (s : State) (p : Nat → Bool) : State :=
  { s with msixTab := s.msixTab.filter (fun e => !p (e.1 / 2048)), msixPend := s.msixPend.filter (fun e => !p (e.1 / 2048)) }

/-- Port H and the attach ports are powered: neither in Twilight nor tripped (R428, R430). A reset of the adapter core does
not reset port H (R379). -/
def State.portsOn (s : State) : Bool := !s.twilight && !s.tripped

/-- A reset of port H (R338). (Log 71: DESIGN CHOICE.) -/
def State.hostReset (s : State) : State :=
  let s1 : State := { s with
    fns := s.fns.filter (fun e => 256 ≤ e.1)
    vfEn := false
    numVfs := 0
    priAlloc := tset 0 s.priAlloc 0 0
    priStop := s.priStop.filter (fun e => e.1 ≠ .h)
    invals := s.invals.filter (fun v => v.port ≠ .h) }
  (s1.vectorsLost (fun f => f < 256)).keysLost (fun k => k.port == .h)

/-- HOST_PORT_RESET: whatever the adapter core does. -/
def execHostPortReset (s : State) : Out := if s.portsOn then .next s.hostReset else .next s

/-- The PCIe state of one virtual function is reset (R331). (Log 71: DESIGN CHOICE.) -/
def State.vfReset (s : State) (i : BitVec 8) : State :=
  let s1 : State := { s with
    fns := tset Fn.init s.fns i.toNat Fn.init
    priStop := s.priStop.filter (fun e => e ≠ (.h, i))
    invals := s.invals.filter (fun v => !(v.port == .h && v.fn == i)) }
  (s1.vectorsLost (fun f => f == i.toNat)).keysLost (fun k => k.port == .h && k.fn == i)

/-- VF_RESET: of a virtual function that exists, whatever the adapter core does. -/
def execVfReset (i : BitVec 8) (s : State) : Out := if s.portsOn && s.vfOk i then .next (s.vfReset i) else .next s

/-- Clears VF Enable: every virtual function is reset. -/
def State.vfDisable (s : State) : State :=
  let s1 : State := { s with
    vfEn := false
    fns := s.fns.filter (fun e => e.1 = 0 ∨ 256 ≤ e.1)
    priStop := s.priStop.filter (fun e => e.1 ≠ .h ∨ e.2 = 0)
    invals := s.invals.filter (fun v => !(v.port == .h && v.fn != 0)) }
  (s1.vectorsLost (fun f => f != 0 && decide (f < 256))).keysLost (fun k => k.port == .h && k.fn != 0)

/-! ## Configuration space -/

/-- Changes the configuration of a function. -/
def State.cfgFn (s : State) (port : Port) (fn : BitVec 8) (f : Fn → Fn) : State :=
  s.setFn (fnIdx port fn) (f (s.fn (fnIdx port fn)))

/-- A function exists at a port: one at an attach port (R313), the PF and the enabled VFs at H (R310). -/
def State.fnAt (s : State) (port : Port) (fn : BitVec 8) : Bool :=
  match port with
  | .h => fn == 0 || s.vfOk fn
  | .a q => fn == 0 && s.attUp q.val

/-- Vendor ID of every function of H (R310). -/
def vendorId : BitVec 16 := 0xBA3A

/-- Device ID of the PF and of a VF (R310). -/
def deviceId (vf : Bool) : BitVec 16 := if vf then 0x4801 else 0x4800

/-- Class code of every function of H (R310). -/
def classCode : BitVec 24 := 0x120000

/-- TotalVFs: VF *i* is instance I*i* (R310). -/
def totalVfs : Nat := 255

/-- The function whose configuration space a write reaches exists, and its port is up. (Log 132: PRESUMED.) -/
def State.cfgReach (s : State) : CfgWrite → Bool
  | .busMaster fn _ => s.fnAt .h fn
  | .ats port fn _ => s.fnAt port fn
  | .pasid port fn _ => s.fnAt port fn
  | .pri port fn _ => s.fnAt port fn
  | .priAlloc port _ => s.fnAt port 0
  | .numVfs _ => true
  | .vfEnable _ => true
  | .hdmBase q _ => s.attUp q.val
  | .cxlMem q _ => s.attUp q.val
  | .msix fn _ _ => s.fnAt .h fn

/-- A write in configuration space. Enabling PRI ends a stop of the function's page requests, and page requests that wait
go out as soon as they may; NumVFs is fixed while VF Enable is set; vectors that are pending and not masked any more go
out. (Log 72: PRESUMED, 132: PRESUMED.) -/
def State.cfgWrite (s : State) (c : CfgWrite) : State :=
  match c with
  | .busMaster fn on => s.cfgFn .h fn (fun f => { f with master := on })
  | .ats port fn on => s.cfgFn port fn (fun f => { f with ats := on })
  | .pasid port fn on => s.cfgFn port fn (fun f => { f with pasid := on })
  | .pri port fn on =>
    let s1 := s.cfgFn port fn (fun f => { f with pri := on })
    if on then ({ s1 with priStop := s1.priStop.filter (fun e => e ≠ (port, fn)) } : State).flushPages else s1
  | .priAlloc port n => ({ s with priAlloc := tset 0 s.priAlloc (allocIdx port) n } : State).flushPages
  | .numVfs n => if s.vfEn then s else { s with numVfs := n.toNat }
  | .vfEnable on => if on then { s with vfEn := true } else s.vfDisable
  | .hdmBase q base => s.setReg (Reg.XLT_ATT_HDM q.val) base
  | .cxlMem q on =>
    { s with cxlMem := if on then s.cxlMem ||| BitVec.ofNat 4 (2 ^ q.val) else s.cxlMem &&& ~~~(BitVec.ofNat 4 (2 ^ q.val)) }
  | .msix fn on mask => (s.cfgFn .h fn (fun f => { f with msixOn := on, msixMask := mask })).msixFlushAll fn

/-- CONFIGURATION_SPACE_WRITE: whatever the adapter core does. -/
def execConfigurationSpaceWrite (c : CfgWrite) (s : State) : Out :=
  if s.portsOn && s.cfgReach c then .next (s.cfgWrite c) else .next s

/-! ## Ownership (R332–R336) -/

/-- GLB_OWN_STATUS.state. -/
def State.ownState (s : State) : Nat := s.fld Reg.GLB_OWN_STATUS 3 2

/-- The epoch. -/
def State.epoch (s : State) : BitVec 32 := BitVec.ofNat 32 (s.fld Reg.GLB_OWN_STATUS 32 32)

/-- Sets owner, state and epoch; the lease restarts. (Log 90: DESIGN CHOICE.) -/
def State.setOwner (s : State) (owner st : Nat) (epoch : BitVec 32) : State :=
  { s.setReg Reg.GLB_OWN_STATUS (BitVec.ofNat 64 (owner % 8 + st % 4 * 8 + epoch.toNat * 2 ^ 32)) with leaseAt := s.ps }

/-- The status that a master reads of its last ownership command. -/
def State.ownResult (s : State) (p : Path) (st : Status) : State :=
  { s with ownRes := tset 0 s.ownRes (pathCode p) (st.setWidth 64) }

/-- An ownership command reaches the block: from a master, whoever owns (R333), in Twilight from the management port
alone (R432), and in no reset. -/
def State.ownWrite (s : State) (p : Path) (k : State → State) : State :=
  if s.tripped || s.boot.inReset || !s.pathUp p || pathCode p == 0 then s else k (s.tlp p 8)

/-- A master is the recorded owner. -/
def State.owns (s : State) (p : Path) : Bool := pathCode p == s.owner

/-- Claim. -/
def State.claim (s : State) (p : Path) (epoch : BitVec 32) : State :=
  if epoch = s.epoch ∧ (s.ownState = 0 ∨ s.ownState = 2 ∨ s.owns p) then
    (s.setOwner (pathCode p) 1 (s.epoch + 1)).ownResult p St.ok
  else s.ownResult p St.notOwner

/-- CLAIM. -/
def execClaim (p : Path) (epoch : BitVec 32) (s : State) : Out := .next (s.ownWrite p (fun s => s.claim p epoch))

/-- Renew. -/
def State.renew (s : State) (p : Path) : State :=
  if s.owns p then (s.setOwner s.owner 1 s.epoch).ownResult p St.ok else s.ownResult p St.notOwner

/-- RENEW. -/
def execRenew (p : Path) (s : State) : Out := .next (s.ownWrite p (fun s => s.renew p))

/-- Release. -/
def State.release_ (s : State) (p : Path) : State :=
  if s.owns p then ({ s.setOwner 0 0 (s.epoch + 1) with leaseAt := s.leaseAt } : State).ownResult p St.ok
  else s.ownResult p St.notOwner

/-- RELEASE. -/
def execRelease (p : Path) (s : State) : Out := .next (s.ownWrite p (fun s => s.release_ p))

/-- A code of R332. (Log 70: DESIGN CHOICE.) -/
def isMaster (c : Nat) : Bool := c == 1 || c == 2 || decide (4 ≤ c)

/-- Handover. (Log 70: DESIGN CHOICE.) -/
def State.handover (s : State) (p : Path) (c : Nat) : State :=
  if !s.owns p then s.ownResult p St.notOwner
  else if !isMaster c then s.ownResult p St.badDescriptor
  else if c = pathCode p then s.ownResult p St.notOwner
  else (s.setOwner c 1 (s.epoch + 1)).ownResult p St.ok

/-- HANDOVER. -/
def execHandover (p : Path) (successor : BitVec 3) (s : State) : Out :=
  .next (s.ownWrite p (fun s => s.handover p successor.toNat))

/-- LEASE_EXPIRY: three seconds without a claim, renewal or handover (R335). -/
def execLeaseExpiry (s : State) : Out :=
  if s.ownState = 1 ∧ s.leaseAt + ms 3000 ≤ s.ps ∧ !s.tripped then .next (s.setFld Reg.GLB_OWN_STATUS 3 2 2) else .next s

end Sys2Proof.Machine
end

