-- ==== Sys2Proof/Machine/Power.lean ====
section
/-!
DEFINITION. The power core's loops (R423–R428) and Tally (R435–R442).
-/

namespace Sys2Proof.Machine

/-! ## The engine clock's step (R425) -/

/-- The capping step. -/
def State.capStep (s : State) : Nat := s.fld Reg.PWR_STATUS 4 4

/-- The thermal step. -/
def State.thermStep (s : State) : Nat := s.fld Reg.PWR_STATUS 8 4

/-- The applied step: the largest of step_floor, the capping step and the thermal step. -/
def State.stepApply (s : State) : State :=
  s.setFld Reg.PWR_STATUS 0 4 (max (s.fld Reg.PWR_CTRL 2 4) (max s.capStep s.thermStep))

/-- The smaller of a limit and another that counts when it is nonzero. -/
def minLimit (a b : Nat) : Nat := if b = 0 then a else min a b

/-- The effective limit in W (R423). -/
def State.limitW (s : State) : Nat :=
  minLimit (minLimit (envelope s.profile) (s.boot.recs.getD s.profile Rec.default).power.toNat) (s.fld Reg.PWR_CTRL 16 10)

/-! ## Capping (R424, R426) -/

/-- The sum of a list. -/
def sumNat (l : List Nat) : Nat := l.foldl (· + ·) 0

/-- Some rail group of a measurement in mW is above its limit. -/
def State.railOver (s : State) (mw : List Nat) : Bool :=
  mw.zipIdx.any (fun e => s.fld (Reg.PWR_RAIL e.2) 32 10 != 0 && decide (1000 * s.fld (Reg.PWR_RAIL e.2) 32 10 < e.1))

/-- What the power core reports of a measurement. -/
def State.powerSeen (s : State) (mw : List Nat) : State :=
  let s1 := mw.zipIdx.foldl (fun (t : State) (e : Nat × Nat) => t.setFld (Reg.PWR_RAIL e.2) 0 32 e.1) s
  let s2 := (s1.setFld Reg.PWR_TOTAL 0 32 (sumNat mw)).count (Reg.PWR_CNT 3) (sumNat mw)
  s2.setFld Reg.PWR_STATUS 12 1 (b2n (decide (1000 * s.limitW < sumNat mw) && s.fld Reg.PWR_STATUS 0 4 == 9))

/-- The loop moves the capping step. (Log 97: DESIGN CHOICE.) -/
def State.capMove (s : State) (mw : List Nat) : State :=
  let over_ := decide (1000 * s.limitW < sumNat mw) || s.railOver mw
  let ok := decide (sumNat mw + 1000 * s.fld Reg.PWR_CTRL 32 8 ≤ 1000 * s.limitW) && !s.railOver mw
  if over_ then
    ({ s with capOk := 0 } : State).setFld Reg.PWR_STATUS 4 4 (min 9 (s.capStep + 1)) |>.bump (Reg.PWR_CNT 0)
  else
    let n := if ok then s.capOk + 1 else 0
    if s.fld Reg.PWR_CTRL 40 8 ≤ n then
      ({ s with capOk := 0 } : State).setFld Reg.PWR_STATUS 4 4 (s.capStep - 1)
    else { s with capOk := n }

/-- One millisecond of the capping loop. (Log 97: DESIGN CHOICE.) -/
def State.capTick (s : State) (mw : List Nat) : State :=
  let s1 := s.powerSeen mw
  (if s1.flag Reg.PWR_CTRL 0 then s1.capMove mw
   else ({ s1 with capOk := 0 } : State).setFld Reg.PWR_STATUS 4 4 0).stepApply

/-- CAPPING_TICK: the power core runs once the firmware does. -/
def execCappingTick (mw : List Nat) (s : State) : Out :=
  if s.alive ∧ s.running then .next (s.capTick mw) else .next s

/-! ## The thermal loop (R427, R428) -/

/-- The highest of the readings, in units of 0.25 °C. -/
def tempMax (ts : List (BitVec 16)) : Int := ts.foldl (fun a t => if a < t.toInt then t.toInt else a) (-32768)

/-- A thermal trip: every block except Tally is held in reset. (Log 98: DEDUCED.) -/
def State.trip (s : State) : State := { (s.cleared tlyReg).emit .thermTrip with tripped := true }

/-- Which sensor is reported where several show the highest reading is left open. -/
def State.tempsSeen (s : State) (ts : List (BitVec 16)) : State :=
  let m := tempMax ts
  let k := s.pick ((List.range 32).filter (fun i => (ts.getD i 0).toInt = m))
  let s1 := k.2.setReg Reg.PWR_TEMP_MAX (BitVec.ofNat 64 ((BitVec.ofInt 16 m).toNat + 2 ^ 16 * k.1))
  (List.range 8).foldl (fun (t : State) i =>
    t.setReg (Reg.PWR_TEMP i) (BitVec.ofNat 64 (packFields 16 ((List.range 4).map (fun j => (ts.getD (4 * i + j) 0).toNat))))) s1

/-- The thermal step after a reading. -/
def State.thermNext (s : State) (t : Int) : Nat :=
  let c := fun lo => (4 * s.fld Reg.PWR_THERM_CFG lo 8 : Nat)
  if (c 8 : Int) ≤ t then 9
  else if (c 0 : Int) ≤ t then min 9 (s.thermStep + 1)
  else if t < (c 0 : Int) - (c 16 : Int) then s.thermStep - 1
  else s.thermStep

/-- One millisecond of the thermal loop. (Log 97: DESIGN CHOICE.) -/
def State.thermTick (s : State) (ts : List (BitVec 16)) : State :=
  let s1 := s.tempsSeen ts
  let s2 := if s1.flag Reg.PWR_CTRL 1 then s1.setFld Reg.PWR_STATUS 8 4 (s1.thermNext (tempMax ts)) else s1
  (if s2.thermStep = 0 then s2 else s2.bump (Reg.PWR_CNT 1)).stepApply

/-- THERMAL_TICK: the trip does not wait for the firmware. -/
def execThermalTick (temps : List (BitVec 16)) (s : State) : Out :=
  if s.tripped || s.twilight then .next s
  else if 500 ≤ tempMax temps then .next s.trip
  else if s.alive ∧ s.running then .next (s.thermTick temps)
  else .next s

/-! ## Tally -/

/-- The bucket of energy that no bytes took. -/
def idleBucket : Nat := 257

/-- Adds energy to a bucket. -/
def Tally.addUj (t : Tally) (b n : Nat) : Tally :=
  let x := tget Bucket.init t.live b
  { t with live := tset Bucket.init t.live b { x with uj := x.uj + BitVec.ofNat 64 n } }

/-- One millisecond's energy among the buckets by their bytes, each share rounded down, the rest to idle (R437).
(Log 101: DESIGN CHOICE.) -/
def Tally.apportion (t : Tally) (uj : Nat) : Tally :=
  let total := sumNat (t.ms.map (·.2))
  let shares := t.ms.map (fun e => (e.1, uj * e.2 / total))
  let t1 := shares.foldl (fun (t : Tally) (e : Nat × Nat) => t.addUj e.1 e.2) t
  { t1.addUj idleBucket (uj - sumNat (shares.map (·.2))) with ms := [], energy := t.energy + BitVec.ofNat 64 uj }

/-- TALLY_APPORTION: a millisecond's energy in µJ, its power in mW, and whether a sense input was out of range. -/
def execTallyApportion (uj : Nat) (mw : BitVec 32) (senseFault : Bool) (s : State) : Out :=
  .next { s with tally := { s.tally.apportion uj with
    power := mw, sense := senseFault, senseIv := s.tally.senseIv || senseFault } }

/-- A bucket as its 64 bytes (R442). -/
def bucketBytes (b : Bucket) : List Byte :=
  [b.uj, b.tx, b.rx, b.rd, b.wr, b.host, 0, 0].flatMap (fun w => leBytes w.toNat 8)

/-- The table of 258 buckets as bytes. -/
def tableBytes (t : Tab Bucket) : List Byte := (List.range 258).flatMap (fun b => bucketBytes (tget Bucket.init t b))

/-- The first 256 bytes of the next record (R438). -/
def State.tallyHead (s : State) : List Byte :=
  let t := s.tally
  leBytes 0x544C5952 4 ++ leBytes 1 2 ++ leBytes (b2n (s.time.phase == .locked) + 2 * b2n t.senseIv) 2
    ++ leBytes (t.seq.toNat + 1) 8 ++ leBytes ((s.ps - t.onAt) / 1000) 8 ++ leBytes s.nowNs 8
    ++ leBytes t.energy.toNat 8 ++ leBytes t.changes.toNat 8 ++ leBytes t.starts.toNat 8 ++ leBytes s.me.toNat 8
    ++ beBytes (Config.sha512 (tableBytes t.live)).toNat 64 ++ List.replicate 128 0

/-- The next record of 512 bytes. (Log 101: DESIGN CHOICE.) -/
def State.tallyRecord (s : State) : List Byte :=
  (s.tallyHead ++ Config.ecdsaSign Config.tallyKey (Config.sha512 s.tallyHead)).take 0x184 ++ List.replicate 124 0

/-- TALLY_RECORD_CLOSE. -/
def execTallyRecordClose (s : State) : Out :=
  let seq := s.tally.seq + 1
  .next { s with tally := { s.tally with
    snap := s.tally.live, seq := seq, senseIv := false
    recs := tset [] s.tally.recs (seq.toNat % 16) s.tallyRecord } }

/-- TLY_CAL_CHANGE: a change through TLY_CAL, of the calibration or of period_s, completes while the port is enabled. -/
def execTlyCalChange (enabled : Bool) (period : Option (BitVec 16)) (s : State) : Out :=
  if enabled then
    .next { s with tally := { s.tally with changes := s.tally.changes + 1, period := period.getD s.tally.period } }
  else .next s

/-- TALLY_POWER_ON: power is applied to VDD_TLY. (Log 101: DESIGN CHOICE.) -/
def execTallyPowerOn (s : State) : Out :=
  .next { s with tally := { s.tally with starts := s.tally.starts + 1, onAt := s.ps, ms := [] } }

end Sys2Proof.Machine
end

