-- ==== Sys2Proof/Machine/RegFile.lean ====
section
/-!
DEFINITION. Registers by their tables: the register at an address, and what a write leaves in its fields by their types
(R6, R7).
-/

namespace Sys2Proof.Machine

/-- Index and rest of an offset in one dimension of a register array. -/
def splitDim (o stride : Nat) : Nat × Nat := if stride = 0 then (0, o) else (o / stride, o % stride)

/-- The definition places a register at an address. -/
def regHas (d : RegDef) (a : Nat) : Bool :=
  let x := splitDim (a - d.base) d.s1
  let y := splitDim x.2 d.s2
  let z := splitDim y.2 d.s3
  decide (d.base ≤ a) && decide (x.1 < d.n1) && decide (y.1 < d.n2) && decide (z.1 < d.n3) && z.2 == 0

/-- The tables of a block of 64 KiB. -/
def blockTable (b : Nat) : List RegDef :=
  match b with
  | 0 => regTableGlb
  | 1 => regTableBoot
  | 2 => regTableRing
  | 3 => regTableXlt
  | 12 => regTableNeb
  | 13 => regTableXpt
  | 14 => regTableWin
  | 15 => regTableSem
  | 16 => regTableFab
  | 23 => regTableTime
  | 24 => regTableMem
  | 25 => regTableSec
  | 26 => regTablePwr
  | 28 => regTableDbg
  | _ => if 4 ≤ b ∧ b ≤ 11 then regTableClu else if 17 ≤ b ∧ b ≤ 22 then regTableMac else []

/-- The register at an address of BAR0. -/
def regAt (a : Nat) : Option RegDef := (blockTable (a / 65536)).find? (fun d => regHas d a)

/-- An encoding that R7 does not reserve. The reserved values of space and acc_format, which R240 refuses at an open, and of the
kind of a histogram unit, which R447 makes sample nothing, have an effect and are stored.
(Log 79: DESIGN CHOICE, 137: DEDUCED.) -/
def encodingOk (f : FieldDef) (x : Nat) : Bool := decide (f.min ≤ x) && decide (x ≤ f.max) && x % f.align == 0

/-- A write to the fields of one type: a reserved encoding leaves its field as it was. -/
def writeFields (k : RegKind) (fs : List FieldDef) (old v : Word) : Word :=
  fs.foldl (fun w f =>
    if f.kind = k ∧ encodingOk f (bits v f.lo f.width) then putBits w f.lo f.width (bits v f.lo f.width) else w) old

/-- A write to the fields of type W1C: a 1 clears its bit. -/
def clearFields (fs : List FieldDef) (old v : Word) : Word :=
  fs.foldl (fun w f =>
    if f.kind = .w1c then w &&& ~~~(BitVec.ofNat 64 (bits v f.lo f.width <<< f.lo)) else w) old

/-- The bits of the fields of a register whose types `p` accepts. -/
def kindMask (fs : List FieldDef) (p : RegKind → Bool) : Word :=
  fs.foldl (fun w f => if p f.kind then putBits w f.lo f.width (2 ^ f.width - 1) else w) 0

/-- A write to a register by the types of its fields: RW and W1C at once, RWC to the shadow copy. `at_` is where the
register stands in a path's view. -/
def State.writeByType (s : State) (at_ : Nat) (fs : List FieldDef) (v : Word) : State :=
  let s1 := s.setReg at_ (clearFields fs (writeFields .rw fs (s.reg at_) v) v)
  if fs.any (fun f => f.kind == .rwc) then s1.setSh at_ (writeFields .rwc fs (s1.sh at_) v) else s1

/-- What a read returns of a register's stored value: its RW, RO, W1C and RC fields as committed, its RWC fields from the
shadow copy. -/
def State.readByType (s : State) (at_ : Nat) (fs : List FieldDef) : Word :=
  (s.reg at_ &&& kindMask fs (fun k => k == .rw || k == .ro || k == .w1c || k == .rc))
    ||| (s.sh at_ &&& kindMask fs (fun k => k == .rwc))

end Sys2Proof.Machine
end

