-- ==== Sys2Proof/Machine/Firmware.lean ====
section
/-!
DEFINITION. The firmware load (R393, R394), the authentication of the image (R400–R402) and the version exchange (R395,
R396).
-/

namespace Sys2Proof.Machine

/-! ## Load commands -/

/-- BOOT_STATE admits a load: WAIT_FW, or FAILED with AUTH_FAIL, VERSION_MISMATCH or UNCORRECTABLE. -/
def State.loadable (s : State) : Bool :=
  let st := s.fld Reg.BOOT_STATE 16 16
  s.bootState == 3 || (s.bootState == 6 && (st == St.authFail.toNat || st == St.versionMismatch.toNat
    || st == St.uncorrectable.toNat))

/-- A load command is refused: the state stays; a failure that admits a load keeps its status.
(Log 89: DESIGN CHOICE.) -/
def State.loadRefused (s : State) : State :=
  if s.bootState = 6 then s else s.setFld Reg.BOOT_STATE 16 16 St.badDescriptor.toNat

/-- The length of BOOT_FW_LEN is admitted. -/
def fwLenOk (n : Nat) : Bool := n != 0 && decide (n ≤ 2 ^ 28) && n % 64 == 0

/-- Copies the image into the firmware region; an error of the source ends the load. -/
def State.loadImg (s : State) (img : List Byte) (ok : Bool) : State :=
  let n := (s.reg Reg.BOOT_FW_LEN).toNat
  if !ok || img.length != n then s.bootGo 6 St.uncorrectable
  else match s.fwRgn with
    | some (base, _) =>
      let s1 := s.ownStore base img
      ({ s1 with boot := { s1.boot with fwLen := n } } : State).bootGo 4 0
    | none => s.bootGo 6 St.uncorrectable

/-- The source can be read: host memory while the PF masters, a package while its link is up. -/
def State.srcUp (s : State) (src : Nat) : Bool := if src = 0 then s.hostUp 0 else s.attUp (src - 1)

/-- The port of a source. -/
def srcPort (src : Nat) : Port := if src = 0 then .h else .a (Fin.ofNat 4 (src - 1))

/-- BOOT_CMD op 1. With source 5 the image is what has been streamed. (Log 89: DESIGN CHOICE.) -/
def State.fwLoad (s : State) (img : List Byte) (ok : Bool) : State :=
  let src := s.fld Reg.BOOT_FW_SRC 0 3
  let n := (s.reg Reg.BOOT_FW_LEN).toNat
  if !s.loadable || !fwLenOk n then s.loadRefused
  else if src = 5 then
    if s.boot.stream.length ≠ n then s.loadRefused
    else ({ s with boot := { s.boot with streaming := false } } : State).loadImg s.boot.stream true
  else if s.srcUp src then
    (s.emit (.memRead (srcPort src) 0 (s.reg Reg.BOOT_FW_ADDR) n)).loadImg img ok
  else s.loadImg [] false

/-- FIRMWARE_LOAD. -/
def execFirmwareLoad (p : Path) (img : List Byte) (ok : Bool) (s : State) : Out :=
  .next (s.mapWrite p Reg.BOOT_CMD (fun s => s.fwLoad img ok))

/-- BOOT_CMD op 2. -/
def State.beginStream (s : State) : State := { s with boot := { s.boot with streaming := true, stream := [] } }

/-- BEGIN_STREAM. -/
def execBeginStream (p : Path) (s : State) : Out := .next (s.mapWrite p Reg.BOOT_CMD State.beginStream)

/-- Eight bytes of the streamed image. -/
def State.streamWord (s : State) (v : Word) : State :=
  if s.boot.streaming then { s with boot := { s.boot with stream := s.boot.stream ++ leBytes v.toNat 8 } } else s

/-- FW_DATA_WRITE. -/
def execFwDataWrite (p : Path) (v : Word) (s : State) : Out :=
  .next (s.mapWrite p Reg.BOOT_FW_DATA (fun s => s.streamWord v))

/-- BOOT_CMD op 3: the stream ends and is loaded; a source other than 5 has streamed nothing.
(Log 89: DESIGN CHOICE.) -/
def State.endStream (s : State) : State :=
  let n := (s.reg Reg.BOOT_FW_LEN).toNat
  let s1 : State := { s with boot := { s.boot with streaming := false } }
  if !s.loadable || !fwLenOk n || s.fld Reg.BOOT_FW_SRC 0 3 != 5 || s.boot.stream.length != n then s1.loadRefused
  else s1.loadImg s.boot.stream true

/-- END_STREAM. -/
def execEndStream (p : Path) (s : State) : Out := .next (s.mapWrite p Reg.BOOT_CMD State.endStream)

/-! ## Versions -/

/-- The majors of driver and firmware are equal. -/
def State.majorsMeet (s : State) : Bool := s.fld Reg.BOOT_DRV_VER 16 16 == s.fld Reg.BOOT_FW_VER 16 16

/-- The features that both have. -/
def State.commonFeats (s : State) : Word := s.reg Reg.BOOT_FEAT_DRV &&& s.reg Reg.BOOT_FEAT_FW

/-- BOOT_CMD op 4 (R396); without running firmware there is nothing to attach to. (Log 89: DESIGN CHOICE.) -/
def State.attachDriver (s : State) : State :=
  if !s.running then s
  else if s.majorsMeet then (s.setReg Reg.BOOT_FEAT_ACTIVE s.commonFeats).setFld Reg.BOOT_STATE 16 16 0
  else (s.setReg Reg.BOOT_FEAT_ACTIVE 0).setFld Reg.BOOT_STATE 16 16 St.versionMismatch.toNat

/-- DRIVER_ATTACH. -/
def execDriverAttach (p : Path) (s : State) : Out := .next (s.mapWrite p Reg.BOOT_CMD State.attachDriver)

/-! ## Authentication -/

/-- A little-endian field of an image. -/
def imgFld (img : List Byte) (a n : Nat) : Nat := ofLe ((img.drop a).take n)

/-- The bytes of a field are zero. -/
def imgZero (img : List Byte) (a n : Nat) : Bool := ((img.drop a).take n).all (· == 0)

/-- An entry offset is admitted. -/
def entryOk (n e : Nat) : Bool := e % 64 == 0 && decide (0x200 ≤ e) && decide (e < n)

/-- Check 1 of R402. -/
def imgHeaderOk (img : List Byte) (n : Nat) : Bool :=
  decide (0x200 ≤ n) && imgFld img 0 4 == 0x4C535446 && imgFld img 4 4 == 0x200 && imgFld img 8 8 == n && imgFld img 0x20 2 == 0x4800
    && imgZero img 0x15 3 && imgZero img 0x22 2 && imgZero img 0x30 16 && imgZero img 0xC5 183
    && entryOk n (imgFld img 0x24 4) && entryOk n (imgFld img 0x28 4) && entryOk n (imgFld img 0x2C 4)

/-- The firmware key, not revoked, whose digest the public key has (check 2 of R402). -/
def State.fwKey (s : State) (img : List Byte) : Option Bool :=
  let d := Config.sha512 ((img.drop 0x40).take 133)
  if d = Config.fwKeyDigest false ∧ !s.fuses.rev0 then some false
  else if d = Config.fwKeyDigest true ∧ !s.fuses.rev1 then some true
  else none

/-- The signed digest (R401). -/
def signedDigest (img : List Byte) : BitVec 512 := Config.sha512 (img.take 0x17C ++ img.drop 0x200)

/-- The signature verifies (check 4 of R402). -/
def signatureOk (img : List Byte) : Bool :=
  Config.ecdsaVerify ((img.drop 0x40).take 133) (signedDigest img) ((img.drop 0x17C).take 66) ((img.drop 0x1BE).take 66)

/-- The checks of R402 in order: the key that signed the image, or the first failure. (Log 89: DESIGN CHOICE.) -/
def State.authenticate (s : State) (img : List Byte) (n : Nat) : Option Bool :=
  if !imgHeaderOk img n then none
  else match s.fwKey img with
    | none => none
    | some k =>
      if imgFld img 0x14 1 < s.fuses.minSvn ∨ !signatureOk img then none else some k

/-- SEC_FW_DIGEST0–7: byte 8*i* of the digest in [7:0]. -/
def State.setDigest (s : State) (d : BitVec 512) : State :=
  (List.range 8).foldl (fun t i =>
    t.setReg (Reg.SEC_FW_DIGEST i) (BitVec.ofNat 64 (ofLe (((beBytes d.toNat 64).drop (8 * i)).take 8)))) s

/-- Records a successful authentication (R402). -/
def State.setAuth (s : State) (img : List Byte) (k : Bool) : State :=
  ((s.setDigest (signedDigest img)).setFld Reg.SEC_STATUS 0 1 1).setFld Reg.SEC_STATUS 1 1 (b2n k)

/-- The image is being written to the firmware region (R315). -/
def State.imgStoring (s : State) : Bool :=
  match s.fwRgn with
  | some (base, _) => s.storing base s.boot.fwLen
  | none => false

/-- The image in the firmware region, whether reading it failed, and the state after the read. -/
def State.readImg (s : State) : List Byte × Bool × State :=
  match s.fwRgn with
  | some (base, _) => s.readMem 0 base s.boot.fwLen
  | none => ([], true, s)

/-- Zenith runs from now on; its heartbeat starts (R452). -/
def State.firmwareRuns (s : State) : State := { s with night := { s.night with beat := s.ps, fresh := s.ps } }

/-- The copied image is authenticated and version-checked; then the other cores start. -/
def State.fwAuth (s : State) : State :=
  let r := s.readImg
  let img := r.1
  if r.2.1 then r.2.2.bootGo 6 St.uncorrectable
  else
    let s1 := (r.2.2.setReg Reg.BOOT_FW_VER (BitVec.ofNat 64 (imgFld img 0x10 4))).setReg Reg.BOOT_FEAT_FW
      (BitVec.ofNat 64 (imgFld img 0x18 8))
    match s.authenticate img s.boot.fwLen with
    | none => s1.bootGo 6 St.authFail
    | some k =>
      let s2 := s1.setAuth img k
      if !s2.majorsMeet then s2.bootGo 6 St.versionMismatch
      else ((s2.setReg Reg.BOOT_FEAT_ACTIVE s2.commonFeats).setFld Reg.SEC_STATUS 11 7 (imgFld img 0x14 1)).firmwareRuns.bootGo 5 0

end Sys2Proof.Machine
end

