-- ==== Sys2Proof/Machine/Security.lean ====
section
/-!
DEFINITION. Lodestar's commands: the fuses (R403), the key slots (R407, R408, R410), the chaining state of cipher cores
(R419, R420), and the SPDM requests (R404–R406).
-/

namespace Sys2Proof.Machine

/-! ## Fuses -/

/-- A fuse command: refused outside RUNNING or when its condition fails; otherwise its effect shows in SEC_STATUS.
(Log 93: DESIGN CHOICE.) -/
def State.fuseCmd (s : State) (ok : Bool) (f : Fuses → Fuses) : State :=
  if s.running ∧ ok then
    ({ s with fuses := f s.fuses } : State).fuseStatus.result .host Reg.SEC_FUSE_RESULT St.ok
  else s.result .host Reg.SEC_FUSE_RESULT St.accessDenied

/-- svn of the running image. -/
def State.fwSvn (s : State) : Nat := s.fld Reg.SEC_STATUS 11 7

/-- The key that signed the running image. -/
def State.fwKeyIdx (s : State) : Bool := s.flag Reg.SEC_STATUS 1

/-- COMMIT_SECURITY_VERSION: there are 64 fuses to blow. (Log 93: DESIGN CHOICE.) -/
def State.commitSvn (s : State) : State :=
  s.fuseCmd (decide (s.fuses.minSvn ≤ s.fwSvn)) (fun f => { f with minSvn := max f.minSvn (min 64 s.fwSvn) })

/-- COMMIT_SECURITY_VERSION. -/
def execCommitSecurityVersion (p : Path) (s : State) : Out := .next (s.mapWrite p Reg.SEC_FUSE_CMD State.commitSvn)

/-- REVOKE_KEY_0: by an image that key 1 signed. -/
def State.revoke0 (s : State) : State := s.fuseCmd s.fwKeyIdx (fun f => { f with rev0 := true })

/-- REVOKE_KEY_0. -/
def execRevokeKey0 (p : Path) (s : State) : Out := .next (s.mapWrite p Reg.SEC_FUSE_CMD State.revoke0)

/-- REVOKE_KEY_1: by an image that key 0 signed. -/
def State.revoke1 (s : State) : State := s.fuseCmd (!s.fwKeyIdx) (fun f => { f with rev1 := true })

/-- REVOKE_KEY_1. -/
def execRevokeKey1 (p : Path) (s : State) : Out := .next (s.mapWrite p Reg.SEC_FUSE_CMD State.revoke1)

/-! ## Key slots -/

/-- The slot that key commands act on. -/
def State.keySel (s : State) : Nat := s.fld Reg.SEC_KEY_SEL 0 12

/-- The bytes of SEC_KEY_DATA0 to SEC_KEY_DATA*n* − 1. -/
def State.keyData (s : State) (n : Nat) : List Byte :=
  (List.range n).flatMap (fun i => leBytes (s.reg (Reg.SEC_KEY_DATA i)).toNat 8)

/-- A key command ends: the data registers are zeroed, and a refusal is counted (R408). -/
def State.keyEnd (s : State) (st : Status) : State :=
  let s1 := (List.range 5).foldl (fun (t : State) i => t.setReg (Reg.SEC_KEY_DATA i) 0) s
  (if st = St.ok then s1 else s1.bump (Reg.SEC_CNT 5)).result .host Reg.SEC_KEY_RESULT st

/-- A slot is LOADED and in use: it takes no new key and is not erased. -/
def State.keyBusy (s : State) (k : Nat) : Bool := s.keyPhase k == .loaded && s.keyRefs k != 0

/-- Loads a key into a slot. -/
def State.keyLoad (s : State) (k : Nat) (usage : Bool) (key : List Byte) : State :=
  s.setKey k { key := BitVec.ofNat 256 (ofLe key), phase := .loaded, kek := usage, test := s.flag Reg.SEC_CTRL 0,
               gen := (s.key k).gen + 1, at_ := s.msgCount }

/-- Load in the clear. -/
def State.loadClear (s : State) (usage : Bool) : State :=
  if s.keyBusy s.keySel then s.keyEnd St.quiesceRequired
  else (s.keyLoad s.keySel usage (s.keyData 4)).keyEnd St.ok

/-- LOAD_CLEAR. -/
def execLoadClear (p : Path) (usage : Bool) (s : State) : Out :=
  .next (s.mapWrite p Reg.SEC_KEY_CMD (fun s => s.loadClear usage))

/-- The slot may unwrap a key for slot `k`. -/
def State.kekOk (s : State) (kek k : Nat) : Bool :=
  s.keyPhase kek == .loaded && (s.key kek).kek && s.holder .keys kek == s.holder .keys k

/-- Load wrapped. -/
def State.loadWrapped (s : State) (usage : Bool) (kek : Nat) : State :=
  if s.keyBusy s.keySel then s.keyEnd St.quiesceRequired
  else if !s.kekOk kek s.keySel then s.keyEnd St.accessDenied
  else match Config.kwUnwrap (s.key kek).key (s.keyData 5) with
    | none => s.keyEnd St.authFail
    | some key => (s.keyLoad s.keySel usage key).keyEnd St.ok

/-- LOAD_WRAPPED. -/
def execLoadWrapped (p : Path) (usage : Bool) (kek : BitVec 12) (s : State) : Out :=
  .next (s.mapWrite p Reg.SEC_KEY_CMD (fun s => s.loadWrapped usage kek.toNat))

/-- The slot without its key. -/
def KeySlot.emptied (x : KeySlot) : KeySlot := { x with key := 0, phase := .empty }

/-- Erase. -/
def State.keyErase (s : State) : State :=
  if s.keyRefs s.keySel ≠ 0 then s.keyEnd St.quiesceRequired
  else (s.setKey s.keySel (s.key s.keySel).emptied).keyEnd St.ok

/-- ERASE. -/
def execErase (p : Path) (s : State) : Out := .next (s.mapWrite p Reg.SEC_KEY_CMD State.keyErase)

/-- The code of a key slot's state. -/
def KeyPhase.code : KeyPhase → Nat
  | .empty => 0
  | .loaded => 1
  | .expired => 2

/-- Query. -/
def State.keyQuery (s : State) : State :=
  let k := s.keySel
  let x := s.key k
  (s.setReg Reg.SEC_KEY_INFO (BitVec.ofNat 64 ((s.keyPhase k).code + 4 * b2n x.kek + 8 * b2n x.test
    + 2 ^ 16 * x.gen.toNat + 2 ^ 32 * s.keyRefs k))).keyEnd St.ok

/-- QUERY. -/
def execQuery (p : Path) (s : State) : Out := .next (s.mapWrite p Reg.SEC_KEY_CMD State.keyQuery)

/-- Every slot becomes EMPTY; the load generations stay (R410, R420). (Log 93: DESIGN CHOICE.) -/
def State.emptyKeys (s : State) : State :=
  { s with keys := s.keys.foldl (fun (t : Tab KeySlot) e => tset KeySlot.init t e.1 { KeySlot.init with gen := e.2.gen }) s.keys }

/-- A write of clear_ctx_en: 1 only while every slot is EMPTY; 0 makes every slot EMPTY. (Log 93: DESIGN CHOICE.) -/
def State.clearCtx (s : State) (v : Word) : State :=
  if bit v 0 then
    if s.keys.all (fun e => e.2.phase == .empty) then (s.setFld Reg.SEC_CTRL 0 1 1).setFld Reg.SEC_STATUS 18 1 1 else s
  else (s.emptyKeys.setFld Reg.SEC_CTRL 0 1 0).setFld Reg.SEC_STATUS 18 1 0

/-- CLEAR_CTX_EN_WRITE. -/
def execClearCtxEnWrite (p : Path) (v : Word) (s : State) : Out :=
  .next (s.mapWrite p Reg.SEC_CTRL (fun s => s.clearCtx v))

/-! ## Chaining state -/

/-- The core that cipher commands act on. -/
def State.coreSel (s : State) : Nat := s.fld Reg.SEC_CIPH_SEL 0 6

/-- A cipher command ends with a status. -/
def State.ciphEnd (s : State) (st : Status) : State := s.result .host Reg.SEC_CIPH_RESULT st

/-- Hold: a running packet is suspended, unless the core already holds a suspended one behind an urgent packet, which
then ends first. -/
def State.holdCore (s : State) : State :=
  let i := s.coreSel
  let s1 := if (s.core i).job.isSome ∧ (s.core i).susp.isNone then (s.suspend i).bump (Reg.SEC_CNT 3) else s
  (s1.setCore i { s1.core i with held := true }).ciphEnd St.ok

/-- HOLD. -/
def execHold (p : Path) (s : State) : Out := .next (s.mapWrite p Reg.SEC_CIPH_CMD State.holdCore)

/-- The 64-byte state record (R419). (Log 94: DEDUCED.) -/
def chainBytes (c : Chain) : List Byte :=
  beBytes c.counter.toNat 16 ++ beBytes c.ghash.toNat 16 ++ leBytes c.aadBits.toNat 8 ++ leBytes c.dataBits.toNat 8
    ++ leBytes c.slot.toNat 2 ++ leBytes c.gen.toNat 2 ++ leBytes c.block.toNat 4 ++ leBytes 0 8

/-- The chaining state that a record holds. (Log 94: DEDUCED.) -/
def chainFrom (bs : List Byte) : Chain :=
  let f := fun a n => (bs.drop a).take n
  { counter := BitVec.ofNat 128 (ofBe (f 0 16)), ghash := BitVec.ofNat 128 (ofBe (f 16 16))
    aadBits := BitVec.ofNat 64 (ofLe (f 32 8)), dataBits := BitVec.ofNat 64 (ofLe (f 40 8))
    slot := BitVec.ofNat 16 (ofLe (f 48 2)), gen := BitVec.ofNat 16 (ofLe (f 50 2)), block := BitVec.ofNat 32 (ofLe (f 52 4)) }

/-- Writes bytes to SEC_CIPH_DATA0 onwards. -/
def State.setCiphData (s : State) (bs : List Byte) : State :=
  (List.range 9).foldl (fun (t : State) i =>
    if 8 * i < bs.length then t.setReg (Reg.SEC_CIPH_DATA i) (BitVec.ofNat 64 (ofLe ((bs.drop (8 * i)).take 8))) else t) s

/-- The first `n` data registers as bytes. -/
def State.ciphData (s : State) (n : Nat) : List Byte :=
  (List.range n).flatMap (fun i => leBytes (s.reg (Reg.SEC_CIPH_DATA i)).toNat 8)

/-- The record of a chaining state: in the clear, or wrapped under the device wrap key (R420). -/
def State.chainRecord (s : State) (c : Chain) : List Byte :=
  if s.flag Reg.SEC_CTRL 0 then chainBytes c else Config.kwWrap (Config.wrapKey s.wraps) (chainBytes c)

/-- Save. -/
def State.saveCore (s : State) : State :=
  let x := s.core s.coreSel
  if !x.held then s.ciphEnd St.badDescriptor
  else match x.susp with
    | none => s.ciphEnd St.badDescriptor
    | some (_, c) => (s.setCiphData (s.chainRecord c)).ciphEnd St.ok

/-- SAVE. -/
def execSave (p : Path) (s : State) : Out := .next (s.mapWrite p Reg.SEC_CIPH_CMD State.saveCore)

/-- The record to restore, in the clear or unwrapped. (Log 95: DEDUCED.) -/
def State.ciphRecord (s : State) : Option (List Byte) :=
  if s.flag Reg.SEC_CTRL 0 then some (s.ciphData 8) else Config.kwUnwrap (Config.wrapKey s.wraps) (s.ciphData 9)

/-- Restore: what the core goes on with is no longer its packet unless the state is the one it had.
(Log 94: DEDUCED, 95: DEDUCED.) -/
def State.restoreCore (s : State) : State :=
  let i := s.coreSel
  let x := s.core i
  if !x.held then s.ciphEnd St.badDescriptor
  else match s.ciphRecord with
    | none => s.ciphEnd St.authFail
    | some bs =>
      let c := chainFrom bs
      if 4096 ≤ c.slot.toNat ∨ (s.key c.slot.toNat).gen ≠ c.gen then s.ciphEnd St.authFail
      else
        let job := match x.susp with
          | some (some j, c0) => some { j with moved := j.moved || c0 != c }
          | _ => none
        (s.setCore i { x with susp := some (job, c) }).ciphEnd St.ok

/-- RESTORE. -/
def execRestore (p : Path) (s : State) : Out := .next (s.mapWrite p Reg.SEC_CIPH_CMD State.restoreCore)

/-- Release: the core resumes what it holds and rejoins its pool. -/
def State.releaseCore (s : State) : State :=
  let i := s.coreSel
  ((((s.setCore i { s.core i with held := false }).coreNext i).coreNext i)).ciphEnd St.ok

/-- RELEASE_CORE. -/
def execReleaseCore (p : Path) (s : State) : Out := .next (s.mapWrite p Reg.SEC_CIPH_CMD State.releaseCore)

/-! ## SPDM -/

/-- Lodestar answers an SPDM request: in Twilight with Busy, and outside RUNNING with Busy but for the first two
requests (R405, R432). (Log 96: DESIGN CHOICE.) -/
def State.spdm (s : State) (early : Bool) (a : SpdmAnswer) : State :=
  if s.tripped then s
  else if s.twilight || (!early && !s.running) then s.emit (.spdm .busy)
  else s.emit (.spdm a)

/-- GET_VERSION. -/
def execGetVersion (s : State) : Out := .next (s.spdm true .version)

/-- GET_CAPABILITIES. -/
def execGetCapabilities (s : State) : Out := .next (s.spdm true .capabilities)

/-- NEGOTIATE_ALGORITHMS: what the requester offers of the algorithms that Lodestar supports is selected. -/
def execNegotiateAlgorithms (asym hash meas : Bool) (s : State) : Out := .next (s.spdm false (.algorithms asym hash meas))

/-- The signed digest of the running image. -/
def State.fwDigest (s : State) : BitVec 512 :=
  BitVec.ofNat 512 (ofBe ((List.range 8).flatMap (fun i => leBytes (s.reg (Reg.SEC_FW_DIGEST i)).toNat 8)))

/-- The certificate chain of slot 0. -/
def State.chain (s : State) : List Byte := Config.certChain s.fwDigest

/-- GET_DIGESTS. -/
def execGetDigests (s : State) : Out := .next (s.spdm false (.digests (Config.sha512 s.chain)))

/-- GET_CERTIFICATE: a portion of the chain of slot 0, the only slot. -/
def State.certificate (s : State) (slot off len : Nat) : SpdmAnswer :=
  let rest := s.chain.drop off
  if slot ≠ 0 ∨ s.chain.length < off then .unsupported else .certificate (rest.take len) (rest.length - (rest.take len).length)

/-- GET_CERTIFICATE. -/
def execGetCertificate (slot : Nat) (off : Nat) (len : Nat) (s : State) : Out :=
  .next (s.spdm false (s.certificate slot off len))

/-- A signature of the attestation key over what an exchange carried (R404). -/
def State.attest (s : State) (bs : List Byte) : List Byte :=
  Config.ecdsaSign (Config.attestKey Config.deviceSecret s.fwDigest) (Config.spdmTranscript bs)

/-- The answer to a challenge. -/
def State.challenge (s : State) (slot : Nat) (nonce : List Byte) : SpdmAnswer :=
  let d := Config.sha512 s.chain
  if slot ≠ 0 then .unsupported else .challenge d nonce (s.attest (beBytes d.toNat 64 ++ nonce))

/-- CHALLENGE. -/
def execChallenge (slot : Nat) (nonce : List Byte) (s : State) : Out := .next (s.spdm false (s.challenge slot nonce))

/-- The measurement blocks (R406). (Log 96: DESIGN CHOICE.) -/
def State.measurements (s : State) : List (Nat × List Byte) :=
  [ (1, beBytes Config.romDigest.toNat 64)
  , (2, beBytes s.fwDigest.toNat 64)
  , (3, leBytes (s.reg Reg.BOOT_FW_VER).toNat 4 ++ leBytes s.fwSvn 4 ++ leBytes (s.reg Reg.BOOT_FEAT_FW).toNat 8)
  , (4, leBytes (s.reg Reg.SEC_STATUS).toNat 8)
  , (5, leBytes (s.reg Reg.GLB_CAPS).toNat 8) ]

/-- The measurements that a request names: 0 asks for their number alone, 255 for all. -/
def State.measured (s : State) (block : Nat) (nonce : List Byte) : SpdmAnswer :=
  let bs := if block = 0 then [] else s.measurements.filter (fun e => block = 255 || e.1 = block)
  if block ≠ 0 ∧ bs.isEmpty then .unsupported
  else .measurements 5 bs nonce (s.attest (bs.flatMap (·.2) ++ nonce))

/-- GET_MEASUREMENTS. -/
def execGetMeasurements (block : Nat) (nonce : List Byte) (s : State) : Out := .next (s.spdm false (s.measured block nonce))

end Sys2Proof.Machine
end

