-- ==== Sys2Proof/Machine/Time.lean ====
section
/-!
DEFINITION. The time unit: steps of Meridian time (R193, R219), the discipline loop and its states (R190–R192), the pulse
inputs and outputs (R203), and the commits of the Ephemeris schedule (R198, R200–R202).
-/

namespace Sys2Proof.Machine

/-! ## Steps -/

/-- The size of a change of Meridian time: a signed 64-bit number of ns (R193). -/
def State.stepSize (s : State) (t : BitVec 96) : Int := (t.extractLsb' 32 64 - s.now).toInt

/-- Backward steps are refused: eph_en. -/
def State.noBack (s : State) : Bool := s.flag Reg.TIME_EPH_CTRL 0

/-- Steps Meridian time to a new value of the counter; the flag says that the step was refused. A backward step adds to
the step debt (R219). (Log 30: DESIGN CHOICE.) -/
def State.stepTo (s : State) (t : BitVec 96) : Bool × State :=
  let d := s.stepSize t
  if d = 0 then (false, s)
  else if d < 0 ∧ s.noBack then (true, s.bump Reg.TIME_CNT_STEP_REFUSED)
  else
    let s1 : State := { s with time := { s.time with now := t } }
    let s2 : State := if d < 0 then { s1 with debt := d.natAbs + s.debtNs, debtAt := s1.now } else s1
    (false, s2.bump Reg.TIME_CNT_STEP)

/-- The counter with other whole nanoseconds; its fraction stays. -/
def State.atNs (s : State) (v : Word) : BitVec 96 := v ++ s.time.now.extractLsb' 0 32

/-- TIME_SET. -/
def execTimeSet (p : Path) (v : Word) (s : State) : Out :=
  .next (s.mapWrite p Reg.TIME_SET (fun s => (s.stepTo (s.atNs v)).2))

/-- TIME_ADJ. -/
def execTimeAdj (p : Path) (v : Word) (s : State) : Out :=
  .next (s.mapWrite p Reg.TIME_ADJ (fun s => (s.stepTo (s.atNs (s.now + v))).2))

/-! ## The discipline loop -/

/-- Enters a state of the time unit: state_chg, and in HOLDOVER adj is frozen at integ and the entry counts (R192). -/
def State.timeGo (s : State) (ph : TimePhase) : State :=
  if s.time.phase = ph then s
  else
    let s1 := ({ s with time := { s.time with phase := ph, run := 0 } } : State).setFld Reg.TIME_STATUS 2 1 1
    if ph = .holdover then
      ({ s1 with time := { s1.time with adj := s1.time.integ } } : State).bump Reg.TIME_CNT_LOSS
    else s1

/-- lock_thresh_ns in units of 2^-16 ns. -/
def State.lockThresh (s : State) : Nat := s.fld Reg.TIME_SERVO_CFG 32 12 * 65536

/-- max_slew_ppb in units of 2^-24 ppb. -/
def State.maxSlew (s : State) : Int := (s.fld Reg.TIME_HOLD 16 24 : Int) * 2 ^ 24

/-- Limits a value to ± `m`. -/
def clampInt (x m : Int) : Int := if x < -m then -m else if m < x then m else x

/-- The state that a sample leads to before the loop processes it (R192). -/
def State.samplePhase (s : State) (e : Int) : State :=
  match s.time.phase with
  | .freerun => s.timeGo .acquire
  | .holdover => s.timeGo .acquire
  | .locked => if 4 * s.lockThresh < e.natAbs then s.timeGo .acquire else s
  | .acquire => s

/-- Counts consecutive samples within the threshold, and locks (R192). -/
def State.sampleRun (s : State) (e : Int) : State :=
  let n := if e.natAbs ≤ s.lockThresh then s.time.run + 1 else 0
  let s1 : State := { s with time := { s.time with run := n } }
  if s.time.phase = .acquire ∧ e.natAbs ≤ s.lockThresh ∧ s.fld Reg.TIME_SERVO_CFG 44 8 ≤ n then s1.timeGo .locked else s1

/-- The loop processes an offset sample, in units of 2^-16 ns (R191). A refused step is replaced by the largest slew.
(Log 29: DEDUCED, 30: DESIGN CHOICE.) -/
def State.servo (s : State) (e : Int) : State :=
  let m := s.maxSlew
  let kp : Int := (s.fld Reg.TIME_SERVO_CFG 0 16 : Nat)
  let ki : Int := (s.fld Reg.TIME_SERVO_CFG 16 16 : Nat)
  if s.time.phase = .acquire ∧ s.fld Reg.TIME_SERVO_CFG 52 12 * 1000 * 65536 < e.natAbs ∧ s.flag Reg.TIME_CTRL 6 then
    let r := s.stepTo (s.time.now - BitVec.ofInt 96 (e * 65536))
    { r.2 with time := { r.2.time with integ := 0, adj := if r.1 then m else r.2.time.adj } }
  else
    let i := clampInt (s.time.integ + ki * e) m
    { s with time := { s.time with integ := i, adj := clampInt (i + kp * e) m } }

/-- An offset sample arrives. (Log 30: DESIGN CHOICE.) -/
def State.timeSample (s : State) (e : Int) : State :=
  let s1 := ((s.samplePhase e).servo e).sampleRun e
  { s1 with time := { s1.time with sample := some s.ps } }

/-- The time unit runs: in Twilight too (R188), but in no trip. -/
def State.timeOn (s : State) : Bool := !s.tripped

/-- TIME_SERVO_IN: a sample of the owner, accepted only with src 3. -/
def execTimeServoIn (p : Path) (v : Word) (s : State) : Out :=
  .next (s.mapWrite p Reg.TIME_SERVO_IN (fun s => if s.fld Reg.TIME_CTRL 0 2 = 3 then s.timeSample v.toInt else s))

/-- PTP_OFFSET_SAMPLE: a sample of Zenith firmware with src 1, in units of 2^-16 ns. -/
def execPtpOffsetSample (e : Word) (s : State) : Out :=
  if s.alive ∧ s.running ∧ s.fld Reg.TIME_CTRL 0 2 = 1 then .next (s.timeSample e.toInt) else .next s

/-- A second in ns. -/
def secondNs : Int := 1000000000

/-- The signed distance in ns of a time from the nearest whole second; midway between two, either is left open.
(Log 31: DESIGN CHOICE.) -/
def State.ppsOffset (s : State) (t : Int) : Int × State :=
  let r := t % secondNs
  if 2 * r < secondNs then (r, s)
  else if secondNs < 2 * r then (r - secondNs, s)
  else if s.takeBit.1 then (r, s.takeBit.2) else (r - secondNs, s.takeBit.2)

/-- An edge of PPS_IN: its timestamp, and with src 2 a sample (R190); in Twilight, where the time unit stays in HOLDOVER
(R188), it gives none. (Log 31: DESIGN CHOICE.) -/
def State.ppsEdge (s : State) : State :=
  let s1 := ({ s with time := { s.time with pps := some s.ps } } : State).setReg Reg.TIME_PPS_IN_TS s.now
  if s.fld Reg.TIME_CTRL 0 2 = 2 ∧ !s.twilight then
    let r := s1.ppsOffset ((s.nowNs : Int) - (s.fld Reg.TIME_PPS 32 16 : Nat))
    r.2.timeSample (r.1 * 65536)
  else s1

/-- PPS_IN_EDGE. -/
def execPpsInEdge (s : State) : Out := if s.timeOn then .next s.ppsEdge else .next s

/-- SAMPLE_LOSS_TIMEOUT: no sample for loss_ms in ACQUIRE or LOCKED (R192). -/
def execSampleLossTimeout (s : State) : Out :=
  if s.timeOn ∧ (s.time.phase = .acquire ∨ s.time.phase = .locked)
      ∧ (s.time.sample.getD 0) + ms (s.fld Reg.TIME_HOLD 0 16) ≤ s.ps then .next (s.timeGo .holdover)
  else .next s

/-- A write of TIME_CTRL: a reserved ptp_port keeps the field; src 0 ends discipline (R192), and PTP uses the port that
ptp_port names while that port is in service (R190). (Log 58: DESIGN CHOICE.) -/
def State.timeCtrl (s : State) (v : Word) : State :=
  let old := s.reg Reg.TIME_CTRL
  let port := if bits v 2 3 ≤ 5 then bits v 2 3 else bits old 2 3
  let s1 := s.setReg Reg.TIME_CTRL (putBits (BitVec.ofNat 64 (bits v 0 8)) 2 3 port)
  let s2 := if bits v 0 2 = 0 ∧ (s.time.phase = .acquire ∨ s.time.phase = .locked) then s1.timeGo .holdover else s1
  (if port = bits old 2 3 then s2 else s2.setFld Reg.TIME_STATUS 5 3 port).ptpMove

/-- TIME_CTRL_WRITE. -/
def execTimeCtrlWrite (p : Path) (v : Word) (s : State) : Out :=
  .next (s.mapWrite p Reg.TIME_CTRL (fun s => s.timeCtrl v))

/-- PPS_OUT_PULSE: pps_out_comp_ns before a whole second of Meridian time, PPS_OUT goes high for pps_out_width_us
(R203). -/
def execPpsOutPulse (s : State) : Out :=
  if s.timeOn ∧ s.flag Reg.TIME_CTRL 7 ∧ (s.nowNs + s.fld Reg.TIME_PPS 16 16) % 1000000000 = 0 then
    .next (s.emit (.pps (s.fld Reg.TIME_PPS 0 16)))
  else .next s

/-- REF10M_IN_PRESENCE_CHANGE: the reference comes within, or falls out of, ±100 ppm of 10 MHz (R188). -/
def execRef10mInPresenceChange (present : Bool) (s : State) : Out :=
  if s.timeOn then .next { s with time := { s.time with ref10m := present } } else .next s

/-! ## The Ephemeris schedule -/

/-- Staging is closed: a commit is armed or the copy is in progress (R202). (Log 34: DESIGN CHOICE.) -/
def State.ephClosed (s : State) : Bool := s.fld Reg.TIME_EPH_STATUS 0 2 != 0

/-- The commit takes effect: the banks swap, every group's shadow values come into force, and the copy starts (R201,
R202). -/
def State.ephSwap (s : State) : State :=
  let s1 := (List.range 16).foldl (fun (t : State) g =>
    (t.setReg (Reg.TIME_EPH_GRP_BASE g) (t.sh (Reg.TIME_EPH_GRP_BASE g))).setReg (Reg.TIME_EPH_GRP_CYCLE g)
      (t.sh (Reg.TIME_EPH_GRP_CYCLE g))) s
  { s1 with ephLive := [], ephCopyAt := s.ck }.setReg Reg.TIME_EPH_STATUS
    (BitVec.ofNat 64 (2 + 4 * (1 - s.fld Reg.TIME_EPH_STATUS 2 1)))

/-- A write of TIME_EPH_COMMIT. (Log 34: DESIGN CHOICE.) -/
def State.ephCommit (s : State) (v : Word) : State :=
  if s.ephClosed || !bit v 0 then s
  else if s.reg Reg.TIME_EPH_ACT ≤ s.now then s.ephSwap.bump Reg.TIME_EPH_LATE
  else s.setFld Reg.TIME_EPH_STATUS 0 1 1

/-- EPHEMERIS_COMMIT. -/
def execEphemerisCommit (p : Path) (v : Word) (s : State) : Out :=
  .next (s.mapWrite p Reg.TIME_EPH_COMMIT (fun s => s.ephCommit v))

/-- EPHEMERIS_ACTIVATE: Meridian time is at or above the time of the armed commit. -/
def execEphemerisActivate (s : State) : Out :=
  if s.timeOn ∧ s.flag Reg.TIME_EPH_STATUS 0 ∧ s.reg Reg.TIME_EPH_ACT ≤ s.now then .next s.ephSwap else .next s

/-- Copies the active bank into the shadow bank. (Log 33: DESIGN CHOICE.) -/
def State.ephCopy (s : State) : State :=
  let act := s.fld Reg.TIME_EPH_STATUS 2 1
  let rows : Tab EphRow := (s.ephRows.filter (fun (e : Nat × EphRow) => e.1 / 4096 = act)).map
    (fun (e : Nat × EphRow) => (e.1 % 4096, e.2))
  ({ s with ephRows := rows ++ rows.map (fun (e : Nat × EphRow) => (4096 + e.1, e.2)) } : State).setFld
    Reg.TIME_EPH_STATUS 1 1 0

/-- The engine-clock time of the copy, 4,096 ck (R202), in 10^-6 ck. -/
def copyCk : Nat := 4096 * 1000000

/-- BANK_COPY_COMPLETE. -/
def execBankCopyComplete (s : State) : Out :=
  if s.timeOn ∧ s.flag Reg.TIME_EPH_STATUS 1 ∧ s.ephCopyAt + copyCk ≤ s.ck then .next s.ephCopy else .next s

/-- A frame of the group whose packet the row admits waits for link credits in an egress queue (R463). -/
def State.creditWaits (s : State) (g : Nat) (row : EphRow) : Bool :=
  s.subs.any (fun e => e.2.queue.any (fun f => s.isData f && !e.2.hasCredit f && match f.body with
    | .own _ _ p => rowAdmits row p.dst
        && s.srecs.any (fun r => r.msg == p.msg && r.srcCtx == p.srcCtx && s.ephGroup r == some g)
    | _ => false))

/-- A packet of a message that a row admits has waited since before Meridian time `t`, or a released one waits for credits. -/
def State.slotWaits (s : State) (g : Nat) (row : EphRow) (t : Nat) : Bool :=
  s.creditWaits g row || s.srecs.any (fun r => s.ephGroup r == some g && (
    (r.again.any (fun e => rowAdmits row e.dst && decide (e.at_.toNat < t)))
      || (r.status.isNone && decide (r.sent ≤ r.last) && rowAdmits row r.dst && decide (r.birth.toNat < t))))

/-- The end of a row's opening, with a packet that the row admitted still waiting (R198): it counts once for each opening.
(Log 126: DESIGN CHOICE.) -/
def State.slotMiss (s : State) (g n : Nat) : State :=
  let r := s.ephRow n
  let t := tget 0 s.ephLive n
  if bits r.r1 32 4 = g ∧ t ≠ 0 ∧ !s.rowOpen g r ∧ s.slotWaits g r t then
    { s with ephLive := tset 0 s.ephLive n 0 }.bump (Reg.TIME_EPH_GRP_MISS g)
  else s

/-- SLOT_MISS. -/
def execSlotMiss (g : Fin 16) (row : BitVec 12) (s : State) : Out :=
  if s.alive then .next (s.slotMiss g.val row.toNat) else .next s

end Sys2Proof.Machine
end

