-- ==== Sys2Proof/Machine/Twilight.lean ====
section
/-!
DEFINITION. Twilight, the retention sleep state (R430–R434), and the authentication of the firmware image (R402), which a
load and the exit from Twilight share.
-/

namespace Sys2Proof.Machine

/-! ## Entry -/

/-- A raw Ethernet queue is enabled. -/
def State.rawEnabled (s : State) : Bool :=
  (List.range 6).any (fun n => s.flag (Reg.MAC_TQ_CFG n) 8 || (List.range 4).any (fun q => s.flag (Reg.MAC_RQ_CFG n q) 8))

/-- Twilight entry is refused (R430). -/
def State.twiRefused (s : State) : Bool :=
  s.atWork || !s.srecs.isEmpty || !s.posted.isEmpty || !s.pages.isEmpty || s.wins.any (fun e => e.2.phase == .revoking)
    || s.rawEnabled || !s.running

/-- Host and attach links go down: their PCIe and CXL state is lost (R434). -/
def State.portsLost (s : State) : State :=
  let s1 : State := { s with
    fns := [], vfEn := false, numVfs := 0, priAlloc := [], priStop := [], msixTab := [], msixPend := [], cxlMem := 0
    filter := [], freeing := [], invals := []
    boot := { s.boot with attWidth := [], attRate := [] } }
  ((List.range 4).foldl (fun (t : State) q => t.setReg (Reg.XLT_ATT_HDM q) 0) s1).keysLost (fun _ => true)

/-- An accepted entry: the configuration is saved, the key slots become EMPTY, and every link goes down (R431, steps 1 to
3). (Log 99: DEDUCED.) -/
def State.twiEnter (s : State) : State :=
  let s1 := ({ s with saved := s.regs } : State).emptyKeys
  let s2 := ((List.range 6).foldl (fun (t : State) n => t.portDown n) s1).ptpMove
  s2.portsLost.setReg Reg.PWR_TWI_STATUS 1

/-- A write of op 1: refused while anything is at work, discarded in any state but ACTIVE. -/
def State.twiRequest (s : State) : State :=
  if s.twiState ≠ 0 then s
  else if s.twiRefused then s.setFld Reg.PWR_TWI_STATUS 16 16 St.quiesceRequired.toNat
  else s.twiEnter

/-- TWILIGHT_ENTER. -/
def execTwilightEnter (p : Path) (s : State) : Out := .next (s.mapWrite p Reg.PWR_TWI_CMD State.twiRequest)

/-! ## What Twilight loses (R434) -/

/-- What loses its power: everything but the retained memories, the tables in adapter memory, the time unit and Tally. -/
def State.gated (s : State) : State :=
  { s with
    tmem := [], nbuf := [], pio := [], slots := [], images := [], ops := [], jobs := [], arrSeq := [], armed := none
    reads := [], writes := [], atc := [], xlating := [], pages := [], invals := [], semHeld := [], txq := [], srecs := []
    rrecs := [], trackers := [], parked := [], loop := [], posted := [], ingress := [], fwdWrr := [], cores := []
    cipherQ := [], capOk := 0, split := [], subs := []
    wins := s.wins.foldl (fun (t : Tab Win) e =>
      tset Win.init t e.1 { e.2 with cached := false, fetching := false, flight := 0, used := 0 }) []
    comet := ⟨[], 0, [], s.ck⟩, night := State.reset.night }

/-- Exit begins: Lodestar starts and draws a new device wrap key (R433, steps 1 and 2). (Log 99: DEDUCED.) -/
def State.wakeStart (s : State) : State :=
  ({ s with wraps := s.wraps + 1, wakeHeld := false, boot := { s.boot with waking := true } } : State).setFld
    Reg.PWR_TWI_STATUS 0 2 3

/-- Entry completes: a page that is being zeroed is zero, the time unit enters HOLDOVER, the other domains are gated off, the entry is counted; a wake that
was held starts exit (R431, R433). (Log 99: DEDUCED.) -/
def State.twiDone (s : State) : State :=
  let s0 := if s.zeroing.isSome then s.pageZeroed else s
  let s1 := ((s0.gated.timeGo .holdover).bump (Reg.PWR_CNT 2)).setFld Reg.PWR_TWI_STATUS 0 2 2
  let s2 : State := { s1 with saved := tset 0 s1.saved (Reg.PWR_CNT 2) (s1.reg (Reg.PWR_CNT 2)) }
  if s.wakeHeld then s2.wakeStart else s2

/-- TWILIGHT_ENTRY_COMPLETE. -/
def execTwilightEntryComplete (s : State) : Out :=
  if s.twiState = 1 ∧ !s.tripped then .next s.twiDone else .next s

/-! ## Exit -/

/-- A wake: held during entry, and otherwise without effect outside Twilight. (Log 100: DEDUCED.) -/
def State.wake (s : State) : State :=
  if s.twiState = 2 then s.wakeStart else if s.twiState = 1 then { s with wakeHeld := true } else s

/-- WAKE_N. -/
def execWakeN (s : State) : Out := if s.tripped then .next s else .next s.wake

/-- TWILIGHT_EXIT: op 2 over MCTP. -/
def execTwilightExit (s : State) : Out := .next (s.mapWrite .bmc Reg.PWR_TWI_CMD State.wake)

/-- The registers that Twilight leaves as they are: identity, map, ownership, profile and start-up, the time unit, Tally,
memory status, and twi_state. (Log 99: DEDUCED.) -/
def twiLive (a : Nat) : Bool :=
  decide (a < 0x20000) || a / 65536 == 0x17 || tlyReg a || a == Reg.MEM_STATUS || a == Reg.MEM_SRAM_REPAIR
    || a == Reg.PWR_TWI_STATUS || a == Reg.NEB_STATUS || a / 65536 == 0x0F

/-- The free-running counters and indices that the saved configuration holds (R431). -/
def twiCounter (a : Nat) : Bool :=
  (decide (Reg.RING_CNT 0 ≤ a) && decide (a < 0x030000)) || (decide (Reg.XLT_CNT 0 ≤ a) && decide (a < 0x040000))
    || (decide (Reg.NEB_CNT_RES_RETRY ≤ a) && decide (a < 0x0D0000)) || (decide (Reg.XPT_CNT 0 ≤ a) && decide (a < 0x0E0000))
    || (decide (Reg.WIN_CNT 0 ≤ a) && decide (a < 0x0F0000)) || (decide (Reg.FAB_CNT 0 ≤ a) && decide (a < 0x110000))
    || (decide (Reg.MEM_CNT 0 ≤ a) && decide (a < 0x190000)) || (decide (Reg.SEC_CNT 0 ≤ a) && decide (a < 0x1A0000))
    || (decide (Reg.PWR_CNT 0 ≤ a) && decide (a < 0x1B0000))
    || (a / 65536 == 0x1C && !(decide (Reg.DBG_COMET_STATUS = a) || decide (Reg.DBG_NW_STATUS = a)))

/-- A register after the exit: as it is, as saved, or its RW and RWC fields as saved and the rest at reset. -/
def State.twiReg (s : State) (a : Nat) : Word :=
  if twiLive a then s.reg a
  else
    let old := tget 0 s.saved a
    if twiCounter a then old
    else match regAt (a % 2 ^ 21) with
      | some d =>
        let m := kindMask d.fields (fun k => k == .rw || k == .rwc)
        (old &&& m) ||| (tget 0 resetRegs a &&& ~~~m)
      | none => old

/-- Zenith restores the saved configuration (R433, step 4). (Log 99: DEDUCED.) -/
def State.restored (s : State) : State :=
  let rs := (s.saved.map (·.1) ++ s.regs.map (·.1) ++ resetRegs.map (·.1)).foldl (fun (t : Tab Word) a =>
    tset 0 t a (s.twiReg a)) []
  let staged := fun a => match regAt (a % 2 ^ 21) with
    | some d => d.fields.any (fun f => f.kind == .rwc)
    | none => false
  { s with regs := rs, shadow := rs.filter (fun e => staged e.1) }

/-- Without authentic firmware nothing is restored: the registers that Twilight did not keep are as after a reset. -/
def State.unrestored (s : State) : State :=
  { s with regs := keepRegs resetRegs s.regs twiLive, shadow := keepRegs resetShadow s.shadow twiLive }

/-- The links train with profile, roles and layout unchanged (R433, step 5). (Log 100: DEDUCED.) -/
def State.retrain (s : State) : State :=
  let s1 : State := { s with boot := { s.boot with waking := false, trainAt := s.ps, closed := false, fabLanes := [] } }
  ((List.range 6).foldl (fun (t : State) n => t.portTrain n) s1).awake

/-- The image in the firmware region is authenticated, and the exit goes on. (Log 100: DEDUCED.) -/
def State.wakeAuth (s : State) : State :=
  let r := s.readImg
  match if r.2.1 then none else r.2.2.authenticate r.1 s.boot.fwLen with
  | none => (r.2.2.unrestored.bootGo 6 St.authFail).retrain
  | some k =>
    ((((r.2.2.restored.stepApply.firmwareRuns.setAuth r.1 k).setFld Reg.SEC_STATUS 11 7 (imgFld r.1 0x14 1)).fuseStatus).debtFull).retrain

/-- FIRMWARE_AUTHENTICATE: of the image just copied (R402), or at the exit from Twilight (R433). -/
def execFirmwareAuthenticate (s : State) : Out :=
  if s.boot.waking ∧ !s.tripped then .next s.wakeAuth
  else if s.alive ∧ s.bootState = 4 ∧ !s.imgStoring then .next s.fwAuth
  else .next s

end Sys2Proof.Machine
end

