-- ==== Sys2Proof/Machine/RegRead.lean ====
section
/-!
DEFINITION. What a read of the 2 MiB register map returns: the stored registers by the types of their fields (R6), and the
status registers that the state itself answers.
-/

namespace Sys2Proof.Machine

/-! ## Codes -/

/-- CLU_SLOT_STATE.state (R67). -/
def slotCode : SlotPhase → Nat
  | .idle => 0
  | .loading => 1
  | .running => 2
  | .draining => 3

/-- TIME_STATUS.state (R203). -/
def timeCode : TimePhase → Nat
  | .freerun => 0
  | .acquire => 1
  | .locked => 2
  | .holdover => 3

/-- FAB_LINK.state (R284). (Log 57: DESIGN CHOICE.) -/
def linkCode : LinkPhase → Nat
  | .absent => 0
  | .down => 1
  | .training => 2
  | .up => 3
  | .degraded => 4
  | .miswired => 5

/-- How many entries of a table satisfy `f`. -/
def tcount {α : Type} (t : Tab α) (f : α → Bool) : Nat := (t.filter (fun e => f e.2)).length

/-! ## Clusters (R67) -/

/-- CLU_STATUS. -/
def State.cluStatus (s : State) (c : Nat) : Word :=
  let busy := packFields 1 ((List.range 4).map (fun m => b2n ((s.slot (4 * c + m)).phase != .idle)))
  let held := ((s.imagesOf c).map (fun (r : Resident) => r.count)).foldl (· + ·) 0
  BitVec.ofNat 64 (busy + 2 ^ 4 * s.cluOps c + 2 ^ 11 * s.queueUsed c + 2 ^ 18 * (16384 - held))

/-- The registers of slot `i`, by their offset in the slot's block. -/
def State.slotReg (s : State) (i o : Nat) : Word :=
  let x := s.slot i
  match o with
  | 0x00 => BitVec.ofNat 64 (slotCode x.phase + 2 ^ 3 * b2n x.stopped + 2 ^ 4 * (x.pc % 2 ^ 15) + 2 ^ 19 * s.slotOps i
      + 2 ^ 32 * x.status.toNat)
  | 0x08 => BitVec.ofNat 64 (x.imageId.toNat + 2 ^ 32 * x.ring.toNat)
  | 0x10 => x.oper ++ x.layer
  | 0x18 => BitVec.ofNat 64 (x.faultTag.toNat + 2 ^ 24 * x.faultPc + 2 ^ 48 * x.faultSt.toNat)
  | 0x20 => x.faultSeg.setWidth 64
  | 0x28 => BitVec.ofNat 64 (x.inst.toNat + 2 ^ 8 * (s.pasid x.inst).toNat)
  | 0x30 => BitVec.ofNat 64 (x.imemBase + 2 ^ 14 * x.imemLen)
  | _ => 0

/-! ## Fabric (R284, R353, R429) -/

/-- FAB_LINK of a port. (Log 57: DESIGN CHOICE.) -/
def State.fabLink (s : State) (n : Nat) : Word :=
  let lanes := (List.range 4).foldl (fun a k => a + (if (s.sub n k).isUp then (s.sub n k).lanes else 0)) 0
  BitVec.ofNat 64 (packFields 4 ((List.range 4).map (fun k => linkCode (s.sub n k).link)) + 2 ^ 16 * lanes)

/-- FAB_PEER of a port. -/
def State.fabPeer (s : State) (n : Nat) : Word :=
  BitVec.ofNat 64 (packFields 16 ((List.range 4).map (fun k => (s.sub n k).peer.toNat)))

/-- MAC_STATUS of a port: lock, and the lanes that trained unless the port is down or trains again. -/
def State.macStatus (s : State) (n : Nat) : Word :=
  let off := (List.range (s.subCount n)).all (fun k => (s.sub n k).link == .down || (s.sub n k).link == .training)
  let lock := packFields 1 ((List.range 4).map (fun k => b2n (s.sub n k).lock))
  BitVec.ofNat 64 (lock + 2 ^ 4 * (if off then 0 else (tget 0 s.boot.fabLanes n).toNat))

/-- A port's slices in use are ON: it is enabled, has a role, and trains or is trained. -/
def State.portLit (s : State) (n : Nat) : Bool :=
  s.portOn n && (List.range 4).any (fun k =>
    let x := s.sub n k
    x.isUp || x.link == .miswired || x.link == .training || (x.link == .down && x.downAt.isSome))

/-- PWR_LANE0. (Log 102: DESIGN CHOICE.) -/
def State.lane0 (s : State) : Word :=
  BitVec.ofNat 64 (packFields 9 ((List.range 6).map (fun n =>
    let use := (good 9 (fun k => s.badUnits.slices.getLsbD (9 * n + k))).take 8
    if s.portLit n then packFields 1 ((List.range 9).map (fun k => b2n (use.contains k))) else 0)))

/-- PWR_LANE1. (Log 102: DESIGN CHOICE.) -/
def State.lane1 (s : State) : Word :=
  BitVec.ofNat 64 (packFields 1 ((List.range 4).map (fun q => b2n (tget 0 s.boot.attWidth q != 0)))
    + 2 ^ 4 * (if s.boot.decided then s.boot.lastMem.toNat else 0))

/-! ## Time, transport, cipher -/

/-- A value in 2^-24 ppb as TIME_FREQ gives it, in 1/256 ppb. How a value between two of its units is rounded is left
open. -/
def State.inFreq (s : State) (a : Int) : BitVec 32 × State :=
  if a % 65536 = 0 then (BitVec.ofInt 32 (a / 65536), s)
  else (BitVec.ofInt 32 (a / 65536 + (b2n s.takeBit.1 : Nat)), s.takeBit.2)

/-- TIME_FREQ. (Log 32: DESIGN CHOICE.) -/
def State.timeFreq (s : State) : Word × State :=
  let a := s.inFreq s.time.adj
  let i := a.2.inFreq s.time.integ
  (i.1 ++ a.1, i.2)

/-- TIME_STATUS: state, state_chg, the presence of the references, and the PTP port. -/
def State.timeStatus (s : State) : Word :=
  let pps := match s.time.pps with
    | some t => decide (s.ps ≤ t + ms 1500)
    | none => false
  putBits (putBits (putBits (s.reg Reg.TIME_STATUS) 0 2 (timeCode s.time.phase)) 3 1 (b2n s.time.ref10m)) 4 1 (b2n pps)

/-- XPT_STATUS. -/
def State.xptStatus (s : State) : Word :=
  let miss := (s.parked.filter (fun q => q.why == .ctx)).length
  BitVec.ofNat 64 (tcount s.ctxs (fun x => x.resident) + 2 ^ 14 * tcount s.ctxs (fun x => x.valid && x.pinned) + 2 ^ 25 * miss
    + 2 ^ 35 * (s.srecs.length + s.rrecs.length))

/-- XPT_STATUS1. -/
def State.xptStatus1 (s : State) : Word :=
  BitVec.ofNat 64 (s.trackers.length + 2 ^ 15 * s.srecs.length + 2 ^ 32 * (s.debtNs % 2 ^ 32))

/-- SEC_CIPH_RESULT: held and suspended of the selected core. -/
def State.ciphResult (s : State) : Word :=
  let c := s.core s.coreSel
  putBits (putBits (s.reg Reg.SEC_CIPH_RESULT) 1 1 (b2n c.held)) 2 1 (b2n c.susp.isSome)

/-- SEC_CIPH_STATUS. -/
def State.ciphStatus (s : State) : Word :=
  let busy := fun (i : Bool) => ((s.pool i).filter (fun k => (s.core k).job.isSome)).length
  BitVec.ofNat 64 (packFields 6 [(s.pool false).length, (s.pool true).length, busy false, busy true,
    tcount s.cores (fun c => c.susp.isSome)])

/-! ## Tally (R441, R442) -/

/-- Eight bytes from a list, as a word. -/
def wordAt (bs : List Byte) (o : Nat) : Word := BitVec.ofNat 64 (ofLe ((bs.drop o).take 8))

/-- Eight bytes of a function of the index. -/
def wordBy (f : Nat → Byte) (o : Nat) : Word := BitVec.ofNat 64 (ofLe ((List.range 8).map (fun i => f (o + i))))

/-- A word of the TLY block. -/
def State.tlyWord (s : State) (o : Nat) : Word :=
  let t := s.tally
  if o = 0x00 then BitVec.ofNat 64 (1 + 2 ^ 16 * t.period.toNat + 2 ^ 32 * b2n t.sense)
  else if o = 0x08 then t.seq
  else if o = 0x10 then t.power.setWidth 64
  else if o = 0x18 then t.energy
  else if o = 0x20 then t.changes
  else if o = 0x28 then t.starts
  else if 0x100 ≤ o ∧ o < 0x188 then wordBy (fun i => if i < 133 then Config.tallyPub i else 0) (o - 0x100)
  else if 0x200 ≤ o ∧ o < 0xA00 then wordBy Config.tallyCert (o - 0x200)
  else if 0x1000 ≤ o ∧ o < 0x3000 then wordAt (tget [] t.recs ((o - 0x1000) / 512)) ((o - 0x1000) % 512)
  else if 0x4000 ≤ o ∧ o < 0x8080 then wordAt (bucketBytes (tget Bucket.init t.live ((o - 0x4000) / 64))) (o % 64)
  else if 0x9000 ≤ o ∧ o < 0xD080 then wordAt (bucketBytes (tget Bucket.init t.snap ((o - 0x9000) / 64))) (o % 64)
  else 0

/-! ## The register map -/

/-- GLB_OWN_STATUS with the age of the lease. -/
def State.ownStatus (s : State) : Word := putBits (s.reg Reg.GLB_OWN_STATUS) 16 16 (min 0xFFFF ((s.ps - s.leaseAt) / ms 1))

/-- The row of the shadow bank that TIME_EPH_ADDR names (R200). -/
def State.ephShadow (s : State) : EphRow :=
  tget (⟨0, 0⟩ : EphRow) s.ephRows (4096 * (1 - s.fld Reg.TIME_EPH_STATUS 2 1) + s.fld Reg.TIME_EPH_ADDR 0 12)

/-- Registers that the state answers by itself, for a master of code `m`. (Log 109: DEDUCED.) -/
def State.liveReg (s : State) (m a : Nat) : Option Word :=
  if a = Reg.GLB_OWN_STATUS then some s.ownStatus
  else if a = Reg.GLB_OWN_RESULT then some (tget 0 s.ownRes m)
  else if a / 65536 = 0x1B then some (s.tlyWord (a % 65536))
  else if 0x40000 ≤ a ∧ a < 0xC0000 ∧ 0x100 ≤ a % 65536 ∧ a % 65536 < 0x200 then
    some (s.slotReg (4 * ((a - 0x40000) / 65536) + (a % 65536 - 0x100) / 64) (a % 64))
  else if a = Reg.SEM_STATUS then
    some (BitVec.ofNat 64 (tcount s.slots (fun x => match x.wait with | some (.sem ..) => true | _ => false)
      + 2 ^ 6 * b2n s.zeroing.isSome + 2 ^ 16 * tcount s.poison id))
  else if 0xF2000 ≤ a ∧ a < 0xF2800 ∧ !s.barriers then some 0
  else if a = Reg.TIME_STATUS then some s.timeStatus
  else if a = Reg.TIME_NOW then some s.now
  else if a = Reg.TIME_EPH_ROW0 then some s.ephShadow.r0
  else if a = Reg.TIME_EPH_ROW1 then some s.ephShadow.r1
  else if a = Reg.XPT_STATUS then some s.xptStatus
  else if a = Reg.XPT_STATUS1 then some s.xptStatus1
  else if a = Reg.XPT_RTO_MIN then some (BitVec.ofNat 64 (s.fld Reg.XPT_RTO_MIN 0 16 + 2 ^ 16 * s.rtoMinEff))
  else if Reg.XPT_PLANE_EFF 0 ≤ a ∧ a < Reg.XPT_PLANE_EFF 6 then
    some (BitVec.ofNat 64 (packFields 8 ((List.range 4).map (fun k => s.effWt ((a - Reg.XPT_PLANE_EFF 0) / 8) k))))
  else if a = Reg.WIN_STATUS then
    some (BitVec.ofNat 64 (tcount s.wins (fun x => x.phase == .open_) + 2 ^ 21 * tcount s.wins (fun x => x.phase == .revoking)
      + 2 ^ 42 * s.posted.length))
  else if a = Reg.RING_STATUS then
    some (BitVec.ofNat 64 (tcount s.rings (fun g => bit g.cfg1 27) + 2 ^ 15 * tcount s.rings (fun g => g.phase == .error)))
  else if a = Reg.XLT_STATUS then some (BitVec.ofNat 64 (s.atc.length + 2 ^ 15 * tcount s.insts Option.isSome))
  else if Reg.FAB_LINK 0 ≤ a ∧ a < Reg.FAB_LINK 6 then some (s.fabLink ((a - Reg.FAB_LINK 0) / 8))
  else if Reg.FAB_PEER 0 ≤ a ∧ a < Reg.FAB_PEER 6 then some (s.fabPeer ((a - Reg.FAB_PEER 0) / 8))
  else if 0x110000 ≤ a ∧ a < 0x170000 ∧ a % 65536 = 8 then some (s.macStatus ((a - 0x110000) / 65536))
  else if a = Reg.SEC_CIPH_RESULT then some s.ciphResult
  else if a = Reg.SEC_CIPH_STATUS then some s.ciphStatus
  else if a = Reg.PWR_STATUS then some (putBits (s.reg Reg.PWR_STATUS) 16 10 s.limitW)
  else if a = Reg.PWR_LANE0 then some s.lane0
  else if a = Reg.PWR_LANE1 then some s.lane1
  else if a = Reg.DBG_COMET_STATUS then some (putBits (s.reg Reg.DBG_COMET_STATUS) 1 1 (b2n s.traceRgn.isNone))
  else none

/-- A register at offset `a` of the map as a read by a master of code `m` returns it; the read itself may take a free
value. (Log 78: DESIGN CHOICE.) -/
def State.readReg (s : State) (m a : Nat) : Word × State :=
  match s.liveReg m a with
  | some v => (v, s)
  | none =>
    if 0x40000 ≤ a ∧ a < 0xC0000 ∧ a % 65536 = 8 then (s.cluStatus ((a - 0x40000) / 65536), s)
    else if a = Reg.TIME_FREQ then s.timeFreq
    else match regAt a with
      | some d => (s.readByType a d.fields, s)
      | none => (0, s)

/-- A statistics counter stands at the offset (R354). -/
def isStat (a : Nat) : Bool := decide (0x110000 ≤ a) && decide (a < 0x170000) && decide (0x1000 ≤ a % 65536)
  && decide (a % 65536 < 0x1400) && decide (a % 256 < 128)

/-- A read by a master: an RC counter is returned and cleared (R6), and one of a sub-port that the split does not create
reads zero (R354). -/
def State.readClear (s : State) (m a : Nat) : Word × State :=
  if isStat a then
    if s.subCount ((a - 0x110000) / 65536) ≤ (a % 65536 - 0x1000) / 256 then (0, s) else (s.reg a, s.setReg a 0)
  else s.readReg m a

end Sys2Proof.Machine
end

