-- ==== Sys2Proof/Machine/Debug.lean ====
section
/-!
DEFINITION. The queue histograms (R446, R447), and Comet's records on their way to adapter memory (R448–R451).
-/

namespace Sys2Proof.Machine

/-! ## Queue histograms -/

/-- The bucket of a value. -/
def bucketFor (v : Nat) : Nat := if v = 0 then 0 else min 15 (Nat.log2 v + 1)

/-- The age in ck of the oldest of several times in 10^-6 ck, 0 for none: the cycles counted since (R4). -/
def State.oldest (s : State) (ts : List Nat) : Nat :=
  match ts with
  | [] => 0
  | t :: r => (s.ck - r.foldl min t) / 1000000

/-- Depth and age of a queue of entries with their times. -/
def State.queueOf (s : State) (ts : List Nat) : Option (Nat × Nat) := some (ts.length, s.oldest ts)

/-- Bytes as KiB; how a part of a KiB counts is left open. (Log 103: DESIGN CHOICE.) -/
def State.inKib (s : State) (n : Nat) : Nat := n / 1024 + (if n % 1024 = 0 then 0 else b2n s.takeBit.1)

/-- Occupancy and age of the issue queue of a cluster (R38); when an instruction that is held at the execute point without
having been decoded ahead entered the queue is left open. (Log 103: DESIGN CHOICE.) -/
def State.issueQueue (s : State) (c : Nat) : Nat × Nat :=
  let ts := (List.range 4).flatMap (fun m => (s.slot (4 * c + m)).ahead)
  (s.queueUsed c, if ts.isEmpty && s.queueUsed c != 0 then s.takeFree.2.takeFree.1.toNat else s.oldest ts)

/-- Occupancy and age of the queue that a histogram unit names; none for a kind or index that is none.
(Log 103: DESIGN CHOICE.) -/
def State.histQueue (s : State) (kind idx : Nat) : Option (Nat × Nat) :=
  match kind with
  | 1 => if idx < 8 then some (s.issueQueue idx) else none
  | 2 => s.queueOf (((tget Ring.init s.rings idx).descs.filter (fun d => d.phase == .fetched || d.phase == .waiting)).map (·.at_))
  | 3 => if idx < 8 then s.queueOf ((s.txq.filter (fun t => t.sl / 4 = idx)).map (·.since)) else none
  | 4 => if idx = 0 then s.queueOf ((s.parked.filter (fun q => q.why == .ctx)).map (·.at_)) else none
  | 5 => if idx = 0 then s.queueOf (s.srecs.map (·.made) ++ s.rrecs.map (·.made)) else none
  | 6 =>
    if idx < 192 then
      let fs := (s.sub (idx / 32) (idx / 8 % 4)).queue.filter (fun f => f.prio = idx % 8)
      some (s.inKib ((fs.map (·.len)).foldl (· + ·) 0), s.oldest (fs.map (·.sentAt)))
    else none
  | 7 =>
    if idx < 24 then
      let fs := s.ingress.filter (fun f => f.port = idx / 4 ∧ f.sub = idx % 4)
      some (s.inKib ((fs.map (·.len)).foldl (· + ·) 0), s.oldest (fs.map (·.at_)))
    else none
  | 8 =>
    if idx = 0 then
      s.queueOf (allSlots.filterMap (fun i => match (s.slot i).wait with
        | some (.sem _ _ _ _ _ began) => some began
        | _ => none))
    else none
  | 9 => if idx = 0 then s.queueOf ((s.cipherQ.filter (fun j => !j.ingress && !j.fin)).map (·.at_)) else none
  | _ => none

/-- One sample of one unit. (Log 103: DESIGN CHOICE.) -/
def State.histOne (s : State) (u : Nat) : State :=
  match s.histQueue (s.fld (Reg.DBG_HSEL u) 0 4) (s.fld (Reg.DBG_HSEL u) 4 14) with
  | some r =>
    let s1 : State := { s with free := s.free + 2 }
    (s1.bump (Reg.DBG_HIST_DEPTH u (bucketFor r.1))).bump (Reg.DBG_HIST_DELAY u (bucketFor r.2))
  | none => s

/-- The sampling interval in 10^-6 ck. (Log 103: DESIGN CHOICE.) -/
def histPeriod : Nat := 1024 * 1000000

/-- HISTOGRAM_SAMPLE: 1,024 ck have passed since the last sample. -/
def execHistogramSample (s : State) : Out :=
  let gone := s.ck - s.comet.sampled
  if !s.alive || decide (gone < histPeriod) then .next s
  else
    let s1 := (List.range 16).foldl (fun (t : State) u => t.histOne u) s
    .next { s1 with comet := { s1.comet with sampled := s.ck - gone % histPeriod } }

/-! ## Comet (R448–R451) -/

/-- First byte and length of the trace area. -/
def State.traceArea (s : State) : Option (Nat × Nat) := s.traceRgn.map (fun r => (r.1, r.2 - 2 ^ 28))

/-- Comet has stopped because its area is full. -/
def State.cometFull (s : State) : Bool := s.flag Reg.DBG_COMET_STATUS 0

/-- The next record goes at the start of the area again. -/
def State.cometWrap (s : State) : State :=
  ((s.setReg Reg.DBG_COMET_WPTR 0).setFld Reg.DBG_COMET_STATUS 0 1 0).bump Reg.DBG_COMET_WRAPS

/-- The area is full: Comet wraps, or with comet_mode 1 stops. -/
def State.cometEnd (s : State) : State :=
  if s.flag Reg.DBG_CTRL 1 then s.setFld Reg.DBG_COMET_STATUS 0 1 1 else s.cometWrap

/-- Writes one record at the write pointer of the area at `base` of `len` bytes. -/
def State.tracePut (s : State) (base len : Nat) (t : Trace) : State :=
  let s1 := if len ≤ (s.reg Reg.DBG_COMET_WPTR).toNat then s.cometEnd else s
  if s1.cometFull then s1
  else
    let w := (s1.reg Reg.DBG_COMET_WPTR).toNat
    let s2 := s1.ownStore (base + w) ([t.w0, t.w1, t.w2, t.w3].flatMap (fun v => leBytes v.toNat 8))
    let s3 := s2.setReg Reg.DBG_COMET_WPTR (BitVec.ofNat 64 (w + 32))
    if len ≤ w + 32 then s3.cometEnd else s3

/-- The cores that Comet records. (Log 104: DESIGN CHOICE.) -/
def State.tracedCores (s : State) : List Nat :=
  if s.flag Reg.DBG_CTRL 0 then (List.range 9).filter (fun c => s.flag Reg.DBG_CTRL (3 + c)) else []

/-- Four free words; a core's program counter and counts are firmware's, which the spec leaves open. -/
def State.coreTrace (s : State) (src kind : Nat) : Trace :=
  { src := src
    w0 := putBits (putBits (Config.freeWord s.free) 0 4 kind) 4 4 src
    w1 := Config.freeWord (s.free + 1), w2 := Config.freeWord (s.free + 2), w3 := Config.freeWord (s.free + 3) }

/-- A SYNC record of a core. -/
def State.syncPut (s : State) (base len c : Nat) : State :=
  let t := s.coreTrace c 1
  let s1 : State := { s with free := s.free + 4, comet := { s.comet with counts := tset 0 s.comet.counts c 0 } }
  s1.tracePut base len { t with w0 := putBits 0 0 8 (1 + 16 * c), w1 := s.now }

/-- A RUN or TRAP record of a core, and a SYNC record after every 4,096 of them. (Log 104: DESIGN CHOICE.) -/
def State.corePut (s : State) (base len c : Nat) : State :=
  let k := if Config.freeBit s.free then 2 else 3
  let t := s.coreTrace c k
  let n := tget 0 s.comet.counts c + 1
  let s1 : State := { s with free := s.free + 4, comet := { s.comet with counts := tset 0 s.comet.counts c n } }
  let s2 := s1.tracePut base len { t with w0 := if k = 2 then putBits t.w0 40 24 0 else putBits t.w0 9 7 0 }
  if n = 4096 then s2.syncPut base len c else s2

/-- Records that the traced cores have staged: how many, and of which core, is left open. (Log 104: DESIGN CHOICE.) -/
def State.corePuts (s : State) (base len room : Nat) : Nat × State :=
  let cores := s.tracedCores
  if cores.isEmpty then (room, s)
  else
    let n := s.takeFree.1.toNat % (room + 1)
    (room - n, (List.range n).foldl (fun (t : State) _ =>
      t.takeFree.2.corePut base len (cores.getD (t.takeFree.1.toNat % cores.length) 0)) s.takeFree.2)

/-- Staged records in order, with those of the cores among them; at most `room` of the latter were staged. -/
def State.drainStaged (s : State) (base len : Nat) : Nat → List Trace → Nat × State
  | room, [] => s.corePuts base len room
  | room, t :: ts =>
    let r := s.corePuts base len room
    (r.2.tracePut base len t).drainStaged base len r.1 ts

/-- Records of cores that a full staging discarded: how many is left open. -/
def State.coreLost (s : State) (room : Nat) : State :=
  if room = 0 ∧ !s.tracedCores.isEmpty then
    let n := s.takeFree.1.toNat
    let s1 := s.takeFree.2.count Reg.DBG_COMET_LOST n
    { s1 with comet := { s1.comet with lost := s1.comet.lost + n } }
  else s

/-- A LOST record, whose source is left open, and a SYNC record of each traced core. (Log 104: DESIGN CHOICE.) -/
def State.lostPut (s : State) (base len : Nat) : State :=
  if s.comet.lost = 0 then s
  else
    let srcs := 15 :: s.tracedCores
    let src := srcs.getD (s.takeFree.1.toNat % srcs.length) 15
    let s1 : State := { s.takeFree.2 with comet := { s.comet with lost := 0 } }
    let s2 := s1.tracePut base len ⟨src, BitVec.ofNat 64 (6 + 16 * src + s.comet.lost * 2 ^ 8), s.now, 0, 0⟩
    s.tracedCores.foldl (fun (t : State) c => t.syncPut base len c) s2

/-- Everything staged goes to the trace area. (Log 104: DESIGN CHOICE.) -/
def State.cometDrain (s : State) (base len : Nat) : State :=
  let r := { s with comet := { s.comet with staged := [] } }.drainStaged base len (cometRoom - s.comet.staged.length)
    s.comet.staged
  (r.2.coreLost r.1).lostPut base len

/-- COMET_STAGING_DRAIN: without a trace region, and once Comet has stopped, nothing is written. -/
def execCometStagingDrain (s : State) : Out :=
  match s.traceArea with
  | some a => if s.alive && (!s.cometFull || !s.flag Reg.DBG_CTRL 1) then .next (s.cometDrain a.1 a.2) else .next s
  | none => .next s

end Sys2Proof.Machine
end

