-- ==== Sys2Proof/Machine/JadomTensor.lean ====
section
/-!
DEFINITION. The tensor move, reduce and quantise instructions (groups 0x3 to 0x5): R83–R88, R153.
-/

namespace Sys2Proof.Machine

/-- COPY: between tensors of equal format. -/
def execCopy (sl : Fin 32) (w : JWord) (s : State) : Out :=
  .next (s.issue 0x30 sl w (fun _ => isT w.opa && isT w.opb && sigEnc w false) (fun s =>
    let d := valT (s.slot sl) w.opa
    let a := valT (s.slot sl) w.opb
    s.issueTensor sl w .copy d a TDesc.zero 0 [d, a] (d.format == a.format)))

/-- CONVERT: one rounding to the destination format. -/
def execConvert (sl : Fin 32) (w : JWord) (s : State) : Out :=
  .next (s.issue 0x31 sl w (fun _ => isT w.opa && isT w.opb && sigEnc w false && roundOf w != 3) (fun s =>
    let d := valT (s.slot sl) w.opa
    let a := valT (s.slot sl) w.opb
    s.issueTensor sl w .convert d a TDesc.zero 0 [d, a] true))

/-- FILL: a pattern into a destination that is not MX. -/
def execFill (sl : Fin 32) (w : JWord) (s : State) : Out :=
  .next (s.issue 0x32 sl w (fun _ => isT w.opa && isX w.opb && sigEnc w false) (fun s =>
    let d := valT (s.slot sl) w.opa
    s.issueTensor sl w .fill d TDesc.zero TDesc.zero (valX (s.slot sl) w.opb) [d] (!d.fmt.mx)))

/-- RED: sum, maximum or minimum of two tensors. -/
def execRed (sl : Fin 32) (w : JWord) (s : State) : Out :=
  .next (s.issue 0x40 sl w
    (fun _ => isT w.opa && isT w.opb && isT w.opc && sigEnc w false && roundOf w != 3 && decide (redOf w < 3))
    (fun s =>
      let d := valT (s.slot sl) w.opa
      let a := valT (s.slot sl) w.opb
      let b := valT (s.slot sl) w.opc
      s.issueTensor sl w .red d a b 0 [d, a, b] true))

/-- SCALE: multiplication by the binary64 value in s[c]. -/
def execScale (sl : Fin 32) (w : JWord) (s : State) : Out :=
  .next (s.issue 0x41 sl w
    (fun _ => isT w.opa && isT w.opb && isS w.opc && sigEnc w false && roundOf w != 3) (fun s =>
      let d := valT (s.slot sl) w.opa
      let a := valT (s.slot sl) w.opb
      s.issueTensor sl w .scale d a TDesc.zero (slotS (s.slot sl) w.opc.toNat) [d, a] true))

/-- The residual's format and space are ones that R153 accepts; the space of an empty residual is not checked (R49). -/
def residOk (r : TDesc) : Bool :=
  (r.format == 1 || r.format == 2 || r.format == 3)
    && (r.isEmpty || r.space == 0 || r.space == 1 || (decide (4 ≤ r.space) && decide (r.space ≤ 7)))

/-- QUANT: quantisation with a residual, or without one when resid_off is 1. -/
def execQuant (sl : Fin 32) (w : JWord) (s : State) : Out :=
  .next (s.issue 0x50 sl w
    (fun _ => isT w.opa && isT w.opb && (residOffOf w || isT w.opc) && sigEnc w false && roundOf w != 3) (fun s =>
      let d := valT (s.slot sl) w.opa
      let a := valT (s.slot sl) w.opb
      if residOffOf w then s.issueTensor sl w .quant d a TDesc.zero 0 [d, a] true
      else
        let r := valT (s.slot sl) w.opc
        s.issueTensor sl w .quant d a r 0 [d, a, r] (residOk r)))

end Sys2Proof.Machine
end

