-- ==== Sys2Proof/Machine/Graph.lean ====
section
/-!
DEFINITION. The wait-for graph (R457): blocked nodes, raisers found in instruction memory, the nodes that a peer reports,
cycles and leaves; and what this adapter answers to a peer's query (R458).
-/

namespace Sys2Proof.Machine

/-! ## Nodes and edges -/

/-- A graph under construction. -/
abbrev Graph := List GNode × List GEdge

/-- Word 0 of a node. -/
def nodeWord (kind flags : Nat) (ad : AdapterId) (ident : BitVec 32) : Word :=
  BitVec.ofNat 64 (kind % 256 + flags % 256 * 2 ^ 8 + ad.toNat * 2 ^ 16 + ident.toNat * 2 ^ 32)

/-- Two nodes name the same object: kind, adapter and identifier, and for a Meridian time its target. -/
def sameNode (a b : GNode) : Bool :=
  putBits a.w0 8 8 0 == putBits b.w0 8 8 0 && (bits a.w0 0 8 != 8 || a.w1 == b.w1)

/-- A node, or the fuller of the two that name an object, with the flags of both. -/
def mergeNode (a b : GNode) : GNode :=
  let fl := (a.w0 ||| b.w0)
  if bit b.w0 8 then { b with w0 := fl } else { a with w0 := fl }

/-- Adds a node, or merges it with the one that names the same object: its index, and the graph. -/
def putNode (g : Graph) (n : GNode) : Nat × Graph :=
  match (g.1.zipIdx).find? (fun e => sameNode e.1 n) with
  | some (m, i) => (i, (g.1.set i (mergeNode m n), g.2))
  | none => (g.1.length, (g.1 ++ [n], g.2))

/-- Adds an edge once. -/
def putEdge (g : Graph) (e : GEdge) : Graph := if g.2.contains e then g else (g.1, g.2 ++ [e])

/-- A node that carries only its identity. -/
def bareNode (kind flags : Nat) (ad : AdapterId) (ident : Nat) : GNode :=
  ⟨nodeWord kind flags ad (BitVec.ofNat 32 ident), 0, 0, 0⟩

/-! ## Instructions read back from instruction memory (R43) -/

/-- The tag of the instruction at a slot's program counter. -/
def State.tagAt (s : State) (i : Nat) : BitVec 24 :=
  match s.imemAt i (s.slot i).pc with
  | some v => (wordFields v).2.tag
  | none => 0

/-- Word 3 of a slot's node, or of an operation's message. -/
def tagPc (tag : BitVec 24) (pc : Nat) : Word := BitVec.ofNat 64 (tag.toNat + pc % 2 ^ 15 * 2 ^ 24)

/-! ## What a slot waits for -/

/-- The messages of operations for which `f` holds. -/
def State.msgsOf (s : State) (f : Nat → Bool) : List SRec :=
  s.srecs.filter (fun r => match r.src with
    | .op id _ => f id
    | .semOp id _ _ _ => f id
    | .sig id _ => f id
    | .pio _ => false)

/-- A message's node: its sender record awaits a final ACK. -/
def State.msgNode (s : State) (r : SRec) : GNode :=
  let o := (match r.src with
    | .op id _ => s.op? id
    | .semOp id _ _ _ => s.op? id
    | .sig id _ => s.op? id
    | .pio _ => none)
  ⟨nodeWord 3 1 s.me r.msg, 0, 0, match o with | some o => tagPc o.tag o.pc | none => 0⟩

/-- The node of a semaphore of this adapter. -/
def State.semNode (s : State) (id : BitVec 16) : GNode := bareNode 2 0 s.me id.toNat

/-- The next instruction of a slot is an operation that R41 does not let it issue. -/
def State.blockedByLimit (s : State) (i : Nat) : Bool :=
  (s.slot i).phase == .running && (s.slot i).wait.isNone && !s.canOp i && match s.imemAt i (s.slot i).pc with
    | some v =>
      let f := wordFields v
      (decide (3 ≤ f.1.toNat / 16) && decide (f.1.toNat / 16 ≤ 6))
        || (f.1.toNat / 16 == 7 && f.1 != 0x73 && bit (semRef (s.slot i) f.2) 32)
    | none => false

/-- A blocked slot's node and the nodes that it waits for, or nothing for a slot that is not blocked (R457, step 1). A wait
for an operation is a wait for its messages. -/
def State.slotBlock (s : State) (i : Nat) : Option (GNode × List GNode) :=
  let x := s.slot i
  let node := fun (a b : Word) => (⟨nodeWord 1 1 s.me (BitVec.ofNat 32 i), a, b, tagPc (s.tagAt i) x.pc⟩ : GNode)
  match x.wait with
  | some (.sem id thr _ _ _ _) => some (node thr (s.semValue id), [s.semNode id])
  | some (.until_ t) => some (node t s.now, [⟨nodeWord 8 0 s.me 0, t, 0, 0⟩])
  | some (.tile op n) =>
    let got := match s.op? op with | some o => o.signalled | none => 0
    some (node n (BitVec.ofNat 64 got), (s.msgsOf (fun id => id == op)).map s.msgNode)
  | _ =>
    if s.blockedByLimit i then
      some (node 0 0, (s.msgsOf (fun id => s.ops.any (fun o => o.id == id && o.sl == i))).map s.msgNode)
    else none

/-! ## Raisers (R457, step 2) -/

/-- The register that an instruction writes, by its operand code. -/
def writesReg (op : BitVec 8) (w : JWord) : Option (BitVec 8) :=
  let o := op.toNat
  if o = 0x03 ∨ (0x10 ≤ o ∧ o ≤ 0x1B) ∨ o = 0x1E ∨ (0x20 ≤ o ∧ o ≤ 0x25) ∨ o = 0x73 then some w.opa else none

/-- The semaphores that an instruction can raise: the adapters, the semaphore, and the registers that say so. -/
def State.raises (s : State) (x : Slot) (op : BitVec 8) (w : JWord) : Option (List AdapterId × BitVec 16 × List (BitVec 8)) :=
  let o := op.toNat
  if 0x70 ≤ o ∧ o ≤ 0x72 then
    let ref := semRef x w
    some ([if bit ref 32 then BitVec.ofNat 16 (bits ref 16 16) else s.me], BitVec.ofNat 16 (bits ref 0 16),
      if flagOf w 12 then [w.opc] else [])
  else if 0x30 ≤ o ∧ o < 0x70 ∧ sigMode w ≠ 0 then
    match sigWhere w with
    | 0 => some ([s.me], sigSem w, [])
    | 2 => some ([BitVec.ofNat 16 (bits w.imm 16 16)], sigSem w, [])
    | 1 =>
      if o = 0x62 then some ([(slotS x (w.opb.toNat % 32)).setWidth 16], sigSem w, [w.opb])
      else if o = 0x64 then
        let m := s.mc (bits (slotS x (w.opc.toNat % 32)) 32 12)
        some (((List.range 64).filter (fun r => m.data0.getLsbD r)).map (s.memberId m), sigSem w, [w.opc])
      else some ([BitVec.ofNat 16 (bits (valT x w.opa).base 48 16)], sigSem w, [w.opa])
    | _ => none
  else none

/-- The instructions that may follow one at `pc`: both outcomes of each branch. -/
def nextPcs (op : BitVec 8) (w : JWord) (pc : Nat) : List Nat :=
  let always := w.predReg.val = 0 ∧ !w.predNeg
  if op = 0x01 then (if always then [] else [pc + 1])
  else if op = 0x02 then (if always then [jumpTarget w] else [jumpTarget w, pc + 1])
  else if op = 0x03 then [jumpTarget w, pc + 1]
  else [pc + 1]

/-- Scans a slot's instructions breadth first: `q` holds those to examine with the registers written on the way, `seen` all
that have been queued. The results say whether the way there makes them uncertain. (Log 107: DESIGN CHOICE.) -/
def State.scan (s : State) (sl : Nat) : Nat → List (Nat × List (BitVec 8)) → List Nat →
    List (List AdapterId × BitVec 16 × Bool)
  | 0, _, _ => []
  | _ + 1, [], _ => []
  | n + 1, (pc, wr) :: q, seen =>
    match s.imemAt sl pc with
    | none => s.scan sl n q seen
    | some v =>
      let f := wordFields v
      let new := ((nextPcs f.1 f.2 pc).eraseDups).filter (fun p => !seen.contains p)
      let wr2 := wr ++ (writesReg f.1 f.2).toList
      let rest := s.scan sl n (q ++ new.map (fun p => (p, wr2))) (seen ++ new)
      match s.raises (s.slot sl) f.1 f.2 with
      | some r => (r.1, r.2.1, r.2.2.any (fun k => wr.contains k)) :: rest
      | none => rest

/-- Whether a slot's program can raise a semaphore of an adapter, and if so whether only uncertainly. -/
def State.canRaise (s : State) (sl : Nat) (ad : AdapterId) (id : BitVec 16) : Option Bool :=
  if (s.slot sl).phase = .idle then none
  else
    let pc := (s.slot sl).pc
    let hits := (s.scan sl 256 [(pc, [])] [pc]).filter (fun r => r.1.contains ad && r.2.1 == id)
    if hits.isEmpty then none else some (hits.all (fun r => r.2.2))

/-- The producers behind a semaphore's page: attach ports and the host (R165). -/
def State.producers (s : State) (id : BitVec 16) : List GNode :=
  let v := s.semPage id
  ((List.range 4).filter (fun q => bit v (10 + q))).map (fun q => bareNode 6 0 s.me q)
    ++ (if bit v 14 then [bareNode 7 0 s.me 0] else [])

/-! ## The local graph -/

/-- Adds a node and an edge to it. -/
def linkTo (g : Graph) (src kind : Nat) (unsure : Bool) (n : GNode) : Graph :=
  let r := putNode g n
  putEdge r.2 ⟨src, r.1, kind, unsure⟩

/-- Adds a node with edges of one kind to several. -/
def putWith (g : Graph) (n : GNode) (kind : Nat) (to_ : List GNode) : Graph :=
  let r := putNode g n
  to_.foldl (fun g m => linkTo g r.1 kind false m) r.2

/-- The adapters from which a message awaits acknowledgement. -/
def State.awaits (s : State) (r : SRec) : List AdapterId :=
  if r.mcast then (ranksOf r.members).map (s.memberId (s.mc r.dst.toNat)) else [r.dst]

/-- Step 1: blocked slots, rings blocked at a launch, and messages. (Log 107: DESIGN CHOICE.) -/
def State.blockedGraph (s : State) : Graph :=
  let g1 := allSlots.foldl (fun (g : Graph) i =>
    match s.slotBlock i with
    | some b => putWith g b.1 1 b.2
    | none => g) ([], [])
  let g2 := s.rings.foldl (fun (g : Graph) e =>
    if e.2.descs.any (fun d => d.phase == .waiting) then (putNode g (bareNode 4 1 s.me e.1)).2 else g) g1
  (s.srecs.filter (fun r => r.typ != 4)).foldl (fun (g : Graph) r =>
    putWith g (s.msgNode r) 3 ((s.awaits r).map (fun a => bareNode 5 0 a 0))) g2

/-- The semaphore nodes of this adapter, with their indices. -/
def State.semNodes (s : State) (g : Graph) : List (Nat × BitVec 16) :=
  (g.1.zipIdx).filterMap (fun e =>
    if bits e.1.w0 0 8 = 2 ∧ bits e.1.w0 16 16 = s.me.toNat then some (e.2, BitVec.ofNat 16 (bits e.1.w0 32 16)) else none)

/-- Step 2: the raisers of every semaphore node. -/
def State.raiserGraph (s : State) (g : Graph) : Graph :=
  (s.semNodes g).foldl (fun (g : Graph) e =>
    let g1 := allSlots.foldl (fun (g : Graph) i =>
      match s.canRaise i s.me e.2 with
      | some u => linkTo g e.1 2 u (bareNode 1 (if u then 4 else 0) s.me i)
      | none => g) g
    (s.producers e.2).foldl (fun g n => linkTo g e.1 2 false n) g1) g

/-! ## Answers (R458) -/

/-- A node as an answer carries it. -/
def peerNode (n : GNode) : PeerNode :=
  ⟨BitVec.ofNat 8 (bits n.w0 0 8), BitVec.ofNat 8 (bits n.w0 8 8), BitVec.ofNat 32 (bits n.w0 32 32), n.w1, n.w2, n.w3⟩

/-- The answer to query 1: each slot that can raise the semaphore, followed by what it waits for, a semaphore followed by
its producers and a message by the adapters from which it awaits acknowledgement. -/
def State.raisersAnswer (s : State) (ad : AdapterId) (id : BitVec 16) : List PeerNode :=
  allSlots.flatMap (fun i =>
    match s.canRaise i ad id with
    | none => []
    | some u =>
      let b := (s.slotBlock i).getD (bareNode 1 0 s.me i, [])
      let p := peerNode b.1
      { p with flags := if u then p.flags ||| 4 else p.flags } :: b.2.flatMap (fun n =>
        peerNode n :: (match bits n.w0 0 8 with
          | 2 => (s.producers (BitVec.ofNat 16 (bits n.w0 32 16))).map peerNode
          | 3 =>
            match s.srecs.find? (fun r => r.msg.toNat == bits n.w0 32 32) with
            | some r => (s.awaits r).map (fun a => ⟨5, 0, a.setWidth 32, 0, 0, 0⟩)
            | none => []
          | _ => [])))

/-- The answer to query 2: the sender records for an adapter, with state and packets unacknowledged. -/
def State.sendersAnswer (s : State) (ad : AdapterId) : List PeerNode :=
  (s.srecs.filter (fun r => (s.awaits r).contains ad)).map (fun r =>
    let got := ((List.range (r.last + 1)).filter (fun i => r.acked.testBit i || decide (i < r.cum))).length
    { peerNode (s.msgNode r) with
      w1 := match r.status with | some st => st.setWidth 64 | none => 0
      w2 := BitVec.ofNat 64 (r.last + 1 - got) })

/-- Where the nodes of an answer hang: the semaphore asked about, and the slot, semaphore and message last seen in it. -/
structure Graft where
  root : Option Nat
  slot : Option Nat
  sem  : Option Nat
  msg  : Option Nat
  deriving DecidableEq, Repr

/-- An edge from a node that there is. -/
def edgeFrom (g : Graph) (src : Option Nat) (dst kind : Nat) (unsure : Bool) : Graph :=
  match src with
  | some i => putEdge g ⟨i, dst, kind, unsure⟩
  | none => g

/-- Adds one node of a peer's answer. -/
def graftNode (peer : AdapterId) (a : Graft × Graph) (p : PeerNode) : Graft × Graph :=
  let ad : AdapterId := if p.kind = 5 then p.ident.setWidth 16 else peer
  let ident : BitVec 32 := if p.kind = 5 then 0 else p.ident
  let r := putNode a.2 ⟨nodeWord p.kind.toNat p.flags.toNat ad ident, p.w1, p.w2, p.w3⟩
  match p.kind.toNat with
  | 1 => ({ a.1 with slot := some r.1, sem := none, msg := none }, edgeFrom r.2 a.1.root r.1 2 (p.flags.getLsbD 2))
  | 2 => ({ a.1 with sem := some r.1 }, edgeFrom r.2 a.1.slot r.1 1 false)
  | 3 => ({ a.1 with msg := some r.1 }, edgeFrom r.2 a.1.slot r.1 1 false)
  | 5 => (a.1, edgeFrom r.2 a.1.msg r.1 3 false)
  | 8 => (a.1, edgeFrom r.2 a.1.slot r.1 1 false)
  | 4 => (a.1, r.2)
  | _ => (a.1, edgeFrom r.2 a.1.sem r.1 2 false)

/-- Adds a peer's answer, about semaphore `sem` of adapter `me` or about sender records. -/
def graft (me peer : AdapterId) (sem : Option (BitVec 16)) (g : Graph) (ps : List PeerNode) : Graph :=
  match sem with
  | some id =>
    let r := putNode g (bareNode 2 0 me id.toNat)
    (ps.foldl (graftNode peer) (⟨some r.1, none, none, none⟩, r.2)).2
  | none => (ps.foldl (graftNode peer) (⟨none, none, none, none⟩, g)).2

/-! ## Analysis (R457, step 4) -/

/-- The nodes that can be reached from those of `l` in one step more. -/
def stepReach (es : List GEdge) (l : List Nat) : List Nat :=
  (l ++ (es.filter (fun e => l.contains e.src)).map (·.dst)).eraseDups

/-- The nodes reached in up to `n` further steps. -/
def reach (es : List GEdge) : Nat → List Nat → List Nat
  | 0, l => l
  | n + 1, l => reach es n (stepReach es l)

/-- A node lies on a cycle. -/
def onCycle (g : Graph) (i : Nat) : Bool :=
  (reach g.2 g.1.length ((g.2.filter (fun e => e.src = i)).map (·.dst))).contains i

/-- The nodes with cycle and leaf marks. -/
def marked (g : Graph) : List GNode :=
  (g.1.zipIdx).map (fun e =>
    let w := if onCycle g e.2 then e.1.w0 ||| 0x200#64 else e.1.w0
    { e.1 with w0 := if g.2.any (fun d => d.src = e.2) then w else w ||| 0x800#64 })

/-- Section 13 of the dump. -/
def graphBytes (g : Graph) : List Byte :=
  let ns := (marked g).flatMap (fun n => [n.w0, n.w1, n.w2, n.w3])
  let es := g.2.flatMap (fun e =>
    [BitVec.ofNat 64 (e.src + e.dst * 2 ^ 32), BitVec.ofNat 64 (e.kind + b2n e.unsure * 2 ^ 4)])
  ([BitVec.ofNat 64 g.1.length, BitVec.ofNat 64 g.2.length] ++ ns ++ es).flatMap (fun (w : Word) => leBytes w.toNat 8)

end Sys2Proof.Machine
end

