-- ==== Sys2Proof/Machine/Nightwatch.lean ====
section
/-!
DEFINITION. Nightwatch (R452–R457): declaring a hang, the dump, the wait-for graph, resume and abort; management queries
between adapters (R458); and the boundary-scan instruction register (R475).
-/

namespace Sys2Proof.Machine

/-! ## Watching and declaring (R452, R453) -/

/-- hang_ms in ps. -/
def State.hangPs (s : State) : Nat := ms (s.fld Reg.DBG_NW_CFG 16 16)

/-- A slot is watched and has made no progress for hang_ms: it is not idle, and a TWAIT that holds it has reached its
target that long ago. (Log 105: DESIGN CHOICE.) -/
def State.slotHung (s : State) (i : Nat) : Bool :=
  let x := s.slot i
  x.phase != .idle && decide (max x.progress s.night.fresh + s.hangPs ≤ s.ps)
    && (match x.wait with
      | some (.until_ t) => decide (t.toNat + s.hangPs / 1000 ≤ s.nowNs)
      | _ => true)

/-- A ring is watched and has made no progress for hang_ms. (Log 105: DESIGN CHOICE.) -/
def State.ringHung (s : State) (r : Nat) : Bool :=
  let g := tget Ring.init s.rings r
  bit g.cfg1 27 && g.tail != g.head && g.phase != .stopped && g.phase != .error
    && decide (max g.progress s.night.fresh + s.hangPs ≤ s.ps)

/-- Zenith has written no heartbeat for hang_ms or for 100 ms. (Log 105: DESIGN CHOICE.) -/
def State.zenithHung (s : State) : Bool :=
  s.running && decide (max s.night.beat s.night.fresh + min s.hangPs (ms 100) ≤ s.ps)

/-- Declares a hang: cause and object are recorded, the state becomes HALTING, and every program slot stops issuing.
(Log 105: DESIGN CHOICE.) -/
def State.declareHang (s : State) (cause object : Nat) : State :=
  let v := putBits (putBits (putBits (s.reg Reg.DBG_NW_STATUS) 0 3 1) 3 3 cause) 32 32 object
  { s.setReg Reg.DBG_NW_STATUS v with
    slots := s.slots.map (fun e =>
      (e.1, if e.2.phase = .running ∨ e.2.phase = .loading then { e.2 with halted := true } else e.2))
    night := { s.night with
      at_ := s.now, cometAt := s.reg Reg.DBG_COMET_WPTR, cometSt := (s.readReg 0 Reg.DBG_COMET_STATUS).1
      asked := [], relays := [], nodes := [], edges := [] } }

/-- HANG_DETECT: Nightwatch finds an object without progress; with hang_en at 0 or a hang in progress nothing is declared. -/
def execHangDetect (w : Watched) (s : State) : Out :=
  if !s.alive || !s.flag Reg.DBG_NW_CFG 0 || !s.watching then .next s
  else match w with
    | .slot sl => if s.slotHung sl then .next (s.declareHang 1 sl) else .next s
    | .ring r => if s.ringHung r.toNat then .next (s.declareHang 2 r.toNat) else .next s
    | .zenith => if s.zenithHung then .next (s.declareHang 3 0) else .next s

/-- ZENITH_HEARTBEAT. -/
def execZenithHeartbeat (s : State) : Out :=
  if s.alive && s.running then .next { s with night := { s.night with beat := s.ps } } else .next s

/-- The status of a DBG_NW_CMD write. -/
def State.nwStatus (s : State) (st : Status) : State := s.setFld Reg.DBG_NW_STATUS 16 16 st.toNat

/-- Op 1 of DBG_NW_CMD; discarded while a hang is handled. -/
def State.nwDeclare (s : State) : State := if s.watching then (s.declareHang 4 0).nwStatus St.ok else s

/-- DECLARE. -/
def execDeclare (p : Path) (s : State) : Out := .next (s.mapWrite p Reg.DBG_NW_CMD State.nwDeclare)

/-! ## The dump (R454) -/

/-- The dump area: the last 256 MiB of the trace region. -/
def State.dumpBase (s : State) : Option Nat := s.traceRgn.map (fun r => r.1 + r.2 - 2 ^ 28)

/-- The sections of the dump with their lengths; the graph's is the most that it may take. -/
def dumpSections : List (Nat × Nat) :=
  [(1, 0x200000), (2, 0x14000), (3, 0x40000), (4, 0x10000), (5, 0x200000), (6, 0x500000), (7, 0x82000),
   (8, 0x200000), (9, 0x6000000), (10, 0x2000000), (11, 0x1000), (12, 0x1000), (13, 0x1000000)]

/-- Where a section begins, from the start of the area. (Log 106: DESIGN CHOICE.) -/
def sectionAt (id : Nat) : Nat :=
  0x1000 + ((dumpSections.filter (fun e => e.1 < id)).map (·.2)).foldl (· + ·) 0

/-- Writes bytes of the dump. -/
def State.dumpPut (s : State) (base off : Nat) (bs : List Byte) : State := s.ownStore (base + off) bs

/-- Writes words of the dump. -/
def State.dumpWords (s : State) (base off : Nat) (ws : List Word) : State :=
  s.dumpPut base off (ws.flatMap (fun w => leBytes w.toNat 8))

/-- A section whose content or layout the spec leaves open. -/
def State.dumpOpen (s : State) (base id : Nat) : State :=
  let n := ((dumpSections.find? (fun e => e.1 = id)).map (·.2)).getD 0
  let s1 := s.dumpPut base (sectionAt id) ((List.range n).map (fun i => Config.coreDump (s.free * 2 ^ 28 + i)))
  { s1 with free := s1.free + 1 }

/-- The header, up to the directory; the word valid, last in the header's 4 KiB, is written apart.
(Log 106: DESIGN CHOICE.) -/
def State.dumpHeader (s : State) (base : Nat) (ids : List Nat) : State :=
  let secs := dumpSections.filter (fun e => ids.contains e.1)
  let st := s.reg Reg.DBG_NW_STATUS
  s.dumpWords base 0
    (([0x4E574450#64, 1, s.me.setWidth 64, s.night.at_, BitVec.ofNat 64 (bits st 3 3), BitVec.ofNat 64 (bits st 32 32),
        BitVec.ofNat 64 secs.length]
      ++ secs.flatMap (fun e => [BitVec.ofNat 64 (e.1 + sectionAt e.1 * 2 ^ 32), BitVec.ofNat 64 e.2])
      ++ List.replicate 505 (0 : Word)).take 512)

/-- Section 1: every BAR0 register as a read returns it, with RC registers as zero. (Log 106: DESIGN CHOICE.) -/
def State.dumpRegs (s : State) (base : Nat) : State :=
  (List.range 0x40000).foldl (fun (t : State) k =>
    let r := if isStat (8 * k) then (0, t) else t.readReg 0 (8 * k)
    r.2.dumpWords base (sectionAt 1 + 8 * k) [r.1]) s

/-- Section 7: the semaphore values, then the waiter entries. -/
def State.dumpSems (s : State) (base : Nat) : State :=
  (s.dumpOpen base 7).dumpWords base (sectionAt 7) ((List.range 65536).map (fun i => s.semValue (BitVec.ofNat 16 i)))

/-- Section 8: the instruction memories, cluster by cluster; what no resident image occupies is left open. -/
def State.dumpImem (s : State) (base : Nat) : State :=
  s.images.foldl (fun (t : State) r =>
    t.dumpPut base (sectionAt 8 + 16 * (16384 * r.clu + r.base)) (r.words.flatMap (fun w => leBytes w.toNat 16)))
    (s.dumpOpen base 8)

/-- Section 11: the chaining state of the cores that hold a suspended packet. -/
def State.dumpChains (s : State) (base : Nat) : State :=
  (List.range 56).foldl (fun (t : State) i =>
    match (s.core i).susp with
    | some x => t.dumpPut base (sectionAt 11 + 72 * i) (s.chainRecord x.2)
    | none => t) (s.dumpOpen base 11)

/-- The first twelve sections. (Log 106: DESIGN CHOICE.) -/
def State.dumpAll (s : State) (base : Nat) : State :=
  let s1 := (((s.dumpHeader base (dumpSections.map (·.1))).dumpRegs base).dumpOpen base 2).dumpOpen base 3
  let s2 := ((s1.dumpOpen base 4).dumpOpen base 5).dumpOpen base 6
  let s3 := (s2.dumpSems base).dumpImem base
  let s4 := (s3.dumpPut base (sectionAt 9) (readTab s.tmem 0 0x6000000)).dumpPut base (sectionAt 10)
    (readTab s.nbuf 0 0x2000000)
  ((s4.dumpChains base).dumpOpen base 12).dumpWords base (sectionAt 12) [s.night.cometAt, s.night.cometSt]

/-- What Nightwatch itself copies when Zenith has stopped. -/
def State.dumpOwn (s : State) (base : Nat) : State := ((s.dumpHeader base [1, 4]).dumpRegs base).dumpOpen base 4

/-! ## Management frames (R458) -/

/-- Adapters of this row and column that are not marked down. -/
def State.linePeers (s : State) : List AdapterId :=
  let row := (List.range 64).filter (fun c => c ≠ colOf s.me ∧ !(s.reg Reg.FAB_ROW_DOWN).getLsbD c)
  let col := (List.range 64).filter (fun r => r ≠ rowOf s.me ∧ !(s.reg Reg.FAB_COL_DOWN).getLsbD r)
  row.map (fun c => BitVec.ofNat 16 (gridOf s.me * 4096 + rowOf s.me * 64 + c))
    ++ col.map (fun r => BitVec.ofNat 16 (gridOf s.me * 4096 + r * 64 + colOf s.me))

/-- The sub-ports through which a management frame can go to an adapter of this row or column.
(Log 60: DESIGN CHOICE.) -/
def State.mgmtPorts (s : State) (dst : AdapterId) : List Nat :=
  match s.hop dst with
  | .line r next =>
    if next = dst then
      allSubs.filter (fun i => s.role (i / 4) = r && decide (i % 4 < s.subCount (i / 4)) && (s.sub (i / 4) (i % 4)).isUp
        && (!s.direct || (s.sub (i / 4) (i % 4)).peer == dst))
    else []
  | _ => []

/-- Queues a management frame on sub-port `i` in the class of mgmt_pcp, with its length left open; it is lost when the
sub-port is not up or has no room. (Log 60: DESIGN CHOICE.) -/
def State.mgmtVia (s : State) (i : Nat) (dst : AdapterId) (q : Option MgmtQuery) (nodes : List PeerNode) : State :=
  let len := 64 + s.takeFree.1.toNat % 1455
  let x := s.sub (i / 4) (i % 4)
  if !x.isUp || !s.egressFits i len then s.takeFree.2
  else s.takeFree.2.enqueue i
    { prio := s.fld Reg.FAB_MGMT 0 3, len := len, vc := 3, vid := s.vid (i / 4)
      body := .mgmt (if s.direct then x.peerMac else s.portMac (i / 4) (i % 4) dst) dst q nodes, seq := 0, sentAt := 0
      stalled := false }

/-- Sends a query to an adapter of this row or column on one of its planes; which one is left open.
(Log 60: DESIGN CHOICE.) -/
def State.mgmtTo (s : State) (dst : AdapterId) (q : MgmtQuery) : State :=
  let ps := s.mgmtPorts dst
  if ps.isEmpty then s
  else
    let f := s.takeFree
    f.2.mgmtVia (ps.getD (f.1.toNat % ps.length) 0) dst (some q) []

/-- Asks one peer about a semaphore of this adapter, or about the peer's sender records; an adapter of no shared line is
asked through the adapter of this row in its column, or if that is marked down through the one of this column in its row. -/
def State.askPeer (s : State) (peer : AdapterId) (sem : Option (BitVec 16)) : State :=
  let s1 : State := { s with night := { s.night with asked := s.night.asked ++ [⟨peer, sem, s.ps, true⟩] } }
  if s.linePeers.contains peer then
    s1.mgmtTo peer (match sem with | some id => .raisers s.me id | none => .senders s.me)
  else if gridOf peer ≠ gridOf s.me then s1
  else
    let viaCol : AdapterId := BitVec.ofNat 16 (gridOf s.me * 4096 + rowOf peer * 64 + colOf s.me)
    s1.mgmtTo (if s.linePeers.contains (s.viaRow peer) then s.viaRow peer else viaCol) (.relay peer sem)

/-- Step 3 of R457: what this adapter asks. (Log 107: DESIGN CHOICE.) -/
def State.askAll (s : State) (g : Graph) : State :=
  let sems := (s.semNodes g).filter (fun e => bit (s.semPage e.2) 9)
  let s1 := sems.foldl (fun (t : State) e => s.linePeers.foldl (fun (u : State) p => u.askPeer p (some e.2)) t) s
  (g.1.filter (fun n => bits n.w0 0 8 = 5)).foldl (fun (t : State) n => t.askPeer (BitVec.ofNat 16 (bits n.w0 16 16)) none) s1

/-- Steps 1 to 3 of R457: the graph of this adapter, and the queries to its peers. (Log 107: DESIGN CHOICE.) -/
def State.graphStart (s : State) : State :=
  let g := s.raiserGraph s.blockedGraph
  { s.askAll g with night := { (s.askAll g).night with nodes := g.1, edges := g.2 } }

/-- The state of Nightwatch. -/
def State.nwGo (s : State) (st : Nat) : State := s.setFld Reg.DBG_NW_STATUS 0 3 st

/-- The dump is made and its end reported (R453, steps 4 and 5). -/
def State.dumped (s : State) : State :=
  let st := s.reg Reg.DBG_NW_STATUS
  let cause := bits st 3 3
  let s1 := match s.dumpBase with
    | some b => if cause = 3 then (s.nwGo 2).dumpOwn b else (s.nwGo 2).dumpAll b
    | none => s
  let s2 := (s1.nwGo 3).fault 256 { faultRec s.now St.timeout 7 0 with
    w4 := BitVec.ofNat 64 cause, w5 := BitVec.ofNat 64 (bits st 32 32) }
  let s3 := if s.flag Reg.DBG_NW_CFG 1 then s2.msix 0 (s.fld Reg.DBG_NW_CFG 2 11) else s2
  if cause = 3 ∨ s.dumpBase.isNone then s3 else s3.graphStart

/-- DUMP_COMPLETE. -/
def execDumpComplete (s : State) : Out :=
  if s.alive && s.fld Reg.DBG_NW_STATUS 0 3 == 1 then .next s.dumped else .next s

/-- The graph is complete: every query is answered or given up. -/
def State.graphReady (s : State) : Bool :=
  s.fld Reg.DBG_NW_STATUS 0 3 == 3 && s.fld Reg.DBG_NW_STATUS 3 3 != 3 && !s.night.asked.any (fun q => q.due)

/-- Step 4 of R457, section 13 and the word valid. -/
def State.graphDone (s : State) : State :=
  match s.dumpBase with
  | some b =>
    ((s.dumpPut b (sectionAt 13) ((graphBytes (s.night.nodes, s.night.edges)).take 0x1000000)).dumpWords b 0xFF8 [1]).nwGo 4
  | none => s

/-- GRAPH_BUILD. -/
def execGraphBuild (s : State) : Out := if s.alive && s.graphReady then .next s.graphDone else .next s

/-! ## Resume and abort (R456) -/

/-- Halted slots and the rings go on; Nightwatch watches afresh. -/
def State.unhalt (s : State) : State :=
  { (s.nwGo 0).nwStatus St.ok with
    slots := s.slots.map (fun e => (e.1, { e.2 with halted := false }))
    night := { s.night with fresh := s.ps } }

/-- The slots that are halted. -/
def State.haltedSlots (s : State) : List Nat := allSlots.filter (fun i => (s.slot i).halted)

/-- A hang can be ended: state DUMPED or GRAPH_READY. -/
def State.nwEnds (s : State) : Bool := s.fld Reg.DBG_NW_STATUS 0 3 == 3 || s.fld Reg.DBG_NW_STATUS 0 3 == 4

/-- Op 2 of DBG_NW_CMD. -/
def State.nwResume (s : State) : State := if s.nwEnds then s.unhalt else s.nwStatus St.badDescriptor

/-- Op 3: the halted slots stop with ABORTED. -/
def State.nwAbort (s : State) : State :=
  if s.nwEnds then s.haltedSlots.foldl (fun (t : State) i => t.slotStop i) s.unhalt else s.nwStatus St.badDescriptor

/-- RESUME. -/
def execResume (p : Path) (s : State) : Out := .next (s.mapWrite p Reg.DBG_NW_CMD State.nwResume)

/-- ABORT. -/
def execAbort (p : Path) (s : State) : Out := .next (s.mapWrite p Reg.DBG_NW_CMD State.nwAbort)

/-! ## Queries and answers (R458) -/

/-- Zenith firmware takes management frames: it runs and mgmt_en is 1. (Log 61: DEDUCED.) -/
def State.mgmtOn (s : State) : Bool := s.alive && s.running && s.flag Reg.DBG_CTRL 12

/-- A query from `src`, received on sub-port `i`. (Log 61: DEDUCED.) -/
def State.mgmtQuery (s : State) (i : Nat) (src : AdapterId) : MgmtQuery → State
  | .raisers ad id => s.mgmtVia i src none (s.raisersAnswer ad id)
  | .senders ad => s.mgmtVia i src none (s.sendersAnswer ad)
  | .relay ad sem =>
    if s.linePeers.contains ad then
      let s1 : State := { s with night := { s.night with relays := s.night.relays ++ [⟨i / 4, i % 4, src, ad, sem⟩] } }
      s1.mgmtTo ad (match sem with | some id => .raisers src id | none => .senders src)
    else s

/-- MANAGEMENT_QUERY. -/
def execManagementQuery (port : Fin 6) (sub : Fin 4) (src : AdapterId) (query : MgmtQuery) (s : State) : Out :=
  if s.mgmtOn then .next (s.mgmtQuery (4 * port.val + sub.val) src query) else .next s

/-- Relayed answers go back to those that asked. -/
def State.relayBack (s : State) (peer : AdapterId) (sem : Option (BitVec 16)) (nodes : List PeerNode) : State :=
  let mine := s.night.relays.filter (fun r => r.peer == peer && r.sem == sem)
  let s1 : State := { s with night := { s.night with relays := s.night.relays.filter (fun r => !(r.peer == peer && r.sem == sem)) } }
  mine.foldl (fun (t : State) r => t.mgmtVia (4 * r.port + r.sub) r.src none nodes) s1

/-- An answer to an open query of this adapter adds its nodes and edges. (Log 107: DESIGN CHOICE.) -/
def State.takeAnswer (s : State) (peer : AdapterId) (sem : Option (BitVec 16)) (nodes : List PeerNode) : State :=
  let mine := fun (q : Query) => q.due && q.peer == peer && q.sem == sem
  if s.night.asked.any mine then
    let g := graft s.me peer sem (s.night.nodes, s.night.edges) nodes
    { s with night := { s.night with
        asked := s.night.asked.map (fun q => if mine q then { q with due := false } else q), nodes := g.1, edges := g.2 } }
  else s

/-- MANAGEMENT_ANSWER. (Log 61: DEDUCED.) -/
def execManagementAnswer (peer : AdapterId) (sem : Option (BitVec 16)) (nodes : List PeerNode) (s : State) : Out :=
  if s.mgmtOn then .next ((s.relayBack peer sem nodes).takeAnswer peer sem nodes) else .next s

/-- The queries to a peer that have been open for 10 ms. -/
def State.lateQuery (s : State) (peer : AdapterId) (q : Query) : Bool :=
  q.due && q.peer == peer && decide (q.sent + ms 10 ≤ s.ps)

/-- A peer that does not answer becomes an unresponsive node. (Log 107: DESIGN CHOICE.) -/
def State.unresponsive (s : State) (peer : AdapterId) : State :=
  let g := (putNode (s.night.nodes, s.night.edges) (bareNode 5 0x10 peer 0)).2
  { s with night := { s.night with
      asked := s.night.asked.map (fun q => if s.lateQuery peer q then { q with due := false } else q)
      nodes := g.1, edges := g.2 } }

/-- PEER_QUERY_TIMEOUT. -/
def execPeerQueryTimeout (peer : AdapterId) (s : State) : Out :=
  if s.alive && s.night.asked.any (s.lateQuery peer) then .next (s.unresponsive peer) else .next s

/-! ## JTAG (R475) -/

/-- The value of the IDCODE register (R475). -/
def jtagIdcode : BitVec 32 := 0x14800B75

/-- The address of the management port on SMBus (R472). -/
def State.smbusAddr (s : State) : BitVec 7 := 0x64 + s.boot.smb.setWidth 7

/-- JTAG_INSTRUCTION_LOAD: EXTEST is accepted only while POR_N is asserted, which it is in no state of the model, and any
instruction that is not implemented acts as BYPASS. (Log 108: PRESUMED.) -/
def execJtagInstructionLoad (ir : JtagIr) (s : State) : Out :=
  .next { s with jtag := match ir with
    | .idcode => .idcode
    | .sample => .sample
    | _ => .bypass }

end Sys2Proof.Machine
end

