-- ==== Sys2Proof/Machine/Transport.lean ====
section
/-!
DEFINITION. Fetches of contexts and window entries that complete (R229, R238), writes that are acknowledged (R53, R244), and
writes to adapter memory that commit after their back-invalidations (R315).
-/

namespace Sys2Proof.Machine

/-! ## Contexts (R229) -/

/-- The packets parked for a context, oldest first, go on from step 6; a failed read of the store refuses them.
(Log 41: DEDUCED.) -/
def State.unparkCtx (s : State) (c : BitVec 20) (ok : Bool) : State :=
  (s.parked.filter (fun q => q.why = .ctx ∧ q.rx.pkt.dstCtx = c)).foldl (fun s q =>
    let s1 : State := { s with parked := s.parked.erase q }
    if ok then (s1.useCtx c).rxFrom6 q.rx q.upset
    else if q.rx.pkt.typ = 5 then s1
    else s1.refuse q.rx St.uncorrectable) s

/-- A hardware fetch of `n` bytes of a table in adapter memory: whether it failed, with the word counted and logged as any
other read (R364, R365). `ok` is false where a datapath word on its way is uncorrectable (R361). (Log 41: DEDUCED.) -/
def State.hwFetch (s : State) (a n : Nat) (ok : Bool) : Bool × State :=
  if !ok then (true, s.bump (Reg.MEM_CNT 10)) else (s.readMem 0 a n).2

/-- A context fetch completes; not while the context's write-back is on its way. (Log 41: DEDUCED.) -/
def State.ctxFetched (s : State) (c : BitVec 20) (ok : Bool) : State :=
  if !(s.ctx c).fetching || s.storing (s.ctxAt c.toNat) 256 then s
  else
    let f := s.hwFetch (s.ctxAt c.toNat) 256 ok
    let s1 := (f.2.updCtx c (fun x => { x with fetching := false, resident := !f.1 })).useCtx c
    let s2 := s1.unparkCtx c (!f.1)
    let s3 := if f.1 then (s2.txq.filter (fun r => r.srcCtx = c)).foldl (fun s r => s.endReq r St.uncorrectable) s2 else s2
    s3.pumpFetch

/-- CONTEXT_FETCH_COMPLETE. -/
def execContextFetchComplete (ctx : BitVec 20) (ok : Bool) (s : State) : Out :=
  if s.alive then .next (s.ctxFetched ctx ok) else .next s

/-! ## Window entries (R238) -/

/-- Starts the fetches that packets parked for windows wait for, as far as entries can leave the cache. -/
def State.pumpWins (s : State) : State :=
  s.parked.foldl (fun s q => match q.why with
    | .win w => s.fetchWin w
    | _ => s) s

/-- The packets parked for a window entry, oldest first, go on at their window's checks, and draw no BUSY (R238); a failed
read of the table refuses them. (Log 41: DEDUCED.) -/
def State.unparkWin (s : State) (w : Nat) (ok : Bool) : State :=
  (s.parked.filter (fun q => q.why = .win w)).foldl (fun s q =>
    let s1 : State := { s with parked := s.parked.erase q }
    if ok then (if q.rx.pkt.typ = 4 then s1.rxRead q.rx else s1.rxFrom8 q.rx q.upset)
    else if q.rx.pkt.typ = 4 then s1.nack q.rx St.uncorrectable
    else s1.rxFail q.rx St.uncorrectable) s

/-- A fetch of a window entry completes; not while the entry's write-back is on its way. (Log 41: DEDUCED.) -/
def State.winFetched (s : State) (w : Nat) (ok : Bool) : State :=
  if !(s.win w).fetching || s.storing (s.winAt w) 64 then s
  else
    let f := s.hwFetch (s.winAt w) 64 ok
    (((f.2.updWin w (fun x => { x with fetching := false, cached := !f.1 })).useWin w).unparkWin w (!f.1)).pumpWins

/-- WINDOW_ENTRY_FETCH_COMPLETE. -/
def execWindowEntryFetchComplete (win : BitVec 20) (ok : Bool) (s : State) : Out :=
  if s.alive then .next (s.winFetched win.toNat ok) else .next s

/-! ## Writes (R53) -/

/-- A write ends, well or with an error. (Log 49: DEDUCED.) -/
def State.writeEnded (s : State) (k : WriteKind) (ok : Bool) : State :=
  match k with
  | .seg op g =>
    match (s.op? op).bind (fun o => (o.seg? g).map (fun x => (o, x))) with
    | none => s.settle
    | some (o, x) =>
      if !ok then (s.failSeg op g St.uncorrectable).settle
      else if x.writes ≤ 1 then (s.segDone o g).settle
      else s.updSeg op g (fun x => { x with writes := x.writes - 1 })
  | .rx src m idx w => if ok then s.rxWriteDone src m w else s.rxLate src m idx w
  | .acc src m idx w => (if ok then s.rxWriteDone src m (some w) else s.rxLate src m idx (some w)).accNext
  | .accMem .. => s
  | .resp m i =>
    if ok then s.respDone m i
    else match s.srec? m with
      | some r => s.endMsg r St.uncorrectable
      | none => s
  | .hdm _ => s
  | .store => s

/-- A write over H of a message, or of the responses to a GET, is acknowledged by the flushing read that its last packet
brings (R53, R251). -/
def State.flushedOf (s : State) (w : WriteReq) : Bool :=
  w.port != some .h || (match w.kind with
    | .rx src m _ _ => (s.rrec? src m).all (·.flushed)
    | .acc src m _ _ => (s.rrec? src m).all (·.flushed)
    | .resp m _ => (s.srec? m).all s.respAll
    | _ => true)

/-- WRITE_ACKNOWLEDGED: a write outside the adapter is acknowledged at its destination, or ends with an error. -/
def State.writeAcked (s : State) (id : Nat) (ok : Bool) : State :=
  match s.writes.find? (fun w => w.id = id ∧ w.port.isSome) with
  | none => s
  | some w =>
    if !s.inOrder (s.writeSource w) w.port id || !s.flushedOf w then s
    else { s with writes := s.writes.filter (fun x => x.id ≠ id) }.writeEnded w.kind ok

/-- WRITE_ACKNOWLEDGED. -/
def execWriteAcknowledged (id : Nat) (ok : Bool) (s : State) : Out := if s.alive then .next (s.writeAcked id ok) else .next s

/-- The port over which a write arrived, whose own package needs no back-invalidation (R315). -/
def WriteKind.over : WriteKind → Option Nat
  | .hdm q => some q
  | _ => none

/-- The lines of a waiting write that packages have recorded again while it waited. -/
def State.linesAgain (s : State) (w : WriteReq) : List (Nat × Nat) :=
  match w.kind with
  | .accMem p _ _ => match s.targetOf p with
    | some t => s.accLines t
    | none => []
  | k => s.linesBe w.addr w.bytes k.over

/-- A write to adapter memory whose back-invalidations have all been answered commits. -/
def State.commitNow (s : State) (w : WriteReq) : State :=
  let s1 : State := { s with writes := s.writes.filter (fun x => x.id ≠ w.id) }
  match w.kind with
  | .accMem p _ up =>
    match s1.targetOf p with
    | some t => s1.accInside ⟨p, true, 0, false, ((s1.rrec? p.src p.msg).map (·.tc)).getD 0⟩ t up
    | none => s1
  | k =>
    let r := s1.writeMemBe w.inst w.addr w.bytes
    r.2.writeEnded k (!r.1)

/-- A waiting write commits, unless a package has recorded one of its lines again: that line is given back first (R315). -/
def State.commitWrite (s : State) (w : WriteReq) : State :=
  let ls := s.linesAgain w
  if ls.isEmpty then s.commitNow w
  else ({ s with writes := s.writes.map (fun (x : WriteReq) => if x.id = w.id then { x with lines := ls } else x) } : State).askLines ls

/-- A back-invalidation of a line is outstanding. -/
def State.lineAsked (s : State) (q line : Nat) : Bool :=
  s.freeing.contains (q, line) || s.writes.any (fun w => w.lines.contains (q, line))

/-- A package has given a line back: it leaves the filter, and the writes that wait for no other line commit. -/
def State.lineBack (s : State) (q line : Nat) : State :=
  if !s.lineAsked q line then s else
  let s1 : State := { s with
    filter := s.filter.filter (fun e => e ≠ (q, line))
    freeing := s.freeing.filter (fun e => e ≠ (q, line))
    writes := s.writes.map (fun w => { w with lines := w.lines.filter (fun e => e ≠ (q, line)) }) }
  (s.writes.filter (fun w => w.lines.contains (q, line))).foldl (fun s w =>
    match s.writes.find? (fun x => x.id = w.id) with
    | some x => if x.lines.isEmpty then s.commitWrite x else s
    | none => s) s1

end Sys2Proof.Machine
end

