-- ==== Sys2Proof/Machine/Pio.lean ====
section
/-!
DEFINITION. Plain accesses other than BAR0's: BAR2 (R312), the PIO send window (R317–R321), and the HDM range of an attach
port with its aperture (R314–R316).
-/

namespace Sys2Proof.Machine

/-! ## BAR2 (R312) -/

/-- A write to an aligned 8-byte word of the doorbell and cell ranges; other offsets discard it. -/
def State.bar2Word (s : State) (p : Path) (a : Nat) (v : Word) (be : BitVec 8) : State :=
  if a < 0x100000 then
    if a % 0x40 = 0 ∧ be ≠ 0 ∧ s.bellPath p then s.doorbell p (a / 0x40) v (be == 0xFF) else s
  else if 0x2000000 ≤ a ∧ a < 0x2400000 ∧ s.cellPath p then
    s.cellWord p (BitVec.ofNat 16 ((a - 0x2000000) / 0x40)) (a % 0x40 / 8) v be
  else s

/-! ## The PIO window (R317–R321) -/

/-- XLT_INST_CFG0 of an instance; nothing sets I0's. -/
def State.instCfg0 (s : State) (i : BitVec 8) : Word :=
  match tget none s.insts i.toNat with
  | some c => c.c0
  | none => 0

/-- The instance and the global slot that a path's slot names (R317). -/
def State.pioSlot (s : State) (p : Path) (slot : Nat) : Option (BitVec 8 × Nat) :=
  match p with
  | .vf i =>
    match tget none s.insts i.toNat with
    | some c => if slot < (c.range .pios).2 then some (i, (c.range .pios).1 + slot) else none
    | none => none
  | .bmc => none
  | _ => some (s.holder .pios slot, slot)

/-- The bit of a path in pio_paths. -/
def pioBit : Path → Nat
  | .att q => 1 + q.val
  | _ => 0

/-- The path has a PIO window. -/
def State.pioPath (s : State) (p : Path) : Bool :=
  s.alive && s.pathUp p && match p with
    | .bmc => false
    | .vf i => s.vfUp i
    | _ => true

/-- A trigger starts no message (R321). (Log 74: DEDUCED.) -/
def State.pioBad (s : State) (i : BitVec 8) (t : List Word) : Bool :=
  let w0 := t.getD 0 0
  let w1 := t.getD 1 0
  let w2 := t.getD 2 0
  let w3 := t.getD 3 0
  let kind := bits w0 13 2
  let c : BitVec 20 := BitVec.ofNat 20 (bits w1 0 20)
  kind == 0 || kind == 3 || bits w0 16 48 != 0 || bits w1 56 8 != 0 || (kind == 2 && bits w2 24 40 != 0)
    || bits w3 17 15 != 0 || bits w3 49 15 != 0 || (t.drop 4).any (· != 0) || decide (4096 < bits w0 0 13)
    || !s.ctxOk c || (s.ctx c).inst != i

/-- Word 0 has arrived in a slot: the snapshot of payload and trigger is sent as a message, or recorded as bad.
(Log 74: DEDUCED.) -/
def State.pioGo (s : State) (i : BitVec 8) (slot : Nat) : State :=
  let t := (List.range 8).map (fun k => BitVec.ofNat 64 (ofLe (readTab s.pio (8192 * slot + 4096 + 8 * k) 8)))
  let w0 := t.getD 0 0
  let w1 := t.getD 1 0
  if s.pioBad i t then (s.fault i.toNat (faultRec s.now St.badDescriptor 6 i)).bump (Reg.XLT_CNT 6)
  else
    let urgent := bit w0 15
    (s.bump (Reg.XLT_CNT 5)).txAsk (.pio slot) 32 i (BitVec.ofNat 20 (bits w1 0 20)) (BitVec.ofNat 16 (bits w1 20 16))
      (BitVec.ofNat 20 (bits w1 36 20)) (if urgent then 7 else BitVec.ofNat 3 (bits (s.instCfg0 i) 25 3)) urgent
      (readTab s.pio (8192 * slot) (bits w0 0 13)) t

/-- Stores enabled bytes of a slot; the rest of the slot is reserved. (Log 74: DEDUCED, 133: DEDUCED.) -/
def State.pioStore (s : State) (slot off : Nat) (bs : List (Option Byte)) : State :=
  let t := s.sramRmw off (bs.take (0x1040 - off))
  { t with pio := (bs.zipIdx).foldl (fun m e =>
      match e.1 with
      | some b => if off + e.2 < 0x1040 then tset 0 m (8192 * slot + off + e.2) b else m
      | none => m) s.pio }

/-- The write covers word 0 of the trigger. -/
def coversTrigger (off : Nat) (bs : List (Option Byte)) : Bool :=
  decide (off ≤ 0x1000) && (List.range 8).all (fun k => (bs.getD (0x1000 + k - off) none).isSome)

/-- A write to the PIO window, within one slot. -/
def State.pioWrite (s : State) (p : Path) (slot off : Nat) (bs : List (Option Byte)) : State :=
  if !s.pioPath p then s
  else match s.pioSlot p slot with
    | none => s.bump (Reg.XLT_CNT 6)
    | some (i, g) =>
      if !bit (s.instCfg0 i) (20 + pioBit p) then s.bump (Reg.XLT_CNT 6)
      else
        let s1 := s.pioStore g off bs
        if coversTrigger off bs then s1.pioGo i g else s1

/-- PIO_TRIGGER: word 0 of a slot's trigger arrives. -/
def execPioTrigger (p : Path) (slot : Nat) (w0 : Word) (s : State) : Out :=
  .next ((if s.pioPath p then s.tlp p 8 else s).pioWrite p slot 0x1000 ((leBytes w0.toNat 8).map some))

/-! ## The HDM range (R314) -/

/-- The offset in adapter memory of an offset in the range, where it lies in the aperture. -/
def State.aperture (s : State) (q off : Nat) : Option Nat :=
  let c := s.reg (Reg.XLT_ATT_APER q)
  if 0x40000000 ≤ off ∧ off < 0x40000000 + bits c 14 9 * 2 ^ 28 then some (bits c 0 14 * 2 ^ 28 + (off - 0x40000000))
  else none

/-- Records a line of the aperture that the package may cache; a full filter first frees its oldest entry, which writes wait
for until the package has answered (R315). (Log 73: DEDUCED.) -/
def State.filterLine (s : State) (q line : Nat) : State :=
  if s.filter.contains (q, line) then s
  else
    let mine := s.filter.filter (fun e => e.1 == q && !s.freeing.contains e)
    let s1 :=
      match mine with
      | old :: _ =>
        if mine.length < 65536 then s
        else ({ s with freeing := s.freeing ++ [old] } : State).askLines [old] |>.bump (Reg.XLT_CNT 8)
      | [] => s
    { s1 with filter := s1.filter ++ [(q, line)] }

/-- The lines of 64 B that a byte range touches. -/
def linesIn (a n : Nat) : List Nat :=
  if n = 0 then [] else (List.range ((a + n - 1) / 64 + 1 - a / 64)).map (· + a / 64)

/-- A read of the aperture. A read that touches a protected region reads zero (R371); beyond the installed memory there
is nothing to read. (Log 73: DEDUCED.) -/
def State.apertureRead (s : State) (q a n : Nat) (cacheable : Bool) : State :=
  if s.prot a n then (s.bump (Reg.MEM_CNT 8)).emit (.hdmData q (List.replicate n 0) false)
  else if s.memBytes < a + n then s.emit (.hdmData q (List.replicate n 0) true)
  else
    let r := s.readMem 0 a n
    let s1 := if cacheable then (linesIn a n).foldl (fun s l => s.filterLine q l) r.2.2 else r.2.2
    s1.emit (.hdmData q r.1 r.2.1)

/-- A write of the aperture: at once, or after the back-invalidations on other ports of the lines it touches.
(Log 73: DEDUCED.) -/
def State.apertureWrite (s : State) (q a : Nat) (bs : List (Option Byte)) : State :=
  if s.prot a bs.length then s.bump (Reg.MEM_CNT 8)
  else if s.memBytes < a + bs.length then s
  else (s.storeMemBe 0 (.hdm q) a bs (some q)).2.2

/-- Splits a write into its aligned 8-byte words, in ascending order: offset, value and byte enables. -/
def splitWords (off : Nat) (bs : List (Option Byte)) : List (Nat × Word × BitVec 8) :=
  if bs.isEmpty then []
  else
    let w0 := off / 8
    (List.range ((off + bs.length - 1) / 8 + 1 - w0)).map (fun k =>
      let byte := fun i => if 8 * (w0 + k) + i < off then none else bs.getD (8 * (w0 + k) + i - off) none
      (8 * (w0 + k), BitVec.ofNat 64 (ofLe ((List.range 8).map (fun i => (byte i).getD 0))),
       BitVec.ofNat 8 ((List.range 8).foldl (fun n i => if (byte i).isSome then n + 2 ^ i else n) 0)))

/-- A write to the HDM range of an attach port. -/
def State.hdmWrite (s : State) (q : Fin 4) (off : Nat) (bs : List (Option Byte)) : State :=
  let s1 := s.meter transit .wr (bs.filter Option.isSome).length
  match s1.aperture q.val off with
  | some a => s1.apertureWrite q.val a bs
  | none =>
    if off < 0x4000000 then (splitWords off bs).foldl (fun s w => s.bar2Word (.att q) w.1 w.2.1 w.2.2) s1
    else if off < 0x14000000 then
      s1.pioWrite (.att q) ((off - 0x4000000) / 8192) ((off - 0x4000000) % 8192) bs
    else s1

/-- A read of an aligned 8-byte word below the PIO window: a word of a cell, and zero elsewhere. -/
def State.bar2Read (s : State) (p : Path) (a : Nat) (be : BitVec 8) : State :=
  if 0x2000000 ≤ a ∧ a < 0x2400000 then s.cellRead p (BitVec.ofNat 16 ((a - 0x2000000) / 0x40)) (a % 0x40 / 8) be
  else s.emit (.data p 0)

/-- A read of the HDM range: the aperture; each word that a read of cells covers (R168); and zero elsewhere.
(Log 28: DEDUCED.) -/
def State.hdmRead (s : State) (q : Fin 4) (off n : Nat) (cacheable : Bool) : State :=
  match s.aperture q.val off with
  | some a => s.apertureRead q.val a n cacheable
  | none =>
    if off < 0x2400000 ∧ 0x2000000 < off + n ∧ s.cellPath (.att q) then
      (splitWords off (List.replicate n (some 0))).foldl (fun s w => s.bar2Read (.att q) w.1 w.2.2) s
    else s.emit (.hdmData q.val (List.replicate n 0) false)

/-- APERTURE_ACCESS: an access of a package to the HDM range of a port whose CXL.mem is enabled. -/
def execApertureAccess (q : Fin 4) (a : HdmAccess) (s : State) : Out :=
  if !s.alive ∨ !s.attUp q.val ∨ !s.cxlMem.getLsbD q.val then .next s
  else match a with
    | .read off n c => .next (s.hdmRead q off n c)
    | .write off bs be => .next (s.hdmWrite q off ((bs.zip be).map (fun e => if e.2 then some e.1 else none)))

/-- BACK_INVALIDATE_RESPONSE: the package has given up a line that it was asked for (R315, R316). -/
def execBackInvalidateResponse (q : Fin 4) (line : Nat) (s : State) : Out :=
  if s.alive then .next (s.lineBack q.val line) else .next s

end Sys2Proof.Machine
end

