-- ==== Sys2Proof/Machine/Semaphores.lean ====
section
/-!
DEFINITION. The commands of semaphore cells and semaphore registers: R165–R168, R184, R185.
-/

namespace Sys2Proof.Machine

/-- CELL_SET: a write to cell word 0x00. -/
def execCellSet (p : Path) (sem : BitVec 16) (v : Word) (be : BitVec 8) (s : State) : Out :=
  if s.cellPath p then .next ((s.tlp p 8).cellWord p sem 0 v be) else .next s

/-- CELL_ADD: a write to cell word 0x08. -/
def execCellAdd (p : Path) (sem : BitVec 16) (v : Word) (be : BitVec 8) (s : State) : Out :=
  if s.cellPath p then .next ((s.tlp p 8).cellWord p sem 1 v be) else .next s

/-- CELL_SUBTRACT: a write to cell word 0x10. -/
def execCellSubtract (p : Path) (sem : BitVec 16) (v : Word) (be : BitVec 8) (s : State) : Out :=
  if s.cellPath p then .next ((s.tlp p 8).cellWord p sem 2 v be) else .next s

/-- CELL_READ: a read of a word of a cell. -/
def execCellRead (p : Path) (sem : CellWord) (be : BitVec 8) (s : State) : Out :=
  if s.cellPath p then .next ((s.tlp p 8).cellRead p sem.sem sem.word be) else .next s

/-- A write of SEM_ZERO: go starts the zeroing of a page; discarded while a page is being zeroed (R185). -/
def State.semZeroWrite (s : State) (v : Word) : State :=
  if bit v 8 ∧ s.zeroing = none then { s with zeroing := some (bits v 0 8) } else s

/-- SEM_ZERO. -/
def execSemZero (p : Path) (v : Word) (s : State) : Out := .next (s.mapWrite p Reg.SEM_ZERO (fun s => s.semZeroWrite v))

/-- A write of SEM_BAR (R184, R185): the participant count is taken, the arrival count becomes zero and the generation
stays; discarded outside profile 3 and while the barriers' page is being zeroed. -/
def State.semBarSet (s : State) (b : Nat) (v : Word) : State :=
  if s.barriers ∧ s.zeroing ≠ some 255 then
    (s.setFld (Reg.SEM_BAR b) 0 12 (bits v 0 12)).setFld (Reg.SEM_BAR b) 12 12 0
  else s

/-- SEM_BAR_WRITE. -/
def execSemBarWrite (p : Path) (b : BitVec 8) (v : Word) (s : State) : Out :=
  .next (s.mapWrite p (Reg.SEM_BAR b.toNat) (fun s => s.semBarSet b.toNat v))

end Sys2Proof.Machine
end

