-- ==== Sys2Proof/Machine/Returns.lean ====
section
/-!
DEFINITION. MEMORY_READ_RETURN: the data of a read returns (R53, R93, R231, R350), or an on-chip word has been decoded
(R364, R365).
-/

namespace Sys2Proof.Machine

/-- The translations that a segment still uses once its reads have returned: those of its writes. -/
def afterKeys (o : Op) (held : List (XKey × Bool)) : List (XKey × Bool) := if o.isMsg then [] else held.filter (·.2)

/-- A segment whose source `which` has arrived. -/
def Seg.took (x : Seg) (o : Op) (which : Nat) (bs : List Byte) : Seg :=
  let left := x.reads - 1
  { x with reads := left
           bufA := if which = 0 then bs else x.bufA
           bufB := if which = 0 then x.bufB else bs
           held := if left = 0 then afterKeys o x.held else x.held }

/-- The data of a segment's source returns: an error fails the segment, and with the last source it goes on (R53, R61). From a
store inside the adapter, the error is an uncorrectable on-chip word (R361, R365). (Log 81: DESIGN CHOICE.) -/
def State.segReturn (s : State) (q : ReadReq) (op g which : Nat) (ext : List Byte) (err : Bool) : State :=
  let gone : State := { s with reads := s.reads.filter (fun r => r.id ≠ q.id) }
  match (s.op? op).bind (fun o => (o.seg? g).map (fun x => (o, x))) with
  | none => gone.settle
  | some (o, x) =>
    let d := o.srcs.getD which o.a
    if isExt d.space ∧ !err ∧ ext.length ≠ q.len then s
    else
      let p := o.part x.idx
      let r := if isExt d.space then (ext, err, gone)
        else if err then ([], true, gone.bump (Reg.MEM_CNT 10))
        else gone.readRuns o.inst o.clu d.space (d.span p.1 p.2)
      if r.2.1 then (r.2.2.failSeg op g St.uncorrectable).settle
      else
        let y := x.took o which r.1
        let s1 := (r.2.2.countRead o r.1.length).updSeg op g (fun _ => y)
        (if y.reads = 0 then s1.afterReads o y else s1).settle

/-- The window bytes that a WRITE_ACC updates outside the adapter return: they meet an array and the results are written
(R93). -/
def State.accReturn (s : State) (q : ReadReq) (p : Packet) (w : Nat) (upset : Mismatch) (ext : List Byte) (err : Bool) : State :=
  if !err ∧ ext.length ≠ q.len then s
  else
    let s1 : State := { s with reads := s.reads.filter (fun r => r.id ≠ q.id) }
    let x : Rx := ⟨p, true, 0, false, ((s.rrec? p.src p.msg).map (·.tc)).getD 0⟩
    match s1.targetOf p with
    | none => (s1.rxWriteDone p.src p.msg (some w)).accNext
    | some t =>
      if (s1.rrec? p.src p.msg).any RRec.over then (s1.rxWriteDone p.src p.msg (some w)).accNext
      else if err then (s1.rxWriteFail x (some w) St.uncorrectable).accNext
      else
        let a := s1.accRun p upset ext
        match a.1 with
        | none => (a.2.rxWriteFail x (some w) St.checkFail).accNext
        | some bs =>
          let r := a.2.storeRuns t.inst t.clu t.space (.acc p.src p.msg p.idx w) t.runs bs
          let s2 := (r.2.2.bump (Reg.WIN_CNT 1)).updRrec p.src p.msg (fun y => { y with bytes := y.bytes + p.payload.length })
          (s2.placed x false r.2.1).accNext

/-- The data of an outstanding read returns. (Log 81: DESIGN CHOICE.) -/
def State.readReturn (s : State) (id : Nat) (ext : List Byte) (err : Bool) : State :=
  match s.reads.find? (fun r => r.id = id ∧ r.sent) with
  | none => s
  | some q =>
    if !s.inOrder (s.readSource q.kind) q.port id then s
    else match q.kind with
    | .seg op g which => s.segReturn q op g which ext err
    | .win g p tc i w => s.respReturn q g p tc i w ext err
    | .acc p w up => s.accReturn q p w up ext err
    | .rawTx n _ => s.rawReturn id n ext err

/-- MEMORY_READ_RETURN. -/
def execMemoryReadReturn (r : ReadReturn) (s : State) : Out :=
  if !s.alive then .next s
  else match r with
    | .request id ext err => .next (s.readReturn id ext err)
    | .sram loc o => .next (s.sramDecoded loc o)

end Sys2Proof.Machine
end

