-- ==== Sys2Proof/Machine/Waits.lean ====
section
/-!
DEFINITION. The end of a wait when its satisfaction, its timeout and a written stop fall in the same ck (R176). The commands
that wait in the queue all fall at the present instant, because time passes only while the queue is empty.
-/

namespace Sys2Proof.Machine

/-- The state that an outcome leaves; that before it where it leaves none. -/
def Out.orElse (o : Out) (s : State) : State :=
  match o with
  | .next t => t
  | _ => s

/-- What a waiting command that can raise a semaphore does; any other command does nothing here. -/
def State.stopRaises (s : State) (c : Instr) : State :=
  let o : Out := match c with
    | .sadd sl w => execSadd sl w s
    | .ssub sl w => execSsub sl w s
    | .sset sl w => execSset sl w s
    | .segmentComplete op => execSegmentComplete op s
    | .operationComplete op => execOperationComplete op s
    | .cellSet p sem v be => execCellSet p sem v be s
    | .cellAdd p sem v be => execCellAdd p sem v be s
    | .cellSubtract p sem v be => execCellSubtract p sem v be s
    | .pageZeroComplete => execPageZeroComplete s
    | .descriptorDispatch => execDescriptorDispatch s
    | .descriptorPublish ring idx wbOk headOk => execDescriptorPublish ring idx wbOk headOk s
    | .writePacket rx => execWritePacket rx s
    | .writeAccPacket rx upset => execWriteAccPacket rx upset s
    | .sendPacket rx => execSendPacket rx s
    | .semPacket rx => execSemPacket rx s
    | .ack rx => execAck rx s
    | .recordRetentionExpiry src msg => execRecordRetentionExpiry src msg s
    | .writeAcknowledged id ok => execWriteAcknowledged id ok s
    | .memoryReadReturn r => execMemoryReadReturn r s
    | .windowRevokeCmd p v => execWindowRevokeCmd p v s
    | .apertureAccess q a => execApertureAccess q a s
    | _ => .next s
  o.orElse s

/-- A waiting command satisfies the wait of a slot. -/
def State.raised (s : State) (sl : Nat) : List Instr → Bool
  | [] => false
  | c :: cs =>
    let t := s.stopRaises c
    ((t.slot sl).wait != (s.slot sl).wait && (t.slot sl).pc == (s.slot sl).pc + 1) || State.raised t sl cs

/-- The slot waits on a semaphore, and a command of the present instant satisfies the wait (R176).
(Log 124: DESIGN CHOICE.) -/
def State.satisfiedNow (s : State) (sl : Nat) : Bool :=
  match (s.slot sl).wait with
  | some (.sem ..) => { s with pending := [] }.raised sl s.pending
  | _ => false

/-- A write to the slot's stop register is among the commands of the present instant. -/
def State.stopNow (s : State) (sl : Nat) : Bool :=
  s.pending.any (fun c => match c with
    | .slotStop p i v => i.val == sl && bit v 0 && pathCode p == s.owner
    | _ => false)

/-- A timeout of a wait, to which satisfaction and a stop in the same ck take precedence (R176). (Log 124: DESIGN CHOICE.) -/
def State.timeoutNow (s : State) (sl : Nat) : State :=
  if s.stopNow sl || s.satisfiedNow sl then s else s.waitTimeout sl

/-- WAIT_TIMEOUT. -/
def execWaitTimeout (sl : Fin 32) (s : State) : Out := if s.alive then .next (s.timeoutNow sl) else .next s

/-- A stop written to a slot: a wait that is satisfied in the same ck retires first, and the slot stops at its next
instruction boundary (R67, R176). (Log 124: DESIGN CHOICE.) -/
def State.writtenStop (s : State) (sl : Nat) : State :=
  if s.satisfiedNow sl then (s.retire sl).slotStop sl else s.slotStop sl

/-- SLOT_STOP. -/
def execSlotStop (p : Path) (sl : Fin 32) (v : Word) (s : State) : Out :=
  .next (s.mapWrite p (Reg.CLU_SLOT_STOP (sl.val / 4) (sl.val % 4)) (fun s => if bit v 0 then s.writtenStop sl else s))

end Sys2Proof.Machine
end

