-- ==== Sys2Proof/Machine/RegWrite.lean ====
section
/-!
DEFINITION. Writes of registers (R5–R7, R479) on every path: BAR0 and its VF views (R330), BAR2 (R312), the PIO window
(R317), and the MCTP messages of the board management controller (R337, R432).
-/

namespace Sys2Proof.Machine

/-! ## Command registers (R479) -/

/-- A reserved op of a register whose result register is `a`. (Log 76: DESIGN CHOICE.) -/
def State.badOp (s : State) (p : Path) (a : Nat) : State := s.result p a St.badDescriptor

/-- XPT_CTX_CMD. -/
def State.ctxOp (s : State) (p : Path) (op : Nat) : State :=
  match op with
  | 1 => s.ctxDo p (fun s c => s.ctxCreate c (s.ctxStaged p))
  | 2 => s.ctxDo p (fun s c => s.ctxModify c (s.ctxStaged p))
  | 3 => s.ctxDo p (fun s c => s.ctxDestroy c)
  | 4 => s.ctxDo p (fun s c => s.ctxRead p c)
  | _ => s.badOp p Reg.XPT_CTX_RESULT

/-- WIN_CMD: every write commits the staged fields (R240, R261). (Log 76: DESIGN CHOICE.) -/
def State.winOp (s : State) (p : Path) (v : Word) : State :=
  match bits v 0 3 with
  | 1 => s.winDo p (fun s w => s.winOpen p w)
  | 2 => s.winDo p (fun s w => s.winRevoke w (revokeSem v) none)
  | 3 => s.winDo p (fun s w => s.winRead p w)
  | _ => (s.winCommit p).badOp p Reg.WIN_RESULT

/-- RING_CMD. -/
def State.ringOp (s : State) (p : Path) (op : Nat) : State :=
  match op with
  | 1 => s.ringDo p (fun s r => s.ringConfigure p r)
  | 2 => s.ringDo p (fun s r => s.ringRead p r)
  | 3 => s.ringDo p (fun s r => s.ringAbort p r)
  | 4 => s.ringDo p (fun s r => s.ringReset p r)
  | _ => if s.ringBusy p then s else s.badOp p Reg.RING_RESULT

/-- XLT_INST_CMD. -/
def State.instOp (s : State) (op : Nat) : State :=
  match op with
  | 1 => s.instCreateOp
  | 2 => s.instDestroyOp
  | 3 => s.instReadOp
  | 4 => s.instQueryOp
  | _ => s.badOp .host Reg.XLT_INST_RESULT

/-- BOOT_CMD. Op 1 loads here what has been streamed; the image of another source comes with the command of its own.
(Log 76: DESIGN CHOICE.) -/
def State.bootOp (s : State) (op : Nat) : State :=
  match op with
  | 1 => if s.fld Reg.BOOT_FW_SRC 0 3 = 5 then s.fwLoad [] true else s
  | 2 => s.beginStream
  | 3 => s.endStream
  | 4 => s.attachDriver
  | _ => s

/-- MEM_TEST_CMD. -/
def State.testOp (s : State) (op : Nat) : State :=
  match op with
  | 1 => s.rawWriteOp
  | 2 => s.rawReadOp
  | 3 => s.decodedReadOp
  | _ => s.badOp .host Reg.MEM_TEST_RESULT

/-- SEC_FUSE_CMD. -/
def State.fuseOp (s : State) (op : Nat) : State :=
  match op with
  | 1 => s.commitSvn
  | 2 => s.revoke0
  | 3 => s.revoke1
  | _ => s.badOp .host Reg.SEC_FUSE_RESULT

/-- SEC_KEY_CMD. -/
def State.keyOp (s : State) (v : Word) : State :=
  match bits v 0 3 with
  | 1 => s.loadClear (bit v 3)
  | 2 => s.loadWrapped (bit v 3) (bits v 16 12)
  | 3 => s.keyErase
  | 4 => s.keyQuery
  | _ => s.keyEnd St.badDescriptor

/-- SEC_CIPH_CMD. -/
def State.ciphOp (s : State) (op : Nat) : State :=
  match op with
  | 1 => s.holdCore
  | 2 => s.saveCore
  | 3 => s.restoreCore
  | 4 => s.releaseCore
  | _ => s.badOp .host Reg.SEC_CIPH_RESULT

/-- PWR_TWI_CMD: op 2 wakes the adapter only over MCTP (R433). -/
def State.twiOp (s : State) (p : Path) (op : Nat) : State :=
  match op with
  | 1 => s.twiRequest
  | 2 => if p = .bmc then s.wake else s
  | _ => s

/-- DBG_NW_CMD. -/
def State.nwOp (s : State) (op : Nat) : State :=
  match op with
  | 1 => s.nwDeclare
  | 2 => s.nwResume
  | 3 => s.nwAbort
  | _ => s.nwStatus St.badDescriptor

/-- FAB_MC_CMD. -/
def State.mcOp (s : State) (op : Nat) : State :=
  match op with
  | 1 => s.mcWrite
  | 2 => s.mcLoad
  | _ => s

/-- GLB_OWN_CMD. -/
def State.ownOp (s : State) (p : Path) (v : Word) : State :=
  match bits v 0 3 with
  | 1 => s.claim p (BitVec.ofNat 32 (bits v 32 32))
  | 2 => s.renew p
  | 3 => s.release_ p
  | 4 => s.handover p (bits v 4 3)
  | _ => s.ownResult p St.badDescriptor

/-! ## Writes by the types of the fields -/

/-- Where a register stands in a path's view: a VF holds its own selection, staging and result registers (R330). -/
def regPlace (p : Path) (a : Nat) : Nat := if 0x24000 ≤ a ∧ a < 0x29000 then a else pathAt p a

/-- A write by the register table; a reserved range or an unassigned offset discards it (R28).
(Log 78: DESIGN CHOICE.) -/
def State.plainWrite (s : State) (p : Path) (a : Nat) (v : Word) : State :=
  match regAt a with
  | some d => s.writeByType (regPlace p a) d.fields v
  | none => s

/-- CFG of a raw queue: size and space keep while the queue is enabled (R348). (Log 79: DESIGN CHOICE.) -/
def State.queueCfg (s : State) (p : Path) (a : Nat) (v : Word) : State :=
  s.plainWrite p a (if s.flag a 8 then putBits v 0 8 (s.fld a 0 8) else v)

/-- A write in the block of port `n`. -/
def State.macWrite (s : State) (p : Path) (n o : Nat) (v : Word) : State :=
  let a := 0x110000 + 0x10000 * n + o
  if o = 0 then s.macCtrl n v
  else if o = 0x180 then if s.flag (Reg.MAC_TQ_CFG n) 8 then s else s.plainWrite p a v
  else if o = 0x188 then (s.queueCfg p a v).tqNext n
  else if o = 0x190 then s.tqProdWrite n v
  else if 0x100 ≤ o ∧ o < 0x180 ∧ o % 0x20 = 0 then if s.flag (a + 8) 8 then s else s.plainWrite p a v
  else if 0x100 ≤ o ∧ o < 0x180 ∧ o % 0x20 = 8 then s.queueCfg p a v
  else s.plainWrite p a v

/-- A write in the register group of fault queue `q` (R304, R307). -/
def State.fqWrite (s : State) (p : Path) (q o : Nat) (v : Word) : State :=
  match o with
  | 0x00 => if s.flag (Reg.RING_FQ_CTRL q) 0 then s else s.plainWrite p (Reg.RING_FQ_BASE q) v
  | 0x08 => s.fqControl q v
  | 0x18 => s.consWrite q v
  | _ => s

/-- The shadow bank's row that TIME_EPH_ADDR names, with one of its two registers written (R200). -/
def State.ephRowWrite (s : State) (second : Bool) (v : Word) : State :=
  let i := 4096 * (1 - s.fld Reg.TIME_EPH_STATUS 2 1) + s.fld Reg.TIME_EPH_ADDR 0 12
  let r := s.ephShadow
  let new : EphRow := if second then ⟨r.r0, v &&& 0x1FFFFFFFFF#64⟩ else ⟨v, r.r1⟩
  { s with ephRows := tset (⟨0, 0⟩ : EphRow) s.ephRows i new }

/-- A write in the TIME block. -/
def State.timeWrite (s : State) (p : Path) (a : Nat) (v : Word) : State :=
  if a = Reg.TIME_CTRL then s.timeCtrl v
  else if a = Reg.TIME_SET then (s.stepTo (s.atNs v)).2
  else if a = Reg.TIME_ADJ then (s.stepTo (s.atNs (s.now + v))).2
  else if a = Reg.TIME_SERVO_IN then if s.fld Reg.TIME_CTRL 0 2 = 3 then s.timeSample v.toInt else s
  else if a = Reg.TIME_EPH_COMMIT then s.ephCommit v
  else if (a = Reg.TIME_EPH_ADDR ∨ a = Reg.TIME_EPH_ROW0 ∨ a = Reg.TIME_EPH_ROW1 ∨ Reg.TIME_EPH_GRP_BASE 0 ≤ a) ∧ s.ephClosed then s
  else if a = Reg.TIME_EPH_ROW0 then s.ephRowWrite false v
  else if a = Reg.TIME_EPH_ROW1 then s.ephRowWrite true v
  else s.plainWrite p a v

/-- A write of PWR_CTRL: with cap_en at 0 the capping step is 0, and the applied step follows (R425, R426).
(Log 97: DESIGN CHOICE.) -/
def State.pwrCtrl (s : State) (p : Path) (v : Word) : State :=
  let s1 := s.plainWrite p Reg.PWR_CTRL v
  (if s1.flag Reg.PWR_CTRL 0 then s1 else ({ s1 with capOk := 0 } : State).setFld Reg.PWR_STATUS 4 4 0).stepApply

/-- A write of XPT_LIFETIME (R219). -/
def State.lifetimeWrite (s : State) (p : Path) (v : Word) : State :=
  (s.plainWrite p Reg.XPT_LIFETIME v).lifeChanged (s.fld Reg.XPT_LIFETIME 0 16)

/-- Some port is up. -/
def State.anyPortUp (s : State) : Bool := (List.range 6).any (fun n => s.carries n)

/-- A write of FAB_CTRL leaves its mode: a port is up (R284), or the value is not the active profile's (R385, R462). -/
def State.modeHeld (s : State) (v : Word) : Bool := s.anyPortUp || bit v 0 != (s.profile == 3)

/-- A write of a register that is discarded while something holds. (Log 34: DESIGN CHOICE, 79: DESIGN CHOICE.) -/
def State.heldWrite (s : State) (p : Path) (a : Nat) (v : Word) (held : Bool) : State :=
  if held then s else s.plainWrite p a v

/-- A write that a register of the map accepts from a path, `a` being the PF's offset. (Log 75: DESIGN CHOICE.) -/
def State.regWrite (s : State) (p : Path) (a : Nat) (v : Word) : State :=
  let op := bits v 0 3
  let op2 := bits v 0 2
  if a = Reg.GLB_RESET then s.resetWrite v none
  else if a = Reg.BOOT_CMD then s.bootOp op
  else if a = Reg.BOOT_FW_DATA then s.streamWord v
  else if a = Reg.RING_CTRL then s.ringCtrl v
  else if a = Reg.RING_CMD then s.ringOp p op
  else if Reg.RING_CFG0 ≤ a ∧ a ≤ Reg.RING_CFG3 then s.heldWrite p a v (s.ringBusy p)
  else if 0x24000 ≤ a ∧ a < Reg.RING_FQ_BASE 257 then s.fqWrite p ((a - 0x24000) / 64) (a % 64) v
  else if a = Reg.XLT_INST_CMD then s.instOp op
  else if 0x30100 ≤ a ∧ a < 0x30140 ∧ a % 16 = 0 then s.heldWrite p a v (s.cxlMem.getLsbD ((a - 0x30100) / 16))
  else if 0x40000 ≤ a ∧ a < 0xC0000 ∧ a % 65536 = 0 then s.cluCtrl ((a - 0x40000) / 65536) v
  else if 0x40000 ≤ a ∧ a < 0xC0000 ∧ 0x100 ≤ a % 65536 ∧ a % 65536 < 0x200 ∧ a % 64 = 0x38 then
    if bit v 0 then s.writtenStop (4 * ((a - 0x40000) / 65536) + (a % 65536 - 0x100) / 64) else s
  else if a = Reg.NEB_RES_INJECT then s.injectWrite v
  else if a = Reg.XPT_LIFETIME then s.lifetimeWrite p v
  else if a = Reg.XPT_COMMIT then if bit v 0 then s.xptCommit (bit v 1) else s
  else if a = Reg.XPT_CTX_BASE ∨ a = Reg.XPT_CTX_COUNT then s.heldWrite p a v (s.ctxs.any (fun e => e.2.valid))
  else if a = Reg.XPT_CTX_CMD then s.ctxOp p op
  else if a = Reg.WIN_TBL_BASE ∨ a = Reg.WIN_TBL_COUNT then s.heldWrite p a v (s.wins.any (fun e => e.2.phase != .free))
  else if a = Reg.WIN_CMD then s.winOp p v
  else if a = Reg.SEM_ZERO then s.semZeroWrite v
  else if 0xF2000 ≤ a ∧ a < 0xF2800 then s.semBarSet ((a - 0xF2000) / 8) v
  else if a = Reg.FAB_CTRL then s.plainWrite p a (if s.modeHeld v then putBits v 0 1 (s.fld a 0 1) else v)
  else if a = Reg.FAB_ID then s.heldWrite p a v (s.fld Reg.XPT_CTRL 0 2 != 0)
  else if a = Reg.FAB_MAC then s.heldWrite p a v s.anyPortUp
  else if a = Reg.FAB_COMMIT then s.fabCommitWrite v
  else if a = Reg.FAB_MC_CMD then s.mcOp op2
  else if 0x110000 ≤ a ∧ a < 0x170000 then s.macWrite p ((a - 0x110000) / 65536) (a % 65536) v
  else if 0x170000 ≤ a ∧ a < 0x180000 then s.timeWrite p a v
  else if a = Reg.MEM_COMMIT then s.memCommitWrite v
  else if a = Reg.MEM_TEST_CMD then s.testOp op2
  else if a = Reg.SEC_CTRL then s.clearCtx v
  else if a = Reg.SEC_FUSE_CMD then s.fuseOp op2
  else if Reg.SEC_KEY_DATA 0 ≤ a ∧ a ≤ Reg.SEC_KEY_DATA 4 then s.setReg a v
  else if a = Reg.SEC_KEY_CMD then s.keyOp v
  else if a = Reg.SEC_CIPH_CMD then s.ciphOp op
  else if a = Reg.PWR_CTRL then s.pwrCtrl p v
  else if a = Reg.PWR_TWI_CMD then s.twiOp p op2
  else if a = Reg.DBG_NW_CMD then s.nwOp op2
  else s.plainWrite p a v

/-! ## Paths -/

/-- The PF's register at an offset of VF *i*'s reduced view that a write may reach (R330). (Log 77: DESIGN CHOICE.) -/
def vfReg (i : BitVec 8) (o : Nat) : Option Nat :=
  if 0x10010 ≤ o ∧ o < 0x10060 then some (Reg.RING_SEL + (o - 0x10010))
  else if 0x14000 ≤ o ∧ o < 0x14030 then some (Reg.RING_FQ_BASE i.toNat + (o - 0x14000))
  else if 0x20010 ≤ o ∧ o < 0x20040 then some (Reg.WIN_SEL + (o - 0x20010))
  else if 0x30068 ≤ o ∧ o < 0x30090 then some (Reg.XPT_CTX_SEL + (o - 0x30068))
  else none

/-- A write to BAR0: 8 bytes, aligned; any other has no effect (R5). -/
def State.bar0Write (s : State) (p : Path) (off size : Nat) (v : Word) : State :=
  if size ≠ 8 ∨ off % 8 ≠ 0 then if s.pathUp p && !s.tripped then s.tlp p size else s
  else match p with
    | .vf i => s.viewWrite p off (fun s =>
        match vfReg i off with
        | some a => s.regWrite p a v
        | none => s)
    | _ =>
      if off = Reg.GLB_OWN_CMD then s.ownWrite p (fun s => s.ownOp p v)
      else s.mapWrite p off (fun s => s.regWrite p off v)

/-- A word with its enabled bytes replaced. -/
def mergeBytes (old v : Word) (be : BitVec 8) : Word :=
  BitVec.ofNat 64 (ofLe (((leBytes old.toNat 8).zip (leBytes v.toNat 8)).zipIdx.map (fun e =>
    if be.getLsbD e.2 then e.1.2 else e.1.1)))

/-- An entry of the MSI-X table as its two 64-bit words: address; data and control. (Log 72: PRESUMED.) -/
def MsixVec.word (x : MsixVec) (hi : Bool) : Word :=
  if hi then BitVec.ofNat 64 (x.data.toNat + 2 ^ 32 * b2n x.masked) else x.addr

/-- A write in the MSI-X table (R312): address, data, and the mask bit of a vector, which is raised when it is pending and
not masked any more. (Log 72: PRESUMED.) -/
def State.msixWrite (s : State) (p : Path) (o : Nat) (v : Word) (be : BitVec 8) : State :=
  let fn := pathFn p
  let k := o / 16
  if msixCount fn ≤ k then s
  else
    let x := s.vec fn k
    let w := mergeBytes (x.word (o % 16 == 8)) v be
    let y : MsixVec := if o % 16 = 8 then { x with data := w.setWidth 32, masked := bit w 32 } else { x with addr := w }
    ({ s with msixTab := tset MsixVec.init s.msixTab (2048 * fn.toNat + k) y } : State).msixFlush fn k

/-- A write to BAR2, or to the same ranges of an attach port's HDM range (R314), which has no MSI-X table. -/
def State.bar2Write (s : State) (p : Path) (off size : Nat) (v : Word) : State :=
  (splitWords off ((leBytes v.toNat size).map some)).foldl (fun (t : State) w =>
    if 0x3000000 ≤ w.1 ∧ w.1 < 0x3008000 then
      (match p with
        | .host => t.msixWrite p (w.1 - 0x3000000) w.2.1 w.2.2
        | .vf _ => t.msixWrite p (w.1 - 0x3000000) w.2.1 w.2.2
        | _ => t)
    else t.bar2Word p w.1 w.2.1 w.2.2) s

/-- A write to the PIO window, of up to 8 bytes, slot by slot. -/
def State.pioSpace (s : State) (p : Path) (off size : Nat) (v : Word) : State :=
  let bs := (leBytes v.toNat size).map some
  let n := 8192 - off % 8192
  let s1 := s.pioWrite p (off / 8192) (off % 8192) (bs.take n)
  if n < size then s1.pioWrite p (off / 8192 + 1) 0 (bs.drop n) else s1

/-- REGISTER_WRITE: a write of `size` bytes, at most 8, on a path and in one of its spaces. -/
def execRegisterWrite (p : Path) (sp : WrSpace) (off size : Nat) (v : Word) (s : State) : Out :=
  match sp with
  | .bar0 => .next (s.bar0Write p off size v)
  | .bar2 => if s.cellPath p then .next ((s.tlp p size).bar2Write p off size v) else .next s
  | .pio => if s.pioPath p then .next ((s.tlp p size).pioSpace p off size v) else .next s

/-! ## MCTP (R337, R432) -/

/-- The registers that a read reaches during a warm reset (R379). -/
def resetReads (a : Nat) : Bool :=
  a == Reg.GLB_IDENT || a == Reg.GLB_PROFILE || a == Reg.GLB_RESET_CAUSE || a == Reg.BOOT_STATE

/-- The registers that a read reaches in Twilight (R432). -/
def twilightReads (a : Nat) : Bool :=
  a == Reg.GLB_IDENT || a == Reg.GLB_OWN_STATUS || a == Reg.PWR_TWI_STATUS || a / 65536 == 0x1B

/-- What the management controller reads: zero where the register cannot be reached. (Log 75: DESIGN CHOICE.) -/
def State.mctpGet (s : State) (a : Nat) : Word × State :=
  if s.twilight && !twilightReads a then (0, s)
  else if s.boot.inReset && !resetReads a then (0, s)
  else if s.refusedStart && decide (0x20000 ≤ a) then (0, s)
  else s.readClear 2 a

/-- An offset that the messages can name. (Log 75: DESIGN CHOICE.) -/
def mctpOff (off : BitVec 32) : Bool := off.toNat % 8 == 0 && decide (off.toNat < 0x200000)

/-- MCTP_READ. -/
def execMctpRead (off : BitVec 32) (s : State) : Out :=
  if s.tripped then .next s
  else if !mctpOff off then .next (s.emit (.mctp 2 0))
  else
    let r := s.mctpGet off.toNat
    .next (r.2.emit (.mctp 0 r.1))

/-- MCTP_WRITE. (Log 75: DESIGN CHOICE.) -/
def execMctpWrite (off : BitVec 32) (v : Word) (s : State) : Out :=
  if s.tripped then .next s
  else if !mctpOff off then .next (s.emit (.mctp 2 0))
  else if off.toNat = Reg.GLB_OWN_CMD then .next ((s.ownWrite .bmc (fun s => s.ownOp .bmc v)).emit (.mctp 0 0))
  else .next ((s.mapWrite .bmc off.toNat (fun s => s.regWrite .bmc off.toNat v)).emit (.mctp (if s.owner = 2 then 0 else 1) 0))

end Sys2Proof.Machine
end

