-- ==== Sys2Proof/Machine/Dispatch.lean ====
section
/-!
DEFINITION. The dispatch of commands: one arm per constructor of `Instr`, each one call of that command's meaning.
-/

namespace Sys2Proof.Machine

def exec (i : Instr) (s : State) : Host.Outcome State Fault Refusal :=
  match i with
  | .nop opcode sl w => Sys2Proof.Machine.execNop opcode sl w s
  | .endProg sl w => Sys2Proof.Machine.execEndProg sl w s
  | .jmp sl w => Sys2Proof.Machine.execJmp sl w s
  | .loop sl w => Sys2Proof.Machine.execLoop sl w s
  | .add sl w => Sys2Proof.Machine.execAdd sl w s
  | .sub sl w => Sys2Proof.Machine.execSub sl w s
  | .mul sl w => Sys2Proof.Machine.execMul sl w s
  | .and sl w => Sys2Proof.Machine.execAnd sl w s
  | .or sl w => Sys2Proof.Machine.execOr sl w s
  | .xor sl w => Sys2Proof.Machine.execXor sl w s
  | .shl sl w => Sys2Proof.Machine.execShl sl w s
  | .shr sl w => Sys2Proof.Machine.execShr sl w s
  | .sra sl w => Sys2Proof.Machine.execSra sl w s
  | .minu sl w => Sys2Proof.Machine.execMinu sl w s
  | .maxu sl w => Sys2Proof.Machine.execMaxu sl w s
  | .li sl w => Sys2Proof.Machine.execLi sl w s
  | .cmp sl w => Sys2Proof.Machine.execCmp sl w s
  | .plog sl w => Sys2Proof.Machine.execPlog sl w s
  | .gets sl w => Sys2Proof.Machine.execGets sl w s
  | .tcopy sl w => Sys2Proof.Machine.execTcopy sl w s
  | .tbase sl w => Sys2Proof.Machine.execTbase sl w s
  | .tadd sl w => Sys2Proof.Machine.execTadd sl w s
  | .text sl w => Sys2Proof.Machine.execText sl w s
  | .tstr sl w => Sys2Proof.Machine.execTstr sl w s
  | .tattr sl w => Sys2Proof.Machine.execTattr sl w s
  | .copy sl w => Sys2Proof.Machine.execCopy sl w s
  | .convert sl w => Sys2Proof.Machine.execConvert sl w s
  | .fill sl w => Sys2Proof.Machine.execFill sl w s
  | .red sl w => Sys2Proof.Machine.execRed sl w s
  | .scale sl w => Sys2Proof.Machine.execScale sl w s
  | .quant sl w => Sys2Proof.Machine.execQuant sl w s
  | .put sl w => Sys2Proof.Machine.execPut sl w s
  | .get sl w => Sys2Proof.Machine.execGet sl w s
  | .send sl w => Sys2Proof.Machine.execSend sl w s
  | .recv sl w => Sys2Proof.Machine.execRecv sl w s
  | .mput sl w => Sys2Proof.Machine.execMput sl w s
  | .putacc sl w => Sys2Proof.Machine.execPutacc sl w s
  | .sadd sl w => Sys2Proof.Machine.execSadd sl w s
  | .ssub sl w => Sys2Proof.Machine.execSsub sl w s
  | .sset sl w => Sys2Proof.Machine.execSset sl w s
  | .sread sl w => Sys2Proof.Machine.execSread sl w s
  | .fence sl w => Sys2Proof.Machine.execFence sl w s
  | .wait sl w => Sys2Proof.Machine.execWait sl w s
  | .twait sl w => Sys2Proof.Machine.execTwait sl w s
  | .tilewait sl w => Sys2Proof.Machine.execTilewait sl w s
  | .mark sl w => Sys2Proof.Machine.execMark sl w s
  | .segmentComplete op => Sys2Proof.Machine.execSegmentComplete op s
  | .operationComplete op => Sys2Proof.Machine.execOperationComplete op s
  | .waitTimeout sl => Sys2Proof.Machine.execWaitTimeout sl s
  | .twaitRelease sl => Sys2Proof.Machine.execTwaitRelease sl s
  | .programComplete sl => Sys2Proof.Machine.execProgramComplete sl s
  | .pageResponse port id code => Sys2Proof.Machine.execPageResponse port id code s
  | .atsTranslationResponse port fn pasid page ans => Sys2Proof.Machine.execAtsTranslationResponse port fn pasid page ans s
  | .atsInvalidation port fn pasid base size => Sys2Proof.Machine.execAtsInvalidation port fn pasid base size s
  | .invalidationComplete id => Sys2Proof.Machine.execInvalidationComplete id s
  | .slotStop p sl v => Sys2Proof.Machine.execSlotStop p sl v s
  | .imemFlush p clu v => Sys2Proof.Machine.execImemFlush p clu v s
  | .nebulaPass arr upset => Sys2Proof.Machine.execNebulaPass arr upset s
  | .residueInject p v => Sys2Proof.Machine.execResidueInject p v s
  | .cellSet p sem v be => Sys2Proof.Machine.execCellSet p sem v be s
  | .cellAdd p sem v be => Sys2Proof.Machine.execCellAdd p sem v be s
  | .cellSubtract p sem v be => Sys2Proof.Machine.execCellSubtract p sem v be s
  | .cellRead p sem be => Sys2Proof.Machine.execCellRead p sem be s
  | .semZero p v => Sys2Proof.Machine.execSemZero p v s
  | .pageZeroComplete => Sys2Proof.Machine.execPageZeroComplete s
  | .semBarWrite p b v => Sys2Proof.Machine.execSemBarWrite p b v s
  | .doorbell p ring v full => Sys2Proof.Machine.execDoorbell p ring v full s
  | .descriptorFetchReturn ring descs ok => Sys2Proof.Machine.execDescriptorFetchReturn ring descs ok s
  | .descriptorReread ring d ok => Sys2Proof.Machine.execDescriptorReread ring d ok s
  | .ringRepoll ring => Sys2Proof.Machine.execRingRepoll ring s
  | .descriptorDispatch => Sys2Proof.Machine.execDescriptorDispatch s
  | .programLaunch ring => Sys2Proof.Machine.execProgramLaunch ring s
  | .imageCheck sl => Sys2Proof.Machine.execImageCheck sl s
  | .descriptorPublish ring idx wbOk headOk => Sys2Proof.Machine.execDescriptorPublish ring idx wbOk headOk s
  | .irqHoldoffExpiry src => Sys2Proof.Machine.execIrqHoldoffExpiry src s
  | .ringConfigure p => Sys2Proof.Machine.execRingConfigure p s
  | .ringRead p => Sys2Proof.Machine.execRingRead p s
  | .ringAbort p => Sys2Proof.Machine.execRingAbort p s
  | .ringResetIndices p => Sys2Proof.Machine.execRingResetIndices p s
  | .faultQueueConsWrite p q v => Sys2Proof.Machine.execFaultQueueConsWrite p q v s
  | .messageCreate req => Sys2Proof.Machine.execMessageCreate req s
  | .packetRelease msg idx => Sys2Proof.Machine.execPacketRelease msg idx s
  | .cipherPacketDone core => Sys2Proof.Machine.execCipherPacketDone core s
  | .writePacket rx => Sys2Proof.Machine.execWritePacket rx s
  | .writeAccPacket rx upset => Sys2Proof.Machine.execWriteAccPacket rx upset s
  | .sendPacket rx => Sys2Proof.Machine.execSendPacket rx s
  | .readReq rx => Sys2Proof.Machine.execReadReq rx s
  | .readResp rx => Sys2Proof.Machine.execReadResp rx s
  | .semPacket rx => Sys2Proof.Machine.execSemPacket rx s
  | .ack rx => Sys2Proof.Machine.execAck rx s
  | .nack rx => Sys2Proof.Machine.execNack rx s
  | .ackDelayExpiry src msg => Sys2Proof.Machine.execAckDelayExpiry src msg s
  | .retxTimerExpiry msg => Sys2Proof.Machine.execRetxTimerExpiry msg s
  | .lifetimeExpiry msg => Sys2Proof.Machine.execLifetimeExpiry msg s
  | .busyResend msg idx => Sys2Proof.Machine.execBusyResend msg idx s
  | .recordRetentionExpiry src msg => Sys2Proof.Machine.execRecordRetentionExpiry src msg s
  | .rateIncrease ctx => Sys2Proof.Machine.execRateIncrease ctx s
  | .contextFetchComplete ctx ok => Sys2Proof.Machine.execContextFetchComplete ctx ok s
  | .windowEntryFetchComplete win ok => Sys2Proof.Machine.execWindowEntryFetchComplete win ok s
  | .writeAcknowledged id ok => Sys2Proof.Machine.execWriteAcknowledged id ok s
  | .memoryReadReturn r => Sys2Proof.Machine.execMemoryReadReturn r s
  | .ctxCreate p => Sys2Proof.Machine.execCtxCreate p s
  | .ctxModify p => Sys2Proof.Machine.execCtxModify p s
  | .ctxDestroy p => Sys2Proof.Machine.execCtxDestroy p s
  | .ctxRead p => Sys2Proof.Machine.execCtxRead p s
  | .xptCommit p v => Sys2Proof.Machine.execXptCommit p v s
  | .windowOpen p => Sys2Proof.Machine.execWindowOpen p s
  | .windowRevokeCmd p v => Sys2Proof.Machine.execWindowRevokeCmd p v s
  | .windowRead p => Sys2Proof.Machine.execWindowRead p s
  | .frameReceive port sub f => Sys2Proof.Machine.execFrameReceive port sub f s
  | .frameTransmit port sub => Sys2Proof.Machine.execFrameTransmit port sub s
  | .pfcFrame port sub mask quanta => Sys2Proof.Machine.execPfcFrame port sub mask quanta s
  | .pfcPauseExpiry port sub prio => Sys2Proof.Machine.execPfcPauseExpiry port sub prio s
  | .pfcRefresh port sub prio => Sys2Proof.Machine.execPfcRefresh port sub prio s
  | .dataFrame port sub f => Sys2Proof.Machine.execDataFrame port sub f s
  | .ctrlFrame port sub f => Sys2Proof.Machine.execCtrlFrame port sub f s
  | .replayFrame port sub f => Sys2Proof.Machine.execReplayFrame port sub f s
  | .initFrame port sub f => Sys2Proof.Machine.execInitFrame port sub f s
  | .ctrlFrameTimer port sub => Sys2Proof.Machine.execCtrlFrameTimer port sub s
  | .replayTimerExpiry port sub => Sys2Proof.Machine.execReplayTimerExpiry port sub s
  | .linkDown port sub cause => Sys2Proof.Machine.execLinkDown port sub cause s
  | .linkUp r => Sys2Proof.Machine.execLinkUp r s
  | .portRetry port => Sys2Proof.Machine.execPortRetry port s
  | .adminUpWrite p port v => Sys2Proof.Machine.execAdminUpWrite p port v s
  | .fabCommit p v => Sys2Proof.Machine.execFabCommit p v s
  | .mcEntryWrite p => Sys2Proof.Machine.execMcEntryWrite p s
  | .mcEntryLoad p => Sys2Proof.Machine.execMcEntryLoad p s
  | .rawTxProdWrite p port v => Sys2Proof.Machine.execRawTxProdWrite p port v s
  | .statCounterRead p port sub j => Sys2Proof.Machine.execStatCounterRead p port sub j s
  | .managementQuery port sub src query => Sys2Proof.Machine.execManagementQuery port sub src query s
  | .managementAnswer peer sem nodes => Sys2Proof.Machine.execManagementAnswer peer sem nodes s
  | .peerQueryTimeout peer => Sys2Proof.Machine.execPeerQueryTimeout peer s
  | .pioTrigger p slot w0 => Sys2Proof.Machine.execPioTrigger p slot w0 s
  | .apertureAccess q a => Sys2Proof.Machine.execApertureAccess q a s
  | .backInvalidateResponse q line => Sys2Proof.Machine.execBackInvalidateResponse q line s
  | .hostPortReset => Sys2Proof.Machine.execHostPortReset s
  | .vfReset fn => Sys2Proof.Machine.execVfReset fn s
  | .claim p epoch => Sys2Proof.Machine.execClaim p epoch s
  | .renew p => Sys2Proof.Machine.execRenew p s
  | .release p => Sys2Proof.Machine.execRelease p s
  | .handover p successor => Sys2Proof.Machine.execHandover p successor s
  | .leaseExpiry => Sys2Proof.Machine.execLeaseExpiry s
  | .mctpRead off => Sys2Proof.Machine.execMctpRead off s
  | .mctpWrite off v => Sys2Proof.Machine.execMctpWrite off v s
  | .instanceCreate p => Sys2Proof.Machine.execInstanceCreate p s
  | .instanceDestroy p => Sys2Proof.Machine.execInstanceDestroy p s
  | .instanceRead p => Sys2Proof.Machine.execInstanceRead p s
  | .instanceQuery p => Sys2Proof.Machine.execInstanceQuery p s
  | .memCommit p v => Sys2Proof.Machine.execMemCommit p v s
  | .rawWrite p => Sys2Proof.Machine.execRawWrite p s
  | .rawRead p => Sys2Proof.Machine.execRawRead p s
  | .decodedRead p => Sys2Proof.Machine.execDecodedRead p s
  | .patrolScrub c => Sys2Proof.Machine.execPatrolScrub c s
  | .sramScrub loc o => Sys2Proof.Machine.execSramScrub loc o s
  | .coldReset railsOk sel smb eeprom => Sys2Proof.Machine.execColdReset railsOk sel smb eeprom s
  | .warmRstN eeprom => Sys2Proof.Machine.execWarmRstN eeprom s
  | .warmResetCommand p v eeprom => Sys2Proof.Machine.execWarmResetCommand p v eeprom s
  | .startupTestDone t => Sys2Proof.Machine.execStartupTestDone t s
  | .trainWindowExpiry => Sys2Proof.Machine.execTrainWindowExpiry s
  | .profileDecision => Sys2Proof.Machine.execProfileDecision s
  | .memoryInitDone => Sys2Proof.Machine.execMemoryInitDone s
  | .firmwareLoad p img ok => Sys2Proof.Machine.execFirmwareLoad p img ok s
  | .beginStream p => Sys2Proof.Machine.execBeginStream p s
  | .fwDataWrite p v => Sys2Proof.Machine.execFwDataWrite p v s
  | .endStream p => Sys2Proof.Machine.execEndStream p s
  | .driverAttach p => Sys2Proof.Machine.execDriverAttach p s
  | .firmwareAuthenticate => Sys2Proof.Machine.execFirmwareAuthenticate s
  | .commitSecurityVersion p => Sys2Proof.Machine.execCommitSecurityVersion p s
  | .revokeKey0 p => Sys2Proof.Machine.execRevokeKey0 p s
  | .revokeKey1 p => Sys2Proof.Machine.execRevokeKey1 p s
  | .loadClear p usage => Sys2Proof.Machine.execLoadClear p usage s
  | .loadWrapped p usage kek => Sys2Proof.Machine.execLoadWrapped p usage kek s
  | .erase p => Sys2Proof.Machine.execErase p s
  | .query p => Sys2Proof.Machine.execQuery p s
  | .hold p => Sys2Proof.Machine.execHold p s
  | .save p => Sys2Proof.Machine.execSave p s
  | .restore p => Sys2Proof.Machine.execRestore p s
  | .releaseCore p => Sys2Proof.Machine.execReleaseCore p s
  | .clearCtxEnWrite p v => Sys2Proof.Machine.execClearCtxEnWrite p v s
  | .getVersion => Sys2Proof.Machine.execGetVersion s
  | .getCapabilities => Sys2Proof.Machine.execGetCapabilities s
  | .negotiateAlgorithms asym hash meas => Sys2Proof.Machine.execNegotiateAlgorithms asym hash meas s
  | .getDigests => Sys2Proof.Machine.execGetDigests s
  | .getCertificate slot off len => Sys2Proof.Machine.execGetCertificate slot off len s
  | .challenge slot nonce => Sys2Proof.Machine.execChallenge slot nonce s
  | .getMeasurements block nonce => Sys2Proof.Machine.execGetMeasurements block nonce s
  | .timeSet p v => Sys2Proof.Machine.execTimeSet p v s
  | .timeAdj p v => Sys2Proof.Machine.execTimeAdj p v s
  | .timeServoIn p v => Sys2Proof.Machine.execTimeServoIn p v s
  | .ptpOffsetSample e => Sys2Proof.Machine.execPtpOffsetSample e s
  | .ppsInEdge => Sys2Proof.Machine.execPpsInEdge s
  | .sampleLossTimeout => Sys2Proof.Machine.execSampleLossTimeout s
  | .timeCtrlWrite p v => Sys2Proof.Machine.execTimeCtrlWrite p v s
  | .ppsOutPulse => Sys2Proof.Machine.execPpsOutPulse s
  | .ephemerisCommit p v => Sys2Proof.Machine.execEphemerisCommit p v s
  | .ephemerisActivate => Sys2Proof.Machine.execEphemerisActivate s
  | .bankCopyComplete => Sys2Proof.Machine.execBankCopyComplete s
  | .slotMiss g row => Sys2Proof.Machine.execSlotMiss g row s
  | .cappingTick mw => Sys2Proof.Machine.execCappingTick mw s
  | .thermalTick temps => Sys2Proof.Machine.execThermalTick temps s
  | .twilightEnter p => Sys2Proof.Machine.execTwilightEnter p s
  | .twilightExit => Sys2Proof.Machine.execTwilightExit s
  | .wakeN => Sys2Proof.Machine.execWakeN s
  | .twilightEntryComplete => Sys2Proof.Machine.execTwilightEntryComplete s
  | .tallyApportion uj mw senseFault => Sys2Proof.Machine.execTallyApportion uj mw senseFault s
  | .tallyRecordClose => Sys2Proof.Machine.execTallyRecordClose s
  | .tlyCalChange enabled period => Sys2Proof.Machine.execTlyCalChange enabled period s
  | .tallyPowerOn => Sys2Proof.Machine.execTallyPowerOn s
  | .hangDetect w => Sys2Proof.Machine.execHangDetect w s
  | .zenithHeartbeat => Sys2Proof.Machine.execZenithHeartbeat s
  | .declare p => Sys2Proof.Machine.execDeclare p s
  | .dumpComplete => Sys2Proof.Machine.execDumpComplete s
  | .graphBuild => Sys2Proof.Machine.execGraphBuild s
  | .resume p => Sys2Proof.Machine.execResume p s
  | .abort p => Sys2Proof.Machine.execAbort p s
  | .histogramSample => Sys2Proof.Machine.execHistogramSample s
  | .cometStagingDrain => Sys2Proof.Machine.execCometStagingDrain s
  | .registerWrite p sp off size v => Sys2Proof.Machine.execRegisterWrite p sp off size v s
  | .faultQueueEnable p q v => Sys2Proof.Machine.execFaultQueueEnable p q v s
  | .ref10mInPresenceChange present => Sys2Proof.Machine.execRef10mInPresenceChange present s
  | .blockLockChange port sub lock => Sys2Proof.Machine.execBlockLockChange port sub lock s
  | .attachLinkDown q => Sys2Proof.Machine.execAttachLinkDown q s
  | .configurationSpaceWrite c => Sys2Proof.Machine.execConfigurationSpaceWrite c s
  | .jtagInstructionLoad ir => Sys2Proof.Machine.execJtagInstructionLoad ir s

end Sys2Proof.Machine
end

