-- ==== Sys2Proof/Machine/Tick.lean ====
section
/-!
DEFINITION. What an empty queue lets happen: one tick of the time unit's clock of 1.25 GHz (R188).
-/

namespace Sys2Proof.Machine

/-- The increment of the counter at one tick, 0.8 ns corrected by the adjustment (R188, R191), in units of 2^-32 ns
times 5 × 10^9 × 2^24: the correction of `a` × 2^-24 ppb makes it 4 × 2^32 × (10^9 × 2^24 − `a`). -/
def tickNumerator (a : Int) : Int := 4 * 2 ^ 32 * (10 ^ 9 * 2 ^ 24 - a)

/-- The whole units of 2^-32 ns that one tick adds. (Log 29: DEDUCED.) -/
def tickUnits (a : Int) : Int := tickNumerator a / (5 * 10 ^ 9 * 2 ^ 24)

/-- A slot is held by WAIT, TWAIT or TILEWAIT (R444). -/
def Slot.waits (x : Slot) : Bool :=
  match x.wait with
  | some (.sem ..) => true
  | some (.until_ _) => true
  | some (.tile ..) => true
  | _ => false

/-- Some slot of a cluster satisfies `f`. -/
def State.someSlot (s : State) (c : Nat) (f : Slot → Bool) : Bool := s.slots.any (fun e => e.1 / 4 == c && f e.2)

/-- The counters that count `n` ck: those of the clusters (R444) and of the mark filters (R445).
(Log 1: DESIGN CHOICE.) -/
def State.countCk (s : State) (n : Nat) : State :=
  let s1 := (List.range 8).foldl (fun (t : State) c =>
    let t1 := if s.someSlot c Slot.waits then t.count (Reg.DBG_CNT c 6) n else t
    if s.someSlot c (fun x => x.phase != .idle) then t1.count (Reg.DBG_CNT c 7) n else t1) s
  (List.range 8).foldl (fun (t : State) k =>
    if s.ops.any (fun o => o.filters.getLsbD k) then t.count (Reg.DBG_TAG_CNT k 3) n else t) s1

/-- Meridian time after one tick. How the counter rounds the increment to its 32-bit fraction is left open: the fraction
may come out one unit higher. (Log 1: DESIGN CHOICE, 29: DEDUCED.) -/
def State.tickTime (s : State) : State :=
  let up := s.takeBit
  let n := up.2.time.now + BitVec.ofInt 96 (tickUnits up.2.time.adj) + BitVec.ofNat 96 (b2n up.1)
  { up.2 with time := { up.2.time with now := n } }

/-- The engine clock over one tick; it stands still in Twilight. (Log 1: DESIGN CHOICE.) -/
def State.tickCk (s : State) : State :=
  if s.twilight then s
  else
    let c := s.ck + s.mhz * 800
    { s.countCk (c / 1000000 - s.ck / 1000000) with ck := c }

/-- The rows of the active bank that are open at present are noted (R198). (Log 126: DESIGN CHOICE.) -/
def State.ephSee (s : State) : State :=
  if !s.flag Reg.TIME_EPH_CTRL 0 then s
  else
    let bank := s.fld Reg.TIME_EPH_STATUS 2 1
    { s with ephLive := s.ephRows.foldl (fun t e =>
        if e.1 / 4096 = bank ∧ s.rowOpen (bits e.2.r1 32 4) e.2 then tset 0 t (e.1 % 4096) (s.nowNs + 1) else t) s.ephLive }

/-- The internal loopback delivers the packets that it holds, in their order (R211). A residue mismatch that a WRITE_ACC
among them meets comes with its command instead. (Log 127: DESIGN CHOICE.) -/
def State.loopGo (s : State) : State :=
  if s.alive then s.loop.foldl (fun s x => if s.loop.contains x then s.receive x none else s) s else s

/-- One tick of 0.8 ns: absolute time, and unless a thermal trip holds every block in reset, the engine clock, Meridian time,
the Lookahead engines and the internal loopback. (Log 1: DESIGN CHOICE, 11: DESIGN CHOICE.) -/
def State.tick (s : State) : State :=
  let s1 : State := { s with ps := s.ps + 800 }
  if s.tripped then s1 else s1.tickCk.tickTime.ephSee.look.loopGo

end Sys2Proof.Machine
end

