-- ==== Sys2Proof/Safety.lean ====
section
/-!
DEFINITION. What a safe run is: every waiting command is well formed and no step stops.
-/

namespace Sys2Proof.Safety

/-- Every waiting command is well formed. -/
def queueOk (s : Machine.State) : Bool := s.pending.all Instr.wellFormed

/-- The step answers a next state. -/
def stepOk (s : Machine.State) : Bool :=
  match Machine.step s with
  | .next _ => true
  | .fault _ => false
  | .refused _ => false

/-- The first `n` steps of a run all answer next states. -/
def runOk : Nat → Machine.State → Bool
  | 0, _ => true
  | n + 1, s =>
    match Machine.step s with
    | .next t => runOk n t
    | .fault _ => false
    | .refused _ => false

end Sys2Proof.Safety
end

