-- ==== Sys2Proof/Certificates/Slice0/Obligations.lean ====
section
/-!
DEFINITION. The statements about the block that the provers are asked for, with the notions they use. Each states what a
command or a step does in every state that meets its hypotheses, and what it leaves unchanged.
-/

namespace Sys2Proof.Claims

open Sys2Proof.Machine

/-! ## Instructions of program slots -/

/-- Slot `sl` can issue, and its instruction memory holds the word of opcode `op` and fields `w` at its pc. -/
def Fetched (s : State) (sl : Fin 32) (op : BitVec 8) (w : JWord) : Prop :=
  s.canIssue sl = true ∧ (s.slot sl).pc < (s.slot sl).imemLen ∧ s.imemAt sl (s.slot sl).pc = some (imemWord op w)

/-- As `Fetched`, and the instruction's predicate condition holds (R44). -/
def Ready (s : State) (sl : Fin 32) (op : BitVec 8) (w : JWord) : Prop :=
  Fetched s sl op w ∧ predHolds (s.slot sl) w = true

/-- The command that issues opcode `op` (R74); an opcode of no other row is issued by NOP. -/
def commandOf (op : BitVec 8) (sl : Fin 32) (w : JWord) : Instr :=
  match op.toNat with
  | 0x01 => .endProg sl w | 0x02 => .jmp sl w | 0x03 => .loop sl w
  | 0x10 => .add sl w | 0x11 => .sub sl w | 0x12 => .mul sl w | 0x13 => .and sl w | 0x14 => .or sl w
  | 0x15 => .xor sl w | 0x16 => .shl sl w | 0x17 => .shr sl w | 0x18 => .sra sl w | 0x19 => .minu sl w
  | 0x1A => .maxu sl w | 0x1B => .li sl w | 0x1C => .cmp sl w | 0x1D => .plog sl w | 0x1E => .gets sl w
  | 0x20 => .tcopy sl w | 0x21 => .tbase sl w | 0x22 => .tadd sl w | 0x23 => .text sl w | 0x24 => .tstr sl w
  | 0x25 => .tattr sl w
  | 0x30 => .copy sl w | 0x31 => .convert sl w | 0x32 => .fill sl w | 0x40 => .red sl w | 0x41 => .scale sl w
  | 0x50 => .quant sl w
  | 0x60 => .put sl w | 0x61 => .get sl w | 0x62 => .send sl w | 0x63 => .recv sl w | 0x64 => .mput sl w
  | 0x65 => .putacc sl w
  | 0x70 => .sadd sl w | 0x71 => .ssub sl w | 0x72 => .sset sl w | 0x73 => .sread sl w
  | 0x80 => .fence sl w | 0x81 => .wait sl w | 0x82 => .twait sl w | 0x83 => .tilewait sl w | 0x84 => .mark sl w
  | _ => .nop op sl w

/-- What R44, R45 and R69 to R95 accept in the fields of opcode `op` in a program of `n` instructions; no reserved opcode
(R74) is accepted. -/
def fieldsOk (op : BitVec 8) (w : JWord) (n : Nat) : Bool :=
  let sig (msg : Bool) := bits w.imm 32 2 != 3 && bits w.imm 34 2 != 3 && (msg || bits w.imm 34 2 != 1)
  let rnd := bits w.imm 36 2 != 3
  let red := decide (bits w.imm 38 4 < 3)
  let f12 := w.flags.getLsbD 0
  let tgt := decide (bits w.imm 0 14 < n)
  let i := bits w.imm 0 3
  match op.toNat with
  | 0x00 => true
  | 0x01 => true
  | 0x02 => tgt
  | 0x03 => isS w.opa && w.opa != 0 && tgt
  | 0x10 | 0x11 | 0x12 | 0x13 | 0x14 | 0x15 | 0x16 | 0x17 | 0x18 | 0x19 | 0x1A =>
    isS w.opa && isX w.opb && (f12 || isX w.opc)
  | 0x1B => isS w.opa
  | 0x1C => isP w.opa && isX w.opb && isX w.opc && decide (i < 6)
  | 0x1D => isP w.opa && isP w.opb && isP w.opc
  | 0x1E => isS w.opa && decide (bits w.imm 0 4 < 6)
  | 0x20 => isT w.opa && isT w.opb
  | 0x21 | 0x22 => isT w.opa && isX w.opb
  | 0x23 => isT w.opa && isX w.opb && decide (i < 5)
  | 0x24 => isT w.opa && isX w.opb && decide (1 ≤ i) && decide (i < 5)
  | 0x25 => isT w.opa
  | 0x30 => isT w.opa && isT w.opb && sig false
  | 0x31 => isT w.opa && isT w.opb && sig false && rnd
  | 0x32 => isT w.opa && isX w.opb && sig false
  | 0x40 => isT w.opa && isT w.opb && isT w.opc && sig false && rnd && red
  | 0x41 => isT w.opa && isT w.opb && isS w.opc && sig false && rnd
  | 0x50 => isT w.opa && isT w.opb && (bit w.imm 42 || isT w.opc) && sig false && rnd
  | 0x60 | 0x64 => isT w.opa && isT w.opb && isS w.opc && sig true
  | 0x61 => isT w.opa && isT w.opb && isS w.opc && sig false
  | 0x62 => isT w.opa && isS w.opb && isS w.opc && sig true
  | 0x63 => isT w.opa && isS w.opc && sig false
  | 0x65 => isT w.opa && isT w.opb && isS w.opc && sig true && decide (bits w.imm 36 2 < 2) && red
  | 0x70 | 0x71 | 0x72 => isX w.opb && (!f12 || isS w.opc)
  | 0x73 => isS w.opa && (!f12 || isS w.opc) && (f12 || !bit w.imm 32)
  | 0x80 => true
  | 0x81 => isX w.opb && (!f12 || isS w.opc)
  | 0x82 | 0x83 => isX w.opb
  | 0x84 => true
  | _ => false

/-- From `s` to `t` slot `sl` retires one instruction and goes on at `pc`: the instruction gives back its entry of the issue queue
(R38), the count of retired instructions of its cluster grows by one, and nothing else changes but the slot itself. -/
def Retires (s t : State) (sl : Fin 32) (pc : Nat) : Prop :=
  (t.slot sl).pc = pc ∧ (t.slot sl).wait = none ∧ (t.slot sl).ahead = (s.slot sl).ahead.tail ∧ (∀ i, i ≠ sl.val → t.slot i = s.slot i)
    ∧ t.reg (Reg.DBG_CNT (sl.val / 4) 1) = s.reg (Reg.DBG_CNT (sl.val / 4) 1) + 1
    ∧ (∀ a, a ≠ Reg.DBG_CNT (sl.val / 4) 1 → t.reg a = s.reg a)
    ∧ { t with slots := [], regs := [] } = { s with slots := [], regs := [] }

/-- A slot without its pc, wait, progress mark and entries of the issue queue, and without the scalar registers. -/
def butS (x : Slot) : Slot := { x with sregs := [], pc := 0, wait := none, progress := 0, ahead := [] }

/-- The same without the tensor descriptors. -/
def butT (x : Slot) : Slot := { x with tregs := [], pc := 0, wait := none, progress := 0, ahead := [] }

/-- The same without the predicates. -/
def butP (x : Slot) : Slot := { x with preds := 0, pc := 0, wait := none, progress := 0, ahead := [] }

/-- The same with every register. -/
def butPc (x : Slot) : Slot := { x with pc := 0, wait := none, progress := 0, ahead := [] }

/-- The outcome retires the instruction with `v` in scalar register `a` (nowhere for s0); every other register and all
else is unchanged. -/
def WritesS (s : State) (sl : Fin 32) (a : BitVec 8) (v : Word) (o : Out) : Prop :=
  ∃ t, o = .next t ∧ Retires s t sl ((s.slot sl).pc + 1)
    ∧ slotS (t.slot sl) a.toNat = (if a = 0 then 0 else v)
    ∧ (∀ n, n ≠ a.toNat → slotS (t.slot sl) n = slotS (s.slot sl) n)
    ∧ butS (t.slot sl) = butS (s.slot sl)

/-- The outcome retires the instruction with `v` in the predicate that field `a` names (nowhere for p0). -/
def WritesP (s : State) (sl : Fin 32) (a : BitVec 8) (v : Bool) (o : Out) : Prop :=
  ∃ t, o = .next t ∧ Retires s t sl ((s.slot sl).pc + 1)
    ∧ valP (t.slot sl) a = (a = 0x30 || v)
    ∧ (∀ b, isP b = true → b ≠ a → valP (t.slot sl) b = valP (s.slot sl) b)
    ∧ butP (t.slot sl) = butP (s.slot sl)

/-- The outcome retires the instruction with `d` in the descriptor that field `a` names. -/
def WritesT (s : State) (sl : Fin 32) (a : BitVec 8) (d : TDesc) (o : Out) : Prop :=
  ∃ t, o = .next t ∧ Retires s t sl ((s.slot sl).pc + 1)
    ∧ valT (t.slot sl) a = d
    ∧ (∀ b, isT b = true → b ≠ a → valT (t.slot sl) b = valT (s.slot sl) b)
    ∧ butT (t.slot sl) = butT (s.slot sl)

/-- The outcome stops the slot at its instruction with status `st` (R61, R62): the pc stays, the first status of the program
is kept, a record of it is due, and no register of the slot and no memory changes. -/
def FaultsAt (s : State) (sl : Fin 32) (st : Status) (o : Out) : Prop :=
  ∃ t r, o = .next t ∧ (t.slot sl).pc = (s.slot sl).pc ∧ (t.slot sl).stopped = true ∧ (t.slot sl).phase = .draining
    ∧ (t.slot sl).wait = none
    ∧ (t.slot sl).status = (if (s.slot sl).status = 0 then st else (s.slot sl).status)
    ∧ (t.slot sl).info = (s.slot sl).info ++ [r] ∧ r.status = st ∧ r.index = (s.slot sl).pc ∧ r.slot = some sl.val
    ∧ (t.slot sl).sregs = (s.slot sl).sregs ∧ (t.slot sl).tregs = (s.slot sl).tregs
    ∧ (t.slot sl).preds = (s.slot sl).preds
    ∧ (∀ i, i ≠ sl.val → t.slot i = s.slot i)
    ∧ t.mem = s.mem ∧ t.tmem = s.tmem ∧ t.nbuf = s.nbuf ∧ t.sems = s.sems

/-- The outcome holds the slot at its instruction with `wt`; nothing else changes. -/
def HoldsAt (s : State) (sl : Fin 32) (wt : Waiting) (o : Out) : Prop :=
  ∃ t, o = .next t ∧ t.slot sl = { s.slot sl with wait := some wt } ∧ (∀ i, i ≠ sl.val → t.slot i = s.slot i)
    ∧ { t with slots := [] } = { s with slots := [] }

/-- The outcome retires the instruction without another effect and goes on at `pc`. -/
def GoesTo (s : State) (sl : Fin 32) (pc : Nat) (o : Out) : Prop :=
  ∃ t, o = .next t ∧ Retires s t sl pc ∧ butPc (t.slot sl) = butPc (s.slot sl)

/-- What must hold of the tensors `ds` of a tensor instruction (R50, R83): each passes the checks, counts are equal, the
segment source `src` divides into segments, and no host tensor moves more than 4 KiB. -/
def TensorsOk (ds : List TDesc) (src : TDesc) : Prop :=
  (∀ d ∈ ds, d.checks false = true) ∧ countsEqual ds = true ∧ segsOk src (groupAll ds) = true ∧ hostOk ds = true

/-- The instance may use the tensors: inside its allocation, and clear of protected regions (R50, R371). -/
def TensorsReachable (s : State) (i : BitVec 8) (ds : List TDesc) : Prop :=
  (∀ d ∈ ds, d.isEmpty = true ∨ (s.tensorIn i d = true ∧ s.tensorProt i d = false))

/-- The outcome issues an operation: `u` is the state in which the slot has retired the instruction and the operation `o` is
outstanding, counted in the operations of the cluster, with memory and semaphores as before; the outcome is `u` with the
operation's first segments started. -/
def Issues (s : State) (sl : Fin 32) (out : Out) (o : Op) (u : State) : Prop :=
  out = .next (u.startSegs o.id) ∧ u.ops = s.ops ++ [o] ∧ o.id = s.fresh ∧ o.sl = sl.val ∧ o.status = 0
    ∧ (u.slot sl).pc = (s.slot sl).pc + 1 ∧ butPc (u.slot sl) = butPc (s.slot sl)
    ∧ (∀ i, i ≠ sl.val → u.slot i = s.slot i)
    ∧ u.mem = s.mem ∧ u.tmem = s.tmem ∧ u.nbuf = s.nbuf ∧ u.sems = s.sems ∧ u.txq = s.txq ∧ u.posted = s.posted

/-- The values an operation takes from its instruction and slot at issue (R46, R66, R71, R72). -/
def TakesValues (s : State) (sl : Fin 32) (w : JWord) (o : Op) : Prop :=
  o.tag = w.tag ∧ o.pc = (s.slot sl).pc ∧ o.inst = (s.slot sl).inst ∧ o.tc = (s.slot sl).tc
    ∧ o.layer = (s.slot sl).layer ∧ o.oper = (s.slot sl).oper ∧ o.urgent = w.flags.getLsbD 3
    ∧ o.semId = w.imm.extractLsb' 0 16 ∧ o.semAd = w.imm.extractLsb' 16 16
    ∧ o.sigWhere = bits w.imm 34 2 ∧ o.round = bits w.imm 36 2 ∧ o.redOp = bits w.imm 38 4

/-- The access of a completion signal is granted at issue (R165, R178). -/
def SignalOk (s : State) (i : BitVec 8) (w : JWord) : Prop := s.sigDenied i w = false

/-- What must hold of the operands of a message instruction (R50, R89, R237, R282): `win` its window operands, `data` the
other one, `seg0` the bytes of its first segment. -/
def MessageOk (s : State) (i : BitVec 8) (ctx : Word) (w : JWord) (win : List TDesc) (data : TDesc) (anyFmt : Bool) : Prop :=
  (∀ d ∈ win, winArgOk d data anyFmt = true) ∧ data.checks false = true ∧ (data.isEmpty = true ∨ data.space ≠ 8) ∧ hostOk [data] = true
    ∧ TensorsReachable s i [data] ∧ s.ctxOf i (ctx.setWidth 20) = true ∧ SignalOk s i w

/-! ## Commands of masters -/

/-- A write of path `p` to register `off` of the map reaches the register: the core works, the path is up, and the path is
that of the owner (R332, R333, R379, R386, R432). -/
def Accepted (s : State) (p : Path) (off : Nat) : Prop :=
  s.tripped = false ∧ s.pathUp p = true ∧ (s.twilight = false ∨ off = Reg.PWR_TWI_CMD) ∧ s.boot.inReset = false
    ∧ (s.refusedStart = false ∨ off < 0x20000) ∧ pathCode p ≠ 0 ∧ pathCode p = s.owner

/-- `t` is `s` but for registers, shadow copies and the bytes that Tally counts. -/
def OnlyRegs (s t : State) : Prop :=
  { t with regs := [], shadow := [], tally := s.tally } = { s with regs := [], shadow := [] }

/-- From `s` to `t` no register changes but those in `l`. -/
def RegsBut (s t : State) (l : List Nat) : Prop := ∀ a, a ∉ l → t.reg a = s.reg a

/-- Register `a` counts `n` more from `s` to `t`, modulo 2^64 (R443). -/
def Counts (s t : State) (a n : Nat) : Prop := t.reg a = s.reg a + BitVec.ofNat 64 n

/-- Memories and semaphores are the same. -/
def SameStores (s t : State) : Prop :=
  t.mem = s.mem ∧ t.tmem = s.tmem ∧ t.nbuf = s.nbuf ∧ t.pio = s.pio ∧ t.sems = s.sems

/-! ## Events of slots and operations -/

/-- The first segment of `o` that has not signalled is complete (R52, R54). -/
def SegmentReady (o : Op) (x : Seg) : Prop :=
  o.segs.find? (fun y => y.idx = o.signalled ∧ y.phase = .done) = some x

/-- A semaphore that is no barrier, is not poisoned and whose page is not being zeroed. -/
def PlainSem (s : State) (id : BitVec 16) : Prop :=
  s.isBar id = false ∧ s.semPoisoned id = false ∧ s.semZeroing id = false

/-- Slot `sl` stops with status `st`: the first status of the program is kept, and a record is due (R61, R63). -/
def Stopped (s t : State) (sl : Nat) (st : Status) : Prop :=
  (t.slot sl).phase = .draining ∧ (t.slot sl).stopped = true ∧ (t.slot sl).wait = none
    ∧ (t.slot sl).status = (if (s.slot sl).status = 0 then st else (s.slot sl).status)
    ∧ ∃ r, (t.slot sl).info = (s.slot sl).info ++ [r] ∧ r.status = st

/-! ## Rings -/

/-- A write of path `p` to a register that VFs also see reaches it: a VF's own needs no ownership (R330). -/
def ViewAccepted (s : State) (p : Path) (off : Nat) : Prop :=
  match p with
  | .vf _ => s.alive = true ∧ s.pathUp p = true
  | _ => Accepted s p off

/-- The command of path `p` that reports in register `a` has ended with status `st`. -/
def Reports (t : State) (p : Path) (a : Nat) (st : Status) : Prop := t.vfld p a 16 16 = st.toNat ∧ bit (t.vreg p a) 0 = false

/-- Path `p` may command ring `r`, which it has selected, and no command of it is in progress (R309, R330). -/
def RingSelected (s : State) (p : Path) (r : Nat) : Prop :=
  ViewAccepted s p Reg.RING_CMD ∧ s.ringBusy p = false ∧ s.vfld p Reg.RING_SEL 0 14 = r ∧ s.outsideView p .rings r = false

/-- An access of the ring's engine to `n` bytes of its memory from `va` goes out: the function may translate, and the cache refuses
no page of it (R300, R322). -/
def RingReach (s : State) (g : Ring) (va : Word) (n : Nat) (write : Bool) : Prop :=
  (s.engineReach g.port g.inst va n write).1 = true

/-- Descriptor `idx` of ring `r` has come to phase `ph`. -/
def DescIs (t : State) (r : Nat) (idx : BitVec 32) (ph : DPhase) : Prop :=
  ∃ d, (t.ring r).desc? idx = some d ∧ d.phase = ph

/-! ## Messages and packets -/

/-- The send engine can create the message of request `r`, whose form is `f` (R218, R224, R229, R414): sending is enabled, the
message is in turn, its context exists and is resident, its key, if any, is good, and records and trackers have room. -/
def Creatable (s : State) (r : TxReq) (f : MsgForm) : Prop :=
  s.flag Reg.XPT_CTRL 0 = true ∧ s.inTurn r = true ∧ s.formOf r = some f ∧ s.ctxOk r.srcCtx = true
    ∧ (s.ctx r.srcCtx).resident = true
    ∧ (∀ k, f.typ = 1 ∨ f.typ = 2 → s.ownKey (winId f.tgtA) r.inst = some k → s.keyRefusal k = none)
    ∧ s.srecs.length < s.fld Reg.XPT_TX_REC 0 17 ∧ s.srecs.length + s.rrecs.length < 65536
    ∧ ((s.ctx r.srcCtx).ordered = false ∨ (s.tracker? r.srcCtx f.mcast r.dst r.dstCtx).isSome = true ∨ s.trackers.length < 16384)

/-- A packet of type `t` arrives and passes the steps before the type's own (R213). -/
def Taken (s : State) (x : Rx) (t : BitVec 4) : Prop :=
  s.alive = true ∧ x.pkt.typ = t ∧ s.headerOk x = true ∧ s.tooOld x true = false ∧ s.ctxOk x.pkt.dstCtx = true
    ∧ (s.ctx x.pkt.dstCtx).resident = true ∧ x.pkt.part = (s.ctx x.pkt.dstCtx).part

/-- The packet starts an unordered message for which a record can be made, or is a new one of a message that is being received,
within 256 packets of the cumulative index (R212, R215, R218). -/
def Receivable (s : State) (p : Packet) : Prop :=
  (s.rrec? p.src p.msg = none ∧ p.prev = 0 ∧ s.recRoom 1 = true ∧ p.idx.toNat < 256) ∨
  (∃ r, s.rrec? p.src p.msg = some r ∧ r.phase = .receiving ∧ r.got.testBit p.idx.toNat = false ∧ p.idx.toNat < r.cum + 256)

/-- The window that the packet names has an entry in the cache that admits the packet (R238, R243), in clear, and the bytes that
the packet touches lie in no protected region (R371). -/
def WindowAdmits (s : State) (p : Packet) : Prop :=
  winId p.tgtA < s.winCount ∧ (s.win (winId p.tgtA)).cached = true ∧ s.winCheck p = none ∧ p.enc = false
    ∧ s.winProt (s.win (winId p.tgtA)) (bits p.tgtB 0 48 + (spanOf (s.win (winId p.tgtA)) p).1)
        (spanOf (s.win (winId p.tgtA)) p).2 = false

/-- No word of adapter memory holds bits that are not an encoding, and no package holds a line of it. -/
def CleanMemory (s : State) : Prop := s.raw = [] ∧ s.filter = []

/-- First byte of adapter memory that a packet's target in a window of space 0x0 occupies (R48, R249). -/
def windowByte (s : State) (p : Packet) : Nat :=
  let e := s.win (winId p.tgtA)
  (s.alloc e.inst 0).1 + (e.base + BitVec.ofNat 64 (bits p.tgtB 0 48 + (spanOf e p).1)).toNat

/-- Path `p` may command context `c`, which it has selected (R230, R330). -/
def CtxSelected (s : State) (p : Path) (c : BitVec 20) : Prop :=
  ViewAccepted s p Reg.XPT_CTX_CMD ∧ s.vfld p Reg.XPT_CTX_SEL 0 20 = c.toNat ∧ s.outsideView p .ctxs c.toNat = false

/-- Path `p` may command window `w`, which it has selected (R261, R330). -/
def WinSelected (s : State) (p : Path) (w : Nat) : Prop :=
  ViewAccepted s p Reg.WIN_CMD ∧ s.vfld p Reg.WIN_SEL 0 20 = w ∧ s.outsideView p .wins w = false

/-! ## Ports -/

/-- Only sub-port `k` of port `n` changes among the sub-ports. -/
def OtherSubs (s t : State) (n k : Nat) : Prop := ∀ m j, 4 * m + j ≠ 4 * n + k → t.sub m j = s.sub m j

/-- The condition of R279 under which a sub-port goes down. -/
def GoesDown (s : State) (n k : Nat) (cause : DownCause) : Prop :=
  let x := s.sub n k
  let budget := 1000000 * s.fld Reg.FAB_LINK_CFG 0 8
  (x.link = .up ∨ x.link = .degraded ∨ x.link = .miswired) ∧
  match cause with
  | .replay => s.direct = true ∧ ∃ f l, x.held = f :: l ∧ f.sentAt + budget ≤ s.ps
  | .lock => s.direct = false ∧ ∃ a, x.lockAt = some a ∧ a + budget < s.ps
  | .fec => s.direct = false ∧ x.fecDue = true

/-- A management answer for adapter `dst` is queued on sub-port `k` of port `n`, in the class of mgmt_pcp, when the sub-port is up
and has room for a frame of full length; on one that is not up it is lost. -/
def QueuesAnswer (s t : State) (n k : Nat) (dst : AdapterId) (nodes : List PeerNode) : Prop :=
  ((s.sub n k).isUp = true → (s.sub n k).queued none + 1518 ≤ s.egressRoom n →
    ∃ g, (t.sub n k).queue = (s.sub n k).queue ++ [g] ∧ g.prio = s.fld Reg.FAB_MGMT 0 3
      ∧ g.body = .mgmt (if s.direct = true then (s.sub n k).peerMac else s.portMac n k dst) dst none nodes) ∧
  ((s.sub n k).isUp = false → t.subs = s.subs)

/-- The staged FAB_PFC is one that R273 refuses. -/
def PfcRefused (s : State) : Prop :=
  3072 < 8 * (s.shFld Reg.FAB_PFC 8 12 + s.shFld Reg.FAB_PFC 32 12)
    ∨ s.shFld Reg.FAB_PFC 8 12 ≤ s.shFld Reg.FAB_PFC 20 12 ∨ s.shFld Reg.FAB_PFC 8 12 = 0

/-! ## Host attach -/

/-- An ownership command of master `p` is carried out, whoever owns the map: in no reset, and in Twilight over MCTP alone
(R333, R379, R432). -/
def Commands (s : State) (p : Path) : Prop :=
  s.tripped = false ∧ s.boot.inReset = false ∧ s.pathUp p = true ∧ pathCode p ≠ 0

/-- Outcome of an ownership command of `p`: it leaves `st` for its master to read; owner, state and epoch are `o`, `n`
and `e`, the lease restarts if `fresh`, and nothing else changes but the bytes that Tally counts. -/
def OwnEnds (s : State) (p : Path) (out : Out) (st : Status) (o n : Nat) (e : BitVec 32) (fresh : Bool) : Prop :=
  ∃ t, out = .next t ∧ tget 0 t.ownRes (pathCode p) = st.setWidth 64 ∧ t.owner = o ∧ t.ownState = n ∧ t.epoch = e
    ∧ t.leaseAt = (if fresh then s.ps else s.leaseAt) ∧ RegsBut s t [Reg.GLB_OWN_STATUS]
    ∧ { t with regs := [], ownRes := [], leaseAt := 0, tally := s.tally } = { s with regs := [], ownRes := [], leaseAt := 0 }

/-- Trigger words of slot `g` once word 0 is `w0`. -/
def triggerWords (s : State) (g : Nat) (w0 : Word) : List Word :=
  w0 :: (List.range 7).map (fun k => BitVec.ofNat 64 (ofLe (readTab s.pio (8192 * g + 0x1008 + 8 * k) 8)))

/-- Command `a` of the instance registers ended with status `st` and hold bits `h`. -/
def InstEnds (t : State) (st : Status) (h : Nat) : Prop :=
  t.fld Reg.XLT_INST_RESULT 16 16 = st.toNat ∧ t.fld Reg.XLT_INST_RESULT 33 6 = h
    ∧ (t.flag Reg.XLT_INST_RESULT 32 = t.instExists (BitVec.ofNat 8 t.instSel))

/-! ## Adapter memory and start-up -/

/-- A test command ends with status `st`; registers but those in `l` keep their values. -/
def TestEnds (s t : State) (st : Status) (l : List Nat) : Prop :=
  t.fld Reg.MEM_TEST_RESULT 16 16 = st.toNat ∧ RegsBut s t (Reg.MEM_TEST_RESULT :: l)

/-- A warm reset keeps memory, time, the owner of the map, fuses and what waits, and clears slots, operations, rings, contexts,
windows, records and keys; it is counted with its cause (R379). -/
def WarmReset (s t : State) (cause : Nat) : Prop :=
  t.mem = s.mem ∧ t.raw = s.raw ∧ t.time = s.time ∧ t.owner = s.owner ∧ t.ownState = s.ownState ∧ t.epoch = s.epoch
    ∧ t.fuses = s.fuses ∧ t.boot.inReset = true ∧ t.bootState ≤ 1
    ∧ t.slots = [] ∧ t.ops = [] ∧ t.rings = [] ∧ t.ctxs = [] ∧ t.wins = [] ∧ t.insts = [] ∧ t.srecs = [] ∧ t.rrecs = []
    ∧ t.keys = [] ∧ t.sems = [] ∧ t.tmem = [] ∧ t.nbuf = []
    ∧ t.fld Reg.GLB_RESET_CAUSE 0 2 = cause
    ∧ t.fld Reg.GLB_RESET_CAUSE 32 32 = (s.fld Reg.GLB_RESET_CAUSE 32 32 + 1) % 2 ^ 32

/-- The image of `n` bytes lies in the firmware region and waits for its authentication (R393, R394). -/
def ImageLoaded (t : State) (base : Nat) (img : List Byte) : Prop :=
  t.bootState = 4 ∧ t.boot.fwLen = img.length ∧ ∀ k, k < img.length → tget 0 t.mem (base + k) = img.getD k 0

/-- A load command is refused: the state stays, and so does memory (R394). -/
def LoadRefused (s t : State) : Prop :=
  t.bootState = s.bootState ∧ SameStores s t ∧ (s.bootState ≠ 6 → t.fld Reg.BOOT_STATE 16 16 = St.badDescriptor.toNat)

/-! ## Security and time -/

/-- A key command ends with `st`: the data registers are zero, and a refusal counts (R408). -/
def KeyEnds (s t : State) (st : Status) : Prop :=
  Reports t .host Reg.SEC_KEY_RESULT st ∧ (∀ i, i < 5 → t.reg (Reg.SEC_KEY_DATA i) = 0)
    ∧ Counts s t (Reg.SEC_CNT 5) (if st = St.ok then 0 else 1) ∧ SameStores s t

/-- Lodestar answers with `a`, and nothing else changes. -/
def Answers (s : State) (a : SpdmAnswer) (out : Out) : Prop :=
  ∃ t, out = .next t ∧ t.out = s.out ++ [.spdm a] ∧ { t with out := [] } = { s with out := [] }

/-- The discipline loop takes the sample `e`, in units of 2^-16 ns (R191, R192). -/
def LoopTakes (s t : State) (e : Int) : Prop :=
  t.time.sample = some s.ps ∧
  let m := s.maxSlew
  let i := clampInt (s.time.integ + (s.fld Reg.TIME_SERVO_CFG 16 16 : Nat) * e) m
  (s.time.phase = .locked → e.natAbs ≤ 4 * s.lockThresh → t.time.phase = .locked ∧ t.time.integ = i
    ∧ t.time.adj = clampInt (i + (s.fld Reg.TIME_SERVO_CFG 0 16 : Nat) * e) m ∧ t.time.now = s.time.now) ∧
  (s.time.phase = .locked → 4 * s.lockThresh < e.natAbs → t.time.phase = .acquire) ∧
  (s.time.phase = .acquire → s.flag Reg.TIME_CTRL 6 = true → s.fld Reg.TIME_SERVO_CFG 52 12 * 1000 * 65536 < e.natAbs →
    t.time.integ = 0) ∧
  (s.time.phase = .acquire → s.lockThresh < e.natAbs → t.time.phase = .acquire ∧ t.time.run = 0) ∧
  (s.time.phase = .acquire → e.natAbs ≤ s.lockThresh → s.time.run + 1 < s.fld Reg.TIME_SERVO_CFG 44 8 →
    t.time.phase = .acquire ∧ t.time.run = s.time.run + 1) ∧
  (s.time.phase = .acquire → e.natAbs ≤ s.lockThresh → s.fld Reg.TIME_SERVO_CFG 44 8 ≤ s.time.run + 1 →
    t.time.phase = .locked) ∧
  (s.time.phase = .freerun ∨ s.time.phase = .holdover → s.lockThresh < e.natAbs → t.time.phase = .acquire)

/-- The outcome of a step of Meridian time to the whole nanoseconds `v` (R193, R219). -/
def Steps (s : State) (v : Word) (out : Out) : Prop :=
  let d := (v - s.now).toInt
  (d = 0 → ∃ t, out = .next t ∧ { t with tally := s.tally } = s) ∧
  (d < 0 → s.flag Reg.TIME_EPH_CTRL 0 = true → ∃ t, out = .next t ∧ t.time = s.time
    ∧ Counts s t Reg.TIME_CNT_STEP_REFUSED 1 ∧ RegsBut s t [Reg.TIME_CNT_STEP_REFUSED] ∧ OnlyRegs s t) ∧
  (0 < d ∨ (d < 0 ∧ s.flag Reg.TIME_EPH_CTRL 0 = false) → ∃ t, out = .next t ∧ t.now = v
    ∧ t.time = { s.time with now := t.time.now } ∧ Counts s t Reg.TIME_CNT_STEP 1 ∧ RegsBut s t [Reg.TIME_CNT_STEP]
    ∧ (0 < d → t.debt = s.debt ∧ t.debtAt = s.debtAt) ∧ (d < 0 → t.debt = d.natAbs + s.debtNs ∧ t.debtAt = t.now)
    ∧ SameStores s t ∧ t.slots = s.slots ∧ t.ops = s.ops)

/-- The staged Ephemeris schedule takes effect: the banks swap, the groups' values come into force, and the copy starts (R201,
R202). -/
def Swapped (s t : State) : Prop :=
  (∀ g, g < 16 → t.reg (Reg.TIME_EPH_GRP_BASE g) = s.sh (Reg.TIME_EPH_GRP_BASE g)
    ∧ t.reg (Reg.TIME_EPH_GRP_CYCLE g) = s.sh (Reg.TIME_EPH_GRP_CYCLE g))
  ∧ t.fld Reg.TIME_EPH_STATUS 2 1 = 1 - s.fld Reg.TIME_EPH_STATUS 2 1 ∧ t.flag Reg.TIME_EPH_STATUS 0 = false
  ∧ t.flag Reg.TIME_EPH_STATUS 1 = true ∧ t.ephRows = s.ephRows ∧ t.ephLive = [] ∧ t.ephCopyAt = s.ck
  ∧ OnlyRegs s { t with ephLive := s.ephLive, ephCopyAt := s.ephCopyAt }

/-! ## Power, Tally and debug -/

/-- The applied step is the largest of step_floor, the capping step and the thermal step (R425). -/
def StepApplied (t : State) : Prop :=
  t.fld Reg.PWR_STATUS 0 4 = max (t.fld Reg.PWR_CTRL 2 4) (max (t.fld Reg.PWR_STATUS 4 4) (t.fld Reg.PWR_STATUS 8 4))

/-- Nothing but Tally changes. -/
def OnlyTally (s t : State) : Prop := { t with tally := s.tally } = s

/-- A hang is declared: cause and object are recorded, and every slot that runs or loads is halted (R453). -/
def Declared (s t : State) (cause object : Nat) : Prop :=
  t.fld Reg.DBG_NW_STATUS 0 3 = 1 ∧ t.fld Reg.DBG_NW_STATUS 3 3 = cause ∧ t.fld Reg.DBG_NW_STATUS 32 32 = object
    ∧ (∀ i, t.slot i = (if (s.slot i).phase = .running ∨ (s.slot i).phase = .loading then { s.slot i with halted := true }
        else s.slot i))
    ∧ RegsBut s t [Reg.DBG_NW_STATUS] ∧ SameStores s t ∧ t.ops = s.ops ∧ t.rings = s.rings

/-- Every store of bytes, words and poison bits is in its canonical form. -/
def StoresKept (s : State) : Prop :=
  Memory.wf s.mem ∧ Memory.wf s.tmem ∧ Memory.wf s.nbuf ∧ Memory.wf s.pio ∧
  twf 0 s.sems ∧ twf false s.poison ∧ twf none s.raw

/-- Numbers that the spec bounds stay in their bounds: no message takes the number 0 (R210), the target profile is one of
four, a page being zeroed is one of 256, at most 64 version fuses are blown, and every page request has a handle that was
given out. -/
def BoundsKept (s : State) : Prop :=
  s.nextMsg ≠ 0 ∧ s.boot.target < 4 ∧ (∀ p, s.zeroing = some p → p < 256) ∧ s.fuses.minSvn ≤ 64 ∧
  ∀ x ∈ s.pages, x.id < s.fresh

/-- Fuses are never restored: what is blown stays blown. -/
def FusesGrow (s t : State) : Prop :=
  s.fuses.minSvn ≤ t.fuses.minSvn ∧ (s.fuses.rev0 → t.fuses.rev0) ∧ (s.fuses.rev1 → t.fuses.rev1) ∧
  t.fuses.bad = s.fuses.bad ∧ t.fuses.rows = s.fuses.rows ∧ t.fuses.cols = s.fuses.cols

/-- Tally's counts move only by their own events. -/
def TallyOnly (c : Instr) (s t : State) : Prop :=
  t.tally.changes = (match c with
    | .tlyCalChange true _ => s.tally.changes + 1
    | _ => s.tally.changes) ∧
  t.tally.starts = (match c with
    | .tallyPowerOn => s.tally.starts + 1
    | _ => s.tally.starts) ∧
  t.tally.seq = (match c with
    | .tallyRecordClose => s.tally.seq + 1
    | _ => s.tally.seq)

/-- R78: CMP writes the comparison that imm[2:0] selects; codes 6 and 7 fault. -/
def CompareResults : Prop :=
  ∀ (s : State) (sl : Fin 32) (w : JWord), isP w.opa = true → isX w.opb = true → isX w.opc = true →
    Ready s sl 0x1C w →
    let b := valX (s.slot sl) w.opb
    let c := valX (s.slot sl) w.opc
    (bits w.imm 0 3 = 0 → WritesP s sl w.opa (decide (b = c)) (exec (.cmp sl w) s)) ∧
    (bits w.imm 0 3 = 1 → WritesP s sl w.opa (decide (b ≠ c)) (exec (.cmp sl w) s)) ∧
    (bits w.imm 0 3 = 2 → WritesP s sl w.opa (decide (b.toInt < c.toInt)) (exec (.cmp sl w) s)) ∧
    (bits w.imm 0 3 = 3 → WritesP s sl w.opa (decide (b.toInt ≥ c.toInt)) (exec (.cmp sl w) s)) ∧
    (bits w.imm 0 3 = 4 → WritesP s sl w.opa (decide (b.toNat < c.toNat)) (exec (.cmp sl w) s)) ∧
    (bits w.imm 0 3 = 5 → WritesP s sl w.opa (decide (b.toNat ≥ c.toNat)) (exec (.cmp sl w) s)) ∧
    (6 ≤ bits w.imm 0 3 → FaultsAt s sl St.illegalInstruction (exec (.cmp sl w) s))

/-- R79: PLOG writes the predicate function that imm[1:0] selects. -/
def PredicateLogic : Prop :=
  ∀ (s : State) (sl : Fin 32) (w : JWord), isP w.opa = true → isP w.opb = true → isP w.opc = true →
    Ready s sl 0x1D w →
    let b := valP (s.slot sl) w.opb
    let c := valP (s.slot sl) w.opc
    (bits w.imm 0 2 = 0 → WritesP s sl w.opa (b && c) (exec (.plog sl w) s)) ∧
    (bits w.imm 0 2 = 1 → WritesP s sl w.opa (b || c) (exec (.plog sl w) s)) ∧
    (bits w.imm 0 2 = 2 → WritesP s sl w.opa (b ^^ c) (exec (.plog sl w) s)) ∧
    (bits w.imm 0 2 = 3 → WritesP s sl w.opa (b && !c) (exec (.plog sl w) s))

/-- R80: GETS writes the slot or adapter value that imm[3:0] selects. -/
def GetsValues : Prop :=
  ∀ (s : State) (sl : Fin 32) (w : JWord), isS w.opa = true → Ready s sl 0x1E w →
    let x := s.slot sl
    (bits w.imm 0 4 = 0 → WritesS s sl w.opa (BitVec.ofNat 64 (s.fld Reg.FAB_ID 0 16)) (exec (.gets sl w) s)) ∧
    (bits w.imm 0 4 = 1 → WritesS s sl w.opa (BitVec.ofNat 64 sl.val) (exec (.gets sl w) s)) ∧
    (bits w.imm 0 4 = 2 → WritesS s sl w.opa (x.inst.setWidth 64) (exec (.gets sl w) s)) ∧
    (bits w.imm 0 4 = 3 → WritesS s sl w.opa (x.layer.setWidth 64) (exec (.gets sl w) s)) ∧
    (bits w.imm 0 4 = 4 → WritesS s sl w.opa (x.oper.setWidth 64) (exec (.gets sl w) s)) ∧
    (bits w.imm 0 4 = 5 → WritesS s sl w.opa s.now (exec (.gets sl w) s)) ∧
    (6 ≤ bits w.imm 0 4 → FaultsAt s sl St.illegalInstruction (exec (.gets sl w) s))

/-- R100: MARK sets the layer ID with flags[12] and the operator ID with flags[13]. -/
def MarkSetsIds : Prop :=
  ∀ (s : State) (sl : Fin 32) (w : JWord), Ready s sl 0x84 w →
    ∃ t, exec (.mark sl w) s = .next t ∧ (t.slot sl).pc = (s.slot sl).pc + 1
      ∧ (t.slot sl).layer = (if w.flags.getLsbD 0 then w.imm.extractLsb' 0 32 else (s.slot sl).layer)
      ∧ (t.slot sl).oper = (if w.flags.getLsbD 1 then w.imm.extractLsb' 32 32 else (s.slot sl).oper)
      ∧ { butPc (t.slot sl) with layer := 0, oper := 0 } = { butPc (s.slot sl) with layer := 0, oper := 0 }
      ∧ (∀ i, i ≠ sl.val → t.slot i = s.slot i)
      ∧ t.mem = s.mem ∧ t.tmem = s.tmem ∧ t.nbuf = s.nbuf ∧ t.sems = s.sems ∧ t.ops = s.ops

/-- R44, R45, R74: a reserved opcode, an operand of the wrong kind or a reserved immediate faults, whatever the predicate. -/
def EncodingFaults : Prop :=
  ∀ (s : State) (sl : Fin 32) (op : BitVec 8) (w : JWord), Fetched s sl op w →
    fieldsOk op w (s.slot sl).imemLen = false → FaultsAt s sl St.illegalInstruction (exec (commandOf op sl w) s)

/-- R76: a pc that has passed the last instruction faults at that index, whatever the command. -/
def EndOfImageFaults : Prop :=
  ∀ (s : State) (sl : Fin 32) (op : BitVec 8) (w : JWord), s.canIssue sl = true →
    (s.slot sl).imemLen ≤ (s.slot sl).pc → FaultsAt s sl St.illegalInstruction (exec (commandOf op sl w) s)

/-- R44: an instruction whose predicate condition is false retires without effect. -/
def FalsePredicateRetires : Prop :=
  ∀ (s : State) (sl : Fin 32) (op : BitVec 8) (w : JWord), Fetched s sl op w →
    fieldsOk op w (s.slot sl).imemLen = true → predHolds (s.slot sl) w = false →
    GoesTo s sl ((s.slot sl).pc + 1) (exec (commandOf op sl w) s)

/-- R41: while the slot is at its cap, or the cluster at 64 operations, an instruction of groups 0x3 to 0x6 does not issue. -/
def CapHoldsIssue : Prop :=
  ∀ (s : State) (sl : Fin 32) (w : JWord), s.canOp sl = false →
    ∀ op : BitVec 8, 0x30 ≤ op.toNat → op.toNat < 0x66 → fieldsOk op w (s.slot sl).imemLen = true → Ready s sl op w →
      ∃ t, exec (commandOf op sl w) s = .next t ∧ (t.slot sl).pc = (s.slot sl).pc ∧ t.ops = s.ops
        ∧ t.slots = s.slots ∧ t.mem = s.mem

/-- R89 to R93: a message instruction whose operands pass every check issues its operation with its values, and retires. -/
def MessageInstructionsIssue : Prop :=
  ∀ (s : State) (sl : Fin 32) (w : JWord),
    let x := s.slot sl
    let d := valT x w.opa
    let a := valT x w.opb
    let c := slotS x w.opc.toNat
    let g := groupAll [d, a]
    let short (t : TDesc) (g : Nat) : Prop := segsOk t g = true ∧ t.denseBytes (t.segment g 0).1 (t.segment g 0).2 ≤ 2 ^ 28
    let ok (op : BitVec 8) : Prop := Ready s sl op w ∧ fieldsOk op w x.imemLen = true ∧ s.canOp sl = true
    (ok 0x60 → MessageOk s x.inst c w [d] a false → short a g →
      ∃ o u, Issues s sl (exec (.put sl w) s) o u ∧ TakesValues s sl w o ∧ o.kind = .put ∧ o.dst = d ∧ o.a = a ∧ o.ctxv = c) ∧
    (ok 0x61 → MessageOk s x.inst c w [a] d false → short d (groupAll [a, d]) →
      ∃ o u, Issues s sl (exec (.get sl w) s) o u ∧ TakesValues s sl w o ∧ o.kind = .get ∧ o.dst = d ∧ o.a = a ∧ o.ctxv = c) ∧
    (ok 0x64 → MessageOk s x.inst c w [d] a false → short a g → s.groupOk x.inst c = true →
      ∃ o u, Issues s sl (exec (.mput sl w) s) o u ∧ TakesValues s sl w o ∧ o.kind = .mput ∧ o.dst = d ∧ o.a = a ∧ o.ctxv = c) ∧
    (ok 0x65 → MessageOk s x.inst c w [d] a true → short a g →
      ∃ o u, Issues s sl (exec (.putacc sl w) s) o u ∧ TakesValues s sl w o ∧ o.kind = .putacc ∧ o.dst = d ∧ o.a = a
        ∧ o.ctxv = c)

/-- R92, R255: SEND and RECV whose operand passes every check. A RECV posts its destination when the table has room and no
earlier one waits, and otherwise waits, which is counted. -/
def SendAndReceiveIssue : Prop :=
  ∀ (s : State) (sl : Fin 32) (w : JWord),
    let x := s.slot sl
    let d := valT x w.opa
    let c := slotS x w.opc.toNat
    let ok (op : BitVec 8) : Prop := Ready s sl op w ∧ fieldsOk op w x.imemLen = true ∧ s.canOp sl = true
      ∧ MessageOk s x.inst c w [] d false ∧ d.denseBytes 0 d.count ≤ 2 ^ 28
    let waits (o : Op) : Prop := o.kind = .recv ∧ o.done = false ∧ ∀ b ∈ s.posted, b.op ≠ o.id
    (ok 0x62 → ∃ o u, Issues s sl (exec (.send sl w) s) o u ∧ TakesValues s sl w o ∧ o.kind = .send ∧ o.a = d
      ∧ o.dest = slotS x w.opb.toNat ∧ o.ctxv = c) ∧
    (ok 0x63 → (∀ b ∈ s.posted, b.op ≠ s.fresh) → (∀ o ∈ s.ops, o.id ≠ s.fresh) → ∃ t o, exec (.recv sl w) s = .next t
      ∧ t.ops = s.ops ++ [o] ∧ TakesValues s sl w o ∧ o.kind = .recv ∧ o.dst = d ∧ o.ctxv = c
      ∧ (t.slot sl).pc = x.pc + 1 ∧ butPc (t.slot sl) = butPc x ∧ SameStores s t
      ∧ (s.posted.length < 16384 → (∀ o ∈ s.ops, ¬ waits o) →
          t.posted = s.posted ++ [⟨o.id, c.setWidth 20, w.imm.extractLsb' 40 24, d.denseBytes 0 d.count, none⟩]
            ∧ Counts s t (Reg.WIN_CNT 11) 0)
      ∧ (16384 ≤ s.posted.length → t.posted = s.posted ∧ Counts s t (Reg.WIN_CNT 11) 1))

/-- R52, R54: the segments of an operation signal one by one in ascending order, each only once its data is complete; in
segment mode at this adapter each adds 1 to the semaphore, and without a signal no semaphore changes. -/
def SegmentsSignalInOrder : Prop :=
  ∀ (s : State) (op : Nat) (o : Op), s.alive = true → s.op? op = some o →
    (∀ x, SegmentReady o x → o.status = 0 → ∃ t o', exec (.segmentComplete op) s = .next t ∧ t.op? op = some o'
      ∧ o'.signalled = o.signalled + 1
      ∧ (o.sigMode = 0 → t.sems = s.sems)
      ∧ (o.sigMode = 2 → o.sigWhere = 0 → PlainSem s o.semId →
          (tget 0 t.sems o.semId.toNat).toNat = min ((tget 0 s.sems o.semId.toNat).toNat + 1) (2 ^ 64 - 1))) ∧
    ((∀ x ∈ o.segs, x.idx = o.signalled → x.phase ≠ .done) → exec (.segmentComplete op) s = .next s)

/-- R53, R54, R61, R63: an operation whose data movement and signals are complete leaves the outstanding operations; without
a failure and without a signal no semaphore changes and the slot keeps its status; a failure stops the slot with the
operation's status. Until then nothing happens. -/
def OperationsComplete : Prop :=
  ∀ (s : State) (op : Nat) (o : Op), s.alive = true → s.op? op = some o →
    (s.opEnded o = false → exec (.operationComplete op) s = .next s) ∧
    (s.opEnded o = true → ∃ t, exec (.operationComplete op) s = .next t ∧ (∀ y ∈ t.ops, y.id ≠ op)
      ∧ (o.status = 0 → o.sigMode = 0 → t.sems = s.sems ∧ (t.slot o.sl).status = (s.slot o.sl).status)
      ∧ (o.status = 0 → o.sigMode = 1 → o.sigWhere = 0 → PlainSem s o.semId →
          (tget 0 t.sems o.semId.toNat).toNat = min ((tget 0 s.sems o.semId.toNat).toNat + 1) (2 ^ 64 - 1)
          ∧ (t.slot o.sl).status = (s.slot o.sl).status)
      ∧ (o.status ≠ 0 → t.sems = s.sems ∧ Stopped s t o.sl o.status))

/-- R97, R98, R175 to R177: a wait ends with TIMEOUT at the first tick of the 16 µs clock at which it has lasted as long as its
timeout, a halted slot excepted; the first timeout is logged. A stop or a satisfaction of the same ck, the model's commands that
wait in the queue (log 124), takes precedence. A time wait ends when Meridian time has reached its target. -/
def WaitsEnd : Prop :=
  ∀ (s : State) (sl : Fin 32), s.alive = true →
    (∀ id thr since n tag began, (s.slot sl).wait = some (.sem id thr since n tag began) →
      (s.stopNow sl = true ∨ s.satisfiedNow sl = true → exec (.waitTimeout sl) s = .next s) ∧
      (s.stopNow sl = false → s.satisfiedNow sl = false → since + n * 16000000 ≤ s.ps / 16000000 * 16000000 → (s.slot sl).halted = false →
        ∃ t, exec (.waitTimeout sl) s = .next t ∧ Stopped s t sl St.timeout ∧ Counts s t Reg.SEM_CNT_TIMEOUT 1
          ∧ (t.slot sl).pc = (s.slot sl).pc ∧ SameStores s t
          ∧ (s.flag Reg.SEM_TO_LOG0 0 = false → t.flag Reg.SEM_TO_LOG0 0 = true
              ∧ t.fld Reg.SEM_TO_LOG0 24 16 = id.toNat ∧ t.fld Reg.SEM_TO_LOG0 40 24 = tag.toNat
              ∧ t.fld Reg.SEM_TO_LOG0 16 5 = sl.val ∧ t.fld Reg.SEM_TO_LOG0 8 8 = (s.slot sl).inst.toNat
              ∧ t.reg Reg.SEM_TO_LOG1 = thr ∧ t.reg Reg.SEM_TO_LOG2 = s.semValue id)
          ∧ (s.flag Reg.SEM_TO_LOG0 0 = true → RegsBut s t [Reg.SEM_CNT_TIMEOUT])) ∧
      (s.ps / 16000000 * 16000000 < since + n * 16000000 ∨ (s.slot sl).halted = true →
        exec (.waitTimeout sl) s = .next s)) ∧
    (∀ v, (s.slot sl).wait = some (.until_ v) →
      (v.toNat ≤ s.nowNs → GoesTo s sl ((s.slot sl).pc + 1) (exec (.twaitRelease sl) s)) ∧
      (s.nowNs < v.toNat → exec (.twaitRelease sl) s = .next s))

/-- R63, R67, R76: a program that has ended or stopped completes once no operation of it is outstanding: the slot is idle and
keeps its registers, and its fault registers take the most recent fault. Until then nothing happens. -/
def ProgramsComplete : Prop :=
  ∀ (s : State) (sl : Fin 32), s.alive = true →
    ((s.slot sl).phase = .draining → s.slotOps sl = 0 →
      ∃ t, exec (.programComplete sl) s = .next t ∧ (t.slot sl).phase = .idle ∧ (t.slot sl).wait = none
        ∧ (t.slot sl).sregs = (s.slot sl).sregs ∧ (t.slot sl).tregs = (s.slot sl).tregs ∧ (t.slot sl).preds = (s.slot sl).preds
        ∧ (t.slot sl).pc = (s.slot sl).pc ∧ (t.slot sl).status = (s.slot sl).status
        ∧ (∀ r, (s.slot sl).info.getLast? = some r →
            (t.slot sl).faultTag = r.tag ∧ (t.slot sl).faultPc = r.index ∧ (t.slot sl).faultSt = r.status)
        ∧ (∀ i, i ≠ sl.val → t.slot i = s.slot i) ∧ SameStores s t ∧ t.ops = s.ops) ∧
    ((s.slot sl).phase ≠ .draining ∨ s.slotOps sl ≠ 0 → exec (.programComplete sl) s = .next s)

/-- R60, R65, R323 to R325: answers to page requests and translation requests. A success takes the request away; an invalid
response or a failure counts and ends the held operation with TRANSLATION_FAULT, and a failure stops the function's requests.
A present page enters the translation cache; a refusal adds nothing to it. -/
def TranslationAnswers : Prop :=
  ∀ (s : State), s.alive = true →
    (∀ port id r, s.pages.find? (fun q => q.id = id ∧ q.sent ∧ q.key.port = port) = some r →
      (∀ q ∈ s.pages, q.id < s.fresh) →
      (∃ t, exec (.pageResponse port id .success) s = .next t ∧ ∀ q ∈ t.pages, q.id ≠ id) ∧
      (∃ t, exec (.pageResponse port id .invalid) s = .next t ∧ (∀ q ∈ t.pages, q.id ≠ id) ∧ Counts s t (Reg.XLT_CNT 4) 1
        ∧ (∀ o, s.op? r.op = some o → o.held = true → o.status = 0 →
            ∃ o', t.op? r.op = some o' ∧ o'.status = St.translationFault ∧ o'.held = false)) ∧
      (∃ t, exec (.pageResponse port id .failure) s = .next t ∧ (port, r.key.fn) ∈ t.priStop ∧ Counts s t (Reg.XLT_CNT 4) 1
        ∧ (∀ o, s.op? r.op = some o → o.held = true → o.status = 0 →
            ∃ o', t.op? r.op = some o' ∧ o'.status = St.translationFault ∧ o'.held = false))) ∧
    (∀ port fn pasid page, (⟨port, fn, pasid, page⟩ : XKey) ∈ s.xlating →
      (∀ n rd wr phys, 12 ≤ n → n ≤ 30 →
        ∃ t, exec (.atsTranslationResponse port fn pasid page (.present n rd wr phys)) s = .next t
          ∧ (⟨⟨port, fn, pasid, page⟩, n, rd, wr, phys⟩ : Atc) ∈ t.atc) ∧
      (∃ t, exec (.atsTranslationResponse port fn pasid page .absent) s = .next t ∧ ∀ e ∈ t.atc, e ∈ s.atc))

/-- R60, R324: an invalidation removes every cached translation of its range at once and counts; its completion is sent only
when no access that used the range before is in progress, and then nothing but the list of invalidations and the log changes. A
function's queue of invalidations holds 32 (that one more is not taken is the model's choice, log 132). -/
def Invalidations : Prop :=
  ∀ (s : State), s.alive = true →
    (∀ port fn pasid (base : Word) size, s.invalRoom port fn = true →
      ∃ t, exec (.atsInvalidation port fn pasid base size) s = .next t
      ∧ (∀ e, e ∈ t.atc ↔ e ∈ s.atc ∧ e.inRange port fn pasid base.toNat size = false)
      ∧ Counts s t (Reg.XLT_CNT 2) 1 ∧ RegsBut s t [Reg.XLT_CNT 2]
      ∧ (∃ v, t.invals = s.invals ++ [v] ∧ v.port = port ∧ v.base = base.toNat ∧ v.size = size)
      ∧ { t with regs := [], atc := [], invals := [], fresh := 0 } = { s with regs := [], atc := [], invals := [], fresh := 0 }) ∧
    (∀ port fn pasid (base : Word) size, s.invalRoom port fn = false →
      exec (.atsInvalidation port fn pasid base size) s = .next s) ∧
    (∀ id v, s.invals.find? (fun x => x.id = id) = some v →
      (v.users.any s.inProgress = false → ∃ t, exec (.invalidationComplete id) s = .next t
        ∧ (∀ x, x ∈ t.invals ↔ x ∈ s.invals ∧ x.id ≠ id) ∧ t.out = s.out ++ [.invDone v.port id]
        ∧ { t with invals := [], out := [] } = { s with invals := [], out := [] }) ∧
      (v.users.any s.inProgress = true → exec (.invalidationComplete id) s = .next s))

/-- R35, R67, R134, R176: the owner's writes of CLU_SLOT_STOP, CLU_CTRL and NEB_RES_INJECT. A stop takes effect on a slot with a
program that is not stopped, after a wait that is satisfied in the same ck has retired; a flush discards the images that no slot uses; an injection replaces what was armed. -/
def ClusterCommands : Prop :=
  ∀ (s : State) (p : Path) (v : Word),
    (∀ sl : Fin 32, Accepted s p (Reg.CLU_SLOT_STOP (sl.val / 4) (sl.val % 4)) → bit v 0 = true →
      (s.slot sl).phase ≠ .idle → (s.slot sl).stopped = false →
      ∃ t, exec (.slotStop p sl v) s = .next t ∧ Stopped s t sl St.aborted ∧ (∀ i, i ≠ sl.val → t.slot i = s.slot i)
        ∧ SameStores s t ∧ (t.slot sl).pc = (s.slot sl).pc + (if (s.tlp p 8).satisfiedNow sl then 1 else 0)
        ∧ ((s.tlp p 8).satisfiedNow sl = false → t.regs = s.regs)) ∧
    (∀ clu : Fin 8, Accepted s p (Reg.CLU_CTRL clu) →
      ∃ t, exec (.imemFlush p clu v) s = .next t ∧ t.flag (Reg.CLU_CTRL clu) 0 = bit v 0
        ∧ RegsBut s t [Reg.CLU_CTRL clu]
        ∧ (bit v 1 = false → t.images = s.images)
        ∧ (bit v 1 = true → ∀ r, r ∈ t.images ↔ r ∈ s.images ∧ (r.clu ≠ clu.val ∨ s.imageUsed r = true))
        ∧ { t with regs := [], images := [], tally := s.tally } = { s with regs := [], images := [] }) ∧
    (Accepted s p Reg.NEB_RES_INJECT →
      ∃ t, exec (.residueInject p v) s = .next t
        ∧ t.armed = (if bit v 0 then some ⟨bits v 1 2, bits v 3 7, bit v 10⟩ else s.armed)
        ∧ { t with armed := none, tally := s.tally } = { s with armed := none })

/-- R121, R126, R131: a pass whose residues agree processes the elements of one pass of the segment at the head of the array's
queue; when they are not the last, the segment stays at the head with so many more done, and when they are, the element
operations are counted for the array and the segment leaves the queue. -/
def ArraysRunPasses : Prop :=
  ∀ (s : State) (arr : Fin 4) (j : Job) (o : Op) (x : Seg), s.alive = true → s.arrayUp arr.val = true →
    s.jobs.find? (fun k => k.arr = arr.val) = some j → s.op? j.op = some o → o.seg? j.seg = some x → s.armed = none →
    0 < j.per → j.done < j.elems → j.tally.length = 4 →
    (j.done + j.per < j.elems → ∃ t k, exec (.nebulaPass arr none) s = .next t
      ∧ t.jobs.find? (fun k => k.arr = arr.val) = some k ∧ k.op = j.op ∧ k.seg = j.seg ∧ k.done = j.done + j.per
      ∧ SameStores s t ∧ t.regs = s.regs ∧ t.slots = s.slots) ∧
    (j.elems ≤ j.done + j.per → ∃ t, exec (.nebulaPass arr none) s = .next t
      ∧ Counts s t (Reg.NEB_CNT_OPS arr) ((j.tally.getD arr 0 + (j.elems - j.done)) * j.lanes)
      ∧ t.jobs.length < s.jobs.length)

/-- R165 to R168, R170, R173: a fully enabled access to a semaphore cell by a path that the page admits, to an unpoisoned
semaphore that is no barrier, reads of the cell's other words, which return zero, and the refusals, which are counted and change
nothing else. -/
def CellAccesses : Prop :=
  ∀ (s : State) (p : Path) (sem : BitVec 16) (v : Word) (be : BitVec 8), s.cellPath p = true →
    let old := (tget 0 s.sems sem.toNat).toNat
    let done (o : Out) (n : Nat) : Prop := ∃ t, o = .next t ∧ (tget 0 t.sems sem.toNat).toNat = n
      ∧ (∀ j : BitVec 16, j ≠ sem → tget 0 t.sems j.toNat = tget 0 s.sems j.toNat)
      ∧ Counts s t Reg.SEM_CNT_OPS 1 ∧ t.mem = s.mem ∧ t.tmem = s.tmem ∧ t.nbuf = s.nbuf ∧ t.ops = s.ops
    let refused (o : Out) : Prop := ∃ t, o = .next t ∧ Counts s t Reg.SEM_CNT_REFUSED 1
      ∧ RegsBut s t [Reg.SEM_CNT_REFUSED] ∧ OnlyRegs s t
    (s.semCell p sem = true → PlainSem s sem →
      (be = 0xFF → done (exec (.cellSet p sem v be) s) v.toNat
        ∧ done (exec (.cellAdd p sem v be) s) (min (old + v.toNat) (2 ^ 64 - 1))
        ∧ done (exec (.cellSubtract p sem v be) s) (old - v.toNat)) ∧
      (∃ t w, exec (.cellRead p ⟨sem, 0⟩ be) s = .next t ∧ t.out = s.out ++ [.data p w]
        ∧ (be = 0xFF → w.toNat = old) ∧ t.sems = s.sems ∧ Counts s t Reg.SEM_CNT_OPS 1)) ∧
    (be ≠ 0 → (s.semCell p sem = false ∨ be ≠ 0xFF) →
      refused (exec (.cellSet p sem v be) s) ∧ refused (exec (.cellAdd p sem v be) s)
        ∧ refused (exec (.cellSubtract p sem v be) s)) ∧
    (∀ k : Fin 8, k ≠ 0 → s.semCell p sem = true → ∃ t, exec (.cellRead p ⟨sem, k⟩ be) s = .next t ∧ t.out = s.out ++ [.data p 0]
      ∧ { t with out := [], tally := s.tally } = { s with out := [] }) ∧
    (∀ k : Fin 8, s.semCell p sem = false → ∃ t, exec (.cellRead p ⟨sem, k⟩ be) s = .next t ∧ t.out = s.out ++ [.data p 0]
      ∧ Counts s t Reg.SEM_CNT_REFUSED 1 ∧ SameStores s t)

/-- R184, R185: the zeroing of a semaphore page, and the write of a barrier. -/
def PageZeroing : Prop :=
  ∀ (s : State) (p : Path) (v : Word),
    (Accepted s p Reg.SEM_ZERO → ∃ t, exec (.semZero p v) s = .next t
      ∧ t.zeroing = (if bit v 8 = true ∧ s.zeroing = none then some (bits v 0 8) else s.zeroing)
      ∧ { t with zeroing := none, tally := s.tally } = { s with zeroing := none }) ∧
    (∀ n, s.alive = true → s.zeroing = some n → s.semHeld = [] →
      ∃ t, exec .pageZeroComplete s = .next t ∧ t.zeroing = none
        ∧ (∀ j, j / 256 = n → tget 0 t.sems j = 0) ∧ (∀ j, j / 256 ≠ n → tget 0 t.sems j = tget 0 s.sems j)
        ∧ (∀ k, k / 64 = n → tget false t.poison k = false) ∧ (∀ k, k / 64 ≠ n → tget false t.poison k = tget false s.poison k)
        ∧ t.mem = s.mem ∧ t.tmem = s.tmem ∧ t.nbuf = s.nbuf ∧ t.ops = s.ops) ∧
    (∀ b : BitVec 8, Accepted s p (Reg.SEM_BAR b.toNat) → s.barriers = true → s.zeroing ≠ some 255 →
      ∃ t, exec (.semBarWrite p b v) s = .next t
        ∧ t.fld (Reg.SEM_BAR b.toNat) 0 12 = bits v 0 12 ∧ t.fld (Reg.SEM_BAR b.toNat) 12 12 = 0
        ∧ t.fld (Reg.SEM_BAR b.toNat) 32 32 = s.fld (Reg.SEM_BAR b.toNat) 32 32
        ∧ RegsBut s t [Reg.SEM_BAR b.toNat] ∧ OnlyRegs s t)

/-- R291, R292: a doorbell sets the tail of its ring and counts; one that is not a full write, names a ring of another owner or
runs ahead of the ring's size is counted and changes nothing else. -/
def Doorbells : Prop :=
  ∀ (s : State) (p : Path) (r : BitVec 14) (v : Word) (full : Bool), s.bellPath p = true →
    let g := s.ring r.toNat
    let bad : Prop := (∃ i, p = .vf i ∧ g.inst ≠ i) ∨ (∃ q, p = .att q ∧ g.space ≠ 4 + q.val) ∨ full = false
      ∨ 2 ^ g.log2 < (v.setWidth 32 - g.head).toNat
    (¬ bad → ∃ t, exec (.doorbell p r v full) s = .next t ∧ (t.ring r.toNat).tail = v.setWidth 32
      ∧ (t.ring r.toNat).head = g.head ∧ (t.ring r.toNat).fetched = g.fetched ∧ Counts s t (Reg.RING_CNT 0) 1
      ∧ (∀ i, i ≠ r.toNat → t.ring i = s.ring i) ∧ SameStores s t ∧ t.slots = s.slots ∧ t.ops = s.ops) ∧
    (bad → ∃ t, exec (.doorbell p r v full) s = .next t ∧ Counts s t (Reg.RING_CNT 4) 1
      ∧ RegsBut s t [Reg.RING_CNT 4] ∧ OnlyRegs s t)

/-- R293, R300: the descriptors that a read returns are accepted up to the first whose owner bit is 0, which is read again after
64 ck; a failed read puts the ring in ERROR. -/
def DescriptorFetches : Prop :=
  ∀ (s : State) (r : BitVec 14) (ds : List Desc), s.alive = true → (s.ring r.toNat).want ≠ 0 →
    let g := s.ring r.toNat
    (ds.length = g.want → (∀ d ∈ ds, bit d.w0 63 = true) → ∃ t, exec (.descriptorFetchReturn r ds true) s = .next t
      ∧ (t.ring r.toNat).fetched = g.fetched + BitVec.ofNat 32 ds.length
      ∧ (t.ring r.toNat).tail = g.tail ∧ (t.ring r.toNat).head = g.head ∧ (∀ i, i ≠ r.toNat → t.ring i = s.ring i)) ∧
    (∀ d l, ds = d :: l → ds.length = g.want → bit d.w0 63 = false →
      ∃ t, exec (.descriptorFetchReturn r ds true) s = .next t
        ∧ t.ring r.toNat = { g with want := 0, rereads := 0, backoff := some (s.ck + 64000000) }
        ∧ (∀ i, i ≠ r.toNat → t.ring i = s.ring i) ∧ { t with rings := [] } = { s with rings := [] }) ∧
    (g.phase ≠ .error → ∃ t, exec (.descriptorFetchReturn r ds false) s = .next t ∧ (t.ring r.toNat).phase = .error
      ∧ (t.ring r.toNat).lastSt = St.uncorrectable ∧ (t.ring r.toNat).want = 0 ∧ (t.ring r.toNat).fetched = g.fetched)

/-- R293, R300: once its backoff has passed a descriptor is read again, and the read is counted: with owner 1 it is accepted, with
owner 0 the backoff doubles, and the eighth such read stops the ring with EARLY_DOORBELL, counted; a read that fails puts the ring
in ERROR. Before, nothing happens. -/
def Rereads : Prop :=
  ∀ (s : State) (r : BitVec 14) (d : Desc), s.alive = true →
    let g := s.ring r.toNat
    (∀ b, g.backoff = some b → b ≤ s.ck → RingReach s g (g.descVa g.fetched) 64 false →
      (bit d.w0 63 = true → ∃ t, exec (.descriptorReread r d true) s = .next t ∧ Counts s t (Reg.RING_CNT 2) 1
        ∧ (t.ring r.toNat).fetched = g.fetched + 1 ∧ (t.ring r.toNat).backoff = none ∧ (t.ring r.toNat).tail = g.tail
        ∧ (t.ring r.toNat).head = g.head ∧ (∀ i, i ≠ r.toNat → t.ring i = s.ring i) ∧ SameStores s t) ∧
      (bit d.w0 63 = false → g.rereads < 7 → ∃ t, exec (.descriptorReread r d true) s = .next t
        ∧ Counts s t (Reg.RING_CNT 2) 1
        ∧ t.ring r.toNat = { g with rereads := g.rereads + 1, backoff := some (s.ck + 64000000 * 2 ^ (g.rereads + 1)) }
        ∧ (∀ i, i ≠ r.toNat → t.ring i = s.ring i) ∧ SameStores s t) ∧
      (bit d.w0 63 = false → 7 ≤ g.rereads → ∃ t, exec (.descriptorReread r d true) s = .next t
        ∧ Counts s t (Reg.RING_CNT 2) 1 ∧ Counts s t (Reg.RING_CNT 3) 1 ∧ (t.ring r.toNat).phase = .stopped
        ∧ (t.ring r.toNat).lastSt = St.earlyDoorbell ∧ (t.ring r.toNat).backoff = none ∧ (t.ring r.toNat).stopAt = s.ps
        ∧ (t.ring r.toNat).fetched = g.fetched ∧ (∀ i, i ≠ r.toNat → t.ring i = s.ring i) ∧ SameStores s t) ∧
      (g.phase ≠ .error → ∃ t, exec (.descriptorReread r d false) s = .next t ∧ Counts s t (Reg.RING_CNT 2) 1
        ∧ (t.ring r.toNat).phase = .error ∧ (t.ring r.toNat).lastSt = St.uncorrectable
        ∧ (t.ring r.toNat).fetched = g.fetched)) ∧
    (∀ ok, (g.backoff = none ∨ ∃ b, g.backoff = some b ∧ s.ck < b) → exec (.descriptorReread r d ok) s = .next s)

/-- R293: a stopped ring leaves STOPPED once its re-poll time has passed since it stopped, and fetches again when it may; a re-poll
time of 0, an earlier time or a ring that is not stopped changes nothing. -/
def Repolls : Prop :=
  ∀ (s : State) (r : BitVec 14), s.alive = true →
    let g := s.ring r.toNat
    (g.phase = .stopped → bits g.cfg3 28 16 ≠ 0 → g.stopAt + bits g.cfg3 28 16 * 1000000 ≤ s.ps →
      ∃ t, exec (.ringRepoll r) s = .next t ∧ (t.ring r.toNat).phase ≠ .stopped ∧ (t.ring r.toNat).tail = g.tail
        ∧ (t.ring r.toNat).head = g.head ∧ (t.ring r.toNat).fetched = g.fetched
        ∧ (g.fetched = g.tail → (t.ring r.toNat).phase = .idle ∧ (t.ring r.toNat).want = g.want)
        ∧ (∀ i, i ≠ r.toNat → t.ring i = s.ring i) ∧ SameStores s t) ∧
    (g.phase ≠ .stopped ∨ bits g.cfg3 28 16 = 0 ∨ s.ps < g.stopAt + bits g.cfg3 28 16 * 1000000 →
      exec (.ringRepoll r) s = .next s)

/-- R290, R295, R297: a dispatch takes the oldest undispatched descriptor of the ring that the scheduler serves and counts it: a NOP
finishes with OK, a launch waits for a cluster, a SEM_OP on a semaphore that the ring's instance may use takes effect and finishes
with OK, and one on another finishes with ACCESS_DENIED. Where no ring is eligible nothing is dispatched, and no dispatch comes
within 32 ck of the last one. -/
def Dispatches : Prop :=
  ∀ (s : State), s.alive = true → s.watching = true → s.flag Reg.RING_CTRL 0 = true →
    ((∀ l, s.sched.last = some l → l + 32000000 ≤ s.ck) →
      (∀ r q d, s.schedTrim.chooseRing = some (r, q) → (s.ring r).first? = some d →
        let id : BitVec 16 := BitVec.ofNat 16 (bits d.d.w1 0 16)
        let old := (tget 0 s.sems id.toNat).toNat
        ∃ t, exec .descriptorDispatch s = .next t ∧ Counts s t (Reg.RING_CNT 1) 1 ∧ t.sched.last = some s.ck
          ∧ (t.ring r).head = (s.ring r).head ∧ (t.ring r).tail = (s.ring r).tail ∧ (∀ i, i ≠ r → t.ring i = s.ring i)
          ∧ (bits d.d.w0 0 8 = 0 → DescIs t r d.idx (.finished St.ok) ∧ t.sems = s.sems)
          ∧ (bits d.d.w0 0 8 = 1 → DescIs t r d.idx .waiting ∧ t.sems = s.sems)
          ∧ (bits d.d.w0 0 8 = 3 → s.semProg (s.ring r).inst id = true → PlainSem s id →
              DescIs t r d.idx (.finished St.ok)
              ∧ (bits d.d.w1 16 2 = 1 → (tget 0 t.sems id.toNat).toNat = min (old + d.d.w2.toNat) (2 ^ 64 - 1))
              ∧ (bits d.d.w1 16 2 = 2 → (tget 0 t.sems id.toNat).toNat = old - d.d.w2.toNat)
              ∧ (bits d.d.w1 16 2 = 3 → tget 0 t.sems id.toNat = d.d.w2))
          ∧ (bits d.d.w0 0 8 = 3 → s.semProg (s.ring r).inst id = false →
              DescIs t r d.idx (.finished St.accessDenied) ∧ t.sems = s.sems)) ∧
      (s.schedTrim.chooseRing = none → exec .descriptorDispatch s = .next s.schedTrim)) ∧
    (∀ l, s.sched.last = some l → s.ck < l + 32000000 → exec .descriptorDispatch s = .next s)

/-- R30, R34, R68: a waiting launch is placed on the cluster that Zenith chooses, with its ring's traffic class; which idle slot of
the cluster takes it is the model's choice (log 120). Without a cluster it waits on. -/
def LaunchesPlaced : Prop :=
  ∀ (s : State) (r : BitVec 14) (d : RDesc), s.alive = true → s.running = true → s.watching = true →
    (s.ring r.toNat).waiting? = some d →
    (∀ c sl, s.chooseCluster (s.ring r.toNat).inst d.d = some c → s.idleSlot c = some sl →
      ∃ t tc, exec (.programLaunch r) s = .next t ∧ (t.slot sl).launch = some (r, d.idx, tc)
        ∧ tc.toNat = (s.ring r.toNat).tc ∧ { t.slot sl with launch := none } = { s.slot sl with launch := none }
        ∧ DescIs t r.toNat d.idx .dispatched ∧ (∀ i, i ≠ sl → t.slot i = s.slot i)
        ∧ SameStores s t ∧ t.regs = s.regs ∧ t.ops = s.ops) ∧
    (s.chooseCluster (s.ring r.toNat).inst d.d = none → exec (.programLaunch r) s = .next s)

/-- A launch of slot `sl` has ended with `st` before its program started: the slot is idle, and the descriptor finished. -/
def LaunchEnds (s : State) (sl : Fin 32) (r : BitVec 14) (d : RDesc) (st : Status) (out : Out) : Prop :=
  ∃ t, out = .next t ∧ (t.slot sl).phase = .idle ∧ (t.slot sl).launch = none
    ∧ (d.over = false → DescIs t r.toNat d.idx (.finished st)) ∧ (∀ k, k ≠ sl.val → t.slot k = s.slot k)

/-- R31 to R35, R48, R68: Zenith checks the header of the image of a launch that it has placed. With a good header, its instructions
and its initial descriptors readable and room for it, the slot is claimed and the program starts at its entry with the launch's
arguments in s1 to s4 and its marks; a bad header ends the launch with BAD_IMAGE, an image outside the instance's memory or in a
protected region with ACCESS_DENIED, and a bus error with UNCORRECTABLE; a launch for which the cluster has no room any more waits
again, its slot as before. -/
def ImagesChecked : Prop :=
  ∀ (s : State) (sl : Fin 32) (r : BitVec 14) (idx : BitVec 32) (tc : BitVec 3) (d : RDesc), s.alive = true →
    (s.slot sl).launch = some (r, idx, tc) → (s.ring r.toNat).desc? idx = some d →
    let i := (s.ring r.toNat).inst
    let ends (st : Status) : Prop := LaunchEnds s sl r d st (exec (.imageCheck sl) s)
    (s.imageAt i d.d.w1 256 = none → ends St.accessDenied) ∧
    (∀ a, s.imageAt i d.d.w1 256 = some a →
      (s.prot a 256 = true → ends St.accessDenied) ∧
      (s.prot a 256 = false → ∀ bs err u, s.readMem i a 256 = (bs, err, u) →
        (err = true → ends St.uncorrectable) ∧
        (err = false → headerOf bs = none → ends St.badImage) ∧
        (∀ h, err = false → headerOf bs = some h → u.canHold (sl.val / 4) a h = false →
          ∃ t, exec (.imageCheck sl) s = .next t ∧ t.slot sl = { s.slot sl with launch := none }
            ∧ DescIs t r.toNat idx .waiting) ∧
        (∀ h, err = false → headerOf bs = some h → u.canHold (sl.val / 4) a h = true →
          let v := u.setSlot sl (Slot.claimed r idx tc i s.ps)
          let ins := if (u.residentOf (sl.val / 4) a h).isNone then v.imageRead i d.d.w1 h.instrAt (16 * h.count) else ([], 0, v)
          let tds := ins.2.2.imageRead i d.d.w1 h.tdescAt (64 * h.tdescs)
          ins.2.1 = 0 → tds.2.1 = 0 → (tds.2.2.makeResident (sl.val / 4) a h (wordsOf ins.1 h.count)).isSome = true →
          ∃ t, exec (.imageCheck sl) s = .next t
            ∧ (t.slot sl).phase = (if h.count = 0 then .draining else .running) ∧ (t.slot sl).pc = h.entry % 2 ^ 15
            ∧ (t.slot sl).imemLen = h.count ∧ (t.slot sl).status = 0 ∧ (t.slot sl).launch = none
            ∧ (t.slot sl).ring = r ∧ (t.slot sl).desc = idx ∧ (t.slot sl).tc = tc ∧ (t.slot sl).inst = i
            ∧ slotS (t.slot sl) 1 = d.d.w3 ∧ slotS (t.slot sl) 2 = d.d.w4 ∧ slotS (t.slot sl) 3 = d.d.w5
            ∧ slotS (t.slot sl) 4 = d.d.w6 ∧ (∀ n, 5 ≤ n → slotS (t.slot sl) n = 0) ∧ (t.slot sl).preds = 0
            ∧ (∀ k, k < h.tdescs → tget TDesc.zero (t.slot sl).tregs k = tdescOf (tds.1.drop (64 * k)))
            ∧ (t.slot sl).layer = d.d.w2.extractLsb' 0 32 ∧ (t.slot sl).oper = d.d.w2.extractLsb' 32 32
            ∧ (∀ k, k ≠ sl.val → t.slot k = s.slot k))))

/-- R298, R299: a finished descriptor of a ring whose memory the engine reaches is written back with owner 0 and its status in its
word 0; then, with sig_en 1 and an acknowledged writeback, its semaphore, which the ring's instance may use, rises by 1; and then the
head passes every descriptor published in unbroken order. One that has not finished is not published. -/
def DescriptorsPublished : Prop :=
  ∀ (s : State) (r : BitVec 14) (idx : BitVec 32) (d : RDesc) (wbOk headOk : Bool), s.alive = true →
    let g := s.ring r.toNat
    g.desc? idx = some d →
    (∀ st, d.phase = .finished st → g.cfg0.toNat % 64 = 0 → RingReach s g (g.descVa idx) 8 true →
      let u := (s.engineReach g.port g.inst (g.descVa idx) 8 true).2
      ∃ t l w, exec (.descriptorPublish r idx wbOk headOk) s = .next t
        ∧ t.out = u.out ++ .memWrite g.port g.inst (u.phys g.port g.inst (g.descVa idx)) (leBytes w 8) :: l
        ∧ w / 2 ^ 63 % 2 = 0 ∧ w / 2 ^ 32 % 2 ^ 16 = st.toNat ∧ w % 2 ^ 32 = d.d.w0.toNat % 2 ^ 32
        ∧ (∀ id, wbOk = true → descSigSem d.d = some id → s.semProg g.inst id = true → PlainSem s id →
            (tget 0 t.sems id.toNat).toNat = min ((tget 0 s.sems id.toNat).toNat + 1) (2 ^ 64 - 1))
        ∧ (wbOk = false ∨ descSigSem d.d = none → t.sems = s.sems)
        ∧ (idx = g.head → g.descs.length < 2 ^ 32 → (t.ring r.toNat).head ≠ g.head)
        ∧ (idx ≠ g.head → (∀ x, g.desc? g.head = some x → ∀ v, x.phase ≠ .published v) → (t.ring r.toNat).head = g.head)
        ∧ (t.ring r.toNat).fetched = g.fetched ∧ (t.ring r.toNat).tail = g.tail
        ∧ (∀ i, i ≠ r.toNat → t.ring i = s.ring i) ∧ t.mem = s.mem ∧ t.ops = s.ops) ∧
    ((∀ st, d.phase ≠ .finished st) → exec (.descriptorPublish r idx wbOk headOk) s = .next s)

/-- What raising vector `v` of function `fn` adds from `s` to `t`: its message, or while it is masked its pending bit, and nothing
where the function may not raise it (R301, R312). -/
def VectorRaised (s t : State) (fn : BitVec 8) (v : Nat) : Prop :=
  (s.msixMay fn v = true → s.msixHeld fn v = false →
    t.out = s.out ++ [.msix fn v (s.vec fn v).addr (s.vec fn v).data] ∧ t.msixPend = s.msixPend) ∧
  (s.msixMay fn v = true → s.msixHeld fn v = true → t.out = s.out ∧ tget false t.msixPend (2048 * fn.toNat + v) = true) ∧
  (s.msixMay fn v = false → t.out = s.out ∧ t.msixPend = s.msixPend)

/-- R301: a held interrupt passage of a ring or of a fault queue is raised once the holdoff of its source has passed; before, and
where none is held, nothing happens. -/
def HoldoffsEnd : Prop :=
  ∀ (s : State), s.alive = true →
    (∀ r : BitVec 14, let g := s.ring r.toNat
      (g.irqHeld = true → bit g.cfg3 11 = true → (∀ a, g.irqAt = some a → a + bits g.cfg3 12 16 * 1000000 ≤ s.ps) →
        ∃ t, exec (.irqHoldoffExpiry (.ring r)) s = .next t
          ∧ t.ring r.toNat = { g with irqAt := some s.ps, irqHeld := false } ∧ (∀ i, i ≠ r.toNat → t.ring i = s.ring i)
          ∧ VectorRaised s t g.inst (bits g.cfg3 0 11) ∧ t.regs = s.regs ∧ SameStores s t) ∧
      ((g.irqHeld = false ∨ ∃ a, g.irqAt = some a ∧ s.ps < a + bits g.cfg3 12 16 * 1000000) →
        exec (.irqHoldoffExpiry (.ring r)) s = .next s)) ∧
    (∀ q : Fin 257, let c := s.reg (Reg.RING_FQ_CTRL q)
      ((s.fq q).irqHeld = true → bit c 12 = true → (∀ a, (s.fq q).irqAt = some a → a + bits c 13 16 * 1000000 ≤ s.ps) →
        ∃ t, exec (.irqHoldoffExpiry (.fq q)) s = .next t ∧ (t.fq q).irqHeld = false ∧ (t.fq q).irqAt = some s.ps
          ∧ VectorRaised s t (fqFn q) (bits c 1 11) ∧ t.regs = s.regs ∧ SameStores s t) ∧
      (((s.fq q).irqHeld = false ∨ ∃ a, (s.fq q).irqAt = some a ∧ s.ps < a + bits c 13 16 * 1000000) →
        exec (.irqHoldoffExpiry (.fq q)) s = .next s))

/-- R301, R303, R309: Configure takes the staged configuration of a quiescent ring; a base that is not a multiple of 4 KiB and a
vector that is not the function's own are refused, and so is a change of what is fixed while work is in flight. -/
def RingConfiguration : Prop :=
  ∀ (s : State) (p : Path) (r : Nat), RingSelected s p r →
    let g := s.ring r
    let c (a : Nat) : Word := s.sh (pathAt p a)
    let inst : BitVec 8 := match p with | .vf j => j | _ => BitVec.ofNat 8 (bits (c Reg.RING_CFG1) 28 8)
    let refused (st : Status) : Prop := ∃ t, exec (.ringConfigure p) s = .next t ∧ Reports t p Reg.RING_RESULT st ∧ t.rings = s.rings
    ((c Reg.RING_CFG0).toNat % 4096 = 0 → (inst = 0 ∨ bits (c Reg.RING_CFG3) 0 11 < 64) → g.head = g.fetched →
      ∃ t, exec (.ringConfigure p) s = .next t ∧ Reports t p Reg.RING_RESULT St.ok
        ∧ (t.ring r).cfg0 = c Reg.RING_CFG0 ∧ (t.ring r).cfg2 = c Reg.RING_CFG2 ∧ (t.ring r).cfg3 = c Reg.RING_CFG3
        ∧ (t.ring r).inst = inst ∧ (t.ring r).log2 = bits (c Reg.RING_CFG1) 0 5 ∧ (t.ring r).tc = bits (c Reg.RING_CFG1) 5 3
        ∧ (t.ring r).enable = bit (c Reg.RING_CFG1) 27 ∧ (t.ring r).head = g.head ∧ (t.ring r).tail = g.tail
        ∧ (∀ i, i ≠ r → t.ring i = s.ring i)) ∧
    ((c Reg.RING_CFG0).toNat % 4096 ≠ 0 ∨ (inst ≠ 0 ∧ 64 ≤ bits (c Reg.RING_CFG3) 0 11) → refused St.badDescriptor) ∧
    ((c Reg.RING_CFG0).toNat % 4096 = 0 → (inst = 0 ∨ bits (c Reg.RING_CFG3) 0 11 < 64) → g.head ≠ g.fetched →
      c Reg.RING_CFG0 ≠ g.cfg0 → refused St.quiesceRequired)

/-- R302, R303, R309: Read shows the ring; Abort clears its enable, ends what was fetched and not dispatched with ABORTED, stops
its programs, and is in progress until the head meets fetched; Reset indices sets every index of a quiescent ring to 0 and its state
to idle. -/
def RingCommands : Prop :=
  ∀ (s : State) (p : Path) (r : Nat), RingSelected s p r →
    let g := s.ring r
    (∃ t, exec (.ringRead p) s = .next t ∧ Reports t p Reg.RING_RESULT St.ok ∧ t.rings = s.rings
      ∧ t.vreg p Reg.RING_CFG0 = g.cfg0 ∧ t.vreg p Reg.RING_CFG1 = g.cfg1 ∧ t.vreg p Reg.RING_CFG2 = g.cfg2
      ∧ t.vreg p Reg.RING_CFG3 = g.cfg3 ∧ t.vfld p Reg.RING_IDX0 0 32 = g.tail.toNat ∧ t.vfld p Reg.RING_IDX0 32 32 = g.head.toNat
      ∧ t.vfld p Reg.RING_IDX1 0 32 = g.fetched.toNat ∧ t.vfld p Reg.RING_IDX1 32 32 = g.dispatched.toNat ∧ OnlyRegs s t) ∧
    (∃ t, exec (.ringAbort p) s = .next t ∧ (t.ring r).enable = false ∧ (t.ring r).head = g.head ∧ (t.ring r).fetched = g.fetched
      ∧ (∀ idx d, g.desc? idx = some d → d.phase = .fetched ∨ d.phase = .waiting →
          ∃ d', (t.ring r).desc? idx = some d' ∧ d'.phase = .finished St.aborted)
      ∧ (∀ sl : Fin 32, (s.slot sl).phase ≠ .idle → (s.slot sl).ring.toNat = r → (t.slot sl).stopped = true)
      ∧ (g.head ≠ g.fetched → bit (t.vreg p Reg.RING_RESULT) 0 = true)
      ∧ (g.head = g.fetched → Reports t p Reg.RING_RESULT St.ok)) ∧
    (g.head = g.fetched → ∃ t, exec (.ringResetIndices p) s = .next t ∧ Reports t p Reg.RING_RESULT St.ok
      ∧ (t.ring r).phase = .idle ∧ (t.ring r).tail = 0 ∧ (t.ring r).fetched = 0 ∧ (t.ring r).dispatched = 0 ∧ (t.ring r).head = 0
      ∧ (t.ring r).cfg0 = g.cfg0 ∧ (t.ring r).cfg1 = g.cfg1 ∧ (∀ i, i ≠ r → t.ring i = s.ring i)) ∧
    (g.head ≠ g.fetched → ∃ t, exec (.ringResetIndices p) s = .next t ∧ Reports t p Reg.RING_RESULT St.quiesceRequired
      ∧ t.rings = s.rings)

/-- R210, R218, R224: creating a message takes its request from the send engine and makes one sender record, with the next
message ID (ascending, without 0), the present Meridian time as its birth, and nothing sent. While sending is off or another message
goes first, the request waits. -/
def MessagesCreated : Prop :=
  ∀ (s : State) (id : Nat) (r : TxReq) (f : MsgForm), s.alive = true → s.txq.find? (fun q => q.id = id) = some r →
    (s.flag Reg.XPT_CTRL 0 = false ∨ s.inTurn r = false → exec (.messageCreate id) s = .next s) ∧
    (Creatable s r f → (f.mcast = true → s.mcMembers r.dst.toNat ≠ 0) →
    ∃ t x, exec (.messageCreate id) s = .next t ∧ t.srecs = s.srecs ++ [x] ∧ x.msg = s.nextMsg ∧ x.birth = s.now
      ∧ x.src = r.src ∧ x.typ = f.typ ∧ x.dst = r.dst ∧ x.srcCtx = r.srcCtx ∧ x.dstCtx = r.dstCtx ∧ x.sent = 0 ∧ x.status = none
      ∧ t.nextMsg = (if s.nextMsg + 1 = 0 then 1 else s.nextMsg + 1) ∧ t.msgCount = s.msgCount + 1
      ∧ (∀ q, q ∈ t.txq ↔ q ∈ s.txq ∧ q.id ≠ id)
      ∧ ((s.ctx r.srcCtx).ordered = true → ∃ k, t.tracker? r.srcCtx f.mcast r.dst r.dstCtx = some k ∧ k.msg = s.nextMsg)
      ∧ t.regs = s.regs ∧ SameStores s t ∧ t.ops = s.ops ∧ t.slots = s.slots ∧ t.rrecs = s.rrecs)

/-- R220, R226, R228: the release of a packet that is next, or is to be sent again, of an unencrypted message to one adapter. It
leaves by the internal loopback when this adapter is the destination, and otherwise by the plane that R226 picks once the rate
and the schedule admit it and the egress queue has room; it counts, and the timer runs. -/
def PacketsReleased : Prop :=
  ∀ (s : State) (msg : MsgId) (idx : BitVec 16) (r : SRec) (e : Option Resend), s.alive = true → s.srec? msg = some r →
    r.nextPacket idx.toNat = some e → r.key = none → (r.mcast = false ∨ e.isSome = true) →
    (e.isSome = true → s.mayRetx r.birth = true) →
    let dst := match e with | some x => x.dst | none => r.dst
    let p := s.packetOf r idx.toNat e.isSome dst false
    let sent (out : List Emission) (loop : List Rx) : Prop := ∃ t r', exec (.packetRelease msg idx) s = .next t
      ∧ t.out = s.out ++ out ∧ t.loop = s.loop ++ loop ∧ Counts s t (Reg.XPT_CNT 0) 1
      ∧ t.srec? msg = some r' ∧ r'.timer.isSome = true ∧ r'.acked = r.acked
      ∧ (e = none → r'.sent = (if r.typ = 4 then r.last + 1 else r.sent + 1) ∧ r'.again = r.again)
      ∧ (∀ x, e = some x → r'.sent = r.sent ∧ r'.again = r.again.erase x)
    (s.hop dst = .loop → sent [] [looped p r.tc.toNat]) ∧
    (s.hop dst ≠ .loop → r.urgent = true ∨ tokenCost (s.frameLen p) ≤ s.tokens (s.ctx r.srcCtx) → s.ephOpen r dst = true →
      ∀ i wrr, s.pickPlane r idx.toNat e.isSome (s.routePlanes dst) = some (i, wrr) →
        s.egressFits i (s.frameLen p) = true → sent [.packet i p] [])

/-- R213, R215, R249: a WRITE packet that the window admits is received: it is counted, and its record holds its index. In a
window of adapter memory with clean words its payload is written from its place on, and no other byte changes. -/
def WritePackets : Prop :=
  ∀ (s : State) (x : Rx), Taken s x 1 → Receivable s x.pkt → WindowAdmits s x.pkt →
    ∃ t r', exec (.writePacket x) s = .next t ∧ Counts s t (Reg.XPT_CNT 1) 1
      ∧ t.rrec? x.pkt.src x.pkt.msg = some r' ∧ r'.got.testBit x.pkt.idx.toNat = true
      ∧ ((s.win (winId x.pkt.tgtA)).space = 0 → CleanMemory s → let a := windowByte s x.pkt
          (∀ k, k < x.pkt.payload.length → tget 0 t.mem (a + k) = x.pkt.payload.getD k 0)
          ∧ (∀ b, b < a ∨ a + x.pkt.payload.length ≤ b → tget 0 t.mem b = tget 0 s.mem b)
          ∧ Counts s t (Reg.WIN_CNT 0) 1 ∧ t.tmem = s.tmem ∧ t.nbuf = s.nbuf)

/-- R93, R213, R215: the same of a WRITE_ACC packet, whose elements are combined with those of the window on an array. -/
def WriteAccPackets : Prop :=
  ∀ (s : State) (x : Rx), Taken s x 2 → Receivable s x.pkt → WindowAdmits s x.pkt →
    let e := s.win (winId x.pkt.tgtA)
    ∃ t r', exec (.writeAccPacket x none) s = .next t ∧ Counts s t (Reg.XPT_CNT 1) 1
      ∧ t.rrec? x.pkt.src x.pkt.msg = some r' ∧ r'.got.testBit x.pkt.idx.toNat = true
      ∧ (e.space = 0 → CleanMemory s → s.armed = none → s.pickArray.isSome = true →
          let a := windowByte s x.pkt
          let n := (spanOf e x.pkt).2
          let ctrl := ((s.rrec? x.pkt.src x.pkt.msg).bind (·.ctrl)).getD (s.reg Reg.NEB_CTRL)
          let bs := (accResult ctrl e x.pkt (readTab s.mem a n)).bytes
          (∀ k, k < n → k < bs.length → tget 0 t.mem (a + k) = bs.getD k 0)
          ∧ (∀ b, b < a ∨ a + n ≤ b → tget 0 t.mem b = tget 0 s.mem b)
          ∧ Counts s t (Reg.WIN_CNT 1) 1 ∧ t.tmem = s.tmem ∧ t.nbuf = s.nbuf)

/-- R256, R257: the first SEND packet of a message binds the oldest posted buffer of its context and match value that can hold
it; without one the message fails with NO_BUFFER. -/
def SendPackets : Prop :=
  ∀ (s : State) (x : Rx), Taken s x 3 → s.rrec? x.pkt.src x.pkt.msg = none → x.pkt.prev = 0 → s.recRoom 1 = true →
    x.pkt.idx.toNat < 256 → x.pkt.enc = false →
    let p := x.pkt
    let need := if p.idx = p.last then p.last.toNat * 4096 + p.payload.length else p.last.toNat * 4096 + 1
    let fits (b : Posted) : Prop := b.bound = none ∧ b.ctx = p.dstCtx ∧ b.match_.toNat = p.tgtA.toNat % 2 ^ 24 ∧ need ≤ b.size
    ((∃ b ∈ s.posted, fits b) → ∃ t r', exec (.sendPacket x) s = .next t ∧ Counts s t (Reg.WIN_CNT 8) 1
      ∧ t.rrec? p.src p.msg = some r'
      ∧ ∃ b, s.posted.find? (fun b => b.bound.isNone && b.ctx == p.dstCtx && b.match_ == p.tgtA.setWidth 24
            && decide (need ≤ b.size)) = some b ∧ r'.bound = some b.op) ∧
    ((∀ b ∈ s.posted, ¬ fits b) → ∃ t r', exec (.sendPacket x) s = .next t ∧ Counts s t (Reg.WIN_CNT 9) 1
      ∧ (p.mcast = false → (∀ r ∈ s.rrecs, r.src = p.src → r.prev = p.msg → r.phase ≠ .held) → Counts s t (Reg.XPT_CNT 10) 1)
      ∧ t.rrec? p.src p.msg = some r' ∧ r'.phase = .failed ∧ r'.status = St.noBuffer
      ∧ t.mem = s.mem ∧ t.tmem = s.tmem ∧ t.nbuf = s.nbuf)

/-- R165, R179: a semaphore message whose page admits it is applied exactly once. -/
def SemaphorePackets : Prop :=
  ∀ (s : State) (x : Rx), Taken s x 6 → s.rrec? x.pkt.src x.pkt.msg = none → x.pkt.prev = 0 → s.recRoom 1 = true →
    x.pkt.idx = 0 → x.pkt.last = 0 → x.pkt.enc = false → x.pkt.sig = false → (∀ r ∈ s.rrecs, r.phase ≠ .held) →
    let id : BitVec 16 := x.pkt.tgtA.setWidth 16
    let old := (tget 0 s.sems id.toNat).toNat
    let v := x.pkt.tgtB.toNat
    PlainSem s id → s.semRemote x.pkt.part id = true →
    ∃ t, exec (.semPacket x) s = .next t ∧ Counts s t Reg.SEM_CNT_OPS 1
      ∧ (x.pkt.attr.toNat % 256 = 1 → (tget 0 t.sems id.toNat).toNat = min (old + v) (2 ^ 64 - 1))
      ∧ (x.pkt.attr.toNat % 256 = 2 → (tget 0 t.sems id.toNat).toNat = old - v)
      ∧ (x.pkt.attr.toNat % 256 = 3 → (tget 0 t.sems id.toNat).toNat = v)
      ∧ (∀ j : BitVec 16, j ≠ id → tget 0 t.sems j.toNat = tget 0 s.sems j.toNat)
      ∧ ∃ r', t.rrec? x.pkt.src x.pkt.msg = some r' ∧ r'.phase = .published

/-- R231, R243, R244: a READ_REQ that the window, inside the adapter and in clear, admits starts one read for each response packet
that it wants and keeps the window in use; one that R243 refuses draws a NACK and starts none. -/
def ReadRequests : Prop :=
  ∀ (s : State) (x : Rx), Taken s x 4 →
    let e := s.win (winId x.pkt.tgtA)
    winId x.pkt.tgtA < s.winCount → e.cached = true →
    (s.winCheck x.pkt = none → s.winProt e (bits x.pkt.tgtB 0 48) (readReach x.pkt) = false → e.enc = false → e.space < 3 →
      ∃ t l, exec (.readReq x) s = .next t ∧ t.reads = s.reads ++ l
        ∧ l.length = x.pkt.last.toNat + 1 - x.pkt.idx.toNat
        ∧ (x.pkt.idx.toNat ≤ x.pkt.last.toNat → (t.win (winId x.pkt.tgtA)).flight = e.flight + 1)
        ∧ (x.pkt.last.toNat < x.pkt.idx.toNat → (t.win (winId x.pkt.tgtA)).flight = e.flight)
        ∧ SameStores s t ∧ t.rrecs = s.rrecs) ∧
    (∀ st, s.winCheck x.pkt = some st → st ≠ St.busy → ∃ t, exec (.readReq x) s = .next t ∧ t.reads = s.reads
      ∧ (s.ofMcast x.pkt = false → Counts s t (Reg.XPT_CNT 10) 1) ∧ (t.win (winId x.pkt.tgtA)).flight = e.flight ∧ SameStores s t)

/-- R231: a READ_RESP in clear for a GET's segment with its tensor in clean adapter memory is recorded; when it is the last one
missing the message ends. A second one of an index is counted as a duplicate and stores nothing. -/
def ReadResponses : Prop :=
  ∀ (s : State) (x : Rx) (r : SRec), Taken s x 5 → s.srec? x.pkt.msg = some r → r.typ = 4 → x.pkt.enc = false →
    (s.respDup r x.pkt.idx.toNat = false → CleanMemory s → ∀ id g o k, r.src = .op id g → s.segIdx id g = some (o, k) →
      o.dst.space = 0 →
      let acked := r.acked ||| 2 ^ x.pkt.idx.toNat
      ((∀ i, r.cum ≤ i → i ≤ r.last → acked.testBit i = true) → ∃ t, exec (.readResp x) s = .next t ∧ t.srec? x.pkt.msg = none) ∧
      (∀ i, r.cum ≤ i → i ≤ r.last → acked.testBit i = false →
        ∃ t r', exec (.readResp x) s = .next t ∧ t.srec? x.pkt.msg = some r' ∧ r'.acked = acked)) ∧
    (s.respDup r x.pkt.idx.toNat = true → ∃ t, exec (.readResp x) s = .next t ∧ Counts s t (Reg.XPT_CNT 4) 1
      ∧ t.srecs = s.srecs ∧ SameStores s t)

/-- R212, R213, R216, R223, R232: what ACKs and NACKs do to the sender record that they name, and that one without a record is
counted and changes nothing of the records. -/
def Acknowledgements : Prop :=
  ∀ (s : State) (x : Rx), s.alive = true → s.headerOk x = true →
    (∀ r, s.srec? x.pkt.msg = some r → r.mcast = false →
      (x.pkt.typ = 8 → x.pkt.fin = true → ∃ t, exec (.ack x) s = .next t ∧ t.srec? x.pkt.msg = none) ∧
      (x.pkt.typ = 8 → x.pkt.fin = false → r.typ ≠ 4 → ∃ t r', exec (.ack x) s = .next t ∧ t.srec? x.pkt.msg = some r'
        ∧ ∀ i, r'.acked.testBit i = (r.acked.testBit i || (decide (i ≤ r.last)
            && (decide (i < x.pkt.idx.toNat) || (decide (x.pkt.idx.toNat < i)
              && x.pkt.tgtB.toNat.testBit (i - x.pkt.idx.toNat - 1)))))) ∧
      (x.pkt.typ = 9 → x.pkt.attr = St.busy → ∃ t r', exec (.nack x) s = .next t ∧ t.srec? x.pkt.msg = some r'
        ∧ r'.busy = r.busy ++ [(⟨x.pkt.idx.toNat, .busy, r.dst, s.now⟩, s.ps + s.fld Reg.XPT_BUSY 0 16 * 1000000)]
        ∧ r'.status = r.status ∧ Counts s t (Reg.XPT_CNT 11) 1) ∧
      (x.pkt.typ = 9 → x.pkt.attr ≠ St.busy → r.typ ≠ 4 → ∃ t r', exec (.nack x) s = .next t ∧ t.srec? x.pkt.msg = some r'
        ∧ r'.status = some (r.status.getD x.pkt.attr) ∧ Counts s t (Reg.XPT_CNT 11) 1) ∧
      (x.pkt.typ = 9 → x.pkt.attr ≠ St.busy → r.typ = 4 → ∃ t, exec (.nack x) s = .next t ∧ t.srec? x.pkt.msg = none)) ∧
    (∀ r, s.srec? x.pkt.msg = some r → r.mcast = true →
      let left := r.members &&& ~~~(BitVec.ofNat 64 (2 ^ rankIn r.line x.pkt.src))
      (x.pkt.typ = 8 → x.pkt.fin = false → ∃ t, exec (.ack x) s = .next t ∧ t.srecs = s.srecs) ∧
      (x.pkt.typ = 8 → x.pkt.fin = true → x.pkt.attr ≠ 0 ∨ left = 0 → ∃ t, exec (.ack x) s = .next t ∧ t.srec? x.pkt.msg = none) ∧
      (x.pkt.typ = 8 → x.pkt.fin = true → x.pkt.attr = 0 → left ≠ 0 → ∃ t r', exec (.ack x) s = .next t
        ∧ t.srec? x.pkt.msg = some r' ∧ r'.members = left)) ∧
    (s.srec? x.pkt.msg = none →
      (x.pkt.typ = 8 → ∃ t, exec (.ack x) s = .next t ∧ Counts s t (Reg.XPT_CNT 7) 1 ∧ t.srecs = s.srecs ∧ SameStores s t) ∧
      (x.pkt.typ = 9 → ∃ t, exec (.nack x) s = .next t ∧ Counts s t (Reg.XPT_CNT 7) 1 ∧ t.srecs = s.srecs ∧ SameStores s t))

/-- R212, R221, R223: the timers of messages. A due acknowledgement is sent; an expired retransmission timer sends again every
unacknowledged packet of the window with the next period, up to the limits; a held packet is sent once more. -/
def MessageTimers : Prop :=
  ∀ (s : State), s.alive = true →
    (∀ src msg r a, s.rrec? src msg = some r → r.ackDue = some a → a ≤ s.ps → r.finalSent = false →
      ∃ t r', exec (.ackDelayExpiry src msg) s = .next t ∧ t.rrec? src msg = some r' ∧ r'.unacked = 0 ∧ r'.ackDue = none
        ∧ (r.mcast = false → s.hop r.src = .loop → t.loop = s.loop ++ [looped (s.ackPacket r false) r.tc.toNat])
        ∧ (r.mcast = false → s.hop r.src ≠ .loop → ∀ i wrr,
            wrrPick (s.ctx r.dstCtx).wrr (s.routePlanes r.src) = some (i, wrr) →
            t.out = s.out ++ [.packet i (s.ackPacket r false)])) ∧
    (∀ msg r a, s.srec? msg = some r → r.timer = some a →
      (a ≤ s.ps → s.mayRetx r.birth = true → r.retx < s.fld Reg.XPT_RTO_CFG 32 4 →
        ∃ t r', exec (.retxTimerExpiry msg) s = .next t ∧ t.srec? msg = some r' ∧ r'.retx = r.retx + 1 ∧ r'.expo = r.expo + 1
          ∧ r'.timer = some (s.ps + 1000000 * s.rtoUs (r.expo + 1))
          ∧ (r.mcast = false → r.typ ≠ 4 → r.cum ≤ r.last →
              ∀ i, (∃ e ∈ r'.again, e.idx = i) ↔ r.cum ≤ i ∧ i < r.sent ∧ i < r.cum + 256 ∧ r.acked.testBit i = false)
          ∧ t.regs = s.regs ∧ SameStores s t) ∧
      (a ≤ s.ps → s.mayRetx r.birth = false ∨ s.fld Reg.XPT_RTO_CFG 32 4 ≤ r.retx →
        ∃ t r', exec (.retxTimerExpiry msg) s = .next t ∧ t.srec? msg = some r' ∧ r'.timer = none ∧ r'.retx = r.retx) ∧
      (s.ps < a → exec (.retxTimerExpiry msg) s = .next s)) ∧
    (∀ msg (idx : BitVec 16) r e, s.srec? msg = some r →
      r.busy.find? (fun e => e.1.idx = idx.toNat ∧ e.2 ≤ s.ps) = some e →
      ∃ t r', exec (.busyResend msg idx) s = .next t ∧ t.srec? msg = some r' ∧ r'.busy = r.busy.erase e
        ∧ r'.again = (if r.mcast = false ∧ r.acked.testBit idx.toNat = true then r.again else r.again ++ [{ e.1 with at_ := s.now }])
        ∧ t.regs = s.regs ∧ SameStores s t)

/-- R214, R217, R233: a message that has reached its lifetime ends, with TIMEOUT counted when its route has a plane in service; a
receive record is freed once it has outlived its retention, unless writes of it are outstanding. -/
def LifetimesEnd : Prop :=
  ∀ (s : State), s.alive = true →
    (∀ msg r, s.srec? msg = some r →
      ((s.lifeNs : Int) ≤ s.msgAge r.birth → ∃ t, exec (.lifetimeExpiry msg) s = .next t ∧ t.srec? msg = none
        ∧ (s.msgRouteUp r = true → Counts s t (Reg.XPT_CNT 17) 1)
        ∧ (s.msgRouteUp r = false → Counts s t (Reg.XPT_CNT 17) 0)) ∧
      (s.msgAge r.birth < (s.lifeNs : Int) → exec (.lifetimeExpiry msg) s = .next s)) ∧
    (∀ src msg r, s.rrec? src msg = some r →
      ((s.lifeNs : Int) < s.ageNs r.ts → r.writes = 0 →
        ∃ t, exec (.recordRetentionExpiry src msg) s = .next t ∧ t.rrec? src msg = none
          ∧ (r.phase = .expected → Counts s t (Reg.XPT_CNT 21) 1)) ∧
      (s.ageNs r.ts ≤ (s.lifeNs : Int) ∨ r.writes ≠ 0 → exec (.recordRetentionExpiry src msg) s = .next s))

/-- R228, R229, R234, R238: a rate increase adds the step up to the ceiling; a fetch that completes makes its context resident or
its window entry cached; and XPT_COMMIT takes the staged rates and weights and resets every valid context's bucket and rate. -/
def ContextEvents : Prop :=
  ∀ (s : State) (c : BitVec 20),
    (s.alive = true → s.ctxOk c = true →
      let x := s.ctx c
      max x.aiAt (x.mdAt.getD 0) + s.fld Reg.XPT_RATE_CFG 16 8 * 1000000 ≤ s.ps →
      ∃ t, exec (.rateIncrease c) s = .next t
        ∧ (t.ctx c).rate = min x.ceiling (x.rate + 256 * s.fld Reg.XPT_RATE_CFG 32 13) ∧ (t.ctx c).aiAt = s.ps
        ∧ (∀ d, d ≠ c → t.ctx d = s.ctx d) ∧ { t with ctxs := [] } = { s with ctxs := [] }) ∧
    (∀ ok, s.alive = true → (s.ctx c).fetching = true → s.storing (s.ctxAt c.toNat) 256 = false →
      ∃ t, exec (.contextFetchComplete c ok) s = .next t
        ∧ (∀ q ∈ t.parked, q.why = .ctx → q.rx.pkt.dstCtx ≠ c)
        ∧ (s.raw = [] → (∀ q ∈ s.parked, q.why ≠ .ctx) → s.txq = [] → (t.ctx c).resident = ok ∧ (t.ctx c).fetching = false
          ∧ (t.ctx c).data0 = (s.ctx c).data0 ∧ (t.ctx c).rate = (s.ctx c).rate ∧ (∀ d, d ≠ c → t.ctx d = s.ctx d)
          ∧ SameStores s t ∧ (ok = true → t.regs = s.regs) ∧ (ok = false → Counts s t (Reg.MEM_CNT 10) 1))) ∧
    (∀ (w : BitVec 20) ok, s.alive = true → (s.win w.toNat).fetching = true → s.storing (s.winAt w.toNat) 64 = false →
      ∃ t, exec (.windowEntryFetchComplete w ok) s = .next t
        ∧ ((∀ q ∈ s.parked, q.why = .win w.toNat → winId q.rx.pkt.tgtA = w.toNat) → ∀ q ∈ t.parked, q.why ≠ .win w.toNat)
        ∧ (s.raw = [] → (∀ q ∈ s.parked, ∀ v, q.why ≠ .win v) → (t.win w.toNat).cached = ok ∧ (t.win w.toNat).fetching = false
          ∧ (t.win w.toNat).phase = (s.win w.toNat).phase ∧ (t.win w.toNat).gen = (s.win w.toNat).gen
          ∧ (∀ v, v ≠ w.toNat → t.win v = s.win v) ∧ SameStores s t ∧ (ok = true → t.regs = s.regs)
          ∧ (ok = false → Counts s t (Reg.MEM_CNT 10) 1))) ∧
    (∀ p v, Accepted s p Reg.XPT_COMMIT → bit v 0 = true →
      ∃ t, exec (.xptCommit p v) s = .next t ∧ t.reg Reg.XPT_RATE_CFG = s.sh Reg.XPT_RATE_CFG
        ∧ (∀ n, n < 6 → t.reg (Reg.XPT_PLANE_WT n) = s.sh (Reg.XPT_PLANE_WT n))
        ∧ (∀ d, (s.ctx d).valid = true → (t.ctx d).tokens = (if bit v 1 then 134217728000 else 0) ∧ (t.ctx d).tokAt = s.ps
            ∧ (t.ctx d).rate = min (s.ctx d).ceiling (max (256 * bits (s.sh Reg.XPT_RATE_CFG) 48 13) (s.ctx d).rate)
            ∧ (t.ctx d).data0 = (s.ctx d).data0))

/-- R412 to R417: a core that finishes a leaving packet counts it; one that finishes an arriving packet which authenticates counts
it, and drops one that does not, counted. -/
def CipherPackets : Prop :=
  ∀ (s : State) (core : Fin 56) (j : CJob), s.alive = true → (s.core core.val).job = some j →
    (j.ingress = false → ∃ t, exec (.cipherPacketDone core) s = .next t ∧ Counts s t (Reg.SEC_CNT 0) 1 ∧ SameStores s t) ∧
    (j.ingress = true → j.moved = false →
      (Config.gcmTag j.key (packetIv j.rx.pkt) (packetAad j.rx.pkt) j.rx.pkt.payload = j.rx.pkt.gcmTag →
        ∃ t, exec (.cipherPacketDone core) s = .next t ∧ Counts s t (Reg.SEC_CNT 1) 1 ∧ Counts s t (Reg.SEC_CNT 2) 0) ∧
      (Config.gcmTag j.key (packetIv j.rx.pkt) (packetAad j.rx.pkt) j.rx.pkt.payload ≠ j.rx.pkt.gcmTag →
        ∃ t, exec (.cipherPacketDone core) s = .next t ∧ Counts s t (Reg.SEC_CNT 2) 1 ∧ Counts s t (Reg.XPT_CNT 9) 1
          ∧ Counts s t (Reg.SEC_CNT 1) 0 ∧ t.mem = s.mem ∧ t.tmem = s.tmem ∧ t.nbuf = s.nbuf))

/-- R418 to R420: the commands on cipher cores. -/
def CipherCommands : Prop :=
  ∀ (s : State) (p : Path), Accepted s p Reg.SEC_CIPH_CMD →
    let i := s.coreSel
    let x := s.core i
    let ends (o : Out) (st : Status) : Prop := ∃ t, o = .next t ∧ Reports t .host Reg.SEC_CIPH_RESULT st ∧ t.cores = s.cores
    (x.job = none ∨ x.susp.isSome = true → ∃ t, exec (.hold p) s = .next t ∧ Reports t .host Reg.SEC_CIPH_RESULT St.ok
      ∧ t.core i = { x with held := true } ∧ (∀ j, j ≠ i → t.core j = s.core j)) ∧
    (∀ j, x.job = some j → x.susp = none → ∃ t c, exec (.hold p) s = .next t ∧ Reports t .host Reg.SEC_CIPH_RESULT St.ok
      ∧ t.core i = ⟨none, some (some j, c), true⟩ ∧ c.slot = BitVec.ofNat 16 j.slot ∧ c.gen = j.gen
      ∧ (∀ k, k ≠ i → t.core k = s.core k) ∧ Counts s t (Reg.SEC_CNT 3) 1) ∧
    (x.held = false ∨ x.susp = none → ends (exec (.save p) s) St.badDescriptor) ∧
    (∀ y c, x.held = true → x.susp = some (y, c) → ends (exec (.save p) s) St.ok ∧
      (s.flag Reg.SEC_CTRL 0 = true → ∃ t, exec (.save p) s = .next t ∧ t.ciphData 8 = chainBytes c)) ∧
    (x.held = false → ends (exec (.restore p) s) St.badDescriptor) ∧
    (x.held = true → s.ciphRecord = none → ends (exec (.restore p) s) St.authFail) ∧
    (∀ bs, x.held = true → s.ciphRecord = some bs →
      let c := chainFrom bs
      (4096 ≤ c.slot.toNat ∨ (s.key c.slot.toNat).gen ≠ c.gen → ends (exec (.restore p) s) St.authFail) ∧
      (c.slot.toNat < 4096 → (s.key c.slot.toNat).gen = c.gen → ∃ t j, exec (.restore p) s = .next t
        ∧ Reports t .host Reg.SEC_CIPH_RESULT St.ok ∧ t.core i = { x with susp := some (j, c) }
        ∧ ∀ k, k ≠ i → t.core k = s.core k)) ∧
    (∃ t, exec (.releaseCore p) s = .next t ∧ Reports t .host Reg.SEC_CIPH_RESULT St.ok ∧ (t.core i).held = false
      ∧ (∀ j c, x.job = none → x.susp = some (some j, c) → t.core i = ⟨some j, none, false⟩)
      ∧ (∀ k, k ≠ i → t.core k = s.core k))

/-- R230, R234: the commands on transport contexts and the conditions that refuse them. -/
def ContextCommands : Prop :=
  ∀ (s : State) (p : Path) (c : BitVec 20), CtxSelected s p c →
    let d := s.vreg p Reg.XPT_CTX_DATA0
    let inst : BitVec 8 := match p with | .vf j => j | _ => BitVec.ofNat 8 (bits d 8 8)
    let x := s.ctx c
    let refused (o : Out) (st : Status) : Prop := ∃ t, o = .next t ∧ Reports t p Reg.XPT_CTX_RESULT st ∧ t.ctxs = s.ctxs
    (c.toNat < s.ctxCount → x.valid = false → s.instExists inst = true → s.inRange inst .ctxs c.toNat = true →
      (bit d 1 = false ∨ s.pinnedBut c.toNat < 1024) →
      ∃ t, exec (.ctxCreate p) s = .next t ∧ Reports t p Reg.XPT_CTX_RESULT St.ok ∧ (t.ctx c).valid = true
        ∧ (t.ctx c).inst = inst ∧ (t.ctx c).part.toNat = bits d 16 16 ∧ (t.ctx c).ordered = bit d 2 ∧ (t.ctx c).pinned = bit d 1
        ∧ (t.ctx c).rate = (t.ctx c).ceiling ∧ (t.ctx c).resident = false ∧ (∀ e, e ≠ c → t.ctx e = s.ctx e)) ∧
    (s.ctxCount ≤ c.toNat ∨ x.valid = true → refused (exec (.ctxCreate p) s) St.badDescriptor) ∧
    (s.ctxOk c = true → inst.toNat = bits x.data0 8 8 → bits d 16 16 = bits x.data0 16 16 →
      (bit d 1 = false ∨ s.pinnedBut c.toNat < 1024) →
      ∃ t, exec (.ctxModify p) s = .next t ∧ Reports t p Reg.XPT_CTX_RESULT St.ok ∧ (t.ctx c).valid = true
        ∧ (t.ctx c).ordered = bit d 2 ∧ (t.ctx c).pinned = bit d 1 ∧ (t.ctx c).rate = min x.rate (t.ctx c).ceiling) ∧
    (s.ctxOk c = false → refused (exec (.ctxModify p) s) St.badDescriptor ∧ refused (exec (.ctxDestroy p) s) St.badDescriptor) ∧
    (s.ctxOk c = true → s.ctxHeld c = false → ∃ t, exec (.ctxDestroy p) s = .next t ∧ Reports t p Reg.XPT_CTX_RESULT St.ok
      ∧ (t.ctx c).valid = false) ∧
    (s.ctxOk c = true → s.ctxHeld c = true → refused (exec (.ctxDestroy p) s) St.quiesceRequired) ∧
    (c.toNat < s.ctxCount → ∃ t, exec (.ctxRead p) s = .next t ∧ Reports t p Reg.XPT_CTX_RESULT St.ok
      ∧ t.vreg p Reg.XPT_CTX_DATA0 = x.data0 ∧ (x.valid = true → t.vfld p Reg.XPT_CTX_DATA1 0 13 = x.rate / 256 % 2 ^ 13)
      ∧ t.ctxs = s.ctxs ∧ OnlyRegs s t)

/-- R239, R240, R242, R245, R261: the commands on windows. An OPEN window keeps the entry's generation; a revoke advances it, and
frees the entry at once when nothing is in flight. -/
def WindowCommands : Prop :=
  ∀ (s : State) (p : Path) (w : Nat), WinSelected s p w →
    let e := s.win w
    let d2 := s.sh (pathAt p Reg.WIN_DATA2)
    let inst : BitVec 8 := match p with | .vf j => j | _ => BitVec.ofNat 8 (bits d2 0 8)
    let x : Win := { e with
      data0 := s.sh (pathAt p Reg.WIN_DATA0)
      data1 := s.sh (pathAt p Reg.WIN_DATA1) &&& 0x01FFFFFFFFFFFFFF
      data2 := putBits d2 0 8 inst.toNat &&& 0x1FFFFFFFFFF }
    (w < s.winCount → e.phase = .free → s.inRange inst .wins w = true → s.instExists inst = true →
      (x.enc = true → s.holder .keys x.keySlot = inst) → x.formOk = true → s.winFits x = true →
      (∀ a, e.revAt = some a → a.toNat + s.lifeNs ≤ s.nowNs) →
      ∃ t, exec (.windowOpen p) s = .next t ∧ Reports t p Reg.WIN_RESULT St.ok
        ∧ t.win w = { x with phase := .open_, flight := 0, sem := none, ring := none }
        ∧ t.vfld p Reg.WIN_RESULT 32 8 = e.gen.toNat ∧ (∀ v, v ≠ w → t.win v = s.win v) ∧ SameStores s t) ∧
    (w < s.winCount → e.phase = .free → s.inRange inst .wins w = true → s.instExists inst = true →
      (x.enc = true → s.holder .keys x.keySlot = inst) → x.formOk = true → s.winFits x = true →
      ∀ a, e.revAt = some a → s.nowNs < a.toNat + s.lifeNs →
      ∃ t, exec (.windowOpen p) s = .next t ∧ Reports t p Reg.WIN_RESULT St.busy ∧ t.wins = s.wins) ∧
    (∀ v : Word, w < s.winCount → e.phase = .open_ → ∃ t, exec (.windowRevokeCmd p v) s = .next t
      ∧ Reports t p Reg.WIN_RESULT St.ok ∧ (t.win w).gen = e.gen + 1
      ∧ t.vfld p Reg.WIN_RESULT 32 8 = (e.gen + 1).toNat
      ∧ (e.flight = 0 → (t.win w).phase = .free ∧ (t.win w).revAt = some s.now ∧ Counts s t (Reg.WIN_CNT 6) 1)
      ∧ (e.flight ≠ 0 → (t.win w).phase = .revoking ∧ t.sems = s.sems)
      ∧ (∀ u, u ≠ w → t.win u = s.win u)) ∧
    (∀ v : Word, s.winCount ≤ w ∨ e.phase ≠ .open_ → ∃ t, exec (.windowRevokeCmd p v) s = .next t
      ∧ Reports t p Reg.WIN_RESULT St.badDescriptor ∧ t.wins = s.wins) ∧
    (w < s.winCount → ∃ t, exec (.windowRead p) s = .next t ∧ Reports t p Reg.WIN_RESULT St.ok
      ∧ t.vreg p Reg.WIN_DATA0 = e.data0 ∧ t.vreg p Reg.WIN_DATA1 = e.data1 ∧ t.wins = s.wins ∧ OnlyRegs s t)

/-- R262, R265, R345, R347: what a sub-port that is up does with a received frame at steps 1 to 4, and that a transport packet for
this adapter that passes them is held for the transport. -/
def FramesReceived : Prop :=
  ∀ (s : State) (n : Fin 6) (k : Fin 4) (f : Frame), s.alive = true →
    let cnt (j : Nat) := Reg.MAC_CNT n k j
    let drops (j : Nat) : Prop := ∃ t, exec (.frameReceive n k f) s = .next t ∧ Counts s t (cnt j) 1
      ∧ Counts s t (cnt 11) f.fec.corr ∧ Counts s t (cnt 12) f.fec.bad ∧ Counts s t (cnt 13) f.fec.sym
      ∧ RegsBut s t [cnt j, cnt 11, cnt 12, cnt 13] ∧ OnlyRegs s { t with subs := s.subs }
    let max := s.fld (Reg.MAC_FRAME n) 0 14
    let good := f.fcsOk = true ∧ f.fec.bad = 0
    (s.role n ≠ 0 → (s.sub n k).isUp = true →
      (f.fcsOk = false ∨ f.fec.bad ≠ 0 → drops 4) ∧ (good → f.len < 64 → drops 5) ∧
      (good → 64 ≤ f.len → max < f.len → drops 6) ∧
      (good → 64 ≤ f.len → f.len ≤ max → ∃ t, exec (.frameReceive n k f) s = .next t
        ∧ Counts s t (cnt 0) 1 ∧ Counts s t (cnt 1) f.len
        ∧ (f.kind = .transport → f.tagged = true → s.noRoom n k f = false → s.macOk n k f = true →
            (s.direct = true ∨ f.vid = s.vid n) → (ipAt f.bytes).dstV6 = s.v6 s.me →
            t.ingress = s.ingress ++ [⟨n, k, f.pcp.toNat, f.len, vcOf f.rx.pkt.typ, f.rx, none, s.ck⟩]))) ∧
    (s.role n ≠ 0 → (s.sub n k).isUp = false → exec (.frameReceive n k f) s = .next s) ∧
    (s.role n = 0 → f.kind = .transport → ∃ t, exec (.frameReceive n k f) s = .next t
      ∧ Counts s t (Reg.FAB_CNT 2) 1 ∧ RegsBut s t [Reg.FAB_CNT 2] ∧ OnlyRegs s t) ∧
    (s.role n = 0 → f.kind ≠ .transport → exec (.frameReceive n k f) s = .next s)

/-- R346, R354: the frame that the egress scheduler picks goes on the wire of its sub-port and is counted with its length; a frame
of TC7 that may start is picked before any other. -/
def FramesTransmitted : Prop :=
  ∀ (s : State) (n : Fin 6) (k : Fin 4) (f : EgFrame) (d : List Nat) (c : Nat), s.alive = true →
    (s.sub n k).isUp = true → s.role n ≠ 0 →
    ((s.countStalls n k).pickFrame n k = some (f, d, c) →
      ∃ t b w l, exec (.frameTransmit n k) s = .next t ∧ t.out = s.out ++ .wire n k f.prio f.len b w :: l
        ∧ Counts s t (Reg.MAC_CNT n k 2) 1 ∧ Counts s t (Reg.MAC_CNT n k 3) f.len ∧ SameStores s t) ∧
    ((s.countStalls n k).candidate n k 7 = some f →
      ∃ t b w l, exec (.frameTransmit n k) s = .next t ∧ t.out = s.out ++ .wire n k f.prio f.len b w :: l)

/-- R275 to R278: what good frames of the link layer do on a sub-port that runs in direct mode. Every one carries credits and an
acknowledgement, and what that covers leaves the replay buffer; a DATA frame is accepted in sequence only. -/
def LinkFrames : Prop :=
  ∀ (s : State) (n : Fin 6) (k : Fin 4) (f : LinkFrame), s.alive = true → s.direct = true → (s.sub n k).isUp = true →
    f.fcsOk = true →
    let x := s.sub n k
    let credits := [f.credit0, f.credit1, f.credit2, f.credit3]
    let kept := x.held.filter (fun g => decide (0 ≤ (g.seq - f.ack).toInt))
    (s.role n = 0 → ∃ t, exec (.dataFrame n k f) s = .next t ∧ Counts s t (Reg.FAB_CNT 2) 1 ∧ RegsBut s t [Reg.FAB_CNT 2]
      ∧ OnlyRegs s t) ∧
    (s.role n ≠ 0 → f.seq = x.seqRx → ∃ t, exec (.dataFrame n k f) s = .next t ∧ (t.sub n k).seqRx = x.seqRx + 1
      ∧ (t.sub n k).peerCr = credits ∧ (t.sub n k).ackRx = f.ack ∧ (t.sub n k).held = kept) ∧
    (s.role n ≠ 0 → f.seq ≠ x.seqRx → ∃ t, exec (.dataFrame n k f) s = .next t ∧ (t.sub n k).seqRx = x.seqRx
      ∧ (t.sub n k).held = kept ∧ t.ingress = s.ingress
      ∧ (x.ackAt = 0 → Counts s t (Reg.FAB_CNT 7) 1 ∧ t.out = s.out ++
        [.link n k 2 x.peerMac (s.portMac n k s.me) 0 x.seqRx x.ownCr s.me])) ∧
    (s.role n ≠ 0 → ∃ t, exec (.ctrlFrame n k f) s = .next t ∧ (t.sub n k).peerCr = credits ∧ (t.sub n k).ackRx = f.ack
      ∧ (t.sub n k).held = kept ∧ (t.sub n k).seqRx = x.seqRx ∧ OtherSubs s t n k
      ∧ { t with subs := [], tally := s.tally } = { s with subs := [] }) ∧
    (s.role n ≠ 0 → ∃ t, exec (.replayFrame n k f) s = .next t ∧ (t.sub n k).held = kept ∧ Counts s t (Reg.FAB_CNT 6) kept.length
      ∧ t.out.length = s.out.length + kept.length ∧ OtherSubs s t n k) ∧
    (∃ t, exec (.initFrame n k f) s = .next t ∧ (t.sub n k).peer = f.adapter ∧ (t.sub n k).peerMac = f.src
      ∧ (t.sub n k).seqRx = f.seq ∧ (t.sub n k).used = [0, 0, 0, 0] ∧ (t.sub n k).peerCr = credits
      ∧ (t.sub n k).link = (if s.role n = 0 ∨ s.sameLine (s.role n) f.adapter = true then x.link else .miswired) ∧ OtherSubs s t n k
      ∧ { t with subs := [], tally := s.tally } = { s with subs := [] })

/-- R277: the two timers of the link layer: a CTRL frame goes out when no DATA frame has carried an acknowledgement in time, and
every held frame is sent again when the acknowledgement has not advanced for the replay timer. -/
def LinkTimers : Prop :=
  ∀ (s : State) (n : Fin 6) (k : Fin 4), s.alive = true → s.direct = true → s.role n ≠ 0 → (s.sub n k).isUp = true →
    let x := s.sub n k
    (∀ a, x.ctrlDue = some a → a ≤ s.ps → ∃ t, exec (.ctrlFrameTimer n k) s = .next t
      ∧ t.out = s.out ++ [.link n k 1 x.peerMac (s.portMac n k s.me) 0 x.seqRx x.ownCr s.me] ∧ (t.sub n k).ctrlDue = none ∧ OtherSubs s t n k) ∧
    (∀ a, x.ctrlDue = some a → s.ps < a → exec (.ctrlFrameTimer n k) s = .next s) ∧
    (∀ a, x.replayAt = some a → a ≤ s.ps → ∃ t, exec (.replayTimerExpiry n k) s = .next t
      ∧ Counts s t (Reg.FAB_CNT 6) x.held.length ∧ t.out.length = s.out.length + x.held.length
      ∧ (t.sub n k).held = x.held ∧ OtherSubs s t n k) ∧
    (∀ a, x.replayAt = some a → s.ps < a → exec (.replayTimerExpiry n k) s = .next s)

/-- R279, R389, R392: a sub-port goes down under the conditions of R279 only, is counted, drops what it has queued and held, and
starts to train; a port whose sub-ports have not come up trains them again after the retry time; block lock is recorded. -/
def LinksChange : Prop :=
  ∀ (s : State) (n : Fin 6) (k : Fin 4), s.alive = true →
    let x := s.sub n k
    (∀ cause, GoesDown s n k cause → ∃ t, exec (.linkDown n k cause) s = .next t ∧ (t.sub n k).link = .down
      ∧ (t.sub n k).lanes = 0 ∧ (t.sub n k).queue = [] ∧ (t.sub n k).held = [] ∧ (t.sub n k).downAt = some s.ps
      ∧ Counts s t (Reg.FAB_CNT 8) 1 ∧ OtherSubs s t n k ∧ SameStores s t) ∧
    (∀ cause, ¬ GoesDown s n k cause → exec (.linkDown n k cause) s = .next s) ∧
    (s.portOn n = true → s.boot.decided = true → ∃ t, exec (.portRetry n) s = .next t
      ∧ (∀ a, x.downAt = some a → a + 1000000000 * s.fld Reg.BOOT_TRAIN_CFG 16 16 ≤ s.ps →
          (t.sub n k).link = .training ∧ (t.sub n k).downAt = some s.ps)
      ∧ (∀ a, x.downAt = some a → s.ps < a + 1000000000 * s.fld Reg.BOOT_TRAIN_CFG 16 16 → t.sub n k = x)
      ∧ (x.downAt = none → t.sub n k = x)
      ∧ { t with subs := [], out := [], tally := s.tally } = { s with subs := [], out := [] }) ∧
    (∀ lock, ∃ t, exec (.blockLockChange n k lock) s = .next t ∧ (t.sub n k).lock = lock
      ∧ (x.lock ≠ lock → (t.sub n k).lockAt = if lock then none else some s.ps) ∧ (t.sub n k).link = x.link
      ∧ OtherSubs s t n k ∧ { t with subs := [] } = { s with subs := [] }) ∧
    (∀ q : Fin 4, s.attUp q = true → ∃ t, exec (.attachLinkDown q) s = .next t ∧ t.attUp q = false ∧ t.regs = s.regs
      ∧ { t with boot := s.boot } = s)

/-- R342: the owner's write of MAC_CTRL: split and kr change only while admin_up is 0; setting admin_up starts every sub-port of a
present port whose role is not settled otherwise, and clearing it takes every sub-port down. -/
def AdminUp : Prop :=
  ∀ (s : State) (p : Path) (n : Fin 6) (v : Word), Accepted s p (Reg.MAC_CTRL n) →
    let old := s.reg (Reg.MAC_CTRL n)
    ∃ t, exec (.adminUpWrite p n v) s = .next t ∧ t.flag (Reg.MAC_CTRL n) 0 = bit v 0
      ∧ t.fld (Reg.MAC_CTRL n) 1 2 = (if bit old 0 = true ∨ bits v 1 2 = 3 then bits old 1 2 else bits v 1 2)
      ∧ t.fld (Reg.MAC_CTRL n) 4 3 = bits v 4 3
      ∧ (bit old 0 = true → bit v 0 = false → ∀ k : Fin 4,
          (t.sub n k).link = (if k.val < s.subCount n then .down else .absent) ∧ (t.sub n k).queue = [])
      ∧ (bit old 0 = false → bit v 0 = true → s.present n = true →
          (s.boot.decided = false ∨ (s.role n ≠ 0 ∧ s.flag Reg.GLB_PROFILE 8 = false)) → ∀ k : Fin 4,
          (t.sub n k).link = (if k.val < t.subCount n then .training else .absent))
      ∧ (∀ m : Fin 6, m ≠ n → ∀ k : Fin 4, t.sub m k = s.sub m k)

/-- R273, R280, R283, R284, R350, R354: the other commands of the fabric and port registers. -/
def FabricCommands : Prop :=
  ∀ (s : State) (p : Path) (v : Word),
    (Accepted s p Reg.FAB_COMMIT → bit v 0 = true →
      (PfcRefused s → ∃ t, exec (.fabCommit p v) s = .next t ∧ t.flag Reg.FAB_COMMIT 1 = true
        ∧ RegsBut s t [Reg.FAB_COMMIT] ∧ OnlyRegs s t) ∧
      (¬ PfcRefused s → ∃ t, exec (.fabCommit p v) s = .next t ∧ t.reg Reg.FAB_PFC = s.sh Reg.FAB_PFC
        ∧ ∀ n : Fin 6, t.reg (Reg.FAB_PLANE n) = s.sh (Reg.FAB_PLANE n))) ∧
    (Accepted s p Reg.FAB_MC_CMD →
      (∃ t, exec (.mcEntryWrite p) s = .next t
        ∧ t.mc (s.fld Reg.FAB_MC_SEL 0 12) = ⟨s.sh Reg.FAB_MC_DATA0, s.sh Reg.FAB_MC_DATA1⟩
        ∧ (∀ g, g ≠ s.fld Reg.FAB_MC_SEL 0 12 → t.mc g = s.mc g)
        ∧ { t with mcs := [], tally := s.tally } = { s with mcs := [] }) ∧
      (∃ t, exec (.mcEntryLoad p) s = .next t ∧ t.sh Reg.FAB_MC_DATA0 = (s.mc (s.fld Reg.FAB_MC_SEL 0 12)).data0
        ∧ t.sh Reg.FAB_MC_DATA1 = (s.mc (s.fld Reg.FAB_MC_SEL 0 12)).data1 ∧ t.regs = s.regs ∧ OnlyRegs s t)) ∧
    (∀ n : Fin 6, Accepted s p (Reg.MAC_TQ_PROD n) →
      let ahead := (v.setWidth 32 - s.tqCons n).toNat
      (ahead ≤ 2 ^ s.fld (Reg.MAC_TQ_CFG n) 0 4 → ∃ t, exec (.rawTxProdWrite p n v) s = .next t
        ∧ (t.reg (Reg.MAC_TQ_PROD n)).toNat = bits v 0 32 ∧ RegsBut s t [Reg.MAC_TQ_PROD n, Reg.XLT_CNT 0, Reg.XLT_CNT 1]) ∧
      (2 ^ s.fld (Reg.MAC_TQ_CFG n) 0 4 < ahead → ∃ t, exec (.rawTxProdWrite p n v) s = .next t ∧ t.regs = s.regs
        ∧ OnlyRegs s t)) ∧
    (∀ (n : Fin 6) (k : Fin 4) (j : Fin 16), s.alive = true → s.pathUp p = true → pathCode p ≠ 0 → k.val < s.subCount n →
      ∃ t, exec (.statCounterRead p n k j) s = .next t ∧ t.out = s.out ++ [.data p (s.reg (Reg.MAC_CNT n k j))]
        ∧ t.reg (Reg.MAC_CNT n k j) = 0 ∧ RegsBut s t [Reg.MAC_CNT n k j])

/-- R457, R458: management queries and answers. An answer goes out on the sub-port that the query came in on. -/
def ManagementFrames : Prop :=
  ∀ (s : State), s.mgmtOn = true →
    (∀ (n : Fin 6) (k : Fin 4) src ad id, ∃ t, exec (.managementQuery n k src (.raisers ad id)) s = .next t
      ∧ QueuesAnswer s t n k src (s.raisersAnswer ad id) ∧ t.night = s.night ∧ SameStores s t) ∧
    (∀ (n : Fin 6) (k : Fin 4) src ad, ∃ t, exec (.managementQuery n k src (.senders ad)) s = .next t
      ∧ QueuesAnswer s t n k src (s.sendersAnswer ad) ∧ t.night = s.night ∧ SameStores s t) ∧
    (∀ (n : Fin 6) (k : Fin 4) src ad sem,
      (ad ∈ s.linePeers → ∃ t, exec (.managementQuery n k src (.relay ad sem)) s = .next t
        ∧ t.night.relays = s.night.relays ++ [⟨n, k, src, ad, sem⟩] ∧ SameStores s t) ∧
      (ad ∉ s.linePeers → exec (.managementQuery n k src (.relay ad sem)) s = .next s)) ∧
    (∀ peer sem nodes, ∃ t, exec (.managementAnswer peer sem nodes) s = .next t
      ∧ (∀ q ∈ t.night.asked, q.peer = peer → q.sem = sem → q.due = false)
      ∧ (∀ r ∈ t.night.relays, r.peer ≠ peer ∨ r.sem ≠ sem)
      ∧ (∀ q, q ∈ s.night.asked → q.peer ≠ peer ∨ q.sem ≠ sem → q ∈ t.night.asked)
      ∧ (∀ r, s.night.relays.filter (fun r => r.peer == peer && r.sem == sem) = [r] → r.sub < 4 →
          QueuesAnswer s t r.port r.sub r.src nodes)
      ∧ t.out = s.out ∧ SameStores s t) ∧
    (∀ peer, (s.night.asked.any (s.lateQuery peer) = true → ∃ t, exec (.peerQueryTimeout peer) s = .next t
        ∧ (∀ q ∈ t.night.asked, s.lateQuery peer q = false) ∧ (∃ m ∈ t.night.nodes, bits m.w0 0 8 = 5 ∧ bits m.w0 16 16 = peer.toNat)
        ∧ { t with night := s.night } = s) ∧
      (s.night.asked.any (s.lateQuery peer) = false → exec (.peerQueryTimeout peer) s = .next s))

/-- R317 to R321: the write of a trigger's word 0 by a path that the slot's instance admits stores it; a trigger that R321
finds bad is counted and starts nothing, and any other starts one message with the payload and trigger of that moment. A slot
that the path may not use is counted and keeps its bytes. -/
def PioTriggers : Prop :=
  ∀ (s : State) (p : Path) (slot : Nat) (w0 : Word), s.pioPath p = true →
    (∀ i g, s.pioSlot p slot = some (i, g) → bit (s.instCfg0 i) (20 + pioBit p) = true →
      let ws := triggerWords s g w0
      ∃ t, exec (.pioTrigger p slot w0) s = .next t
        ∧ (∀ k, k < 8 → tget 0 t.pio (8192 * g + 0x1000 + k) = (leBytes w0.toNat 8).getD k 0)
        ∧ (∀ a, a < 8192 * g + 0x1000 ∨ 8192 * g + 0x1008 ≤ a → tget 0 t.pio a = tget 0 s.pio a)
        ∧ t.mem = s.mem ∧ t.tmem = s.tmem ∧ t.nbuf = s.nbuf ∧ t.sems = s.sems ∧ t.slots = s.slots
        ∧ (s.pioBad i ws = true → Counts s t (Reg.XLT_CNT 6) 1 ∧ t.txq = s.txq)
        ∧ (s.pioBad i ws = false → Counts s t (Reg.XLT_CNT 5) 1 ∧ ∃ r, t.txq = s.txq ++ [r] ∧ r.src = .pio g ∧ r.inst = i
            ∧ r.trig = ws ∧ r.data = readTab s.pio (8192 * g) (bits w0 0 13) ∧ r.urgent = bit w0 15
            ∧ r.dst.toNat = bits (ws.getD 1 0) 20 16 ∧ r.srcCtx.toNat = bits (ws.getD 1 0) 0 20
            ∧ r.dstCtx.toNat = bits (ws.getD 1 0) 36 20)) ∧
    ((s.pioSlot p slot = none ∨ ∃ i g, s.pioSlot p slot = some (i, g) ∧ bit (s.instCfg0 i) (20 + pioBit p) = false) →
      ∃ t, exec (.pioTrigger p slot w0) s = .next t ∧ Counts s t (Reg.XLT_CNT 6) 1 ∧ RegsBut s t [Reg.XLT_CNT 6]
        ∧ OnlyRegs s t)

/-- R314 to R316, R371: accesses of a package to the aperture of its port. In clean memory a read returns the bytes, and a
write changes the enabled bytes alone; a protected region is counted, reads zero and is not written. A line that the package
gives back leaves the filter, and a write that waited for it alone takes effect. -/
def ApertureAccesses : Prop :=
  ∀ (s : State) (q : Fin 4), s.alive = true →
    (s.attUp q.val = true → s.cxlMem.getLsbD q.val = true →
      (∀ off n a, s.aperture q.val off = some a →
        (s.prot a n = false → a + n ≤ s.memBytes → s.raw = [] →
          ∃ t, exec (.apertureAccess q (.read off n false)) s = .next t
            ∧ t.out = s.out ++ [.hdmData q.val (readTab s.mem a n) false]
            ∧ { t with out := [], tally := s.tally } = { s with out := [] }) ∧
        (s.prot a n = true → ∃ t, exec (.apertureAccess q (.read off n false)) s = .next t ∧ Counts s t (Reg.MEM_CNT 8) 1
          ∧ t.out = s.out ++ [.hdmData q.val (List.replicate n 0) false] ∧ SameStores s t)) ∧
      (∀ off bs be a, s.aperture q.val off = some a → be.length = bs.length → CleanMemory s →
        (s.prot a bs.length = false → a + bs.length ≤ s.memBytes →
          ∃ t, exec (.apertureAccess q (.write off bs be)) s = .next t
            ∧ (∀ k, k < bs.length → tget 0 t.mem (a + k) = if be.getD k false then bs.getD k 0 else tget 0 s.mem (a + k))
            ∧ (∀ b, b < a ∨ a + bs.length ≤ b → tget 0 t.mem b = tget 0 s.mem b)
            ∧ t.tmem = s.tmem ∧ t.nbuf = s.nbuf ∧ t.sems = s.sems) ∧
        (s.prot a bs.length = true → ∃ t, exec (.apertureAccess q (.write off bs be)) s = .next t
          ∧ Counts s t (Reg.MEM_CNT 8) 1 ∧ SameStores s t))) ∧
    (∀ line, s.lineAsked q.val line = false → exec (.backInvalidateResponse q line) s = .next s) ∧
    (∀ line, s.lineAsked q.val line = true → (∀ w ∈ s.writes, (q.val, line) ∉ w.lines) →
      ∃ t, exec (.backInvalidateResponse q line) s = .next t
        ∧ (∀ e, e ∈ t.filter ↔ e ∈ s.filter ∧ e ≠ (q.val, line)) ∧ (∀ e, e ∈ t.freeing ↔ e ∈ s.freeing ∧ e ≠ (q.val, line))
        ∧ { t with filter := [], freeing := [] } = { s with filter := [], freeing := [] }) ∧
    (∀ line w r, s.writes = [w] → w.kind = .hdm r → w.lines = [(q.val, line)] → s.raw = [] → (∀ e ∈ s.filter, e = (q.val, line)) →
      ∃ t, exec (.backInvalidateResponse q line) s = .next t ∧ t.writes = [] ∧ t.filter = []
        ∧ (∀ k, k < w.bytes.length →
            tget 0 t.mem (w.addr + k) = (w.bytes.getD k none).getD (tget 0 s.mem (w.addr + k)))
        ∧ (∀ b, b < w.addr ∨ w.addr + w.bytes.length ≤ b → tget 0 t.mem b = tget 0 s.mem b))

/-- R370 to R372: a commit of the regions takes the staged values of all four, or, refused, sets commit_err and changes nothing;
a new trace region starts Comet at its base. -/
def RegionCommits : Prop :=
  ∀ (s : State) (p : Path) (v : Word), Accepted s p Reg.MEM_COMMIT →
    (bit v 0 = true → s.memRefused = true → ∃ t, exec (.memCommit p v) s = .next t ∧ t.flag Reg.MEM_COMMIT 1 = true
      ∧ RegsBut s t [Reg.MEM_COMMIT] ∧ OnlyRegs s t) ∧
    (bit v 0 = true → s.memRefused = false → ∃ t, exec (.memCommit p v) s = .next t
      ∧ (∀ r, r < 4 → t.reg (Reg.MEM_RGN r) = s.sh (Reg.MEM_RGN r)) ∧ SameStores s t ∧ OnlyRegs s t
      ∧ RegsBut s t [Reg.MEM_RGN 0, Reg.MEM_RGN 1, Reg.MEM_RGN 2, Reg.MEM_RGN 3, Reg.MEM_COMMIT, Reg.DBG_COMET_WPTR,
          Reg.DBG_COMET_STATUS]
      ∧ (t.traceRgn ≠ s.traceRgn → t.reg Reg.DBG_COMET_WPTR = 0)) ∧
    (bit v 0 = false → ∃ t, exec (.memCommit p v) s = .next t
      ∧ t.flag Reg.MEM_COMMIT 1 = (s.flag Reg.MEM_COMMIT 1 && !bit v 1) ∧ RegsBut s t [Reg.MEM_COMMIT] ∧ OnlyRegs s t)

/-- R376: the test commands of adapter memory and the conditions that refuse them. -/
def MemoryTestCommands : Prop :=
  ∀ (s : State) (p : Path), Accepted s p Reg.MEM_TEST_CMD →
    let a := (s.reg Reg.MEM_TEST_ADDR).toNat
    let w := a / 32
    let refused (st : Status) : Prop := ∀ c ∈ [Instr.rawWrite p, .rawRead p, .decodedRead p], ∃ t, exec c s = .next t
      ∧ TestEnds s t st [] ∧ OnlyRegs s t
    let data := [Reg.MEM_TEST_DATA 0, Reg.MEM_TEST_DATA 1, Reg.MEM_TEST_DATA 2, Reg.MEM_TEST_DATA 3]
    (s.flag Reg.MEM_CTRL 4 = false → refused St.accessDenied) ∧
    (s.flag Reg.MEM_CTRL 4 = true → a % 32 ≠ 0 ∨ s.memBytes ≤ a → refused St.badDescriptor) ∧
    (s.flag Reg.MEM_CTRL 4 = true → a % 32 = 0 → a < s.memBytes →
      (∃ t, exec (.rawWrite p) s = .next t ∧ TestEnds s t St.ok [] ∧ t.storedBits w = ⟨s.testData, s.reg Reg.MEM_TEST_CHECK⟩
        ∧ (∀ x, x ≠ w → t.storedBits x = s.storedBits x) ∧ t.tmem = s.tmem ∧ t.nbuf = s.nbuf ∧ t.sems = s.sems) ∧
      (∃ t, exec (.rawRead p) s = .next t ∧ TestEnds s t St.ok (Reg.MEM_TEST_CHECK :: data)
        ∧ t.testData = (s.storedBits w).data ∧ t.reg Reg.MEM_TEST_CHECK = (s.storedBits w).check ∧ OnlyRegs s t) ∧
      (∀ bs n, s.decodeWord w = .good bs n → ∃ t, exec (.decodedRead p) s = .next t ∧ t.testData = dataBits bs
        ∧ t.fld Reg.MEM_TEST_RESULT 16 16 = 0 ∧ t.fld Reg.MEM_TEST_RESULT 32 3 = n ∧ t.flag Reg.MEM_TEST_RESULT 35 = false
        ∧ Counts s t (Reg.MEM_CNT 0) (if n = 0 then 0 else 1) ∧ OnlyRegs s t) ∧
      (s.decodeWord w = .poison → ∃ t, exec (.decodedRead p) s = .next t
        ∧ t.fld Reg.MEM_TEST_RESULT 16 16 = St.uncorrectable.toNat ∧ t.flag Reg.MEM_TEST_RESULT 35 = true
        ∧ Counts s t (Reg.MEM_CNT 1) 1 ∧ Counts s t (Reg.MEM_CNT 2) 1 ∧ OnlyRegs s t) ∧
      (∀ d, s.decodeWord w = .bad d → ∃ t, exec (.decodedRead p) s = .next t ∧ t.testData = d
        ∧ t.fld Reg.MEM_TEST_RESULT 16 16 = St.uncorrectable.toNat ∧ t.flag Reg.MEM_TEST_RESULT 35 = false
        ∧ Counts s t (Reg.MEM_CNT 1) 1 ∧ OnlyRegs s t))

/-- R378, R382: a cold reset with a rail outside its range is undefined, and stops. With the rails good it leaves every register but
Tally's, the selected profile and the fuses' status at its reset value, and empties every store. -/
def ColdResets : Prop :=
  ∀ (s : State) (sel smb : BitVec 2) (eeprom : List Byte),
    exec (.coldReset false sel smb eeprom) s = .fault .undefinedPowerUp ∧
    ∃ t, exec (.coldReset true sel smb eeprom) s = .next t
      ∧ (∀ a, a / 65536 ≠ 0x1B → a ≠ Reg.GLB_PROFILE → a ≠ Reg.SEC_STATUS → t.reg a = State.reset.reg a)
      ∧ t.fld Reg.GLB_PROFILE 0 2 = sel.toNat ∧ t.boot.target = sel.toNat ∧ t.bootState = 0 ∧ t.tally = s.tally ∧ t.fuses = s.fuses
      ∧ SameStores State.reset t ∧ t.slots = [] ∧ t.ops = [] ∧ t.rings = [] ∧ t.ctxs = [] ∧ t.wins = [] ∧ t.insts = []
      ∧ t.keys = [] ∧ t.srecs = [] ∧ t.rrecs = [] ∧ t.time = State.reset.time ∧ t.pending = s.pending

/-- R379 to R381: warm resets by the pin and by command. A command without force is refused while a program slot is busy or a ring
is enabled. -/
def WarmResets : Prop :=
  ∀ (s : State) (eeprom : List Byte),
    (s.twilight = false → s.tripped = false → ∃ t, exec (.warmRstN eeprom) s = .next t ∧ WarmReset s t 1 ∧ t.tally = s.tally) ∧
    (s.twilight = true ∨ s.tripped = true → exec (.warmRstN eeprom) s = .next s) ∧
    (∀ p v, Accepted s p Reg.GLB_RESET →
      (bit v 0 = true → bit v 1 = true ∨ s.atWork = false →
        ∃ t, exec (.warmResetCommand p v eeprom) s = .next t ∧ WarmReset s t 2) ∧
      (bit v 0 = true → bit v 1 = false → s.atWork = true → ∃ t, exec (.warmResetCommand p v eeprom) s = .next t
        ∧ t.fld Reg.GLB_RESET_CAUSE 16 16 = St.quiesceRequired.toNat ∧ RegsBut s t [Reg.GLB_RESET, Reg.GLB_RESET_CAUSE]
        ∧ OnlyRegs s t) ∧
      (bit v 0 = false → ∃ t, exec (.warmResetCommand p v eeprom) s = .next t ∧ RegsBut s t [Reg.GLB_RESET] ∧ OnlyRegs s t))

/-- R385, R386, R262: once training has ended the profile is settled by the fallback of R386, with the roles of its ports and as
many channels as it needs, or start-up fails with RESOURCE_LIMIT. -/
def ProfileSettled : Prop :=
  ∀ (s : State), s.tripped = false → s.bootState = 1 → s.trained = true → s.boot.target < 4 →
    let u := s.badUnits
    let r := settleProfile (countOf 12 s.chOk) (min 8 (good 9 (fun i => u.clusters.getLsbD i)).length)
      (min 4 (good 5 (unitsBadArray u)).length) (good 56 (fun i => u.cipher.getLsbD i)).length 3 s.boot.target false false
    (r.2.1 = true → ∃ t, exec .profileDecision s = .next t ∧ t.bootState = 2 ∧ t.profile = r.1 ∧ t.boot.decided = true
      ∧ (∀ n, n < 6 → t.role n = roleOf r.1 n) ∧ t.fld Reg.GLB_CAPS 16 4 = (needs r.1).1 ∧ t.fld Reg.GLB_CAPS 26 2 = r.1
      ∧ t.fld Reg.BOOT_TRAIN_SUM 10 1 = b2n r.2.2.1 ∧ t.fld Reg.BOOT_TRAIN_SUM 11 1 = b2n r.2.2.2 ∧ SameStores s t) ∧
    (r.2.1 = false → ∃ t, exec .profileDecision s = .next t ∧ t.bootState = 6
      ∧ t.fld Reg.BOOT_STATE 16 16 = St.resourceLimit.toNat ∧ t.refusedStart = true ∧ SameStores s t)

/-- R373, R381, R391, R393: memory is ready. It is zeroed, with the firmware region in its last GiB, after a full start-up or when
channels in service changed, and kept otherwise; the reset ends. -/
def MemoryReady : Prop :=
  ∀ (s : State), s.tripped = false →
    (s.bootState = 2 → ∃ t, exec .memoryInitDone s = .next t ∧ t.bootState = 3 ∧ t.boot.inReset = false
      ∧ t.flag Reg.MEM_STATUS 0 = true
      ∧ (s.boot.full = true ∨ s.flag Reg.BOOT_TRAIN_SUM 12 = true → t.mem = [] ∧ t.raw = []
          ∧ t.reg (Reg.MEM_RGN 0) = fwRegion (s.fld Reg.MEM_STATUS 16 12))
      ∧ (s.boot.full = false → s.flag Reg.BOOT_TRAIN_SUM 12 = false → t.mem = s.mem ∧ t.raw = s.raw
          ∧ t.reg (Reg.MEM_RGN 0) = s.reg (Reg.MEM_RGN 0))
      ∧ t.debt = s.fld Reg.XPT_LIFETIME 0 16 * 1000 ∧ t.sems = s.sems ∧ t.slots = s.slots) ∧
    (s.bootState ≠ 2 → exec .memoryInitDone s = .next s)

/-- R393, R394: loads of the firmware, from a stream and from a memory outside. -/
def FirmwareLoads : Prop :=
  ∀ (s : State) (p : Path),
    (Accepted s p Reg.BOOT_FW_DATA → ∀ v, ∃ t, exec (.fwDataWrite p v) s = .next t
      ∧ t.boot = (if s.boot.streaming then { s.boot with stream := s.boot.stream ++ leBytes v.toNat 8 } else s.boot)
      ∧ { t with boot := s.boot, tally := s.tally } = s) ∧
    (Accepted s p Reg.BOOT_CMD →
      let n := (s.reg Reg.BOOT_FW_LEN).toNat
      let src := s.fld Reg.BOOT_FW_SRC 0 3
      (∃ t, exec (.beginStream p) s = .next t ∧ t.boot = { s.boot with streaming := true, stream := [] }
        ∧ { t with boot := s.boot, tally := s.tally } = s) ∧
      (∀ base len, s.fwRgn = some (base, len) → s.linesOf base n none = [] → s.loadable = true → fwLenOk n = true →
        (src = 5 → s.boot.stream.length = n → ∃ t, exec (.endStream p) s = .next t ∧ ImageLoaded t base s.boot.stream) ∧
        (∀ img, src < 5 → s.srcUp src = true → img.length = n → ∃ t, exec (.firmwareLoad p img true) s = .next t
          ∧ ImageLoaded t base img) ∧
        (∀ img, src < 5 → s.srcUp src = false → ∃ t, exec (.firmwareLoad p img true) s = .next t ∧ t.bootState = 6
          ∧ t.fld Reg.BOOT_STATE 16 16 = St.uncorrectable.toNat ∧ SameStores s t)) ∧
      (s.loadable = false ∨ fwLenOk n = false →
        (∀ img ok, ∃ t, exec (.firmwareLoad p img ok) s = .next t ∧ LoadRefused s t) ∧
        (∃ t, exec (.endStream p) s = .next t ∧ LoadRefused s t)))

/-- R395, R396, R402: the authentication of the image in the firmware region, and the version exchange with a driver. -/
def FirmwareStarts : Prop :=
  ∀ (s : State),
    (∀ base len img u, s.alive = true → s.boot.waking = false → s.bootState = 4 → s.fwRgn = some (base, len) →
      s.imgStoring = false → s.readMem 0 base s.boot.fwLen = (img, false, u) →
      (s.authenticate img s.boot.fwLen = none → ∃ t, exec .firmwareAuthenticate s = .next t ∧ t.bootState = 6
        ∧ t.fld Reg.BOOT_STATE 16 16 = St.authFail.toNat ∧ t.fuses = s.fuses) ∧
      (∀ k, s.authenticate img s.boot.fwLen = some k →
        (s.fld Reg.BOOT_DRV_VER 16 16 = bits (BitVec.ofNat 64 (imgFld img 0x10 4)) 16 16 →
          ∃ t, exec .firmwareAuthenticate s = .next t ∧ t.bootState = 5 ∧ t.flag Reg.SEC_STATUS 0 = true
            ∧ t.flag Reg.SEC_STATUS 1 = k ∧ t.fld Reg.SEC_STATUS 11 7 = imgFld img 0x14 1 % 128 ∧ t.fuses = s.fuses
            ∧ t.reg Reg.BOOT_FEAT_ACTIVE = s.reg Reg.BOOT_FEAT_DRV &&& BitVec.ofNat 64 (imgFld img 0x18 8)) ∧
        (s.fld Reg.BOOT_DRV_VER 16 16 ≠ bits (BitVec.ofNat 64 (imgFld img 0x10 4)) 16 16 →
          ∃ t, exec .firmwareAuthenticate s = .next t ∧ t.bootState = 6
            ∧ t.fld Reg.BOOT_STATE 16 16 = St.versionMismatch.toNat))) ∧
    (∀ p, Accepted s p Reg.BOOT_CMD →
      (s.running = true → s.fld Reg.BOOT_DRV_VER 16 16 = s.fld Reg.BOOT_FW_VER 16 16 →
        ∃ t, exec (.driverAttach p) s = .next t ∧ t.reg Reg.BOOT_FEAT_ACTIVE = s.reg Reg.BOOT_FEAT_DRV &&& s.reg Reg.BOOT_FEAT_FW
          ∧ t.fld Reg.BOOT_STATE 16 16 = 0 ∧ t.running = true ∧ RegsBut s t [Reg.BOOT_FEAT_ACTIVE, Reg.BOOT_STATE] ∧ OnlyRegs s t) ∧
      (s.running = true → s.fld Reg.BOOT_DRV_VER 16 16 ≠ s.fld Reg.BOOT_FW_VER 16 16 →
        ∃ t, exec (.driverAttach p) s = .next t ∧ t.reg Reg.BOOT_FEAT_ACTIVE = 0
          ∧ t.fld Reg.BOOT_STATE 16 16 = St.versionMismatch.toNat ∧ t.running = true ∧ OnlyRegs s t))

/-- R399, R403: the commands that blow fuses, only while firmware runs and under their conditions. -/
def FuseCommands : Prop :=
  ∀ (s : State) (p : Path), Accepted s p Reg.SEC_FUSE_CMD →
    let done (o : Out) (f : Fuses) : Prop := ∃ t, o = .next t ∧ Reports t .host Reg.SEC_FUSE_RESULT St.ok ∧ t.fuses = f
      ∧ RegsBut s t [Reg.SEC_FUSE_RESULT, Reg.SEC_STATUS] ∧ SameStores s t
    let refused (o : Out) : Prop := ∃ t, o = .next t ∧ Reports t .host Reg.SEC_FUSE_RESULT St.accessDenied ∧ t.fuses = s.fuses
      ∧ RegsBut s t [Reg.SEC_FUSE_RESULT] ∧ OnlyRegs s t
    (s.running = true →
      (s.fuses.minSvn ≤ s.fld Reg.SEC_STATUS 11 7 → done (exec (.commitSecurityVersion p) s)
        { s.fuses with minSvn := max s.fuses.minSvn (min 64 (s.fld Reg.SEC_STATUS 11 7)) }) ∧
      (s.fld Reg.SEC_STATUS 11 7 < s.fuses.minSvn → refused (exec (.commitSecurityVersion p) s)) ∧
      (s.flag Reg.SEC_STATUS 1 = true → done (exec (.revokeKey0 p) s) { s.fuses with rev0 := true }
        ∧ refused (exec (.revokeKey1 p) s)) ∧
      (s.flag Reg.SEC_STATUS 1 = false → done (exec (.revokeKey1 p) s) { s.fuses with rev1 := true }
        ∧ refused (exec (.revokeKey0 p) s))) ∧
    (s.running = false → ∀ c ∈ [Instr.commitSecurityVersion p, .revokeKey0 p, .revokeKey1 p], refused (exec c s))

/-- R407, R408, R410, R420: the commands on key slots and the write of clear_ctx_en. A slot in use takes no new key and is not
erased; a key loads with the next load generation. -/
def KeyCommands : Prop :=
  ∀ (s : State) (p : Path),
    (Accepted s p Reg.SEC_KEY_CMD →
      let k := s.keySel
      let refused (o : Out) (st : Status) : Prop := ∃ t, o = .next t ∧ KeyEnds s t st ∧ t.keys = s.keys
      let loaded (o : Out) (usage : Bool) (key : List Byte) : Prop := ∃ t, o = .next t ∧ KeyEnds s t St.ok
        ∧ t.key k = ⟨BitVec.ofNat 256 (ofLe key), .loaded, usage, s.flag Reg.SEC_CTRL 0, (s.key k).gen + 1, s.msgCount⟩
        ∧ (∀ j, j ≠ k → t.key j = s.key j)
      (∀ usage, s.keyBusy k = false → loaded (exec (.loadClear p usage) s) usage (s.keyData 4)) ∧
      (∀ usage, s.keyBusy k = true → refused (exec (.loadClear p usage) s) St.quiesceRequired) ∧
      (∀ usage (kek : BitVec 12),
        (s.keyBusy k = true → refused (exec (.loadWrapped p usage kek) s) St.quiesceRequired) ∧
        (s.keyBusy k = false → s.kekOk kek.toNat k = false → refused (exec (.loadWrapped p usage kek) s) St.accessDenied) ∧
        (s.keyBusy k = false → s.kekOk kek.toNat k = true →
          (Config.kwUnwrap (s.key kek.toNat).key (s.keyData 5) = none →
            refused (exec (.loadWrapped p usage kek) s) St.authFail) ∧
          (∀ key, Config.kwUnwrap (s.key kek.toNat).key (s.keyData 5) = some key →
            loaded (exec (.loadWrapped p usage kek) s) usage key))) ∧
      (s.keyRefs k = 0 → ∃ t, exec (.erase p) s = .next t ∧ KeyEnds s t St.ok ∧ (t.key k).phase = .empty ∧ (t.key k).key = 0
        ∧ (t.key k).gen = (s.key k).gen ∧ ∀ j, j ≠ k → t.key j = s.key j) ∧
      (s.keyRefs k ≠ 0 → refused (exec (.erase p) s) St.quiesceRequired) ∧
      (∃ t, exec (.query p) s = .next t ∧ KeyEnds s t St.ok ∧ t.keys = s.keys
        ∧ t.fld Reg.SEC_KEY_INFO 0 2 = (s.keyPhase k).code ∧ t.flag Reg.SEC_KEY_INFO 2 = (s.key k).kek
        ∧ t.flag Reg.SEC_KEY_INFO 3 = (s.key k).test ∧ t.fld Reg.SEC_KEY_INFO 16 16 = (s.key k).gen.toNat)) ∧
    (Accepted s p Reg.SEC_CTRL → ∀ v,
      (bit v 0 = true → (∀ e ∈ s.keys, e.2.phase = .empty) → ∃ t, exec (.clearCtxEnWrite p v) s = .next t
        ∧ t.flag Reg.SEC_CTRL 0 = true ∧ t.flag Reg.SEC_STATUS 18 = true ∧ RegsBut s t [Reg.SEC_CTRL, Reg.SEC_STATUS]
        ∧ OnlyRegs s t) ∧
      (bit v 0 = true → (∃ e ∈ s.keys, e.2.phase ≠ .empty) → ∃ t, exec (.clearCtxEnWrite p v) s = .next t
        ∧ { t with tally := s.tally } = s) ∧
      (bit v 0 = false → ∃ t, exec (.clearCtxEnWrite p v) s = .next t ∧ t.flag Reg.SEC_CTRL 0 = false
        ∧ t.flag Reg.SEC_STATUS 18 = false ∧ ∀ k, (t.key k).phase = .empty ∧ (t.key k).key = 0))

/-- R193, R219: steps of Meridian time by TIME_SET and TIME_ADJ; the fraction of a nanosecond stays, a backward step adds to the
step debt, and none is taken while the schedule is enabled. -/
def TimeSteps : Prop :=
  ∀ (s : State) (p : Path) (v : Word),
    (Accepted s p Reg.TIME_SET → Steps s v (exec (.timeSet p v) s)) ∧
    (Accepted s p Reg.TIME_ADJ → Steps s (s.now + v) (exec (.timeAdj p v) s))

/-- R190 to R192: offset samples from their sources, their loss, and the write of TIME_CTRL. -/
def DisciplineLoop : Prop :=
  ∀ (s : State),
    let src := s.fld Reg.TIME_CTRL 0 2
    (∀ p v, Accepted s p Reg.TIME_SERVO_IN →
      (src = 3 → ∃ t, exec (.timeServoIn p v) s = .next t ∧ LoopTakes s t v.toInt) ∧
      (src ≠ 3 → ∃ t, exec (.timeServoIn p v) s = .next t ∧ { t with tally := s.tally } = s)) ∧
    (∀ v, (s.alive = true → s.running = true → src = 1 → ∃ t, exec (.ptpOffsetSample v) s = .next t ∧ LoopTakes s t v.toInt) ∧
      (src ≠ 1 → exec (.ptpOffsetSample v) s = .next s)) ∧
    (s.timeOn = true →
      let r := ((s.nowNs : Int) - (s.fld Reg.TIME_PPS 32 16 : Nat)) % 1000000000
      (∃ t, exec .ppsInEdge s = .next t ∧ t.time.pps = some s.ps
        ∧ (src ≠ 2 ∨ s.twilight = true → t.reg Reg.TIME_PPS_IN_TS = s.now ∧ RegsBut s t [Reg.TIME_PPS_IN_TS]
            ∧ t.time = { s.time with pps := some s.ps })
        ∧ (src = 2 → s.twilight = false → 2 * r < 1000000000 → LoopTakes s t (r * 65536))
        ∧ (src = 2 → s.twilight = false → 1000000000 < 2 * r → LoopTakes s t ((r - 1000000000) * 65536))) ∧
      (s.time.phase = .acquire ∨ s.time.phase = .locked →
        (s.time.sample.getD 0 + 1000000000 * s.fld Reg.TIME_HOLD 0 16 ≤ s.ps → ∃ t, exec .sampleLossTimeout s = .next t
          ∧ t.time.phase = .holdover ∧ t.time.adj = s.time.integ ∧ t.time.integ = s.time.integ ∧ t.time.now = s.time.now
          ∧ Counts s t Reg.TIME_CNT_LOSS 1) ∧
        (s.ps < s.time.sample.getD 0 + 1000000000 * s.fld Reg.TIME_HOLD 0 16 → exec .sampleLossTimeout s = .next s)) ∧
      (s.time.phase = .freerun ∨ s.time.phase = .holdover → exec .sampleLossTimeout s = .next s) ∧
      (∀ on, exec (.ref10mInPresenceChange on) s = .next { s with time := { s.time with ref10m := on } })) ∧
    (∀ p v, Accepted s p Reg.TIME_CTRL → ∃ t, exec (.timeCtrlWrite p v) s = .next t ∧ t.fld Reg.TIME_CTRL 0 2 = bits v 0 2
      ∧ t.fld Reg.TIME_CTRL 2 3 = (if bits v 2 3 ≤ 5 then bits v 2 3 else s.fld Reg.TIME_CTRL 2 3)
      ∧ t.fld Reg.TIME_CTRL 5 3 = bits v 5 3
      ∧ t.time.phase = (if bits v 0 2 = 0 ∧ (s.time.phase = .acquire ∨ s.time.phase = .locked) then .holdover else s.time.phase)
      ∧ t.time.now = s.time.now ∧ t.time.integ = s.time.integ)

/-- R3, R4, R187, R188: with an empty queue one tick of the 1.25 GHz clock passes: absolute time advances by 800 ps; undisciplined
Meridian time, with adj at 0, by 0.8 ns to within one unit of its 32-bit fraction more. Of the slots only the entries of the issue queue change. (That an empty
queue ticks, and that the internal loopback and the Lookahead engines work at a tick, is the model's choice, logs 1, 10 and 127.) -/
def EmptyQueueTicks : Prop :=
  ∀ (s : State), s.pending = [] → ∃ t, step s = .next t ∧ (s.loop = [] → t.ps = s.ps + 800 ∧ SameStores s t ∧ t.ops = s.ops
    ∧ (∀ i, { t.slot i with ahead := [], stalled := false } = { s.slot i with ahead := [], stalled := false })
    ∧ ((∀ i, (s.slot i).phase ≠ .running) → t.slots = s.slots ∧ t.out = s.out ∧ t.tally = s.tally)
    ∧ (s.tripped = false → s.time.adj = 0 → ∃ r : BitVec 96, r.toNat ≤ 1 ∧ t.time.now = s.time.now + 3435973836#96 + r)
    ∧ (s.tripped = true → t.time = s.time))

/-- R423 to R428: the milliseconds of the power core's loops. A thermal trip does not wait for the firmware. -/
def PowerLoops : Prop :=
  ∀ (s : State),
    (∀ mw : List Nat, mw.length = 8 → s.alive = true → s.running = true →
      let sum := sumNat mw
      let high : Prop := 1000 * s.limitW < sum ∨ s.railOver mw = true
      let low : Prop := sum + 1000 * s.fld Reg.PWR_CTRL 32 8 ≤ 1000 * s.limitW ∧ s.railOver mw = false
      let need := s.fld Reg.PWR_CTRL 40 8
      ∃ t, exec (.cappingTick mw) s = .next t ∧ StepApplied t ∧ Counts s t (Reg.PWR_CNT 3) sum
        ∧ t.fld Reg.PWR_TOTAL 0 32 = sum % 2 ^ 32 ∧ t.fld Reg.PWR_STATUS 8 4 = s.fld Reg.PWR_STATUS 8 4
        ∧ (∀ i, i < 8 → t.fld (Reg.PWR_RAIL i) 0 32 = mw.getD i 0 % 2 ^ 32
            ∧ t.fld (Reg.PWR_RAIL i) 32 10 = s.fld (Reg.PWR_RAIL i) 32 10)
        ∧ (s.flag Reg.PWR_CTRL 0 = true →
            (high → t.capStep = min 9 (s.capStep + 1) ∧ Counts s t (Reg.PWR_CNT 0) 1 ∧ t.capOk = 0) ∧
            (¬ high → low → need ≤ s.capOk + 1 → t.capStep = s.capStep - 1 ∧ Counts s t (Reg.PWR_CNT 0) 0 ∧ t.capOk = 0) ∧
            (¬ high → low → s.capOk + 1 < need → t.capStep = s.capStep ∧ t.capOk = s.capOk + 1) ∧
            (¬ high → ¬ low → 0 < need → t.capStep = s.capStep ∧ t.capOk = 0))
        ∧ (s.flag Reg.PWR_CTRL 0 = false → t.capStep = 0) ∧ SameStores s t ∧ t.slots = s.slots) ∧
    (∀ mw, s.running = false → exec (.cappingTick mw) s = .next s) ∧
    (∀ ts : List (BitVec 16), ts.length = 32 →
      (s.tripped = false → s.twilight = false → 500 ≤ tempMax ts → ∃ t, exec (.thermalTick ts) s = .next t ∧ t.tripped = true
        ∧ t.out = s.out ++ [.thermTrip] ∧ t.slots = [] ∧ t.ops = [] ∧ t.rings = [] ∧ t.tally = s.tally ∧ t.fuses = s.fuses) ∧
      (s.alive = true → s.running = true → tempMax ts < 500 → ∃ t, exec (.thermalTick ts) s = .next t ∧ StepApplied t
        ∧ t.thermStep = (if s.flag Reg.PWR_CTRL 1 then s.thermNext (tempMax ts) else s.thermStep)
        ∧ Counts s t (Reg.PWR_CNT 1) (if t.thermStep = 0 then 0 else 1) ∧ t.capStep = s.capStep
        ∧ t.fld Reg.PWR_TEMP_MAX 0 16 = (BitVec.ofInt 16 (tempMax ts)).toNat ∧ SameStores s t ∧ t.slots = s.slots) ∧
      (s.tripped = true ∨ s.twilight = true → exec (.thermalTick ts) s = .next s))

/-- R430 to R434: entry into Twilight, its completion, and wakes. -/
def TwilightStates : Prop :=
  ∀ (s : State),
    (∀ p, Accepted s p Reg.PWR_TWI_CMD →
      (s.twiState = 0 → s.twiRefused = true → ∃ t, exec (.twilightEnter p) s = .next t
        ∧ t.fld Reg.PWR_TWI_STATUS 16 16 = St.quiesceRequired.toNat ∧ t.twiState = 0 ∧ RegsBut s t [Reg.PWR_TWI_STATUS]
        ∧ OnlyRegs s t) ∧
      (s.twiState = 0 → s.twiRefused = false → ∃ t, exec (.twilightEnter p) s = .next t ∧ t.twiState = 1
        ∧ t.saved = s.regs ∧ (∀ k, (t.key k).phase = .empty) ∧ (∀ (n : Fin 6) (k : Fin 4), (t.sub n k).isUp = false)
        ∧ t.vfEn = false ∧ t.fns = [] ∧ t.atc = []) ∧
      (s.twiState ≠ 0 → ∃ t, exec (.twilightEnter p) s = .next t ∧ OnlyTally s t)) ∧
    (s.tripped = false →
      (s.twiState = 1 → ∃ t, exec .twilightEntryComplete s = .next t ∧ t.twiState = (if s.wakeHeld then 3 else 2)
        ∧ t.time.phase = .holdover ∧ Counts s t (Reg.PWR_CNT 2) 1 ∧ t.slots = [] ∧ t.ops = [] ∧ t.srecs = [] ∧ t.rrecs = []
        ∧ t.tmem = [] ∧ t.nbuf = []
        ∧ (s.zeroing = none → t.mem = s.mem ∧ t.raw = s.raw ∧ t.sems = s.sems ∧ t.poison = s.poison ∧ t.tally = s.tally)) ∧
      (s.twiState ≠ 1 → exec .twilightEntryComplete s = .next s) ∧
      (s.twiState = 2 → (∃ t, exec .wakeN s = .next t ∧ t.twiState = 3 ∧ t.boot.waking = true ∧ t.wraps = s.wraps + 1
          ∧ RegsBut s t [Reg.PWR_TWI_STATUS] ∧ SameStores s t) ∧
        (Accepted s .bmc Reg.PWR_TWI_CMD → ∃ t, exec .twilightExit s = .next t ∧ t.twiState = 3 ∧ t.boot.waking = true
          ∧ t.wraps = s.wraps + 1 ∧ RegsBut s t [Reg.PWR_TWI_STATUS] ∧ SameStores s t)) ∧
      (s.twiState = 1 → ∃ t, exec .wakeN s = .next t ∧ t.wakeHeld = true ∧ { t with wakeHeld := s.wakeHeld } = s) ∧
      (s.twiState = 0 ∨ s.twiState = 3 → exec .wakeN s = .next s))

/-- R452, R453, R456: hangs are declared, by Nightwatch or by command, and ended. -/
def HangsDeclared : Prop :=
  ∀ (s : State),
    (s.alive = true → s.flag Reg.DBG_NW_CFG 0 = true → s.watching = true →
      (∀ sl : Fin 32, (s.slotHung sl = true → ∃ t, exec (.hangDetect (.slot sl)) s = .next t ∧ Declared s t 1 sl) ∧
        (s.slotHung sl = false → exec (.hangDetect (.slot sl)) s = .next s)) ∧
      (∀ r : BitVec 14, (s.ringHung r.toNat = true → ∃ t, exec (.hangDetect (.ring r)) s = .next t ∧ Declared s t 2 r.toNat) ∧
        (s.ringHung r.toNat = false → exec (.hangDetect (.ring r)) s = .next s)) ∧
      (s.zenithHung = true → ∃ t, exec (.hangDetect .zenith) s = .next t ∧ Declared s t 3 0)) ∧
    (∀ w, s.flag Reg.DBG_NW_CFG 0 = false ∨ s.watching = false → exec (.hangDetect w) s = .next s) ∧
    (s.alive = true → s.running = true → ∃ t, exec .zenithHeartbeat s = .next t ∧ t.night = { s.night with beat := s.ps }
      ∧ { t with night := s.night } = s) ∧
    (∀ p, Accepted s p Reg.DBG_NW_CMD →
      (s.watching = true → ∃ t, exec (.declare p) s = .next t ∧ Declared s t 4 0 ∧ t.fld Reg.DBG_NW_STATUS 16 16 = 0) ∧
      (s.watching = false → ∃ t, exec (.declare p) s = .next t ∧ OnlyTally s t) ∧
      (s.nwEnds = true →
        (∃ t, exec (.resume p) s = .next t ∧ t.watching = true ∧ t.fld Reg.DBG_NW_STATUS 16 16 = 0
          ∧ (∀ i, t.slot i = { s.slot i with halted := false }) ∧ RegsBut s t [Reg.DBG_NW_STATUS] ∧ SameStores s t) ∧
        (∃ t, exec (.abort p) s = .next t ∧ t.watching = true
          ∧ (∀ i, i < 32 → (s.slot i).halted = true → (s.slot i).phase ≠ .idle → (s.slot i).stopped = false →
              Stopped s t i St.aborted)
          ∧ (∀ i, i < 32 → (t.slot i).halted = false) ∧ SameStores s t)) ∧
      (s.nwEnds = false → ∀ c ∈ [Instr.resume p, .abort p], ∃ t, exec c s = .next t
        ∧ t.fld Reg.DBG_NW_STATUS 16 16 = St.badDescriptor.toNat ∧ RegsBut s t [Reg.DBG_NW_STATUS] ∧ OnlyRegs s t))

/-- R446 to R451, R453, R457: the dump and the graph complete, histogram samples, and the records that Comet writes. -/
def DumpsAndTraces : Prop :=
  ∀ (s : State), s.alive = true →
    (s.fld Reg.DBG_NW_STATUS 0 3 = 1 → ∃ t, exec .dumpComplete s = .next t ∧ t.fld Reg.DBG_NW_STATUS 0 3 = 3
      ∧ t.fld Reg.DBG_NW_STATUS 3 3 = s.fld Reg.DBG_NW_STATUS 3 3 ∧ t.slots = s.slots ∧ t.ops = s.ops ∧ t.sems = s.sems) ∧
    (s.fld Reg.DBG_NW_STATUS 0 3 ≠ 1 → exec .dumpComplete s = .next s) ∧
    (∀ b, s.graphReady = true → s.dumpBase = some b → ∃ t, exec .graphBuild s = .next t ∧ t.fld Reg.DBG_NW_STATUS 0 3 = 4
      ∧ t.slots = s.slots ∧ t.ops = s.ops ∧ t.sems = s.sems) ∧
    (s.graphReady = false → exec .graphBuild s = .next s) ∧
    (s.ck - s.comet.sampled < 1024000000 → exec .histogramSample s = .next s) ∧
    (1024000000 ≤ s.ck - s.comet.sampled → ∃ t, exec .histogramSample s = .next t
      ∧ (∀ u, u < 16 → s.fld (Reg.DBG_HSEL u) 0 4 = 5 → s.fld (Reg.DBG_HSEL u) 4 14 = 0 →
          let b := bucketFor (s.srecs.length + s.rrecs.length)
          Counts s t (Reg.DBG_HIST_DEPTH u b) 1 ∧ ∀ c, c < 16 → c ≠ b → Counts s t (Reg.DBG_HIST_DEPTH u c) 0)
      ∧ (∀ u, u < 16 → s.fld (Reg.DBG_HSEL u) 0 4 = 0 → ∀ c, c < 16 → Counts s t (Reg.DBG_HIST_DEPTH u c) 0
          ∧ Counts s t (Reg.DBG_HIST_DELAY u c) 0) ∧ SameStores s t ∧ t.slots = s.slots) ∧
    (s.traceArea = none → exec .cometStagingDrain s = .next s) ∧
    (∀ base len x, s.traceArea = some (base, len) → s.cometFull = false → s.tracedCores = [] → s.comet.lost = 0 →
      s.comet.staged = [x] → CleanMemory s →
      let w := (s.reg Reg.DBG_COMET_WPTR).toNat
      w + 32 < len → w + 32 < 2 ^ 64 → ∃ t, exec .cometStagingDrain s = .next t ∧ t.comet.staged = []
        ∧ (t.reg Reg.DBG_COMET_WPTR).toNat = w + 32
        ∧ (∀ k, k < 32 → tget 0 t.mem (base + w + k)
            = ([x.w0, x.w1, x.w2, x.w3].flatMap (fun v => leBytes v.toNat 8)).getD k 0)
        ∧ (∀ a, a < base + w ∨ base + w + 32 ≤ a → tget 0 t.mem a = tget 0 s.mem a))

/-- R475: the boundary-scan port takes IDCODE and SAMPLE as they are, and every other instruction, EXTEST among them while POR_N is
deasserted, as BYPASS; nothing else changes. (The instruction register and the reading of R475 are the model's choice, log 108.) -/
def BoundaryScan : Prop :=
  ∀ (s : State) (ir : JtagIr), ∃ t, exec (.jtagInstructionLoad ir) s = .next t
    ∧ t.jtag = (match ir with | .idcode => .idcode | .sample => .sample | _ => .bypass)
    ∧ { t with jtag := s.jtag } = s

end Sys2Proof.Claims

open Sys2Proof Sys2Proof.Machine Sys2Proof.Claims

/-- R77: the ALU opcodes and LI, with their results modulo 2^64 by the arithmetic of integers; all else is unchanged. -/
def Obligations.AluResults : Prop :=
  ∀ (s : State) (sl : Fin 32) (w : JWord), isS w.opa = true →
    (Ready s sl 0x1B w → WritesS s sl w.opa w.imm (exec (.li sl w) s)) ∧
    (isX w.opb = true → (w.flags.getLsbD 0 = true ∨ isX w.opc = true) →
      let b := valX (s.slot sl) w.opb
      let c := if w.flags.getLsbD 0 then w.imm else valX (s.slot sl) w.opc
      (Ready s sl 0x10 w → WritesS s sl w.opa (BitVec.ofNat 64 (b.toNat + c.toNat)) (exec (.add sl w) s)) ∧
      (Ready s sl 0x11 w → WritesS s sl w.opa (BitVec.ofInt 64 ((b.toNat : Int) - c.toNat)) (exec (.sub sl w) s)) ∧
      (Ready s sl 0x12 w → WritesS s sl w.opa (BitVec.ofNat 64 (b.toNat * c.toNat)) (exec (.mul sl w) s)) ∧
      (Ready s sl 0x13 w → WritesS s sl w.opa (b &&& c) (exec (.and sl w) s)) ∧
      (Ready s sl 0x14 w → WritesS s sl w.opa (b ||| c) (exec (.or sl w) s)) ∧
      (Ready s sl 0x15 w → WritesS s sl w.opa (b ^^^ c) (exec (.xor sl w) s)) ∧
      (Ready s sl 0x16 w → WritesS s sl w.opa (BitVec.ofNat 64 (b.toNat * 2 ^ (c.toNat % 64))) (exec (.shl sl w) s)) ∧
      (Ready s sl 0x17 w → WritesS s sl w.opa (BitVec.ofNat 64 (b.toNat / 2 ^ (c.toNat % 64))) (exec (.shr sl w) s)) ∧
      (Ready s sl 0x18 w → WritesS s sl w.opa (BitVec.ofInt 64 (b.toInt / 2 ^ (c.toNat % 64))) (exec (.sra sl w) s)) ∧
      (Ready s sl 0x19 w → WritesS s sl w.opa (BitVec.ofNat 64 (min b.toNat c.toNat)) (exec (.minu sl w) s)) ∧
      (Ready s sl 0x1A w → WritesS s sl w.opa (BitVec.ofNat 64 (max b.toNat c.toNat)) (exec (.maxu sl w) s)))

/-- CMP and PLOG write the selected comparison or logic function to a predicate. Both of `CompareResults`, `PredicateLogic`. -/
def Obligations.PredicateResults : Prop :=
  Sys2Proof.Claims.CompareResults ∧ Sys2Proof.Claims.PredicateLogic

/-- GETS reads the selected value; MARK sets the layer and operator IDs. Both of `GetsValues`, `MarkSetsIds`. -/
def Obligations.ValuesAndMarks : Prop :=
  Sys2Proof.Claims.GetsValues ∧ Sys2Proof.Claims.MarkSetsIds

/-- R81, R82: what the descriptor instructions write; a window reference keeps all but its offset under TBASE and TADD. -/
def Obligations.DescriptorResults : Prop :=
  ∀ (s : State) (sl : Fin 32) (w : JWord), isT w.opa = true →
    let x := s.slot sl
    let d := valT x w.opa
    let v := valX x w.opb
    let i := bits w.imm 0 3
    let refAt (off : Word) : Word := BitVec.ofNat 64 (d.base.toNat / 2 ^ 20 * 2 ^ 20 + off.toNat / 2 ^ 8 % 2 ^ 20)
    (isT w.opb = true → Ready s sl 0x20 w → WritesT s sl w.opa (valT x w.opb) (exec (.tcopy sl w) s)) ∧
    (Ready s sl 0x25 w → WritesT s sl w.opa { d with attr := w.imm.setWidth 32 } (exec (.tattr sl w) s)) ∧
    (isX w.opb = true →
      (Ready s sl 0x21 w → d.space ≠ 8 → WritesT s sl w.opa { d with base := v + w.imm } (exec (.tbase sl w) s)) ∧
      (Ready s sl 0x21 w → d.space = 8 → WritesT s sl w.opa { d with base := refAt (v + w.imm) } (exec (.tbase sl w) s)) ∧
      (Ready s sl 0x22 w → d.space ≠ 8 →
        WritesT s sl w.opa { d with base := d.base + v * w.imm } (exec (.tadd sl w) s)) ∧
      (Ready s sl 0x22 w → d.space = 8 →
        WritesT s sl w.opa { d with base := refAt (BitVec.ofNat 64 (d.base.toNat % 2 ^ 20 * 2 ^ 8) + v * w.imm) }
          (exec (.tadd sl w) s)) ∧
      (Ready s sl 0x23 w → i = 0 → WritesT s sl w.opa { d with e0 := v.setWidth 32 } (exec (.text sl w) s)) ∧
      (Ready s sl 0x23 w → i = 1 → WritesT s sl w.opa { d with e1 := v.setWidth 32 } (exec (.text sl w) s)) ∧
      (Ready s sl 0x23 w → i = 2 → WritesT s sl w.opa { d with e2 := v.setWidth 32 } (exec (.text sl w) s)) ∧
      (Ready s sl 0x23 w → i = 3 → WritesT s sl w.opa { d with e3 := v.setWidth 32 } (exec (.text sl w) s)) ∧
      (Ready s sl 0x23 w → i = 4 → WritesT s sl w.opa { d with e4 := v.setWidth 32 } (exec (.text sl w) s)) ∧
      (Ready s sl 0x23 w → 5 ≤ i → FaultsAt s sl St.illegalInstruction (exec (.text sl w) s)) ∧
      (Ready s sl 0x24 w → i = 1 → WritesT s sl w.opa { d with s1 := v } (exec (.tstr sl w) s)) ∧
      (Ready s sl 0x24 w → i = 2 → WritesT s sl w.opa { d with s2 := v } (exec (.tstr sl w) s)) ∧
      (Ready s sl 0x24 w → i = 3 → WritesT s sl w.opa { d with s3 := v } (exec (.tstr sl w) s)) ∧
      (Ready s sl 0x24 w → i = 4 → WritesT s sl w.opa { d with s4 := v } (exec (.tstr sl w) s)) ∧
      (Ready s sl 0x24 w → i = 0 ∨ 5 ≤ i → FaultsAt s sl St.illegalInstruction (exec (.tstr sl w) s)))

/-- R75: NOP, END, JMP and LOOP. -/
def Obligations.ControlFlow : Prop :=
  ∀ (s : State) (sl : Fin 32) (w : JWord),
    let x := s.slot sl
    let target := bits w.imm 0 14
    (Ready s sl 0x00 w → GoesTo s sl (x.pc + 1) (exec (.nop 0 sl w) s)) ∧
    (Ready s sl 0x01 w → ∃ t, exec (.endProg sl w) s = .next t ∧ Retires s t sl (x.pc + 1)
      ∧ (t.slot sl).phase = .draining ∧ t.canIssue sl = false ∧ { butPc (t.slot sl) with phase := x.phase } = butPc x) ∧
    (Ready s sl 0x02 w → target < x.imemLen → GoesTo s sl target (exec (.jmp sl w) s)) ∧
    (Fetched s sl 0x02 w → x.imemLen ≤ target → FaultsAt s sl St.illegalInstruction (exec (.jmp sl w) s)) ∧
    (isS w.opa = true →
      let v := slotS x w.opa.toNat
      (Ready s sl 0x03 w → w.opa ≠ 0 → target < x.imemLen →
        ∃ t, exec (.loop sl w) s = .next t ∧ Retires s t sl (if v.toNat ≤ 1 then x.pc + 1 else target)
          ∧ (slotS (t.slot sl) w.opa.toNat).toNat = v.toNat - 1
          ∧ (∀ n, n ≠ w.opa.toNat → slotS (t.slot sl) n = slotS x n) ∧ butS (t.slot sl) = butS x) ∧
      (Fetched s sl 0x03 w → w.opa = 0 ∨ x.imemLen ≤ target →
        FaultsAt s sl St.illegalInstruction (exec (.loop sl w) s)))

/-- Reserved encodings and a pc past the image fault with ILLEGAL_INSTRUCTION whatever the predicate. Both of `EncodingFaults`, `EndOfImageFaults`. -/
def Obligations.IllegalInstructions : Prop :=
  Sys2Proof.Claims.EncodingFaults ∧ Sys2Proof.Claims.EndOfImageFaults

/-- A false predicate retires without effect; a cap that is reached holds issue. Both of `FalsePredicateRetires`, `CapHoldsIssue`. -/
def Obligations.HeldAndSkipped : Prop :=
  Sys2Proof.Claims.FalsePredicateRetires ∧ Sys2Proof.Claims.CapHoldsIssue

/-- R66, R71, R83 to R88: a tensor instruction whose operands pass every check issues its operation with the values of its
operands, and retires. -/
def Obligations.TensorInstructionsIssue : Prop :=
  ∀ (s : State) (sl : Fin 32) (w : JWord),
    let x := s.slot sl
    let d := valT x w.opa
    let a := valT x w.opb
    let b := valT x w.opc
    let ok (op : BitVec 8) (ds : List TDesc) (src : TDesc) : Prop :=
      Ready s sl op w ∧ fieldsOk op w x.imemLen = true ∧ s.canOp sl = true ∧ TensorsOk ds src
        ∧ TensorsReachable s x.inst ds ∧ SignalOk s x.inst w
    let src := if w.flags.getLsbD 0 then d else a
    (ok 0x30 [d, a] src → d.format = a.format → ∃ o u, Issues s sl (exec (.copy sl w) s) o u ∧ TakesValues s sl w o
      ∧ o.kind = .copy ∧ o.dst = d ∧ o.a = a) ∧
    (ok 0x31 [d, a] src → ∃ o u, Issues s sl (exec (.convert sl w) s) o u ∧ TakesValues s sl w o
      ∧ o.kind = .convert ∧ o.dst = d ∧ o.a = a) ∧
    (ok 0x32 [d] d → d.fmt.mx = false → ∃ o u, Issues s sl (exec (.fill sl w) s) o u ∧ TakesValues s sl w o
      ∧ o.kind = .fill ∧ o.dst = d ∧ o.val = valX x w.opb) ∧
    (ok 0x40 [d, a, b] src → ∃ o u, Issues s sl (exec (.red sl w) s) o u ∧ TakesValues s sl w o
      ∧ o.kind = .red ∧ o.dst = d ∧ o.a = a ∧ o.b = b) ∧
    (ok 0x41 [d, a] src → ∃ o u, Issues s sl (exec (.scale sl w) s) o u ∧ TakesValues s sl w o
      ∧ o.kind = .scale ∧ o.dst = d ∧ o.a = a ∧ o.val = slotS x w.opc.toNat) ∧
    (bit w.imm 42 = true → ok 0x50 [d, a] src → ∃ o u, Issues s sl (exec (.quant sl w) s) o u ∧ TakesValues s sl w o
      ∧ o.kind = .quant ∧ o.dst = d ∧ o.a = a ∧ o.residOff = true) ∧
    (bit w.imm 42 = false → ok 0x50 [d, a, b] src → residOk b = true →
      ∃ o u, Issues s sl (exec (.quant sl w) s) o u ∧ TakesValues s sl w o
        ∧ o.kind = .quant ∧ o.dst = d ∧ o.a = a ∧ o.b = b ∧ o.residOff = false)

/-- R50, R83, R85, R89: operands that break the rules fault with BAD_TENSOR at issue: a rank of 0, 6 or 7 in either tensor of
COPY, CONVERT, RED or SCALE, unequal counts of COPY, a COPY between formats, a FILL of an MX tensor, and a PUT whose first
operand is neither a window nor empty. -/
def Obligations.BadTensorFaults : Prop :=
  ∀ (s : State) (sl : Fin 32) (w : JWord),
    let x := s.slot sl
    let d := valT x w.opa
    let a := valT x w.opb
    let badRank (t : TDesc) : Prop := t.rank = 0 ∨ 6 ≤ t.rank
    let ready (op : BitVec 8) : Prop := Ready s sl op w ∧ fieldsOk op w x.imemLen = true ∧ s.canOp sl = true
    (ready 0x30 → badRank d ∨ badRank a ∨ d.count ≠ a.count ∨ d.format ≠ a.format →
      FaultsAt s sl St.badTensor (exec (.copy sl w) s)) ∧
    (ready 0x31 → badRank d ∨ badRank a → FaultsAt s sl St.badTensor (exec (.convert sl w) s)) ∧
    (ready 0x32 → badRank d ∨ d.fmt.mx = true → FaultsAt s sl St.badTensor (exec (.fill sl w) s)) ∧
    (ready 0x40 → badRank d ∨ badRank a ∨ badRank (valT x w.opc) → FaultsAt s sl St.badTensor (exec (.red sl w) s)) ∧
    (ready 0x41 → badRank d ∨ badRank a → FaultsAt s sl St.badTensor (exec (.scale sl w) s)) ∧
    (ready 0x60 → (d.isEmpty = false ∧ d.space ≠ 8) ∨ badRank a → FaultsAt s sl St.badTensor (exec (.put sl w) s))

/-- Message instructions with good operands issue their operation and retire; RECV posts or waits. Both of `MessageInstructionsIssue`, `SendAndReceiveIssue`. -/
def Obligations.MessageInstructionsIssue : Prop :=
  Sys2Proof.Claims.MessageInstructionsIssue ∧ Sys2Proof.Claims.SendAndReceiveIssue

/-- R97 to R99: FENCE, WAIT, TWAIT and TILEWAIT retire at once when what they wait for holds, and hold their slot otherwise. -/
def Obligations.WaitsHoldOrRetire : Prop :=
  ∀ (s : State) (sl : Fin 32) (w : JWord),
    let x := s.slot sl
    let v := valX x w.opb
    let id : BitVec 16 := (if w.flags.getLsbD 0 then slotS x (w.opc.toNat % 32) else w.imm).extractLsb' 0 16
    let scope : BitVec 3 := w.flags.setWidth 3
    (Ready s sl 0x80 w → s.fenceOk sl scope = true → GoesTo s sl (x.pc + 1) (exec (.fence sl w) s)) ∧
    (Ready s sl 0x80 w → s.fenceOk sl scope = false → HoldsAt s sl (.fence scope) (exec (.fence sl w) s)) ∧
    (Ready s sl 0x81 w → fieldsOk 0x81 w x.imemLen = true → s.semProg x.inst id = true →
      (v = 0 ∨ (s.semZeroing id = false ∧ s.semPoisoned id = false ∧ v.toNat ≤ (s.semValue id).toNat) →
        GoesTo s sl (x.pc + 1) (exec (.wait sl w) s)) ∧
      (v ≠ 0 → s.semZeroing id = false → s.semPoisoned id = true ∨ (s.semValue id).toNat < v.toNat →
        HoldsAt s sl (.sem id v s.ps (if bits w.imm 48 16 = 0 then s.fld Reg.SEM_CTRL 0 16 else bits w.imm 48 16) w.tag s.ck)
          (exec (.wait sl w) s))) ∧
    (Ready s sl 0x81 w → fieldsOk 0x81 w x.imemLen = true → s.semProg x.inst id = false →
      FaultsAt s sl St.accessDenied (exec (.wait sl w) s)) ∧
    (Ready s sl 0x82 w → isX w.opb = true → s.nowNs < v.toNat → HoldsAt s sl (.until_ v) (exec (.twait sl w) s)) ∧
    (Ready s sl 0x82 w → isX w.opb = true → v.toNat ≤ s.nowNs →
      ∃ t, exec (.twait sl w) s = .next t ∧ (t.slot sl).pc = x.pc + 1 ∧ butPc (t.slot sl) = butPc x
        ∧ t.reg (Reg.DBG_CNT (sl.val / 4) 3) = s.reg (Reg.DBG_CNT (sl.val / 4) 3) + 1
        ∧ t.mem = s.mem ∧ t.sems = s.sems) ∧
    (Ready s sl 0x83 w → isX w.opb = true →
      (s.tagged sl (w.imm.extractLsb' 0 24) = none → GoesTo s sl (x.pc + 1) (exec (.tilewait sl w) s)) ∧
      (∀ o, s.tagged sl (w.imm.extractLsb' 0 24) = some o →
        (s.tileOk o.id v = true → GoesTo s sl (x.pc + 1) (exec (.tilewait sl w) s)) ∧
        (s.tileOk o.id v = false → HoldsAt s sl (.tile o.id v) (exec (.tilewait sl w) s))))

/-- R95, R165, R170, R173: a local semaphore instruction of a program that may use the semaphore. -/
def Obligations.SemaphoreInstructions : Prop :=
  ∀ (s : State) (sl : Fin 32) (w : JWord),
    let x := s.slot sl
    let v := valX x w.opb
    let ref := if w.flags.getLsbD 0 then slotS x (w.opc.toNat % 32) else w.imm
    let id : BitVec 16 := ref.extractLsb' 0 16
    let old := (tget 0 s.sems id.toNat).toNat
    let ok (op : BitVec 8) : Prop := Ready s sl op w ∧ fieldsOk op w x.imemLen = true ∧ bit ref 32 = false
      ∧ s.barriers = false ∧ s.semZeroing id = false ∧ s.semBehind sl = false ∧ s.semProg x.inst id = true
    let done (o : Out) (n : Nat) : Prop := ∃ t, o = .next t ∧ (tget 0 t.sems id.toNat).toNat = n
      ∧ (∀ j : BitVec 16, j ≠ id → tget 0 t.sems j.toNat = tget 0 s.sems j.toNat)
      ∧ (t.slot sl).pc = x.pc + 1 ∧ butPc (t.slot sl) = butPc x
      ∧ t.mem = s.mem ∧ t.tmem = s.tmem ∧ t.nbuf = s.nbuf ∧ t.ops = s.ops
    (s.semPoisoned id = false →
      (ok 0x70 → done (exec (.sadd sl w) s) (min (old + v.toNat) (2 ^ 64 - 1))) ∧
      (ok 0x71 → done (exec (.ssub sl w) s) (old - v.toNat)) ∧
      (ok 0x72 → done (exec (.sset sl w) s) v.toNat) ∧
      (ok 0x73 → ∃ t, exec (.sread sl w) s = .next t ∧ t.sems = s.sems ∧ (t.slot sl).pc = x.pc + 1
        ∧ slotS (t.slot sl) w.opa.toNat = (if w.opa = 0 then 0 else BitVec.ofNat 64 old)
        ∧ (∀ n, n ≠ w.opa.toNat → slotS (t.slot sl) n = slotS x n) ∧ butS (t.slot sl) = butS x
        ∧ t.mem = s.mem ∧ t.tmem = s.tmem ∧ t.nbuf = s.nbuf ∧ t.ops = s.ops)) ∧
    (s.semPoisoned id = true →
      (ok 0x70 → FaultsAt s sl St.uncorrectable (exec (.sadd sl w) s)) ∧
      (ok 0x71 → FaultsAt s sl St.uncorrectable (exec (.ssub sl w) s)) ∧
      (ok 0x72 → FaultsAt s sl St.uncorrectable (exec (.sset sl w) s)) ∧
      (ok 0x73 → FaultsAt s sl St.uncorrectable (exec (.sread sl w) s)))

/-- Segments signal in ascending order; a complete operation leaves, a failed one stops its slot. Both of `SegmentsSignalInOrder`, `OperationsComplete`. -/
def Obligations.SegmentsAndOperations : Prop :=
  Sys2Proof.Claims.SegmentsSignalInOrder ∧ Sys2Proof.Claims.OperationsComplete

/-- Waits end by timeout or at their time; a drained program completes and frees its slot. Both of `WaitsEnd`, `ProgramsComplete`. -/
def Obligations.WaitsAndProgramsEnd : Prop :=
  Sys2Proof.Claims.WaitsEnd ∧ Sys2Proof.Claims.ProgramsComplete

/-- Answers to page and translation requests, and invalidations of cached translations. Both of `TranslationAnswers`, `Invalidations`. -/
def Obligations.TranslationEvents : Prop :=
  Sys2Proof.Claims.TranslationAnswers ∧ Sys2Proof.Claims.Invalidations

/-- Cluster commands take effect under their conditions; arrays run a segment pass by pass. Both of `ClusterCommands`, `ArraysRunPasses`. -/
def Obligations.ClustersAndArrays : Prop :=
  Sys2Proof.Claims.ClusterCommands ∧ Sys2Proof.Claims.ArraysRunPasses

/-- Accesses to semaphore cells and their refusals; the zeroing of a page. Both of `CellAccesses`, `PageZeroing`. -/
def Obligations.SemaphoreCells : Prop :=
  Sys2Proof.Claims.CellAccesses ∧ Sys2Proof.Claims.PageZeroing

/-- Doorbells set the tail or are counted as bad; fetched descriptors are accepted up to the first not owned. Both of `Doorbells`, `DescriptorFetches`. -/
def Obligations.RingsFetch : Prop :=
  Sys2Proof.Claims.Doorbells ∧ Sys2Proof.Claims.DescriptorFetches

/-- Rereads, re-polls and dispatches of descriptors. All of `Rereads`, `Repolls`, `Dispatches`. -/
def Obligations.RingsDispatch : Prop :=
  Sys2Proof.Claims.Rereads ∧ Sys2Proof.Claims.Repolls ∧ Sys2Proof.Claims.Dispatches

/-- A launch is placed on the cluster that Zenith chooses; its image is checked, and it starts, ends or waits. Both of `LaunchesPlaced`, `ImagesChecked`. -/
def Obligations.LaunchesLoad : Prop :=
  Sys2Proof.Claims.LaunchesPlaced ∧ Sys2Proof.Claims.ImagesChecked

/-- Finished descriptors are written back and passed by the head in order; held interrupts are raised. Both of `DescriptorsPublished`, `HoldoffsEnd`. -/
def Obligations.RingsPublish : Prop :=
  Sys2Proof.Claims.DescriptorsPublished ∧ Sys2Proof.Claims.HoldoffsEnd

/-- Configure, Read, Abort and Reset indices of rings, with their refusals. Both of `RingConfiguration`, `RingCommands`. -/
def Obligations.RingControl : Prop :=
  Sys2Proof.Claims.RingConfiguration ∧ Sys2Proof.Claims.RingCommands

/-- R304, R307, R330, R339: a consumer index at most 4,096 behind PROD is taken, any other discarded; enabling a fault queue without
pending counts sets its control register; with pending counts, and its memory reachable, one overflow record is written; a queue whose
memory cannot be written is disabled. -/
def Obligations.FaultQueueRegisters : Prop :=
  ∀ (s : State) (p : Path) (q : Fin 257) (v : Word), (∀ i, p = .vf i → i.toNat = q.val) →
    (ViewAccepted s p (Reg.RING_FQ_CONS q) →
      let behind := (BitVec.ofNat 32 (s.fld (Reg.RING_FQ_PROD q) 0 32) - v.setWidth 32).toNat
      (behind ≤ 4096 → ∃ t, exec (.faultQueueConsWrite p q v) s = .next t ∧ t.fld (Reg.RING_FQ_CONS q) 0 32 = bits v 0 32) ∧
      (4096 < behind → ∃ t, exec (.faultQueueConsWrite p q v) s = .next t ∧ t.regs = s.regs ∧ OnlyRegs s t)) ∧
    (ViewAccepted s p (Reg.RING_FQ_CTRL q) →
      ((s.fq q).pend.any (· != 0) = false → ∃ t, exec (.faultQueueEnable p q v) s = .next t
        ∧ t.reg (Reg.RING_FQ_CTRL q) = v &&& 0x1FFFFFFF ∧ RegsBut s t [Reg.RING_FQ_CTRL q] ∧ OnlyRegs s t) ∧
      ((s.fq q).pend.any (· != 0) = true → bit v 0 = true → s.fqFull q = false →
        ((s.fqReach q).1 = true → ∃ t, exec (.faultQueueEnable p q v) s = .next t ∧ Counts s t (Reg.RING_CNT 6) 1
          ∧ t.reg (Reg.RING_FQ_CTRL q) = v &&& 0x1FFFFFFF
          ∧ t.fld (Reg.RING_FQ_PROD q) 0 32 = (s.fld (Reg.RING_FQ_PROD q) 0 32 + 1) % 2 ^ 32
          ∧ (t.fq q).pend.any (· != 0) = false) ∧
        ((s.fqReach q).1 = false → ∃ t, exec (.faultQueueEnable p q v) s = .next t ∧ t.flag (Reg.RING_FQ_CTRL q) 0 = false
          ∧ (t.fq q).pend = (s.fq q).pend)))

/-- A message gets a sender record with the next message ID; packets are released in order and counted. Both of `MessagesCreated`, `PacketsReleased`. -/
def Obligations.SendEngine : Prop :=
  Sys2Proof.Claims.MessagesCreated ∧ Sys2Proof.Claims.PacketsReleased

/-- Admitted WRITE and WRITE_ACC packets store their payload and nothing else. Both of `WritePackets`, `WriteAccPackets`. -/
def Obligations.WritesArrive : Prop :=
  Sys2Proof.Claims.WritePackets ∧ Sys2Proof.Claims.WriteAccPackets

/-- SEND packets bind the oldest fitting buffer; semaphore messages are applied exactly once. Both of `SendPackets`, `SemaphorePackets`. -/
def Obligations.SendsArrive : Prop :=
  Sys2Proof.Claims.SendPackets ∧ Sys2Proof.Claims.SemaphorePackets

/-- Read requests start their reads or draw a NACK; responses are recorded once. Both of `ReadRequests`, `ReadResponses`. -/
def Obligations.ReadsArrive : Prop :=
  Sys2Proof.Claims.ReadRequests ∧ Sys2Proof.Claims.ReadResponses

/-- ACKs and NACKs act on the record they name; message timers send again within limits. Both of `Acknowledgements`, `MessageTimers`. -/
def Obligations.AcknowledgementsAndTimers : Prop :=
  Sys2Proof.Claims.Acknowledgements ∧ Sys2Proof.Claims.MessageTimers

/-- Messages and records end at their lifetimes; rates rise, contexts and windows become resident. Both of `LifetimesEnd`, `ContextEvents`. -/
def Obligations.RecordsAndContexts : Prop :=
  Sys2Proof.Claims.LifetimesEnd ∧ Sys2Proof.Claims.ContextEvents

/-- R21, R53, R61: a read that returns, or a write that is acknowledged, in the order of its source's requests, leaves the
outstanding ones: the segment's read bytes are counted, an error fails the operation with UNCORRECTABLE, and the last
acknowledgement completes the segment's data. Out of that order nothing returns (log 123: DEDUCED). -/
def Obligations.AccessesReturn : Prop :=
  ∀ (s : State) (id op g : Nat) (o : Op) (x : Seg), s.alive = true → s.op? op = some o → o.seg? g = some x →
    (∀ q which bs, s.reads.find? (fun r => r.id = id ∧ r.sent) = some q → q.kind = .seg op g which →
      isExt ((o.srcs.getD which o.a).space) = true →
      (s.inOrder (s.readSource q.kind) q.port id = false →
        ∀ err, exec (.memoryReadReturn (.request id bs err)) s = .next s) ∧
      (s.inOrder (s.readSource q.kind) q.port id = true → bs.length = q.len → ∃ t, exec (.memoryReadReturn (.request id bs false)) s = .next t
        ∧ (∀ y ∈ t.reads, y.id ≠ id) ∧ Counts s t (Reg.DBG_CNT (o.sl / 4) 4) bs.length) ∧
      (s.inOrder (s.readSource q.kind) q.port id = true →
        ∃ t o', exec (.memoryReadReturn (.request id bs true)) s = .next t ∧ (∀ y ∈ t.reads, y.id ≠ id)
        ∧ t.op? op = some o' ∧ o'.status = (if o.status = 0 then St.uncorrectable else o.status) ∧ SameStores s t)) ∧
    (∀ w, s.writes.find? (fun w => w.id = id ∧ w.port.isSome) = some w → w.kind = .seg op g →
      (s.inOrder (s.writeSource w) w.port id = false → ∀ ok, exec (.writeAcknowledged id ok) s = .next s) ∧
      (s.inOrder (s.writeSource w) w.port id = true →
      (x.writes ≤ 1 → o.held = false → ∃ t o' x', exec (.writeAcknowledged id true) s = .next t ∧ (∀ y ∈ t.writes, y.id ≠ id)
        ∧ t.op? op = some o' ∧ o'.seg? g = some x' ∧ x'.phase = .done) ∧
      (1 < x.writes → ∃ t o' x', exec (.writeAcknowledged id true) s = .next t ∧ (∀ y ∈ t.writes, y.id ≠ id)
        ∧ t.op? op = some o' ∧ o'.seg? g = some x' ∧ x' = { x with writes := x.writes - 1 }) ∧
      (∃ t o', exec (.writeAcknowledged id false) s = .next t ∧ t.op? op = some o'
        ∧ o'.status = (if o.status = 0 then St.uncorrectable else o.status))))

/-- Cipher cores finish packets, drop what does not authenticate, and obey their commands. Both of `CipherPackets`, `CipherCommands`. -/
def Obligations.CipherTraffic : Prop :=
  Sys2Proof.Claims.CipherPackets ∧ Sys2Proof.Claims.CipherCommands

/-- Commands on transport contexts and windows, with the conditions that refuse them. Both of `ContextCommands`, `WindowCommands`. -/
def Obligations.ContextAndWindowCommands : Prop :=
  Sys2Proof.Claims.ContextCommands ∧ Sys2Proof.Claims.WindowCommands

/-- Received frames pass or are dropped and counted; the scheduled frame goes on the wire. Both of `FramesReceived`, `FramesTransmitted`. -/
def Obligations.FramesInAndOut : Prop :=
  Sys2Proof.Claims.FramesReceived ∧ Sys2Proof.Claims.FramesTransmitted

/-- R262, R272: on a sub-port that is up, of a port with a role, a PFC frame pauses the priorities that it names and that use flow control, for so many quanta of the sub-port's rate,
from its arrival; a pause that is over reads 0; and a pause of a peer is repeated 10 µs after the last while the occupancy stays
above xon. -/
def Obligations.FlowControl : Prop :=
  ∀ (s : State) (n : Fin 6) (k : Fin 4), s.alive = true →
    let x := s.sub n k
    (∀ mask quanta, s.direct = false → s.role n ≠ 0 → x.isUp = true → ∃ t, exec (.pfcFrame n k mask quanta) s = .next t
      ∧ Counts s t (Reg.FAB_CNT 5) 1 ∧ RegsBut s t [Reg.FAB_CNT 5] ∧ OtherSubs s t n k
      ∧ (∀ p, p < x.paused.length → (t.sub n k).paused.getD p 0
          = if mask.getLsbD p && s.pfcOn p then s.ps + quanta.getD p 0 * (2560 / max 1 x.lanes) else x.paused.getD p 0)
      ∧ { t with subs := [], regs := [] } = { s with subs := [], regs := [] }) ∧
    (∀ mask quanta, s.direct = true ∨ s.role n = 0 ∨ x.isUp = false → exec (.pfcFrame n k mask quanta) s = .next s) ∧
    (∀ p : Fin 8, ∃ t, exec (.pfcPauseExpiry n k p) s = .next t
      ∧ (t.sub n k).paused = (if x.paused.getD p 0 ≤ s.ps then x.paused.set p 0 else x.paused)
      ∧ OtherSubs s t n k ∧ { t with subs := [] } = { s with subs := [] }) ∧
    (∀ p : Fin 8, s.role n ≠ 0 → x.isUp = true → x.xoff.getLsbD p = true → s.pfcOn p = true → x.xoffAt.getD p 0 + 10000000 ≤ s.ps →
      s.pfcBytes n 20 < s.inBytes n k p → ∃ t, exec (.pfcRefresh n k p) s = .next t
        ∧ t.out = s.out ++ [.pfc n k p 65535] ∧ Counts s t (Reg.FAB_CNT 4) 1
        ∧ (t.sub n k).xoffAt = x.xoffAt.set p s.ps ∧ OtherSubs s t n k) ∧
    (∀ p : Fin 8, s.inBytes n k p ≤ s.pfcBytes n 20 → exec (.pfcRefresh n k p) s = .next s)

/-- Link-layer frames carry credits and acknowledgements; its timers acknowledge and replay. Both of `LinkFrames`, `LinkTimers`. -/
def Obligations.LinkLayer : Prop :=
  Sys2Proof.Claims.LinkFrames ∧ Sys2Proof.Claims.LinkTimers

/-- Sub-ports go down, come up and train as R279 and MAC_CTRL say. Both of `LinksChange`, `AdminUp`. -/
def Obligations.LinkStates : Prop :=
  Sys2Proof.Claims.LinksChange ∧ Sys2Proof.Claims.AdminUp

/-- Commands of the fabric and port registers; management queries and answers. Both of `FabricCommands`, `ManagementFrames`. -/
def Obligations.FabricAndManagement : Prop :=
  Sys2Proof.Claims.FabricCommands ∧ Sys2Proof.Claims.ManagementFrames

/-- PIO triggers start one message or are counted; aperture accesses read and write adapter memory. Both of `PioTriggers`, `ApertureAccesses`. -/
def Obligations.PioAndAperture : Prop :=
  Sys2Proof.Claims.PioTriggers ∧ Sys2Proof.Claims.ApertureAccesses

/-- R312, R314, R325, R331, R338: resets of functions and writes of configuration space, while the ports are powered and whatever the
adapter core does. Which functions exist, and how SR-IOV and MSI-X enables act, is the model's choice (log 132: PRESUMED). -/
def Obligations.FunctionStates : Prop :=
  ∀ (s : State), s.twilight = false → s.tripped = false →
    (∃ t, exec .hostPortReset s = .next t ∧ t.vfEn = false ∧ t.numVfs = 0 ∧ (∀ i, i < 256 → t.fn i = Fn.init)
      ∧ (∀ i, 256 ≤ i → t.fn i = s.fn i) ∧ (∀ e ∈ t.atc, e.key.port ≠ .h) ∧ tget 0 t.priAlloc 0 = 0
      ∧ (∀ v, v < 2048 * 256 → tget MsixVec.init t.msixTab v = MsixVec.init ∧ tget false t.msixPend v = false)) ∧
    (∀ i, s.vfOk i = true → ∃ t, exec (.vfReset i) s = .next t ∧ t.vfEn = s.vfEn ∧ t.fn i.toNat = Fn.init
      ∧ (∀ j, j ≠ i.toNat → t.fn j = s.fn j) ∧ (∀ e ∈ t.atc, e.key.port ≠ .h ∨ e.key.fn ≠ i)
      ∧ (∀ v, v < 2048 → tget MsixVec.init t.msixTab (2048 * i.toNat + v) = MsixVec.init
        ∧ tget false t.msixPend (2048 * i.toNat + v) = false)) ∧
    (∀ i, s.vfOk i = false → exec (.vfReset i) s = .next s) ∧
    (∀ c, s.cfgReach c = false → exec (.configurationSpaceWrite c) s = .next s) ∧
    (∀ fn, s.fnAt .h fn = true →
      (∀ on, ∃ t, exec (.configurationSpaceWrite (.busMaster fn on)) s = .next t ∧ t.fn fn.toNat = { s.fn fn.toNat with master := on }
        ∧ (∀ j, j ≠ fn.toNat → t.fn j = s.fn j) ∧ { t with fns := [] } = { s with fns := [] }) ∧
      (∀ on mask, ∃ t, exec (.configurationSpaceWrite (.msix fn on mask)) s = .next t
        ∧ t.fn fn.toNat = { s.fn fn.toNat with msixOn := on, msixMask := mask } ∧ (∀ j, j ≠ fn.toNat → t.fn j = s.fn j)
        ∧ SameStores s t ∧ (on = false ∨ mask = true → { t with fns := [] } = { s with fns := [] }))) ∧
    (∀ port fn, s.fnAt port fn = true → ∀ on, let n := fnIdx port fn
      (∃ t, exec (.configurationSpaceWrite (.ats port fn on)) s = .next t ∧ t.fn n = { s.fn n with ats := on }
        ∧ (∀ j, j ≠ n → t.fn j = s.fn j) ∧ { t with fns := [] } = { s with fns := [] }) ∧
      (∃ t, exec (.configurationSpaceWrite (.pasid port fn on)) s = .next t ∧ t.fn n = { s.fn n with pasid := on }
        ∧ (∀ j, j ≠ n → t.fn j = s.fn j) ∧ { t with fns := [] } = { s with fns := [] }) ∧
      (∃ t, exec (.configurationSpaceWrite (.pri port fn on)) s = .next t ∧ t.fn n = { s.fn n with pri := on }
        ∧ (∀ j, j ≠ n → t.fn j = s.fn j) ∧ (on = true → (port, fn) ∉ t.priStop) ∧ SameStores s t)) ∧
    (∀ port n, s.fnAt port 0 = true → ∃ t, exec (.configurationSpaceWrite (.priAlloc port n)) s = .next t
      ∧ tget 0 t.priAlloc (allocIdx port) = n ∧ t.fns = s.fns ∧ SameStores s t) ∧
    (∀ n, (s.vfEn = false → exec (.configurationSpaceWrite (.numVfs n)) s = .next { s with numVfs := n.toNat }) ∧
      (s.vfEn = true → exec (.configurationSpaceWrite (.numVfs n)) s = .next s)) ∧
    (exec (.configurationSpaceWrite (.vfEnable true)) s = .next { s with vfEn := true }) ∧
    (∃ t, exec (.configurationSpaceWrite (.vfEnable false)) s = .next t ∧ t.vfEn = false ∧ t.fn 0 = s.fn 0
      ∧ (∀ i, 0 < i → i < 256 → t.fn i = Fn.init)) ∧
    (∀ q : Fin 4, s.attUp q.val = true →
      (∀ base, exec (.configurationSpaceWrite (.hdmBase q base)) s = .next (s.setReg (Reg.XLT_ATT_HDM q) base)) ∧
      (∀ on, ∃ t, exec (.configurationSpaceWrite (.cxlMem q on)) s = .next t ∧ (∀ k, t.cxlMem.getLsbD k
        = if k = q.val then on else s.cxlMem.getLsbD k) ∧ { t with cxlMem := 0 } = { s with cxlMem := 0 }))

/-- R332 to R336: the ownership commands. -/
def Obligations.OwnershipCommands : Prop :=
  ∀ (s : State) (p : Path),
    (Commands s p →
      (∀ e, e = s.epoch → s.ownState = 0 ∨ s.ownState = 2 ∨ s.owner = pathCode p →
        OwnEnds s p (exec (.claim p e) s) St.ok (pathCode p) 1 (s.epoch + 1) true) ∧
      (∀ e, ¬ (e = s.epoch ∧ (s.ownState = 0 ∨ s.ownState = 2 ∨ s.owner = pathCode p)) →
        OwnEnds s p (exec (.claim p e) s) St.notOwner s.owner s.ownState s.epoch false) ∧
      (s.owner = pathCode p →
        OwnEnds s p (exec (.renew p) s) St.ok (pathCode p) 1 s.epoch true ∧
        OwnEnds s p (exec (.release p) s) St.ok 0 0 (s.epoch + 1) false ∧
        (∀ c : BitVec 3, c = 1 ∨ c = 2 ∨ 4 ≤ c.toNat → c.toNat ≠ pathCode p →
          OwnEnds s p (exec (.handover p c) s) St.ok c.toNat 1 (s.epoch + 1) true) ∧
        (∀ c : BitVec 3, c = 0 ∨ c = 3 → OwnEnds s p (exec (.handover p c) s) St.badDescriptor s.owner s.ownState s.epoch false) ∧
        (∀ c : BitVec 3, c.toNat = pathCode p → OwnEnds s p (exec (.handover p c) s) St.notOwner s.owner s.ownState s.epoch false)) ∧
      (s.owner ≠ pathCode p →
        OwnEnds s p (exec (.renew p) s) St.notOwner s.owner s.ownState s.epoch false ∧
        OwnEnds s p (exec (.release p) s) St.notOwner s.owner s.ownState s.epoch false ∧
        ∀ c, OwnEnds s p (exec (.handover p c) s) St.notOwner s.owner s.ownState s.epoch false)) ∧
    (s.tripped = false →
      (s.ownState = 1 → s.leaseAt + 3000000000000 ≤ s.ps → ∃ t, exec .leaseExpiry s = .next t ∧ t.ownState = 2
        ∧ t.owner = s.owner ∧ t.epoch = s.epoch ∧ RegsBut s t [Reg.GLB_OWN_STATUS] ∧ { t with regs := [] } = { s with regs := [] }) ∧
      (s.ownState ≠ 1 ∨ s.ps < s.leaseAt + 3000000000000 → exec .leaseExpiry s = .next s))

/-- R5, R6, R28, R312, R330, R333, R337: writes of registers. An 8-byte write of the owner sets a field of type RW; another
master's is counted and discarded; a write of another size or alignment has no effect; a VF sets its own selection register;
BAR2 and the PIO window lead to doorbells and triggers; and MCTP messages read and write registers. -/
def Obligations.RegisterAccesses : Prop :=
  ∀ (s : State) (p : Path) (v : Word),
    (Accepted s p Reg.NEB_SEED_XOR → ∃ t, exec (.registerWrite p .bar0 Reg.NEB_SEED_XOR 8 v) s = .next t
      ∧ t.reg Reg.NEB_SEED_XOR = v ∧ RegsBut s t [Reg.NEB_SEED_XOR] ∧ OnlyRegs s t) ∧
    (∀ off, off % 8 = 0 → off ≠ Reg.GLB_OWN_CMD → s.tripped = false → s.pathUp p = true → s.twilight = false →
      s.boot.inReset = false → s.refusedStart = false → pathCode p ≠ 0 → pathCode p ≠ s.owner →
      ∃ t, exec (.registerWrite p .bar0 off 8 v) s = .next t ∧ Counts s t Reg.GLB_CNT_NOT_OWNER 1
        ∧ RegsBut s t [Reg.GLB_CNT_NOT_OWNER] ∧ OnlyRegs s t) ∧
    (∀ off size, size ≠ 8 ∨ off % 8 ≠ 0 → ∃ t, exec (.registerWrite p .bar0 off size v) s = .next t
      ∧ { t with tally := s.tally } = s) ∧
    (∀ i, s.alive = true → s.pathUp (.vf i) = true → ∃ t, exec (.registerWrite (.vf i) .bar0 0x20010 8 v) s = .next t
      ∧ t.vfld (.vf i) Reg.WIN_SEL 0 20 = bits v 0 20 ∧ RegsBut s t [pathAt (.vf i) Reg.WIN_SEL] ∧ OnlyRegs s t) ∧
    (∀ r : BitVec 14, s.bellPath p = true →
      exec (.registerWrite p .bar2 (0x40 * r.toNat) 8 v) s = exec (.doorbell p r v true) s) ∧
    (∀ slot, s.pioPath p = true → exec (.registerWrite p .pio (8192 * slot + 0x1000) 8 v) s = exec (.pioTrigger p slot v) s) ∧
    (s.alive = true → ∃ t, exec (.mctpRead (BitVec.ofNat 32 Reg.NEB_SEED_XOR)) s = .next t
      ∧ t.out = s.out ++ [.mctp 0 (s.reg Reg.NEB_SEED_XOR)] ∧ { t with out := [] } = { s with out := [] }) ∧
    (∀ off, s.tripped = false → off.toNat % 8 ≠ 0 ∨ 0x200000 ≤ off.toNat → ∃ t, exec (.mctpRead off) s = .next t
      ∧ t.out = s.out ++ [.mctp 2 0] ∧ { t with out := [] } = { s with out := [] }) ∧
    (Accepted s .bmc Reg.NEB_SEED_XOR → ∃ t, exec (.mctpWrite (BitVec.ofNat 32 Reg.NEB_SEED_XOR) v) s = .next t
      ∧ t.reg Reg.NEB_SEED_XOR = v ∧ RegsBut s t [Reg.NEB_SEED_XOR] ∧ t.out = s.out ++ [.mctp 0 0]) ∧
    (s.alive = true → s.owner ≠ 2 → ∃ t, exec (.mctpWrite (BitVec.ofNat 32 Reg.NEB_SEED_XOR) v) s = .next t
      ∧ Counts s t Reg.GLB_CNT_NOT_OWNER 1 ∧ RegsBut s t [Reg.GLB_CNT_NOT_OWNER] ∧ t.out = s.out ++ [.mctp 1 0])

/-- R326 to R329, R341: the commands on instances. A destroy with hold bits does nothing but show them; one without takes the
instance's contexts and its configuration and disables its fault queue. -/
def Obligations.InstanceCommands : Prop :=
  ∀ (s : State) (p : Path), Accepted s p Reg.XLT_INST_CMD →
    let i := s.instSel
    let b : BitVec 8 := BitVec.ofNat 8 i
    let c := s.instStaged
    let failed (o : Out) (st : Status) (h : Nat) : Prop := ∃ t, o = .next t ∧ InstEnds t st h ∧ t.insts = s.insts
      ∧ RegsBut s t [Reg.XLT_INST_RESULT] ∧ OnlyRegs s t
    (i ≠ 0 → tget none s.insts i = none → (∀ o ∈ s.others, bits o.c0 0 20 ≠ bits c.c0 0 20) → s.overRange c = false →
      ∃ t, exec (.instanceCreate p) s = .next t ∧ InstEnds t St.ok 0 ∧ tget none t.insts i = some c
        ∧ (∀ j, j ≠ i → tget none t.insts j = tget none s.insts j) ∧ RegsBut s t [Reg.XLT_INST_RESULT] ∧ SameStores s t) ∧
    (i = 0 ∨ (tget none s.insts i).isSome = true ∨ (∃ o ∈ s.others, bits o.c0 0 20 = bits c.c0 0 20) →
      failed (exec (.instanceCreate p) s) St.badDescriptor 0) ∧
    (i ≠ 0 → tget none s.insts i = none → (∀ o ∈ s.others, bits o.c0 0 20 ≠ bits c.c0 0 20) → s.overRange c = true →
      failed (exec (.instanceCreate p) s) St.resourceLimit 0) ∧
    (i ≠ 0 → (tget none s.insts i).isSome = true → s.holdBits b = 0 →
      ∃ t, exec (.instanceDestroy p) s = .next t ∧ InstEnds t St.ok 0 ∧ tget none t.insts i = none
        ∧ (∀ j, j ≠ i → tget none t.insts j = tget none s.insts j)
        ∧ (∀ k, (t.ctx k).valid = true → (t.ctx k).inst ≠ b) ∧ t.flag (Reg.RING_FQ_CTRL i) 0 = false ∧ SameStores s t) ∧
    (i ≠ 0 → (tget none s.insts i).isSome = true → s.holdBits b ≠ 0 →
      failed (exec (.instanceDestroy p) s) St.quiesceRequired (s.holdBits b)) ∧
    (i = 0 ∨ tget none s.insts i = none → failed (exec (.instanceDestroy p) s) St.badDescriptor 0) ∧
    (∀ x, tget none s.insts i = some x → ∃ t, exec (.instanceRead p) s = .next t ∧ InstEnds t St.ok 0 ∧ t.insts = s.insts
      ∧ [t.reg Reg.XLT_INST_CFG0, t.reg Reg.XLT_INST_CFG1, t.reg Reg.XLT_INST_CFG2, t.reg Reg.XLT_INST_CFG3,
          t.reg Reg.XLT_INST_CFG4, t.reg Reg.XLT_INST_CFG5, t.reg Reg.XLT_INST_CFG6]
        = [x.c0, x.c1, x.c2, x.c3, x.c4, x.c5, x.c6] ∧ OnlyRegs s t) ∧
    (s.instExists b = true → failed (exec (.instanceQuery p) s) St.ok (s.holdBits b)) ∧
    (s.instExists b = false → failed (exec (.instanceQuery p) s) St.badDescriptor 0)

/-- Commits of memory regions and the test commands of adapter memory. Both of `RegionCommits`, `MemoryTestCommands`. -/
def Obligations.RegionsAndMemoryTests : Prop :=
  Sys2Proof.Claims.RegionCommits ∧ Sys2Proof.Claims.MemoryTestCommands

/-- R364 to R369: the scrubbers. A corrected word is written back, an uncorrectable one stored as poison while that is enabled; a
pass over a channel counts; an uncorrectable word of the semaphore store poisons its semaphores. -/
def Obligations.Scrubbing : Prop :=
  ∀ (s : State), s.alive = true →
    (∀ c : Fin 12, s.flag Reg.MEM_STATUS 0 = true → s.flag Reg.MEM_CTRL 0 = true → c.val < s.fld Reg.MEM_STATUS 1 4 →
      let k := tget 0 s.scrub c.val
      let w := s.channelWord c.val k
      ∃ t, exec (.patrolScrub c) s = .next t
        ∧ tget 0 t.scrub c.val = (if k + 1 < s.channelWords then k + 1 else 0)
        ∧ Counts s t (Reg.MEM_CNT 5) (if k + 1 < s.channelWords then 0 else 1)
        ∧ (∀ bs, s.decodeWord w = .good bs 0 → t.mem = s.mem ∧ t.raw = s.raw ∧ RegsBut s t [Reg.MEM_CNT 5])
        ∧ (∀ bs n, bs.length = 32 → s.decodeWord w = .good bs (n + 1) → t.decodeWord w = .good bs 0
            ∧ Counts s t (Reg.MEM_CNT 0) 1 ∧ Counts s t (Reg.MEM_CNT 3) 1)
        ∧ (s.decodeWord w = .poison → t.mem = s.mem ∧ t.raw = s.raw ∧ Counts s t (Reg.MEM_CNT 1) 1
            ∧ Counts s t (Reg.MEM_CNT 2) 1)
        ∧ (∀ d, s.decodeWord w = .bad d → Counts s t (Reg.MEM_CNT 1) 1 ∧ Counts s t (Reg.MEM_CNT 4) 1
            ∧ tget none t.raw w = (if s.flag Reg.MEM_CTRL 2 then some ⟨d, poisonCheck d⟩ else tget none s.raw w))
        ∧ t.tmem = s.tmem ∧ t.nbuf = s.nbuf ∧ t.sems = s.sems ∧ t.slots = s.slots) ∧
    (∀ c : Fin 12, s.flag Reg.MEM_STATUS 0 = false ∨ s.flag Reg.MEM_CTRL 0 = false ∨ s.fld Reg.MEM_STATUS 1 4 ≤ c.val →
      exec (.patrolScrub c) s = .next s) ∧
    (∀ loc, exec (.sramScrub loc .clean) s = .next s ∧
      (∃ t, exec (.sramScrub loc .corrected) s = .next t ∧ Counts s t (Reg.MEM_CNT 9) 1 ∧ RegsBut s t [Reg.MEM_CNT 9]
        ∧ OnlyRegs s t)) ∧
    (∃ t, exec (.sramScrub .other .uncorrectable) s = .next t ∧ Counts s t (Reg.MEM_CNT 10) 1 ∧ RegsBut s t [Reg.MEM_CNT 10]
      ∧ OnlyRegs s t) ∧
    (∀ k : BitVec 14, ∃ t, exec (.sramScrub (.sem k) .uncorrectable) s = .next t ∧ Counts s t (Reg.MEM_CNT 10) 1
      ∧ (∀ j, tget false t.poison j = (decide (j = k.toNat) || tget false s.poison j))
      ∧ Counts s t Reg.SEM_CNT_POISON (if tget false s.poison k.toNat then 0 else 1) ∧ SameStores s t)

/-- What cold and warm resets leave, and what refuses a warm reset. Both of `ColdResets`, `WarmResets`. -/
def Obligations.Resets : Prop :=
  Sys2Proof.Claims.ColdResets ∧ Sys2Proof.Claims.WarmResets

/-- R387, R389, R391: the start-up test ends and training starts; what finishes training is recorded; the window's close ends the
training of every link that still trains. -/
def Obligations.TrainingRuns : Prop :=
  ∀ (s : State), s.tripped = false → s.twilight = false →
    (∀ r, s.bootState = 0 → ∃ t, exec (.startupTestDone r) s = .next t ∧ t.bootState = 1 ∧ t.boot.test = r.bad
      ∧ t.boot.trainAt = s.ps ∧ t.boot.closed = false ∧ t.boot.decided = false ∧ SameStores s t) ∧
    (∀ r, s.bootState ≠ 0 → exec (.startupTestDone r) s = .next s) ∧
    (s.training = true →
      (∀ (n : Fin 6) m, popcount m ≤ s.slices n → (∃ k : Fin 4, (s.sub n k).downAt.isSome = true) →
        ∃ t, exec (.linkUp (.fabric n m)) s = .next t ∧ tget 0 t.boot.fabLanes n.val = m ∧ t.bootState = 1 ∧ SameStores s t) ∧
      (∀ (q : Fin 4) w rate, s.attMay q.val = true → w = 8 ∨ w = 16 → rate ≠ 0 → tget 0 s.boot.attWidth q.val = 0 →
        ∃ t, exec (.linkUp (.attach q w rate)) s = .next t ∧ tget 0 t.boot.attWidth q.val = w
          ∧ tget 0 t.boot.attRate q.val = rate.val ∧ t.bootState = 1 ∧ SameStores s t) ∧
      (∀ (c : Fin 12) m, s.badUnits.mem.getLsbD c.val = false → ∃ t, exec (.linkUp (.memory c m)) s = .next t
        ∧ tget none t.boot.modules c.val = some m
        ∧ Counts s t (Reg.MEM_CNT 11) (if s.boot.full && m.present then m.ppr else 0) ∧ t.bootState = 1 ∧ SameStores s t) ∧
      (s.boot.trainAt + 1000000000 * s.boot.window ≤ s.ps → ∃ t, exec .trainWindowExpiry s = .next t ∧ t.boot.closed = true
        ∧ (∀ (n : Fin 6) (k : Fin 4), (s.sub n k).downAt.isSome = true → (t.sub n k).link = .absent ∧ (t.sub n k).lanes = 0)
        ∧ t.bootState = 1 ∧ SameStores s t) ∧
      (s.ps < s.boot.trainAt + 1000000000 * s.boot.window → exec .trainWindowExpiry s = .next s))

/-- The profile is settled by the fallback; memory is zeroed or kept and the reset ends. Both of `ProfileSettled`, `MemoryReady`. -/
def Obligations.StartUpSettles : Prop :=
  Sys2Proof.Claims.ProfileSettled ∧ Sys2Proof.Claims.MemoryReady

/-- Firmware loads from a stream or a memory outside, is authenticated and starts. Both of `FirmwareLoads`, `FirmwareStarts`. -/
def Obligations.Firmware : Prop :=
  Sys2Proof.Claims.FirmwareLoads ∧ Sys2Proof.Claims.FirmwareStarts

/-- Fuses blow only under their conditions; a key slot in use takes no new key and is not erased. Both of `FuseCommands`, `KeyCommands`. -/
def Obligations.FusesAndKeys : Prop :=
  Sys2Proof.Claims.FuseCommands ∧ Sys2Proof.Claims.KeyCommands

/-- R404 to R406, R432: the answers to SPDM requests. Outside RUNNING all but the first two draw Busy, and in Twilight all. -/
def Obligations.SpdmRequests : Prop :=
  ∀ (s : State), s.tripped = false →
    (s.twilight = false → Answers s .version (exec .getVersion s) ∧ Answers s .capabilities (exec .getCapabilities s)) ∧
    (s.twilight = false → s.running = true →
      (∀ a h m, Answers s (.algorithms a h m) (exec (.negotiateAlgorithms a h m) s)) ∧
      Answers s (.digests (Config.sha512 s.chain)) (exec .getDigests s) ∧
      (∀ off len, off ≤ s.chain.length → ∃ q r, Answers s (.certificate q r) (exec (.getCertificate 0 off len) s)
        ∧ q = (s.chain.drop off).take len ∧ off + q.length + r = s.chain.length) ∧
      (∀ nonce, ∃ sig, Answers s (.challenge (Config.sha512 s.chain) nonce sig) (exec (.challenge 0 nonce) s)) ∧
      (∀ slot off len, slot ≠ 0 ∨ s.chain.length < off → Answers s .unsupported (exec (.getCertificate slot off len) s)) ∧
      (∀ slot nonce, slot ≠ 0 → Answers s .unsupported (exec (.challenge slot nonce) s)) ∧
      (∀ nonce, (∃ sig, Answers s (.measurements 5 s.measurements nonce sig) (exec (.getMeasurements 255 nonce) s)) ∧
        ∃ sig, Answers s (.measurements 5 [] nonce sig) (exec (.getMeasurements 0 nonce) s)) ∧
      (∀ b nonce, 5 < b → b ≠ 255 → Answers s .unsupported (exec (.getMeasurements b nonce) s)) ∧
      (∀ b nonce, 1 ≤ b → b ≤ 5 → ∃ bs sig, Answers s (.measurements 5 [(b, bs)] nonce sig) (exec (.getMeasurements b nonce) s))) ∧
    (s.twilight = true ∨ s.running = false →
      (∀ a h m, Answers s .busy (exec (.negotiateAlgorithms a h m) s)) ∧ Answers s .busy (exec .getDigests s) ∧
      (∀ slot off len nonce, Answers s .busy (exec (.getCertificate slot off len) s)
        ∧ Answers s .busy (exec (.challenge slot nonce) s) ∧ Answers s .busy (exec (.getMeasurements slot nonce) s))) ∧
    (s.twilight = true → Answers s .busy (exec .getVersion s) ∧ Answers s .busy (exec .getCapabilities s))

/-- Steps and discipline of Meridian time, and the tick of an empty queue. All of `TimeSteps`, `DisciplineLoop`, `EmptyQueueTicks`. -/
def Obligations.TimeMoves : Prop :=
  Sys2Proof.Claims.TimeSteps ∧ Sys2Proof.Claims.DisciplineLoop ∧ Sys2Proof.Claims.EmptyQueueTicks

/-- R198, R200 to R203: commits of the Ephemeris schedule, the swap of its banks and the copy 4,096 ck later, missed slots, and the
pulse. When a slot counts as missed is the model's choice in part (log 126: DESIGN CHOICE). -/
def Obligations.EphemerisSchedule : Prop :=
  ∀ (s : State),
    (∀ p v, Accepted s p Reg.TIME_EPH_COMMIT →
      (bit v 0 = false ∨ s.fld Reg.TIME_EPH_STATUS 0 2 ≠ 0 → ∃ t, exec (.ephemerisCommit p v) s = .next t
        ∧ { t with tally := s.tally } = s) ∧
      (bit v 0 = true → s.fld Reg.TIME_EPH_STATUS 0 2 = 0 →
        (s.reg Reg.TIME_EPH_ACT ≤ s.now → ∃ t, exec (.ephemerisCommit p v) s = .next t ∧ Swapped s t
          ∧ Counts s t Reg.TIME_EPH_LATE 1) ∧
        (s.now < s.reg Reg.TIME_EPH_ACT → ∃ t, exec (.ephemerisCommit p v) s = .next t ∧ t.flag Reg.TIME_EPH_STATUS 0 = true
          ∧ RegsBut s t [Reg.TIME_EPH_STATUS] ∧ OnlyRegs s t))) ∧
    (s.timeOn = true →
      (s.flag Reg.TIME_EPH_STATUS 0 = true → s.reg Reg.TIME_EPH_ACT ≤ s.now → ∃ t, exec .ephemerisActivate s = .next t
        ∧ Swapped s t ∧ Counts s t Reg.TIME_EPH_LATE 0) ∧
      (s.flag Reg.TIME_EPH_STATUS 0 = false ∨ s.now < s.reg Reg.TIME_EPH_ACT → exec .ephemerisActivate s = .next s) ∧
      (s.flag Reg.TIME_EPH_STATUS 1 = true → s.ephCopyAt + 4096000000 ≤ s.ck → ∃ t, exec .bankCopyComplete s = .next t ∧ t.flag Reg.TIME_EPH_STATUS 1 = false
        ∧ (∀ i, i < 4096 → let row := tget (⟨0, 0⟩ : EphRow) s.ephRows (4096 * s.fld Reg.TIME_EPH_STATUS 2 1 + i)
            tget (⟨0, 0⟩ : EphRow) t.ephRows i = row ∧ tget (⟨0, 0⟩ : EphRow) t.ephRows (4096 + i) = row)
        ∧ RegsBut s t [Reg.TIME_EPH_STATUS]) ∧
      (s.flag Reg.TIME_EPH_STATUS 1 = false ∨ s.ck < s.ephCopyAt + 4096000000 → exec .bankCopyComplete s = .next s) ∧
      (s.flag Reg.TIME_CTRL 7 = true → (s.nowNs + s.fld Reg.TIME_PPS 16 16) % 1000000000 = 0 →
        exec .ppsOutPulse s = .next { s with out := s.out ++ [.pps (s.fld Reg.TIME_PPS 0 16)] }) ∧
      ((s.nowNs + s.fld Reg.TIME_PPS 16 16) % 1000000000 ≠ 0 → exec .ppsOutPulse s = .next s)) ∧
    (s.alive = true →
      (∀ (g : Fin 16) (i : BitVec 12), let row := s.ephRow i.toNat
        let live := tget 0 s.ephLive i.toNat
        (bits row.r1 32 4 = g.val → live ≠ 0 → s.rowOpen g.val row = false → s.slotWaits g.val row live = true →
          ∃ t, exec (.slotMiss g i) s = .next t ∧ Counts s t (Reg.TIME_EPH_GRP_MISS g.val) 1
            ∧ RegsBut s t [Reg.TIME_EPH_GRP_MISS g.val] ∧ tget 0 t.ephLive i.toNat = 0
            ∧ OnlyRegs s { t with ephLive := s.ephLive }) ∧
        (live = 0 ∨ s.rowOpen g.val row = true ∨ s.slotWaits g.val row live = false → exec (.slotMiss g i) s = .next s)))

/-- The capping and thermal loops, the trip, and Twilight entry, completion and wakes. Both of `PowerLoops`, `TwilightStates`. -/
def Obligations.PowerStates : Prop :=
  Sys2Proof.Claims.PowerLoops ∧ Sys2Proof.Claims.TwilightStates

/-- R435 to R442: Tally's events. The energy of a millisecond goes to buckets by their bytes, and what rounding leaves to the idle
bucket; a record takes the next sequence number. -/
def Obligations.TallyEvents : Prop :=
  ∀ (s : State),
    (∀ uj mw fault, twf 0 s.tally.ms = true → (∀ e ∈ s.tally.ms, e.1 < 257) →
      let total := sumNat (s.tally.ms.map (·.2))
      let share (b : Nat) : Nat := uj * tget 0 s.tally.ms b / total
      ∃ t, exec (.tallyApportion uj mw fault) s = .next t ∧ OnlyTally s t ∧ t.tally.energy = s.tally.energy + BitVec.ofNat 64 uj
        ∧ t.tally.ms = [] ∧ t.tally.power = mw ∧ t.tally.sense = fault ∧ t.tally.senseIv = (s.tally.senseIv || fault)
        ∧ (∀ b, b < 257 → tget Bucket.init t.tally.live b
            = { tget Bucket.init s.tally.live b with uj := (tget Bucket.init s.tally.live b).uj + BitVec.ofNat 64 (share b) })
        ∧ (tget Bucket.init t.tally.live 257).uj = (tget Bucket.init s.tally.live 257).uj
            + BitVec.ofNat 64 (uj - sumNat ((List.range 257).map share))
        ∧ t.tally.seq = s.tally.seq ∧ t.tally.changes = s.tally.changes ∧ t.tally.starts = s.tally.starts) ∧
    (∃ t, exec .tallyRecordClose s = .next t ∧ OnlyTally s t ∧ t.tally.seq = s.tally.seq + 1 ∧ t.tally.snap = s.tally.live
      ∧ t.tally.live = s.tally.live ∧ t.tally.senseIv = false
      ∧ tget [] t.tally.recs ((s.tally.seq + 1).toNat % 16) = s.tallyRecord
      ∧ (∀ i, i ≠ (s.tally.seq + 1).toNat % 16 → tget [] t.tally.recs i = tget [] s.tally.recs i)) ∧
    (∀ period, ∃ t, exec (.tlyCalChange true period) s = .next t ∧ OnlyTally s t
      ∧ t.tally = { s.tally with changes := s.tally.changes + 1, period := period.getD s.tally.period }) ∧
    (∀ period, exec (.tlyCalChange false period) s = .next s) ∧
    (∃ t, exec .tallyPowerOn s = .next t ∧ OnlyTally s t
      ∧ t.tally = { s.tally with starts := s.tally.starts + 1, onAt := s.ps, ms := [] })

/-- Hangs, dumps, histograms, trace records and the boundary-scan port. All of `HangsDeclared`, `DumpsAndTraces`, `BoundaryScan`. -/
def Obligations.DebugEvents : Prop :=
  Sys2Proof.Claims.HangsDeclared ∧ Sys2Proof.Claims.DumpsAndTraces ∧ Sys2Proof.Claims.BoundaryScan

/-- A step takes the command at the front of the queue and carries it out with the queue's rest. -/
def Obligations.StepFrontOfQueue : Prop :=
  ∀ (s : State) (c : Instr) (cs : List Instr), s.pending = c :: cs → step s = exec c { s with pending := cs }

/-- Whatever the command, it leaves the queue alone; no command restores a fuse (R399, R403); the count of changes rises only by
a change through TLY_CAL and the count of starts only when power is applied to Tally (R439), so that no reset, warm reset
or trip touches them; the sequence number rises only when a record is closed. -/
def Obligations.KeptByEveryCommand : Prop :=
  ∀ (c : Instr) (s t : State), exec c s = .next t →
    t.pending = s.pending ∧ FusesGrow s t ∧ TallyOnly c s t

/-- Every step keeps the canonical form of the stores and the bounds, from every state that has them. -/
def Obligations.StepKeepsInvariant : Prop :=
  ∀ s t : State, StoresKept s → BoundsKept s → step s = .next t → StoresKept t ∧ BoundsKept t

/-- The state after reset has the canonical form and the bounds; nothing is queued and nothing has left the adapter. -/
def Obligations.ResetInvariants : Prop :=
  StoresKept State.reset ∧ BoundsKept State.reset ∧ State.reset.pending = [] ∧ State.reset.out = []

/-- The fields of an instruction word and the word say the same (R43): no bit is dropped either way. -/
def Obligations.WordRoundTrip : Prop :=
  (∀ (op : BitVec 8) (w : JWord), wordFields (imemWord op w) = (op, w)) ∧
  ∀ v : BitVec 128, imemWord (wordFields v).1 (wordFields v).2 = v
end

