-- ==== Sys2Proof/Laws/Tab.lean ====
section
/-!
SUPPORT. Laws of sparse tables: what a read gives after a write, and that every write keeps the canonical form.
-/

namespace Sys2Proof.Laws

open Sys2Proof.Machine

variable {α : Type}

/-! ## Reads after writes -/

/-- An inserted entry is read at its index. -/
@[simp] theorem tget_tins_self (d x : α) (t : Tab α) (i : Nat) : tget d (tins t i x) i = x := by
  induction t with
  | nil => simp [tins, tget]
  | cons e t ih =>
    obtain ⟨k, v⟩ := e
    by_cases h1 : i < k
    · simp [tins, h1, tget]
    · by_cases h2 : k = i
      · simp [tins, h2, tget]
      · simp [tins, h1, h2, tget, ih]

/-- An insertion leaves every other index alone. -/
theorem tget_tins_ne (d x : α) (t : Tab α) (i j : Nat) (h : j ≠ i) : tget d (tins t i x) j = tget d t j := by
  induction t with
  | nil => simp [tins, tget, Ne.symm h]
  | cons e t ih =>
    obtain ⟨k, v⟩ := e
    by_cases h1 : i < k
    · simp [tins, h1, tget, Ne.symm h]
    · by_cases h2 : k = i
      · have h3 : k ≠ j := fun e => h (e ▸ h2)
        simp [tins, h2, tget, Ne.symm h]
      · by_cases h4 : k = j
        · subst h4; simp [tins, h1, h2, tget]
        · simp [tins, h1, h2, tget, h4, ih]

/-- An index that a filter removes reads as the default. -/
theorem tget_filter_self (d : α) (t : Tab α) (i : Nat) : tget d (t.filter (fun e => e.1 ≠ i)) i = d := by
  induction t with
  | nil => rfl
  | cons e t ih =>
    obtain ⟨k, v⟩ := e
    by_cases h : k = i
    · simp [h] at ih ⊢; exact ih
    · simp [h, tget] at ih ⊢; exact ih

/-- Removing one index leaves every other alone. -/
theorem tget_filter_ne (d : α) (t : Tab α) (i j : Nat) (h : j ≠ i) :
    tget d (t.filter (fun e => e.1 ≠ i)) j = tget d t j := by
  induction t with
  | nil => rfl
  | cons e t ih =>
    obtain ⟨k, v⟩ := e
    by_cases h1 : k = i
    · have h2 : ¬ i = j := fun e => h e.symm
      simp [h1, tget, h2] at ih ⊢; exact ih
    · by_cases h3 : k = j
      · subst h3; simp [h1, tget]
      · simp [h1, tget, h3] at ih ⊢; exact ih

/-- A read after a write to the same index gives the value written. -/
@[simp] theorem tget_tset_self [DecidableEq α] (d x : α) (t : Tab α) (i : Nat) : tget d (tset d t i x) i = x := by
  unfold tset
  by_cases h : x = d
  · simp only [h, if_true]; exact tget_filter_self d t i
  · simp [h]

/-- A write leaves every other index alone. -/
theorem tget_tset_ne [DecidableEq α] (d x : α) (t : Tab α) (i j : Nat) (h : j ≠ i) :
    tget d (tset d t i x) j = tget d t j := by
  unfold tset
  by_cases hx : x = d
  · simp only [hx, if_true]; exact tget_filter_ne d t i j h
  · simp only [hx, if_false]; exact tget_tins_ne d x t i j h

/-- A read after a write, at any index. -/
theorem tget_tset [DecidableEq α] (d x : α) (t : Tab α) (i j : Nat) :
    tget d (tset d t i x) j = if j = i then x else tget d t j := by
  by_cases h : j = i
  · subst h; simp
  · simp [h, tget_tset_ne d x t i j h]

/-! ## The canonical form -/

/-- Indices that rise above a bound rise above any lower one. -/
theorem rising_mono (t : Tab α) (m n : Nat) (h : m ≤ n) (hr : rising n t = true) : rising m t = true := by
  cases t with
  | nil => rfl
  | cons e t => obtain ⟨k, v⟩ := e; simp [rising] at hr ⊢; exact ⟨by omega, hr.2⟩

/-- Filtering keeps rising indices. -/
theorem rising_filter (p : Nat × α → Bool) (t : Tab α) (n : Nat) (h : rising n t = true) : rising n (t.filter p) = true := by
  induction t generalizing n with
  | nil => rfl
  | cons e t ih =>
    obtain ⟨k, v⟩ := e
    simp [rising] at h
    by_cases hp : p (k, v) = true
    · simp [hp, rising, h.1]; exact ih _ h.2
    · simp [hp]; exact rising_mono _ n (k + 1) (by omega) (ih _ h.2)

/-- Inserting keeps rising indices. -/
theorem rising_tins (t : Tab α) (n i : Nat) (x : α) (hn : n ≤ i) (h : rising n t = true) : rising n (tins t i x) = true := by
  induction t generalizing n with
  | nil => simp [tins, rising, hn]
  | cons e t ih =>
    obtain ⟨k, v⟩ := e
    simp [rising] at h
    by_cases h1 : i < k
    · simp only [tins, h1, if_true, rising]; simp [h.2, hn]; omega
    · by_cases h2 : k = i
      · subst h2; simp [tins, rising, h.1, h.2]
      · simp [tins, h1, h2, rising, h.1]; exact ih _ (by omega) h.2

/-- Every entry of a table with an insertion is the inserted one or was there. -/
theorem mem_tins (t : Tab α) (i : Nat) (x : α) (e : Nat × α) (h : e ∈ tins t i x) : e = (i, x) ∨ e ∈ t := by
  induction t with
  | nil => simp [tins] at h; exact .inl h
  | cons f t ih =>
    obtain ⟨k, v⟩ := f
    by_cases h1 : i < k
    · simp [tins, h1] at h; simp; tauto
    · by_cases h2 : k = i
      · simp [tins, h2] at h; simp; tauto
      · simp [tins, h1, h2] at h
        rcases h with h | h
        · simp [h]
        · rcases ih h with h | h <;> simp [h]

/-- The empty table is canonical. -/
@[simp] theorem twf_nil [DecidableEq α] (d : α) : twf d ([] : Tab α) = true := rfl

/-- Every write keeps the canonical form. -/
theorem twf_tset [DecidableEq α] (d x : α) (t : Tab α) (i : Nat) (h : twf d t = true) : twf d (tset d t i x) = true := by
  simp only [twf, Bool.and_eq_true, List.all_eq_true, decide_eq_true_eq] at h ⊢
  by_cases hx : x = d
  · simp only [tset, hx, if_true]
    exact ⟨rising_filter _ _ _ h.1, fun e he => h.2 e (List.mem_of_mem_filter he)⟩
  · simp only [tset, hx, if_false]
    refine ⟨rising_tins _ _ _ _ (Nat.zero_le i) h.1, fun e he => ?_⟩
    rcases mem_tins _ _ _ _ he with he | he
    · simp [he, hx]
    · exact h.2 e he

/-- Filtering keeps the canonical form. -/
theorem twf_filter [DecidableEq α] (d : α) (p : Nat × α → Bool) (t : Tab α) (h : twf d t = true) :
    twf d (t.filter p) = true := by
  simp only [twf, Bool.and_eq_true, List.all_eq_true, decide_eq_true_eq] at h ⊢
  exact ⟨rising_filter _ _ _ h.1, fun e he => h.2 e (List.mem_of_mem_filter he)⟩

/-- Every update of one entry keeps the canonical form. -/
theorem twf_tupd [DecidableEq α] (d : α) (t : Tab α) (i : Nat) (f : α → α) (h : twf d t = true) :
    twf d (tupd d t i f) = true := twf_tset _ _ _ _ h

/-- A read of a canonical table below its first index gives the default. -/
theorem tget_below (d : α) (t : Tab α) (n i : Nat) (hi : i < n) (h : rising n t = true) : tget d t i = d := by
  induction t generalizing n with
  | nil => rfl
  | cons e t ih =>
    obtain ⟨k, v⟩ := e
    simp [rising] at h
    have : k ≠ i := by omega
    simp [tget, this]; exact ih (k + 1) (by omega) h.2

/-- Equal contents are equal data: two canonical tables that read alike everywhere are equal. -/
theorem twf_ext [DecidableEq α] (d : α) (t u : Tab α) (ht : twf d t = true) (hu : twf d u = true)
    (h : ∀ i, tget d t i = tget d u i) : t = u := by
  suffices H : ∀ n, rising n t = true → rising n u = true → (∀ e ∈ t, e.2 ≠ d) → (∀ e ∈ u, e.2 ≠ d) → t = u by
    simp only [twf, Bool.and_eq_true, List.all_eq_true, decide_eq_true_eq] at ht hu
    exact H 0 ht.1 hu.1 ht.2 hu.2
  clear ht hu
  induction t generalizing u with
  | nil =>
    intro n _ hu _ hud
    cases u with
    | nil => rfl
    | cons e u =>
      obtain ⟨k, v⟩ := e
      have := h k
      simp [tget] at this
      exact absurd this.symm (hud (k, v) (by simp))
  | cons e t ih =>
    obtain ⟨k, v⟩ := e
    intro n ht hu htd hud
    cases u with
    | nil =>
      have := h k
      simp [tget] at this
      exact absurd this (htd (k, v) (by simp))
    | cons f u =>
      obtain ⟨l, w⟩ := f
      simp [rising] at ht hu
      have hkl : k = l := by
        rcases Nat.lt_trichotomy k l with hlt | heq | hlt
        · have h1 := h k
          rw [show tget d ((l, w) :: u) k = d by
            have : l ≠ k := by omega
            simp [tget, this]; exact tget_below d u (l + 1) k (by omega) hu.2] at h1
          simp [tget] at h1
          exact absurd h1 (htd (k, v) (by simp))
        · exact heq
        · have h1 := h l
          rw [show tget d ((k, v) :: t) l = d by
            have : k ≠ l := by omega
            simp [tget, this]; exact tget_below d t (k + 1) l (by omega) ht.2] at h1
          simp [tget] at h1
          exact absurd h1.symm (hud (l, w) (by simp))
      subst hkl
      have hv : v = w := by have := h k; simpa [tget] using this
      subst hv
      have : t = u := by
        apply ih u ?_ (k + 1) ht.2 hu.2 (fun e he => htd e (by simp [he])) (fun e he => hud e (by simp [he]))
        intro i
        have hi := h i
        by_cases hk : k = i
        · subst hk
          rw [tget_below d t (k + 1) k (by omega) ht.2, tget_below d u (k + 1) k (by omega) hu.2]
        · simpa [tget, hk] using hi
      subst this; rfl

end Sys2Proof.Laws
end

