-- ==== Sys2Proof/Laws/State.lean ====
section
/-!
SUPPORT. What the updates of the state that every command is built from leave alone, one lemma for each field and update,
and what a read gives after a write of the same store.
-/

namespace Sys2Proof.Laws

open Sys2Proof.Machine

variable (s : State)

/-! ## Setting a register changes regs alone -/

@[simp] theorem setReg_pending (a : Nat) (v : Word) : (s.setReg a v).pending = s.pending := rfl
@[simp] theorem setReg_free (a : Nat) (v : Word) : (s.setReg a v).free = s.free := rfl
@[simp] theorem setReg_out (a : Nat) (v : Word) : (s.setReg a v).out = s.out := rfl
@[simp] theorem setReg_fresh (a : Nat) (v : Word) : (s.setReg a v).fresh = s.fresh := rfl
@[simp] theorem setReg_ps (a : Nat) (v : Word) : (s.setReg a v).ps = s.ps := rfl
@[simp] theorem setReg_ck (a : Nat) (v : Word) : (s.setReg a v).ck = s.ck := rfl
@[simp] theorem setReg_shadow (a : Nat) (v : Word) : (s.setReg a v).shadow = s.shadow := rfl
@[simp] theorem setReg_ownRes (a : Nat) (v : Word) : (s.setReg a v).ownRes = s.ownRes := rfl
@[simp] theorem setReg_leaseAt (a : Nat) (v : Word) : (s.setReg a v).leaseAt = s.leaseAt := rfl
@[simp] theorem setReg_mem (a : Nat) (v : Word) : (s.setReg a v).mem = s.mem := rfl
@[simp] theorem setReg_raw (a : Nat) (v : Word) : (s.setReg a v).raw = s.raw := rfl
@[simp] theorem setReg_tmem (a : Nat) (v : Word) : (s.setReg a v).tmem = s.tmem := rfl
@[simp] theorem setReg_nbuf (a : Nat) (v : Word) : (s.setReg a v).nbuf = s.nbuf := rfl
@[simp] theorem setReg_pio (a : Nat) (v : Word) : (s.setReg a v).pio = s.pio := rfl
@[simp] theorem setReg_slots (a : Nat) (v : Word) : (s.setReg a v).slots = s.slots := rfl
@[simp] theorem setReg_images (a : Nat) (v : Word) : (s.setReg a v).images = s.images := rfl
@[simp] theorem setReg_ops (a : Nat) (v : Word) : (s.setReg a v).ops = s.ops := rfl
@[simp] theorem setReg_jobs (a : Nat) (v : Word) : (s.setReg a v).jobs = s.jobs := rfl
@[simp] theorem setReg_arrSeq (a : Nat) (v : Word) : (s.setReg a v).arrSeq = s.arrSeq := rfl
@[simp] theorem setReg_armed (a : Nat) (v : Word) : (s.setReg a v).armed = s.armed := rfl
@[simp] theorem setReg_laneMap (a : Nat) (v : Word) : (s.setReg a v).laneMap = s.laneMap := rfl
@[simp] theorem setReg_reads (a : Nat) (v : Word) : (s.setReg a v).reads = s.reads := rfl
@[simp] theorem setReg_writes (a : Nat) (v : Word) : (s.setReg a v).writes = s.writes := rfl
@[simp] theorem setReg_atc (a : Nat) (v : Word) : (s.setReg a v).atc = s.atc := rfl
@[simp] theorem setReg_xlating (a : Nat) (v : Word) : (s.setReg a v).xlating = s.xlating := rfl
@[simp] theorem setReg_pages (a : Nat) (v : Word) : (s.setReg a v).pages = s.pages := rfl
@[simp] theorem setReg_priStop (a : Nat) (v : Word) : (s.setReg a v).priStop = s.priStop := rfl
@[simp] theorem setReg_invals (a : Nat) (v : Word) : (s.setReg a v).invals = s.invals := rfl
@[simp] theorem setReg_sems (a : Nat) (v : Word) : (s.setReg a v).sems = s.sems := rfl
@[simp] theorem setReg_poison (a : Nat) (v : Word) : (s.setReg a v).poison = s.poison := rfl
@[simp] theorem setReg_zeroing (a : Nat) (v : Word) : (s.setReg a v).zeroing = s.zeroing := rfl
@[simp] theorem setReg_semHeld (a : Nat) (v : Word) : (s.setReg a v).semHeld = s.semHeld := rfl
@[simp] theorem setReg_rings (a : Nat) (v : Word) : (s.setReg a v).rings = s.rings := rfl
@[simp] theorem setReg_sched (a : Nat) (v : Word) : (s.setReg a v).sched = s.sched := rfl
@[simp] theorem setReg_fqs (a : Nat) (v : Word) : (s.setReg a v).fqs = s.fqs := rfl
@[simp] theorem setReg_ctxs (a : Nat) (v : Word) : (s.setReg a v).ctxs = s.ctxs := rfl
@[simp] theorem setReg_txq (a : Nat) (v : Word) : (s.setReg a v).txq = s.txq := rfl
@[simp] theorem setReg_srecs (a : Nat) (v : Word) : (s.setReg a v).srecs = s.srecs := rfl
@[simp] theorem setReg_rrecs (a : Nat) (v : Word) : (s.setReg a v).rrecs = s.rrecs := rfl
@[simp] theorem setReg_trackers (a : Nat) (v : Word) : (s.setReg a v).trackers = s.trackers := rfl
@[simp] theorem setReg_parked (a : Nat) (v : Word) : (s.setReg a v).parked = s.parked := rfl
@[simp] theorem setReg_loop (a : Nat) (v : Word) : (s.setReg a v).loop = s.loop := rfl
@[simp] theorem setReg_nextMsg (a : Nat) (v : Word) : (s.setReg a v).nextMsg = s.nextMsg := rfl
@[simp] theorem setReg_msgCount (a : Nat) (v : Word) : (s.setReg a v).msgCount = s.msgCount := rfl
@[simp] theorem setReg_debt (a : Nat) (v : Word) : (s.setReg a v).debt = s.debt := rfl
@[simp] theorem setReg_debtAt (a : Nat) (v : Word) : (s.setReg a v).debtAt = s.debtAt := rfl
@[simp] theorem setReg_lifeOld (a : Nat) (v : Word) : (s.setReg a v).lifeOld = s.lifeOld := rfl
@[simp] theorem setReg_posted (a : Nat) (v : Word) : (s.setReg a v).posted = s.posted := rfl
@[simp] theorem setReg_wins (a : Nat) (v : Word) : (s.setReg a v).wins = s.wins := rfl
@[simp] theorem setReg_insts (a : Nat) (v : Word) : (s.setReg a v).insts = s.insts := rfl
@[simp] theorem setReg_fns (a : Nat) (v : Word) : (s.setReg a v).fns = s.fns := rfl
@[simp] theorem setReg_vfEn (a : Nat) (v : Word) : (s.setReg a v).vfEn = s.vfEn := rfl
@[simp] theorem setReg_numVfs (a : Nat) (v : Word) : (s.setReg a v).numVfs = s.numVfs := rfl
@[simp] theorem setReg_priAlloc (a : Nat) (v : Word) : (s.setReg a v).priAlloc = s.priAlloc := rfl
@[simp] theorem setReg_cxlMem (a : Nat) (v : Word) : (s.setReg a v).cxlMem = s.cxlMem := rfl
@[simp] theorem setReg_msixTab (a : Nat) (v : Word) : (s.setReg a v).msixTab = s.msixTab := rfl
@[simp] theorem setReg_msixPend (a : Nat) (v : Word) : (s.setReg a v).msixPend = s.msixPend := rfl
@[simp] theorem setReg_filter (a : Nat) (v : Word) : (s.setReg a v).filter = s.filter := rfl
@[simp] theorem setReg_freeing (a : Nat) (v : Word) : (s.setReg a v).freeing = s.freeing := rfl
@[simp] theorem setReg_mcs (a : Nat) (v : Word) : (s.setReg a v).mcs = s.mcs := rfl
@[simp] theorem setReg_split (a : Nat) (v : Word) : (s.setReg a v).split = s.split := rfl
@[simp] theorem setReg_subs (a : Nat) (v : Word) : (s.setReg a v).subs = s.subs := rfl
@[simp] theorem setReg_ingress (a : Nat) (v : Word) : (s.setReg a v).ingress = s.ingress := rfl
@[simp] theorem setReg_fwdWrr (a : Nat) (v : Word) : (s.setReg a v).fwdWrr = s.fwdWrr := rfl
@[simp] theorem setReg_time (a : Nat) (v : Word) : (s.setReg a v).time = s.time := rfl
@[simp] theorem setReg_ephRows (a : Nat) (v : Word) : (s.setReg a v).ephRows = s.ephRows := rfl
@[simp] theorem setReg_ephLive (a : Nat) (v : Word) : (s.setReg a v).ephLive = s.ephLive := rfl
@[simp] theorem setReg_ephCopyAt (a : Nat) (v : Word) : (s.setReg a v).ephCopyAt = s.ephCopyAt := rfl
@[simp] theorem setReg_keys (a : Nat) (v : Word) : (s.setReg a v).keys = s.keys := rfl
@[simp] theorem setReg_cores (a : Nat) (v : Word) : (s.setReg a v).cores = s.cores := rfl
@[simp] theorem setReg_cipherQ (a : Nat) (v : Word) : (s.setReg a v).cipherQ = s.cipherQ := rfl
@[simp] theorem setReg_wraps (a : Nat) (v : Word) : (s.setReg a v).wraps = s.wraps := rfl
@[simp] theorem setReg_boot (a : Nat) (v : Word) : (s.setReg a v).boot = s.boot := rfl
@[simp] theorem setReg_fuses (a : Nat) (v : Word) : (s.setReg a v).fuses = s.fuses := rfl
@[simp] theorem setReg_saved (a : Nat) (v : Word) : (s.setReg a v).saved = s.saved := rfl
@[simp] theorem setReg_wakeHeld (a : Nat) (v : Word) : (s.setReg a v).wakeHeld = s.wakeHeld := rfl
@[simp] theorem setReg_tripped (a : Nat) (v : Word) : (s.setReg a v).tripped = s.tripped := rfl
@[simp] theorem setReg_capOk (a : Nat) (v : Word) : (s.setReg a v).capOk = s.capOk := rfl
@[simp] theorem setReg_scrub (a : Nat) (v : Word) : (s.setReg a v).scrub = s.scrub := rfl
@[simp] theorem setReg_tally (a : Nat) (v : Word) : (s.setReg a v).tally = s.tally := rfl
@[simp] theorem setReg_comet (a : Nat) (v : Word) : (s.setReg a v).comet = s.comet := rfl
@[simp] theorem setReg_night (a : Nat) (v : Word) : (s.setReg a v).night = s.night := rfl
@[simp] theorem setReg_jtag (a : Nat) (v : Word) : (s.setReg a v).jtag = s.jtag := rfl

/-! ## Setting a field of a register changes regs alone -/

@[simp] theorem setFld_pending (a lo w v : Nat) : (s.setFld a lo w v).pending = s.pending := rfl
@[simp] theorem setFld_free (a lo w v : Nat) : (s.setFld a lo w v).free = s.free := rfl
@[simp] theorem setFld_out (a lo w v : Nat) : (s.setFld a lo w v).out = s.out := rfl
@[simp] theorem setFld_fresh (a lo w v : Nat) : (s.setFld a lo w v).fresh = s.fresh := rfl
@[simp] theorem setFld_ps (a lo w v : Nat) : (s.setFld a lo w v).ps = s.ps := rfl
@[simp] theorem setFld_ck (a lo w v : Nat) : (s.setFld a lo w v).ck = s.ck := rfl
@[simp] theorem setFld_shadow (a lo w v : Nat) : (s.setFld a lo w v).shadow = s.shadow := rfl
@[simp] theorem setFld_ownRes (a lo w v : Nat) : (s.setFld a lo w v).ownRes = s.ownRes := rfl
@[simp] theorem setFld_leaseAt (a lo w v : Nat) : (s.setFld a lo w v).leaseAt = s.leaseAt := rfl
@[simp] theorem setFld_mem (a lo w v : Nat) : (s.setFld a lo w v).mem = s.mem := rfl
@[simp] theorem setFld_raw (a lo w v : Nat) : (s.setFld a lo w v).raw = s.raw := rfl
@[simp] theorem setFld_tmem (a lo w v : Nat) : (s.setFld a lo w v).tmem = s.tmem := rfl
@[simp] theorem setFld_nbuf (a lo w v : Nat) : (s.setFld a lo w v).nbuf = s.nbuf := rfl
@[simp] theorem setFld_pio (a lo w v : Nat) : (s.setFld a lo w v).pio = s.pio := rfl
@[simp] theorem setFld_slots (a lo w v : Nat) : (s.setFld a lo w v).slots = s.slots := rfl
@[simp] theorem setFld_images (a lo w v : Nat) : (s.setFld a lo w v).images = s.images := rfl
@[simp] theorem setFld_ops (a lo w v : Nat) : (s.setFld a lo w v).ops = s.ops := rfl
@[simp] theorem setFld_jobs (a lo w v : Nat) : (s.setFld a lo w v).jobs = s.jobs := rfl
@[simp] theorem setFld_arrSeq (a lo w v : Nat) : (s.setFld a lo w v).arrSeq = s.arrSeq := rfl
@[simp] theorem setFld_armed (a lo w v : Nat) : (s.setFld a lo w v).armed = s.armed := rfl
@[simp] theorem setFld_laneMap (a lo w v : Nat) : (s.setFld a lo w v).laneMap = s.laneMap := rfl
@[simp] theorem setFld_reads (a lo w v : Nat) : (s.setFld a lo w v).reads = s.reads := rfl
@[simp] theorem setFld_writes (a lo w v : Nat) : (s.setFld a lo w v).writes = s.writes := rfl
@[simp] theorem setFld_atc (a lo w v : Nat) : (s.setFld a lo w v).atc = s.atc := rfl
@[simp] theorem setFld_xlating (a lo w v : Nat) : (s.setFld a lo w v).xlating = s.xlating := rfl
@[simp] theorem setFld_pages (a lo w v : Nat) : (s.setFld a lo w v).pages = s.pages := rfl
@[simp] theorem setFld_priStop (a lo w v : Nat) : (s.setFld a lo w v).priStop = s.priStop := rfl
@[simp] theorem setFld_invals (a lo w v : Nat) : (s.setFld a lo w v).invals = s.invals := rfl
@[simp] theorem setFld_sems (a lo w v : Nat) : (s.setFld a lo w v).sems = s.sems := rfl
@[simp] theorem setFld_poison (a lo w v : Nat) : (s.setFld a lo w v).poison = s.poison := rfl
@[simp] theorem setFld_zeroing (a lo w v : Nat) : (s.setFld a lo w v).zeroing = s.zeroing := rfl
@[simp] theorem setFld_semHeld (a lo w v : Nat) : (s.setFld a lo w v).semHeld = s.semHeld := rfl
@[simp] theorem setFld_rings (a lo w v : Nat) : (s.setFld a lo w v).rings = s.rings := rfl
@[simp] theorem setFld_sched (a lo w v : Nat) : (s.setFld a lo w v).sched = s.sched := rfl
@[simp] theorem setFld_fqs (a lo w v : Nat) : (s.setFld a lo w v).fqs = s.fqs := rfl
@[simp] theorem setFld_ctxs (a lo w v : Nat) : (s.setFld a lo w v).ctxs = s.ctxs := rfl
@[simp] theorem setFld_txq (a lo w v : Nat) : (s.setFld a lo w v).txq = s.txq := rfl
@[simp] theorem setFld_srecs (a lo w v : Nat) : (s.setFld a lo w v).srecs = s.srecs := rfl
@[simp] theorem setFld_rrecs (a lo w v : Nat) : (s.setFld a lo w v).rrecs = s.rrecs := rfl
@[simp] theorem setFld_trackers (a lo w v : Nat) : (s.setFld a lo w v).trackers = s.trackers := rfl
@[simp] theorem setFld_parked (a lo w v : Nat) : (s.setFld a lo w v).parked = s.parked := rfl
@[simp] theorem setFld_loop (a lo w v : Nat) : (s.setFld a lo w v).loop = s.loop := rfl
@[simp] theorem setFld_nextMsg (a lo w v : Nat) : (s.setFld a lo w v).nextMsg = s.nextMsg := rfl
@[simp] theorem setFld_msgCount (a lo w v : Nat) : (s.setFld a lo w v).msgCount = s.msgCount := rfl
@[simp] theorem setFld_debt (a lo w v : Nat) : (s.setFld a lo w v).debt = s.debt := rfl
@[simp] theorem setFld_debtAt (a lo w v : Nat) : (s.setFld a lo w v).debtAt = s.debtAt := rfl
@[simp] theorem setFld_lifeOld (a lo w v : Nat) : (s.setFld a lo w v).lifeOld = s.lifeOld := rfl
@[simp] theorem setFld_posted (a lo w v : Nat) : (s.setFld a lo w v).posted = s.posted := rfl
@[simp] theorem setFld_wins (a lo w v : Nat) : (s.setFld a lo w v).wins = s.wins := rfl
@[simp] theorem setFld_insts (a lo w v : Nat) : (s.setFld a lo w v).insts = s.insts := rfl
@[simp] theorem setFld_fns (a lo w v : Nat) : (s.setFld a lo w v).fns = s.fns := rfl
@[simp] theorem setFld_vfEn (a lo w v : Nat) : (s.setFld a lo w v).vfEn = s.vfEn := rfl
@[simp] theorem setFld_numVfs (a lo w v : Nat) : (s.setFld a lo w v).numVfs = s.numVfs := rfl
@[simp] theorem setFld_priAlloc (a lo w v : Nat) : (s.setFld a lo w v).priAlloc = s.priAlloc := rfl
@[simp] theorem setFld_cxlMem (a lo w v : Nat) : (s.setFld a lo w v).cxlMem = s.cxlMem := rfl
@[simp] theorem setFld_msixTab (a lo w v : Nat) : (s.setFld a lo w v).msixTab = s.msixTab := rfl
@[simp] theorem setFld_msixPend (a lo w v : Nat) : (s.setFld a lo w v).msixPend = s.msixPend := rfl
@[simp] theorem setFld_filter (a lo w v : Nat) : (s.setFld a lo w v).filter = s.filter := rfl
@[simp] theorem setFld_freeing (a lo w v : Nat) : (s.setFld a lo w v).freeing = s.freeing := rfl
@[simp] theorem setFld_mcs (a lo w v : Nat) : (s.setFld a lo w v).mcs = s.mcs := rfl
@[simp] theorem setFld_split (a lo w v : Nat) : (s.setFld a lo w v).split = s.split := rfl
@[simp] theorem setFld_subs (a lo w v : Nat) : (s.setFld a lo w v).subs = s.subs := rfl
@[simp] theorem setFld_ingress (a lo w v : Nat) : (s.setFld a lo w v).ingress = s.ingress := rfl
@[simp] theorem setFld_fwdWrr (a lo w v : Nat) : (s.setFld a lo w v).fwdWrr = s.fwdWrr := rfl
@[simp] theorem setFld_time (a lo w v : Nat) : (s.setFld a lo w v).time = s.time := rfl
@[simp] theorem setFld_ephRows (a lo w v : Nat) : (s.setFld a lo w v).ephRows = s.ephRows := rfl
@[simp] theorem setFld_ephLive (a lo w v : Nat) : (s.setFld a lo w v).ephLive = s.ephLive := rfl
@[simp] theorem setFld_ephCopyAt (a lo w v : Nat) : (s.setFld a lo w v).ephCopyAt = s.ephCopyAt := rfl
@[simp] theorem setFld_keys (a lo w v : Nat) : (s.setFld a lo w v).keys = s.keys := rfl
@[simp] theorem setFld_cores (a lo w v : Nat) : (s.setFld a lo w v).cores = s.cores := rfl
@[simp] theorem setFld_cipherQ (a lo w v : Nat) : (s.setFld a lo w v).cipherQ = s.cipherQ := rfl
@[simp] theorem setFld_wraps (a lo w v : Nat) : (s.setFld a lo w v).wraps = s.wraps := rfl
@[simp] theorem setFld_boot (a lo w v : Nat) : (s.setFld a lo w v).boot = s.boot := rfl
@[simp] theorem setFld_fuses (a lo w v : Nat) : (s.setFld a lo w v).fuses = s.fuses := rfl
@[simp] theorem setFld_saved (a lo w v : Nat) : (s.setFld a lo w v).saved = s.saved := rfl
@[simp] theorem setFld_wakeHeld (a lo w v : Nat) : (s.setFld a lo w v).wakeHeld = s.wakeHeld := rfl
@[simp] theorem setFld_tripped (a lo w v : Nat) : (s.setFld a lo w v).tripped = s.tripped := rfl
@[simp] theorem setFld_capOk (a lo w v : Nat) : (s.setFld a lo w v).capOk = s.capOk := rfl
@[simp] theorem setFld_scrub (a lo w v : Nat) : (s.setFld a lo w v).scrub = s.scrub := rfl
@[simp] theorem setFld_tally (a lo w v : Nat) : (s.setFld a lo w v).tally = s.tally := rfl
@[simp] theorem setFld_comet (a lo w v : Nat) : (s.setFld a lo w v).comet = s.comet := rfl
@[simp] theorem setFld_night (a lo w v : Nat) : (s.setFld a lo w v).night = s.night := rfl
@[simp] theorem setFld_jtag (a lo w v : Nat) : (s.setFld a lo w v).jtag = s.jtag := rfl

/-! ## Counting by several changes regs alone -/

@[simp] theorem count_pending (a n : Nat) : (s.count a n).pending = s.pending := rfl
@[simp] theorem count_free (a n : Nat) : (s.count a n).free = s.free := rfl
@[simp] theorem count_out (a n : Nat) : (s.count a n).out = s.out := rfl
@[simp] theorem count_fresh (a n : Nat) : (s.count a n).fresh = s.fresh := rfl
@[simp] theorem count_ps (a n : Nat) : (s.count a n).ps = s.ps := rfl
@[simp] theorem count_ck (a n : Nat) : (s.count a n).ck = s.ck := rfl
@[simp] theorem count_shadow (a n : Nat) : (s.count a n).shadow = s.shadow := rfl
@[simp] theorem count_ownRes (a n : Nat) : (s.count a n).ownRes = s.ownRes := rfl
@[simp] theorem count_leaseAt (a n : Nat) : (s.count a n).leaseAt = s.leaseAt := rfl
@[simp] theorem count_mem (a n : Nat) : (s.count a n).mem = s.mem := rfl
@[simp] theorem count_raw (a n : Nat) : (s.count a n).raw = s.raw := rfl
@[simp] theorem count_tmem (a n : Nat) : (s.count a n).tmem = s.tmem := rfl
@[simp] theorem count_nbuf (a n : Nat) : (s.count a n).nbuf = s.nbuf := rfl
@[simp] theorem count_pio (a n : Nat) : (s.count a n).pio = s.pio := rfl
@[simp] theorem count_slots (a n : Nat) : (s.count a n).slots = s.slots := rfl
@[simp] theorem count_images (a n : Nat) : (s.count a n).images = s.images := rfl
@[simp] theorem count_ops (a n : Nat) : (s.count a n).ops = s.ops := rfl
@[simp] theorem count_jobs (a n : Nat) : (s.count a n).jobs = s.jobs := rfl
@[simp] theorem count_arrSeq (a n : Nat) : (s.count a n).arrSeq = s.arrSeq := rfl
@[simp] theorem count_armed (a n : Nat) : (s.count a n).armed = s.armed := rfl
@[simp] theorem count_laneMap (a n : Nat) : (s.count a n).laneMap = s.laneMap := rfl
@[simp] theorem count_reads (a n : Nat) : (s.count a n).reads = s.reads := rfl
@[simp] theorem count_writes (a n : Nat) : (s.count a n).writes = s.writes := rfl
@[simp] theorem count_atc (a n : Nat) : (s.count a n).atc = s.atc := rfl
@[simp] theorem count_xlating (a n : Nat) : (s.count a n).xlating = s.xlating := rfl
@[simp] theorem count_pages (a n : Nat) : (s.count a n).pages = s.pages := rfl
@[simp] theorem count_priStop (a n : Nat) : (s.count a n).priStop = s.priStop := rfl
@[simp] theorem count_invals (a n : Nat) : (s.count a n).invals = s.invals := rfl
@[simp] theorem count_sems (a n : Nat) : (s.count a n).sems = s.sems := rfl
@[simp] theorem count_poison (a n : Nat) : (s.count a n).poison = s.poison := rfl
@[simp] theorem count_zeroing (a n : Nat) : (s.count a n).zeroing = s.zeroing := rfl
@[simp] theorem count_semHeld (a n : Nat) : (s.count a n).semHeld = s.semHeld := rfl
@[simp] theorem count_rings (a n : Nat) : (s.count a n).rings = s.rings := rfl
@[simp] theorem count_sched (a n : Nat) : (s.count a n).sched = s.sched := rfl
@[simp] theorem count_fqs (a n : Nat) : (s.count a n).fqs = s.fqs := rfl
@[simp] theorem count_ctxs (a n : Nat) : (s.count a n).ctxs = s.ctxs := rfl
@[simp] theorem count_txq (a n : Nat) : (s.count a n).txq = s.txq := rfl
@[simp] theorem count_srecs (a n : Nat) : (s.count a n).srecs = s.srecs := rfl
@[simp] theorem count_rrecs (a n : Nat) : (s.count a n).rrecs = s.rrecs := rfl
@[simp] theorem count_trackers (a n : Nat) : (s.count a n).trackers = s.trackers := rfl
@[simp] theorem count_parked (a n : Nat) : (s.count a n).parked = s.parked := rfl
@[simp] theorem count_loop (a n : Nat) : (s.count a n).loop = s.loop := rfl
@[simp] theorem count_nextMsg (a n : Nat) : (s.count a n).nextMsg = s.nextMsg := rfl
@[simp] theorem count_msgCount (a n : Nat) : (s.count a n).msgCount = s.msgCount := rfl
@[simp] theorem count_debt (a n : Nat) : (s.count a n).debt = s.debt := rfl
@[simp] theorem count_debtAt (a n : Nat) : (s.count a n).debtAt = s.debtAt := rfl
@[simp] theorem count_lifeOld (a n : Nat) : (s.count a n).lifeOld = s.lifeOld := rfl
@[simp] theorem count_posted (a n : Nat) : (s.count a n).posted = s.posted := rfl
@[simp] theorem count_wins (a n : Nat) : (s.count a n).wins = s.wins := rfl
@[simp] theorem count_insts (a n : Nat) : (s.count a n).insts = s.insts := rfl
@[simp] theorem count_fns (a n : Nat) : (s.count a n).fns = s.fns := rfl
@[simp] theorem count_vfEn (a n : Nat) : (s.count a n).vfEn = s.vfEn := rfl
@[simp] theorem count_numVfs (a n : Nat) : (s.count a n).numVfs = s.numVfs := rfl
@[simp] theorem count_priAlloc (a n : Nat) : (s.count a n).priAlloc = s.priAlloc := rfl
@[simp] theorem count_cxlMem (a n : Nat) : (s.count a n).cxlMem = s.cxlMem := rfl
@[simp] theorem count_msixTab (a n : Nat) : (s.count a n).msixTab = s.msixTab := rfl
@[simp] theorem count_msixPend (a n : Nat) : (s.count a n).msixPend = s.msixPend := rfl
@[simp] theorem count_filter (a n : Nat) : (s.count a n).filter = s.filter := rfl
@[simp] theorem count_freeing (a n : Nat) : (s.count a n).freeing = s.freeing := rfl
@[simp] theorem count_mcs (a n : Nat) : (s.count a n).mcs = s.mcs := rfl
@[simp] theorem count_split (a n : Nat) : (s.count a n).split = s.split := rfl
@[simp] theorem count_subs (a n : Nat) : (s.count a n).subs = s.subs := rfl
@[simp] theorem count_ingress (a n : Nat) : (s.count a n).ingress = s.ingress := rfl
@[simp] theorem count_fwdWrr (a n : Nat) : (s.count a n).fwdWrr = s.fwdWrr := rfl
@[simp] theorem count_time (a n : Nat) : (s.count a n).time = s.time := rfl
@[simp] theorem count_ephRows (a n : Nat) : (s.count a n).ephRows = s.ephRows := rfl
@[simp] theorem count_ephLive (a n : Nat) : (s.count a n).ephLive = s.ephLive := rfl
@[simp] theorem count_ephCopyAt (a n : Nat) : (s.count a n).ephCopyAt = s.ephCopyAt := rfl
@[simp] theorem count_keys (a n : Nat) : (s.count a n).keys = s.keys := rfl
@[simp] theorem count_cores (a n : Nat) : (s.count a n).cores = s.cores := rfl
@[simp] theorem count_cipherQ (a n : Nat) : (s.count a n).cipherQ = s.cipherQ := rfl
@[simp] theorem count_wraps (a n : Nat) : (s.count a n).wraps = s.wraps := rfl
@[simp] theorem count_boot (a n : Nat) : (s.count a n).boot = s.boot := rfl
@[simp] theorem count_fuses (a n : Nat) : (s.count a n).fuses = s.fuses := rfl
@[simp] theorem count_saved (a n : Nat) : (s.count a n).saved = s.saved := rfl
@[simp] theorem count_wakeHeld (a n : Nat) : (s.count a n).wakeHeld = s.wakeHeld := rfl
@[simp] theorem count_tripped (a n : Nat) : (s.count a n).tripped = s.tripped := rfl
@[simp] theorem count_capOk (a n : Nat) : (s.count a n).capOk = s.capOk := rfl
@[simp] theorem count_scrub (a n : Nat) : (s.count a n).scrub = s.scrub := rfl
@[simp] theorem count_tally (a n : Nat) : (s.count a n).tally = s.tally := rfl
@[simp] theorem count_comet (a n : Nat) : (s.count a n).comet = s.comet := rfl
@[simp] theorem count_night (a n : Nat) : (s.count a n).night = s.night := rfl
@[simp] theorem count_jtag (a n : Nat) : (s.count a n).jtag = s.jtag := rfl

/-! ## Counting one changes regs alone -/

@[simp] theorem bump_pending (a : Nat) : (s.bump a).pending = s.pending := rfl
@[simp] theorem bump_free (a : Nat) : (s.bump a).free = s.free := rfl
@[simp] theorem bump_out (a : Nat) : (s.bump a).out = s.out := rfl
@[simp] theorem bump_fresh (a : Nat) : (s.bump a).fresh = s.fresh := rfl
@[simp] theorem bump_ps (a : Nat) : (s.bump a).ps = s.ps := rfl
@[simp] theorem bump_ck (a : Nat) : (s.bump a).ck = s.ck := rfl
@[simp] theorem bump_shadow (a : Nat) : (s.bump a).shadow = s.shadow := rfl
@[simp] theorem bump_ownRes (a : Nat) : (s.bump a).ownRes = s.ownRes := rfl
@[simp] theorem bump_leaseAt (a : Nat) : (s.bump a).leaseAt = s.leaseAt := rfl
@[simp] theorem bump_mem (a : Nat) : (s.bump a).mem = s.mem := rfl
@[simp] theorem bump_raw (a : Nat) : (s.bump a).raw = s.raw := rfl
@[simp] theorem bump_tmem (a : Nat) : (s.bump a).tmem = s.tmem := rfl
@[simp] theorem bump_nbuf (a : Nat) : (s.bump a).nbuf = s.nbuf := rfl
@[simp] theorem bump_pio (a : Nat) : (s.bump a).pio = s.pio := rfl
@[simp] theorem bump_slots (a : Nat) : (s.bump a).slots = s.slots := rfl
@[simp] theorem bump_images (a : Nat) : (s.bump a).images = s.images := rfl
@[simp] theorem bump_ops (a : Nat) : (s.bump a).ops = s.ops := rfl
@[simp] theorem bump_jobs (a : Nat) : (s.bump a).jobs = s.jobs := rfl
@[simp] theorem bump_arrSeq (a : Nat) : (s.bump a).arrSeq = s.arrSeq := rfl
@[simp] theorem bump_armed (a : Nat) : (s.bump a).armed = s.armed := rfl
@[simp] theorem bump_laneMap (a : Nat) : (s.bump a).laneMap = s.laneMap := rfl
@[simp] theorem bump_reads (a : Nat) : (s.bump a).reads = s.reads := rfl
@[simp] theorem bump_writes (a : Nat) : (s.bump a).writes = s.writes := rfl
@[simp] theorem bump_atc (a : Nat) : (s.bump a).atc = s.atc := rfl
@[simp] theorem bump_xlating (a : Nat) : (s.bump a).xlating = s.xlating := rfl
@[simp] theorem bump_pages (a : Nat) : (s.bump a).pages = s.pages := rfl
@[simp] theorem bump_priStop (a : Nat) : (s.bump a).priStop = s.priStop := rfl
@[simp] theorem bump_invals (a : Nat) : (s.bump a).invals = s.invals := rfl
@[simp] theorem bump_sems (a : Nat) : (s.bump a).sems = s.sems := rfl
@[simp] theorem bump_poison (a : Nat) : (s.bump a).poison = s.poison := rfl
@[simp] theorem bump_zeroing (a : Nat) : (s.bump a).zeroing = s.zeroing := rfl
@[simp] theorem bump_semHeld (a : Nat) : (s.bump a).semHeld = s.semHeld := rfl
@[simp] theorem bump_rings (a : Nat) : (s.bump a).rings = s.rings := rfl
@[simp] theorem bump_sched (a : Nat) : (s.bump a).sched = s.sched := rfl
@[simp] theorem bump_fqs (a : Nat) : (s.bump a).fqs = s.fqs := rfl
@[simp] theorem bump_ctxs (a : Nat) : (s.bump a).ctxs = s.ctxs := rfl
@[simp] theorem bump_txq (a : Nat) : (s.bump a).txq = s.txq := rfl
@[simp] theorem bump_srecs (a : Nat) : (s.bump a).srecs = s.srecs := rfl
@[simp] theorem bump_rrecs (a : Nat) : (s.bump a).rrecs = s.rrecs := rfl
@[simp] theorem bump_trackers (a : Nat) : (s.bump a).trackers = s.trackers := rfl
@[simp] theorem bump_parked (a : Nat) : (s.bump a).parked = s.parked := rfl
@[simp] theorem bump_loop (a : Nat) : (s.bump a).loop = s.loop := rfl
@[simp] theorem bump_nextMsg (a : Nat) : (s.bump a).nextMsg = s.nextMsg := rfl
@[simp] theorem bump_msgCount (a : Nat) : (s.bump a).msgCount = s.msgCount := rfl
@[simp] theorem bump_debt (a : Nat) : (s.bump a).debt = s.debt := rfl
@[simp] theorem bump_debtAt (a : Nat) : (s.bump a).debtAt = s.debtAt := rfl
@[simp] theorem bump_lifeOld (a : Nat) : (s.bump a).lifeOld = s.lifeOld := rfl
@[simp] theorem bump_posted (a : Nat) : (s.bump a).posted = s.posted := rfl
@[simp] theorem bump_wins (a : Nat) : (s.bump a).wins = s.wins := rfl
@[simp] theorem bump_insts (a : Nat) : (s.bump a).insts = s.insts := rfl
@[simp] theorem bump_fns (a : Nat) : (s.bump a).fns = s.fns := rfl
@[simp] theorem bump_vfEn (a : Nat) : (s.bump a).vfEn = s.vfEn := rfl
@[simp] theorem bump_numVfs (a : Nat) : (s.bump a).numVfs = s.numVfs := rfl
@[simp] theorem bump_priAlloc (a : Nat) : (s.bump a).priAlloc = s.priAlloc := rfl
@[simp] theorem bump_cxlMem (a : Nat) : (s.bump a).cxlMem = s.cxlMem := rfl
@[simp] theorem bump_msixTab (a : Nat) : (s.bump a).msixTab = s.msixTab := rfl
@[simp] theorem bump_msixPend (a : Nat) : (s.bump a).msixPend = s.msixPend := rfl
@[simp] theorem bump_filter (a : Nat) : (s.bump a).filter = s.filter := rfl
@[simp] theorem bump_freeing (a : Nat) : (s.bump a).freeing = s.freeing := rfl
@[simp] theorem bump_mcs (a : Nat) : (s.bump a).mcs = s.mcs := rfl
@[simp] theorem bump_split (a : Nat) : (s.bump a).split = s.split := rfl
@[simp] theorem bump_subs (a : Nat) : (s.bump a).subs = s.subs := rfl
@[simp] theorem bump_ingress (a : Nat) : (s.bump a).ingress = s.ingress := rfl
@[simp] theorem bump_fwdWrr (a : Nat) : (s.bump a).fwdWrr = s.fwdWrr := rfl
@[simp] theorem bump_time (a : Nat) : (s.bump a).time = s.time := rfl
@[simp] theorem bump_ephRows (a : Nat) : (s.bump a).ephRows = s.ephRows := rfl
@[simp] theorem bump_ephLive (a : Nat) : (s.bump a).ephLive = s.ephLive := rfl
@[simp] theorem bump_ephCopyAt (a : Nat) : (s.bump a).ephCopyAt = s.ephCopyAt := rfl
@[simp] theorem bump_keys (a : Nat) : (s.bump a).keys = s.keys := rfl
@[simp] theorem bump_cores (a : Nat) : (s.bump a).cores = s.cores := rfl
@[simp] theorem bump_cipherQ (a : Nat) : (s.bump a).cipherQ = s.cipherQ := rfl
@[simp] theorem bump_wraps (a : Nat) : (s.bump a).wraps = s.wraps := rfl
@[simp] theorem bump_boot (a : Nat) : (s.bump a).boot = s.boot := rfl
@[simp] theorem bump_fuses (a : Nat) : (s.bump a).fuses = s.fuses := rfl
@[simp] theorem bump_saved (a : Nat) : (s.bump a).saved = s.saved := rfl
@[simp] theorem bump_wakeHeld (a : Nat) : (s.bump a).wakeHeld = s.wakeHeld := rfl
@[simp] theorem bump_tripped (a : Nat) : (s.bump a).tripped = s.tripped := rfl
@[simp] theorem bump_capOk (a : Nat) : (s.bump a).capOk = s.capOk := rfl
@[simp] theorem bump_scrub (a : Nat) : (s.bump a).scrub = s.scrub := rfl
@[simp] theorem bump_tally (a : Nat) : (s.bump a).tally = s.tally := rfl
@[simp] theorem bump_comet (a : Nat) : (s.bump a).comet = s.comet := rfl
@[simp] theorem bump_night (a : Nat) : (s.bump a).night = s.night := rfl
@[simp] theorem bump_jtag (a : Nat) : (s.bump a).jtag = s.jtag := rfl

/-! ## Staging a register changes shadow alone -/

@[simp] theorem setSh_pending (a : Nat) (v : Word) : (s.setSh a v).pending = s.pending := rfl
@[simp] theorem setSh_free (a : Nat) (v : Word) : (s.setSh a v).free = s.free := rfl
@[simp] theorem setSh_out (a : Nat) (v : Word) : (s.setSh a v).out = s.out := rfl
@[simp] theorem setSh_fresh (a : Nat) (v : Word) : (s.setSh a v).fresh = s.fresh := rfl
@[simp] theorem setSh_ps (a : Nat) (v : Word) : (s.setSh a v).ps = s.ps := rfl
@[simp] theorem setSh_ck (a : Nat) (v : Word) : (s.setSh a v).ck = s.ck := rfl
@[simp] theorem setSh_regs (a : Nat) (v : Word) : (s.setSh a v).regs = s.regs := rfl
@[simp] theorem setSh_ownRes (a : Nat) (v : Word) : (s.setSh a v).ownRes = s.ownRes := rfl
@[simp] theorem setSh_leaseAt (a : Nat) (v : Word) : (s.setSh a v).leaseAt = s.leaseAt := rfl
@[simp] theorem setSh_mem (a : Nat) (v : Word) : (s.setSh a v).mem = s.mem := rfl
@[simp] theorem setSh_raw (a : Nat) (v : Word) : (s.setSh a v).raw = s.raw := rfl
@[simp] theorem setSh_tmem (a : Nat) (v : Word) : (s.setSh a v).tmem = s.tmem := rfl
@[simp] theorem setSh_nbuf (a : Nat) (v : Word) : (s.setSh a v).nbuf = s.nbuf := rfl
@[simp] theorem setSh_pio (a : Nat) (v : Word) : (s.setSh a v).pio = s.pio := rfl
@[simp] theorem setSh_slots (a : Nat) (v : Word) : (s.setSh a v).slots = s.slots := rfl
@[simp] theorem setSh_images (a : Nat) (v : Word) : (s.setSh a v).images = s.images := rfl
@[simp] theorem setSh_ops (a : Nat) (v : Word) : (s.setSh a v).ops = s.ops := rfl
@[simp] theorem setSh_jobs (a : Nat) (v : Word) : (s.setSh a v).jobs = s.jobs := rfl
@[simp] theorem setSh_arrSeq (a : Nat) (v : Word) : (s.setSh a v).arrSeq = s.arrSeq := rfl
@[simp] theorem setSh_armed (a : Nat) (v : Word) : (s.setSh a v).armed = s.armed := rfl
@[simp] theorem setSh_laneMap (a : Nat) (v : Word) : (s.setSh a v).laneMap = s.laneMap := rfl
@[simp] theorem setSh_reads (a : Nat) (v : Word) : (s.setSh a v).reads = s.reads := rfl
@[simp] theorem setSh_writes (a : Nat) (v : Word) : (s.setSh a v).writes = s.writes := rfl
@[simp] theorem setSh_atc (a : Nat) (v : Word) : (s.setSh a v).atc = s.atc := rfl
@[simp] theorem setSh_xlating (a : Nat) (v : Word) : (s.setSh a v).xlating = s.xlating := rfl
@[simp] theorem setSh_pages (a : Nat) (v : Word) : (s.setSh a v).pages = s.pages := rfl
@[simp] theorem setSh_priStop (a : Nat) (v : Word) : (s.setSh a v).priStop = s.priStop := rfl
@[simp] theorem setSh_invals (a : Nat) (v : Word) : (s.setSh a v).invals = s.invals := rfl
@[simp] theorem setSh_sems (a : Nat) (v : Word) : (s.setSh a v).sems = s.sems := rfl
@[simp] theorem setSh_poison (a : Nat) (v : Word) : (s.setSh a v).poison = s.poison := rfl
@[simp] theorem setSh_zeroing (a : Nat) (v : Word) : (s.setSh a v).zeroing = s.zeroing := rfl
@[simp] theorem setSh_semHeld (a : Nat) (v : Word) : (s.setSh a v).semHeld = s.semHeld := rfl
@[simp] theorem setSh_rings (a : Nat) (v : Word) : (s.setSh a v).rings = s.rings := rfl
@[simp] theorem setSh_sched (a : Nat) (v : Word) : (s.setSh a v).sched = s.sched := rfl
@[simp] theorem setSh_fqs (a : Nat) (v : Word) : (s.setSh a v).fqs = s.fqs := rfl
@[simp] theorem setSh_ctxs (a : Nat) (v : Word) : (s.setSh a v).ctxs = s.ctxs := rfl
@[simp] theorem setSh_txq (a : Nat) (v : Word) : (s.setSh a v).txq = s.txq := rfl
@[simp] theorem setSh_srecs (a : Nat) (v : Word) : (s.setSh a v).srecs = s.srecs := rfl
@[simp] theorem setSh_rrecs (a : Nat) (v : Word) : (s.setSh a v).rrecs = s.rrecs := rfl
@[simp] theorem setSh_trackers (a : Nat) (v : Word) : (s.setSh a v).trackers = s.trackers := rfl
@[simp] theorem setSh_parked (a : Nat) (v : Word) : (s.setSh a v).parked = s.parked := rfl
@[simp] theorem setSh_loop (a : Nat) (v : Word) : (s.setSh a v).loop = s.loop := rfl
@[simp] theorem setSh_nextMsg (a : Nat) (v : Word) : (s.setSh a v).nextMsg = s.nextMsg := rfl
@[simp] theorem setSh_msgCount (a : Nat) (v : Word) : (s.setSh a v).msgCount = s.msgCount := rfl
@[simp] theorem setSh_debt (a : Nat) (v : Word) : (s.setSh a v).debt = s.debt := rfl
@[simp] theorem setSh_debtAt (a : Nat) (v : Word) : (s.setSh a v).debtAt = s.debtAt := rfl
@[simp] theorem setSh_lifeOld (a : Nat) (v : Word) : (s.setSh a v).lifeOld = s.lifeOld := rfl
@[simp] theorem setSh_posted (a : Nat) (v : Word) : (s.setSh a v).posted = s.posted := rfl
@[simp] theorem setSh_wins (a : Nat) (v : Word) : (s.setSh a v).wins = s.wins := rfl
@[simp] theorem setSh_insts (a : Nat) (v : Word) : (s.setSh a v).insts = s.insts := rfl
@[simp] theorem setSh_fns (a : Nat) (v : Word) : (s.setSh a v).fns = s.fns := rfl
@[simp] theorem setSh_vfEn (a : Nat) (v : Word) : (s.setSh a v).vfEn = s.vfEn := rfl
@[simp] theorem setSh_numVfs (a : Nat) (v : Word) : (s.setSh a v).numVfs = s.numVfs := rfl
@[simp] theorem setSh_priAlloc (a : Nat) (v : Word) : (s.setSh a v).priAlloc = s.priAlloc := rfl
@[simp] theorem setSh_cxlMem (a : Nat) (v : Word) : (s.setSh a v).cxlMem = s.cxlMem := rfl
@[simp] theorem setSh_msixTab (a : Nat) (v : Word) : (s.setSh a v).msixTab = s.msixTab := rfl
@[simp] theorem setSh_msixPend (a : Nat) (v : Word) : (s.setSh a v).msixPend = s.msixPend := rfl
@[simp] theorem setSh_filter (a : Nat) (v : Word) : (s.setSh a v).filter = s.filter := rfl
@[simp] theorem setSh_freeing (a : Nat) (v : Word) : (s.setSh a v).freeing = s.freeing := rfl
@[simp] theorem setSh_mcs (a : Nat) (v : Word) : (s.setSh a v).mcs = s.mcs := rfl
@[simp] theorem setSh_split (a : Nat) (v : Word) : (s.setSh a v).split = s.split := rfl
@[simp] theorem setSh_subs (a : Nat) (v : Word) : (s.setSh a v).subs = s.subs := rfl
@[simp] theorem setSh_ingress (a : Nat) (v : Word) : (s.setSh a v).ingress = s.ingress := rfl
@[simp] theorem setSh_fwdWrr (a : Nat) (v : Word) : (s.setSh a v).fwdWrr = s.fwdWrr := rfl
@[simp] theorem setSh_time (a : Nat) (v : Word) : (s.setSh a v).time = s.time := rfl
@[simp] theorem setSh_ephRows (a : Nat) (v : Word) : (s.setSh a v).ephRows = s.ephRows := rfl
@[simp] theorem setSh_ephLive (a : Nat) (v : Word) : (s.setSh a v).ephLive = s.ephLive := rfl
@[simp] theorem setSh_ephCopyAt (a : Nat) (v : Word) : (s.setSh a v).ephCopyAt = s.ephCopyAt := rfl
@[simp] theorem setSh_keys (a : Nat) (v : Word) : (s.setSh a v).keys = s.keys := rfl
@[simp] theorem setSh_cores (a : Nat) (v : Word) : (s.setSh a v).cores = s.cores := rfl
@[simp] theorem setSh_cipherQ (a : Nat) (v : Word) : (s.setSh a v).cipherQ = s.cipherQ := rfl
@[simp] theorem setSh_wraps (a : Nat) (v : Word) : (s.setSh a v).wraps = s.wraps := rfl
@[simp] theorem setSh_boot (a : Nat) (v : Word) : (s.setSh a v).boot = s.boot := rfl
@[simp] theorem setSh_fuses (a : Nat) (v : Word) : (s.setSh a v).fuses = s.fuses := rfl
@[simp] theorem setSh_saved (a : Nat) (v : Word) : (s.setSh a v).saved = s.saved := rfl
@[simp] theorem setSh_wakeHeld (a : Nat) (v : Word) : (s.setSh a v).wakeHeld = s.wakeHeld := rfl
@[simp] theorem setSh_tripped (a : Nat) (v : Word) : (s.setSh a v).tripped = s.tripped := rfl
@[simp] theorem setSh_capOk (a : Nat) (v : Word) : (s.setSh a v).capOk = s.capOk := rfl
@[simp] theorem setSh_scrub (a : Nat) (v : Word) : (s.setSh a v).scrub = s.scrub := rfl
@[simp] theorem setSh_tally (a : Nat) (v : Word) : (s.setSh a v).tally = s.tally := rfl
@[simp] theorem setSh_comet (a : Nat) (v : Word) : (s.setSh a v).comet = s.comet := rfl
@[simp] theorem setSh_night (a : Nat) (v : Word) : (s.setSh a v).night = s.night := rfl
@[simp] theorem setSh_jtag (a : Nat) (v : Word) : (s.setSh a v).jtag = s.jtag := rfl

/-! ## Setting a slot changes slots alone -/

@[simp] theorem setSlot_pending (i : Nat) (x : Slot) : (s.setSlot i x).pending = s.pending := rfl
@[simp] theorem setSlot_free (i : Nat) (x : Slot) : (s.setSlot i x).free = s.free := rfl
@[simp] theorem setSlot_out (i : Nat) (x : Slot) : (s.setSlot i x).out = s.out := rfl
@[simp] theorem setSlot_fresh (i : Nat) (x : Slot) : (s.setSlot i x).fresh = s.fresh := rfl
@[simp] theorem setSlot_ps (i : Nat) (x : Slot) : (s.setSlot i x).ps = s.ps := rfl
@[simp] theorem setSlot_ck (i : Nat) (x : Slot) : (s.setSlot i x).ck = s.ck := rfl
@[simp] theorem setSlot_regs (i : Nat) (x : Slot) : (s.setSlot i x).regs = s.regs := rfl
@[simp] theorem setSlot_shadow (i : Nat) (x : Slot) : (s.setSlot i x).shadow = s.shadow := rfl
@[simp] theorem setSlot_ownRes (i : Nat) (x : Slot) : (s.setSlot i x).ownRes = s.ownRes := rfl
@[simp] theorem setSlot_leaseAt (i : Nat) (x : Slot) : (s.setSlot i x).leaseAt = s.leaseAt := rfl
@[simp] theorem setSlot_mem (i : Nat) (x : Slot) : (s.setSlot i x).mem = s.mem := rfl
@[simp] theorem setSlot_raw (i : Nat) (x : Slot) : (s.setSlot i x).raw = s.raw := rfl
@[simp] theorem setSlot_tmem (i : Nat) (x : Slot) : (s.setSlot i x).tmem = s.tmem := rfl
@[simp] theorem setSlot_nbuf (i : Nat) (x : Slot) : (s.setSlot i x).nbuf = s.nbuf := rfl
@[simp] theorem setSlot_pio (i : Nat) (x : Slot) : (s.setSlot i x).pio = s.pio := rfl
@[simp] theorem setSlot_images (i : Nat) (x : Slot) : (s.setSlot i x).images = s.images := rfl
@[simp] theorem setSlot_ops (i : Nat) (x : Slot) : (s.setSlot i x).ops = s.ops := rfl
@[simp] theorem setSlot_jobs (i : Nat) (x : Slot) : (s.setSlot i x).jobs = s.jobs := rfl
@[simp] theorem setSlot_arrSeq (i : Nat) (x : Slot) : (s.setSlot i x).arrSeq = s.arrSeq := rfl
@[simp] theorem setSlot_armed (i : Nat) (x : Slot) : (s.setSlot i x).armed = s.armed := rfl
@[simp] theorem setSlot_laneMap (i : Nat) (x : Slot) : (s.setSlot i x).laneMap = s.laneMap := rfl
@[simp] theorem setSlot_reads (i : Nat) (x : Slot) : (s.setSlot i x).reads = s.reads := rfl
@[simp] theorem setSlot_writes (i : Nat) (x : Slot) : (s.setSlot i x).writes = s.writes := rfl
@[simp] theorem setSlot_atc (i : Nat) (x : Slot) : (s.setSlot i x).atc = s.atc := rfl
@[simp] theorem setSlot_xlating (i : Nat) (x : Slot) : (s.setSlot i x).xlating = s.xlating := rfl
@[simp] theorem setSlot_pages (i : Nat) (x : Slot) : (s.setSlot i x).pages = s.pages := rfl
@[simp] theorem setSlot_priStop (i : Nat) (x : Slot) : (s.setSlot i x).priStop = s.priStop := rfl
@[simp] theorem setSlot_invals (i : Nat) (x : Slot) : (s.setSlot i x).invals = s.invals := rfl
@[simp] theorem setSlot_sems (i : Nat) (x : Slot) : (s.setSlot i x).sems = s.sems := rfl
@[simp] theorem setSlot_poison (i : Nat) (x : Slot) : (s.setSlot i x).poison = s.poison := rfl
@[simp] theorem setSlot_zeroing (i : Nat) (x : Slot) : (s.setSlot i x).zeroing = s.zeroing := rfl
@[simp] theorem setSlot_semHeld (i : Nat) (x : Slot) : (s.setSlot i x).semHeld = s.semHeld := rfl
@[simp] theorem setSlot_rings (i : Nat) (x : Slot) : (s.setSlot i x).rings = s.rings := rfl
@[simp] theorem setSlot_sched (i : Nat) (x : Slot) : (s.setSlot i x).sched = s.sched := rfl
@[simp] theorem setSlot_fqs (i : Nat) (x : Slot) : (s.setSlot i x).fqs = s.fqs := rfl
@[simp] theorem setSlot_ctxs (i : Nat) (x : Slot) : (s.setSlot i x).ctxs = s.ctxs := rfl
@[simp] theorem setSlot_txq (i : Nat) (x : Slot) : (s.setSlot i x).txq = s.txq := rfl
@[simp] theorem setSlot_srecs (i : Nat) (x : Slot) : (s.setSlot i x).srecs = s.srecs := rfl
@[simp] theorem setSlot_rrecs (i : Nat) (x : Slot) : (s.setSlot i x).rrecs = s.rrecs := rfl
@[simp] theorem setSlot_trackers (i : Nat) (x : Slot) : (s.setSlot i x).trackers = s.trackers := rfl
@[simp] theorem setSlot_parked (i : Nat) (x : Slot) : (s.setSlot i x).parked = s.parked := rfl
@[simp] theorem setSlot_loop (i : Nat) (x : Slot) : (s.setSlot i x).loop = s.loop := rfl
@[simp] theorem setSlot_nextMsg (i : Nat) (x : Slot) : (s.setSlot i x).nextMsg = s.nextMsg := rfl
@[simp] theorem setSlot_msgCount (i : Nat) (x : Slot) : (s.setSlot i x).msgCount = s.msgCount := rfl
@[simp] theorem setSlot_debt (i : Nat) (x : Slot) : (s.setSlot i x).debt = s.debt := rfl
@[simp] theorem setSlot_debtAt (i : Nat) (x : Slot) : (s.setSlot i x).debtAt = s.debtAt := rfl
@[simp] theorem setSlot_lifeOld (i : Nat) (x : Slot) : (s.setSlot i x).lifeOld = s.lifeOld := rfl
@[simp] theorem setSlot_posted (i : Nat) (x : Slot) : (s.setSlot i x).posted = s.posted := rfl
@[simp] theorem setSlot_wins (i : Nat) (x : Slot) : (s.setSlot i x).wins = s.wins := rfl
@[simp] theorem setSlot_insts (i : Nat) (x : Slot) : (s.setSlot i x).insts = s.insts := rfl
@[simp] theorem setSlot_fns (i : Nat) (x : Slot) : (s.setSlot i x).fns = s.fns := rfl
@[simp] theorem setSlot_vfEn (i : Nat) (x : Slot) : (s.setSlot i x).vfEn = s.vfEn := rfl
@[simp] theorem setSlot_numVfs (i : Nat) (x : Slot) : (s.setSlot i x).numVfs = s.numVfs := rfl
@[simp] theorem setSlot_priAlloc (i : Nat) (x : Slot) : (s.setSlot i x).priAlloc = s.priAlloc := rfl
@[simp] theorem setSlot_cxlMem (i : Nat) (x : Slot) : (s.setSlot i x).cxlMem = s.cxlMem := rfl
@[simp] theorem setSlot_msixTab (i : Nat) (x : Slot) : (s.setSlot i x).msixTab = s.msixTab := rfl
@[simp] theorem setSlot_msixPend (i : Nat) (x : Slot) : (s.setSlot i x).msixPend = s.msixPend := rfl
@[simp] theorem setSlot_filter (i : Nat) (x : Slot) : (s.setSlot i x).filter = s.filter := rfl
@[simp] theorem setSlot_freeing (i : Nat) (x : Slot) : (s.setSlot i x).freeing = s.freeing := rfl
@[simp] theorem setSlot_mcs (i : Nat) (x : Slot) : (s.setSlot i x).mcs = s.mcs := rfl
@[simp] theorem setSlot_split (i : Nat) (x : Slot) : (s.setSlot i x).split = s.split := rfl
@[simp] theorem setSlot_subs (i : Nat) (x : Slot) : (s.setSlot i x).subs = s.subs := rfl
@[simp] theorem setSlot_ingress (i : Nat) (x : Slot) : (s.setSlot i x).ingress = s.ingress := rfl
@[simp] theorem setSlot_fwdWrr (i : Nat) (x : Slot) : (s.setSlot i x).fwdWrr = s.fwdWrr := rfl
@[simp] theorem setSlot_time (i : Nat) (x : Slot) : (s.setSlot i x).time = s.time := rfl
@[simp] theorem setSlot_ephRows (i : Nat) (x : Slot) : (s.setSlot i x).ephRows = s.ephRows := rfl
@[simp] theorem setSlot_ephLive (i : Nat) (x : Slot) : (s.setSlot i x).ephLive = s.ephLive := rfl
@[simp] theorem setSlot_ephCopyAt (i : Nat) (x : Slot) : (s.setSlot i x).ephCopyAt = s.ephCopyAt := rfl
@[simp] theorem setSlot_keys (i : Nat) (x : Slot) : (s.setSlot i x).keys = s.keys := rfl
@[simp] theorem setSlot_cores (i : Nat) (x : Slot) : (s.setSlot i x).cores = s.cores := rfl
@[simp] theorem setSlot_cipherQ (i : Nat) (x : Slot) : (s.setSlot i x).cipherQ = s.cipherQ := rfl
@[simp] theorem setSlot_wraps (i : Nat) (x : Slot) : (s.setSlot i x).wraps = s.wraps := rfl
@[simp] theorem setSlot_boot (i : Nat) (x : Slot) : (s.setSlot i x).boot = s.boot := rfl
@[simp] theorem setSlot_fuses (i : Nat) (x : Slot) : (s.setSlot i x).fuses = s.fuses := rfl
@[simp] theorem setSlot_saved (i : Nat) (x : Slot) : (s.setSlot i x).saved = s.saved := rfl
@[simp] theorem setSlot_wakeHeld (i : Nat) (x : Slot) : (s.setSlot i x).wakeHeld = s.wakeHeld := rfl
@[simp] theorem setSlot_tripped (i : Nat) (x : Slot) : (s.setSlot i x).tripped = s.tripped := rfl
@[simp] theorem setSlot_capOk (i : Nat) (x : Slot) : (s.setSlot i x).capOk = s.capOk := rfl
@[simp] theorem setSlot_scrub (i : Nat) (x : Slot) : (s.setSlot i x).scrub = s.scrub := rfl
@[simp] theorem setSlot_tally (i : Nat) (x : Slot) : (s.setSlot i x).tally = s.tally := rfl
@[simp] theorem setSlot_comet (i : Nat) (x : Slot) : (s.setSlot i x).comet = s.comet := rfl
@[simp] theorem setSlot_night (i : Nat) (x : Slot) : (s.setSlot i x).night = s.night := rfl
@[simp] theorem setSlot_jtag (i : Nat) (x : Slot) : (s.setSlot i x).jtag = s.jtag := rfl

/-! ## Updating a slot changes slots alone -/

@[simp] theorem updSlot_pending (i : Nat) (f : Slot → Slot) : (s.updSlot i f).pending = s.pending := rfl
@[simp] theorem updSlot_free (i : Nat) (f : Slot → Slot) : (s.updSlot i f).free = s.free := rfl
@[simp] theorem updSlot_out (i : Nat) (f : Slot → Slot) : (s.updSlot i f).out = s.out := rfl
@[simp] theorem updSlot_fresh (i : Nat) (f : Slot → Slot) : (s.updSlot i f).fresh = s.fresh := rfl
@[simp] theorem updSlot_ps (i : Nat) (f : Slot → Slot) : (s.updSlot i f).ps = s.ps := rfl
@[simp] theorem updSlot_ck (i : Nat) (f : Slot → Slot) : (s.updSlot i f).ck = s.ck := rfl
@[simp] theorem updSlot_regs (i : Nat) (f : Slot → Slot) : (s.updSlot i f).regs = s.regs := rfl
@[simp] theorem updSlot_shadow (i : Nat) (f : Slot → Slot) : (s.updSlot i f).shadow = s.shadow := rfl
@[simp] theorem updSlot_ownRes (i : Nat) (f : Slot → Slot) : (s.updSlot i f).ownRes = s.ownRes := rfl
@[simp] theorem updSlot_leaseAt (i : Nat) (f : Slot → Slot) : (s.updSlot i f).leaseAt = s.leaseAt := rfl
@[simp] theorem updSlot_mem (i : Nat) (f : Slot → Slot) : (s.updSlot i f).mem = s.mem := rfl
@[simp] theorem updSlot_raw (i : Nat) (f : Slot → Slot) : (s.updSlot i f).raw = s.raw := rfl
@[simp] theorem updSlot_tmem (i : Nat) (f : Slot → Slot) : (s.updSlot i f).tmem = s.tmem := rfl
@[simp] theorem updSlot_nbuf (i : Nat) (f : Slot → Slot) : (s.updSlot i f).nbuf = s.nbuf := rfl
@[simp] theorem updSlot_pio (i : Nat) (f : Slot → Slot) : (s.updSlot i f).pio = s.pio := rfl
@[simp] theorem updSlot_images (i : Nat) (f : Slot → Slot) : (s.updSlot i f).images = s.images := rfl
@[simp] theorem updSlot_ops (i : Nat) (f : Slot → Slot) : (s.updSlot i f).ops = s.ops := rfl
@[simp] theorem updSlot_jobs (i : Nat) (f : Slot → Slot) : (s.updSlot i f).jobs = s.jobs := rfl
@[simp] theorem updSlot_arrSeq (i : Nat) (f : Slot → Slot) : (s.updSlot i f).arrSeq = s.arrSeq := rfl
@[simp] theorem updSlot_armed (i : Nat) (f : Slot → Slot) : (s.updSlot i f).armed = s.armed := rfl
@[simp] theorem updSlot_laneMap (i : Nat) (f : Slot → Slot) : (s.updSlot i f).laneMap = s.laneMap := rfl
@[simp] theorem updSlot_reads (i : Nat) (f : Slot → Slot) : (s.updSlot i f).reads = s.reads := rfl
@[simp] theorem updSlot_writes (i : Nat) (f : Slot → Slot) : (s.updSlot i f).writes = s.writes := rfl
@[simp] theorem updSlot_atc (i : Nat) (f : Slot → Slot) : (s.updSlot i f).atc = s.atc := rfl
@[simp] theorem updSlot_xlating (i : Nat) (f : Slot → Slot) : (s.updSlot i f).xlating = s.xlating := rfl
@[simp] theorem updSlot_pages (i : Nat) (f : Slot → Slot) : (s.updSlot i f).pages = s.pages := rfl
@[simp] theorem updSlot_priStop (i : Nat) (f : Slot → Slot) : (s.updSlot i f).priStop = s.priStop := rfl
@[simp] theorem updSlot_invals (i : Nat) (f : Slot → Slot) : (s.updSlot i f).invals = s.invals := rfl
@[simp] theorem updSlot_sems (i : Nat) (f : Slot → Slot) : (s.updSlot i f).sems = s.sems := rfl
@[simp] theorem updSlot_poison (i : Nat) (f : Slot → Slot) : (s.updSlot i f).poison = s.poison := rfl
@[simp] theorem updSlot_zeroing (i : Nat) (f : Slot → Slot) : (s.updSlot i f).zeroing = s.zeroing := rfl
@[simp] theorem updSlot_semHeld (i : Nat) (f : Slot → Slot) : (s.updSlot i f).semHeld = s.semHeld := rfl
@[simp] theorem updSlot_rings (i : Nat) (f : Slot → Slot) : (s.updSlot i f).rings = s.rings := rfl
@[simp] theorem updSlot_sched (i : Nat) (f : Slot → Slot) : (s.updSlot i f).sched = s.sched := rfl
@[simp] theorem updSlot_fqs (i : Nat) (f : Slot → Slot) : (s.updSlot i f).fqs = s.fqs := rfl
@[simp] theorem updSlot_ctxs (i : Nat) (f : Slot → Slot) : (s.updSlot i f).ctxs = s.ctxs := rfl
@[simp] theorem updSlot_txq (i : Nat) (f : Slot → Slot) : (s.updSlot i f).txq = s.txq := rfl
@[simp] theorem updSlot_srecs (i : Nat) (f : Slot → Slot) : (s.updSlot i f).srecs = s.srecs := rfl
@[simp] theorem updSlot_rrecs (i : Nat) (f : Slot → Slot) : (s.updSlot i f).rrecs = s.rrecs := rfl
@[simp] theorem updSlot_trackers (i : Nat) (f : Slot → Slot) : (s.updSlot i f).trackers = s.trackers := rfl
@[simp] theorem updSlot_parked (i : Nat) (f : Slot → Slot) : (s.updSlot i f).parked = s.parked := rfl
@[simp] theorem updSlot_loop (i : Nat) (f : Slot → Slot) : (s.updSlot i f).loop = s.loop := rfl
@[simp] theorem updSlot_nextMsg (i : Nat) (f : Slot → Slot) : (s.updSlot i f).nextMsg = s.nextMsg := rfl
@[simp] theorem updSlot_msgCount (i : Nat) (f : Slot → Slot) : (s.updSlot i f).msgCount = s.msgCount := rfl
@[simp] theorem updSlot_debt (i : Nat) (f : Slot → Slot) : (s.updSlot i f).debt = s.debt := rfl
@[simp] theorem updSlot_debtAt (i : Nat) (f : Slot → Slot) : (s.updSlot i f).debtAt = s.debtAt := rfl
@[simp] theorem updSlot_lifeOld (i : Nat) (f : Slot → Slot) : (s.updSlot i f).lifeOld = s.lifeOld := rfl
@[simp] theorem updSlot_posted (i : Nat) (f : Slot → Slot) : (s.updSlot i f).posted = s.posted := rfl
@[simp] theorem updSlot_wins (i : Nat) (f : Slot → Slot) : (s.updSlot i f).wins = s.wins := rfl
@[simp] theorem updSlot_insts (i : Nat) (f : Slot → Slot) : (s.updSlot i f).insts = s.insts := rfl
@[simp] theorem updSlot_fns (i : Nat) (f : Slot → Slot) : (s.updSlot i f).fns = s.fns := rfl
@[simp] theorem updSlot_vfEn (i : Nat) (f : Slot → Slot) : (s.updSlot i f).vfEn = s.vfEn := rfl
@[simp] theorem updSlot_numVfs (i : Nat) (f : Slot → Slot) : (s.updSlot i f).numVfs = s.numVfs := rfl
@[simp] theorem updSlot_priAlloc (i : Nat) (f : Slot → Slot) : (s.updSlot i f).priAlloc = s.priAlloc := rfl
@[simp] theorem updSlot_cxlMem (i : Nat) (f : Slot → Slot) : (s.updSlot i f).cxlMem = s.cxlMem := rfl
@[simp] theorem updSlot_msixTab (i : Nat) (f : Slot → Slot) : (s.updSlot i f).msixTab = s.msixTab := rfl
@[simp] theorem updSlot_msixPend (i : Nat) (f : Slot → Slot) : (s.updSlot i f).msixPend = s.msixPend := rfl
@[simp] theorem updSlot_filter (i : Nat) (f : Slot → Slot) : (s.updSlot i f).filter = s.filter := rfl
@[simp] theorem updSlot_freeing (i : Nat) (f : Slot → Slot) : (s.updSlot i f).freeing = s.freeing := rfl
@[simp] theorem updSlot_mcs (i : Nat) (f : Slot → Slot) : (s.updSlot i f).mcs = s.mcs := rfl
@[simp] theorem updSlot_split (i : Nat) (f : Slot → Slot) : (s.updSlot i f).split = s.split := rfl
@[simp] theorem updSlot_subs (i : Nat) (f : Slot → Slot) : (s.updSlot i f).subs = s.subs := rfl
@[simp] theorem updSlot_ingress (i : Nat) (f : Slot → Slot) : (s.updSlot i f).ingress = s.ingress := rfl
@[simp] theorem updSlot_fwdWrr (i : Nat) (f : Slot → Slot) : (s.updSlot i f).fwdWrr = s.fwdWrr := rfl
@[simp] theorem updSlot_time (i : Nat) (f : Slot → Slot) : (s.updSlot i f).time = s.time := rfl
@[simp] theorem updSlot_ephRows (i : Nat) (f : Slot → Slot) : (s.updSlot i f).ephRows = s.ephRows := rfl
@[simp] theorem updSlot_ephLive (i : Nat) (f : Slot → Slot) : (s.updSlot i f).ephLive = s.ephLive := rfl
@[simp] theorem updSlot_ephCopyAt (i : Nat) (f : Slot → Slot) : (s.updSlot i f).ephCopyAt = s.ephCopyAt := rfl
@[simp] theorem updSlot_keys (i : Nat) (f : Slot → Slot) : (s.updSlot i f).keys = s.keys := rfl
@[simp] theorem updSlot_cores (i : Nat) (f : Slot → Slot) : (s.updSlot i f).cores = s.cores := rfl
@[simp] theorem updSlot_cipherQ (i : Nat) (f : Slot → Slot) : (s.updSlot i f).cipherQ = s.cipherQ := rfl
@[simp] theorem updSlot_wraps (i : Nat) (f : Slot → Slot) : (s.updSlot i f).wraps = s.wraps := rfl
@[simp] theorem updSlot_boot (i : Nat) (f : Slot → Slot) : (s.updSlot i f).boot = s.boot := rfl
@[simp] theorem updSlot_fuses (i : Nat) (f : Slot → Slot) : (s.updSlot i f).fuses = s.fuses := rfl
@[simp] theorem updSlot_saved (i : Nat) (f : Slot → Slot) : (s.updSlot i f).saved = s.saved := rfl
@[simp] theorem updSlot_wakeHeld (i : Nat) (f : Slot → Slot) : (s.updSlot i f).wakeHeld = s.wakeHeld := rfl
@[simp] theorem updSlot_tripped (i : Nat) (f : Slot → Slot) : (s.updSlot i f).tripped = s.tripped := rfl
@[simp] theorem updSlot_capOk (i : Nat) (f : Slot → Slot) : (s.updSlot i f).capOk = s.capOk := rfl
@[simp] theorem updSlot_scrub (i : Nat) (f : Slot → Slot) : (s.updSlot i f).scrub = s.scrub := rfl
@[simp] theorem updSlot_tally (i : Nat) (f : Slot → Slot) : (s.updSlot i f).tally = s.tally := rfl
@[simp] theorem updSlot_comet (i : Nat) (f : Slot → Slot) : (s.updSlot i f).comet = s.comet := rfl
@[simp] theorem updSlot_night (i : Nat) (f : Slot → Slot) : (s.updSlot i f).night = s.night := rfl
@[simp] theorem updSlot_jtag (i : Nat) (f : Slot → Slot) : (s.updSlot i f).jtag = s.jtag := rfl

/-! ## Updating an operation changes ops alone -/

@[simp] theorem updOp_pending (i : Nat) (f : Op → Op) : (s.updOp i f).pending = s.pending := rfl
@[simp] theorem updOp_free (i : Nat) (f : Op → Op) : (s.updOp i f).free = s.free := rfl
@[simp] theorem updOp_out (i : Nat) (f : Op → Op) : (s.updOp i f).out = s.out := rfl
@[simp] theorem updOp_fresh (i : Nat) (f : Op → Op) : (s.updOp i f).fresh = s.fresh := rfl
@[simp] theorem updOp_ps (i : Nat) (f : Op → Op) : (s.updOp i f).ps = s.ps := rfl
@[simp] theorem updOp_ck (i : Nat) (f : Op → Op) : (s.updOp i f).ck = s.ck := rfl
@[simp] theorem updOp_regs (i : Nat) (f : Op → Op) : (s.updOp i f).regs = s.regs := rfl
@[simp] theorem updOp_shadow (i : Nat) (f : Op → Op) : (s.updOp i f).shadow = s.shadow := rfl
@[simp] theorem updOp_ownRes (i : Nat) (f : Op → Op) : (s.updOp i f).ownRes = s.ownRes := rfl
@[simp] theorem updOp_leaseAt (i : Nat) (f : Op → Op) : (s.updOp i f).leaseAt = s.leaseAt := rfl
@[simp] theorem updOp_mem (i : Nat) (f : Op → Op) : (s.updOp i f).mem = s.mem := rfl
@[simp] theorem updOp_raw (i : Nat) (f : Op → Op) : (s.updOp i f).raw = s.raw := rfl
@[simp] theorem updOp_tmem (i : Nat) (f : Op → Op) : (s.updOp i f).tmem = s.tmem := rfl
@[simp] theorem updOp_nbuf (i : Nat) (f : Op → Op) : (s.updOp i f).nbuf = s.nbuf := rfl
@[simp] theorem updOp_pio (i : Nat) (f : Op → Op) : (s.updOp i f).pio = s.pio := rfl
@[simp] theorem updOp_slots (i : Nat) (f : Op → Op) : (s.updOp i f).slots = s.slots := rfl
@[simp] theorem updOp_images (i : Nat) (f : Op → Op) : (s.updOp i f).images = s.images := rfl
@[simp] theorem updOp_jobs (i : Nat) (f : Op → Op) : (s.updOp i f).jobs = s.jobs := rfl
@[simp] theorem updOp_arrSeq (i : Nat) (f : Op → Op) : (s.updOp i f).arrSeq = s.arrSeq := rfl
@[simp] theorem updOp_armed (i : Nat) (f : Op → Op) : (s.updOp i f).armed = s.armed := rfl
@[simp] theorem updOp_laneMap (i : Nat) (f : Op → Op) : (s.updOp i f).laneMap = s.laneMap := rfl
@[simp] theorem updOp_reads (i : Nat) (f : Op → Op) : (s.updOp i f).reads = s.reads := rfl
@[simp] theorem updOp_writes (i : Nat) (f : Op → Op) : (s.updOp i f).writes = s.writes := rfl
@[simp] theorem updOp_atc (i : Nat) (f : Op → Op) : (s.updOp i f).atc = s.atc := rfl
@[simp] theorem updOp_xlating (i : Nat) (f : Op → Op) : (s.updOp i f).xlating = s.xlating := rfl
@[simp] theorem updOp_pages (i : Nat) (f : Op → Op) : (s.updOp i f).pages = s.pages := rfl
@[simp] theorem updOp_priStop (i : Nat) (f : Op → Op) : (s.updOp i f).priStop = s.priStop := rfl
@[simp] theorem updOp_invals (i : Nat) (f : Op → Op) : (s.updOp i f).invals = s.invals := rfl
@[simp] theorem updOp_sems (i : Nat) (f : Op → Op) : (s.updOp i f).sems = s.sems := rfl
@[simp] theorem updOp_poison (i : Nat) (f : Op → Op) : (s.updOp i f).poison = s.poison := rfl
@[simp] theorem updOp_zeroing (i : Nat) (f : Op → Op) : (s.updOp i f).zeroing = s.zeroing := rfl
@[simp] theorem updOp_semHeld (i : Nat) (f : Op → Op) : (s.updOp i f).semHeld = s.semHeld := rfl
@[simp] theorem updOp_rings (i : Nat) (f : Op → Op) : (s.updOp i f).rings = s.rings := rfl
@[simp] theorem updOp_sched (i : Nat) (f : Op → Op) : (s.updOp i f).sched = s.sched := rfl
@[simp] theorem updOp_fqs (i : Nat) (f : Op → Op) : (s.updOp i f).fqs = s.fqs := rfl
@[simp] theorem updOp_ctxs (i : Nat) (f : Op → Op) : (s.updOp i f).ctxs = s.ctxs := rfl
@[simp] theorem updOp_txq (i : Nat) (f : Op → Op) : (s.updOp i f).txq = s.txq := rfl
@[simp] theorem updOp_srecs (i : Nat) (f : Op → Op) : (s.updOp i f).srecs = s.srecs := rfl
@[simp] theorem updOp_rrecs (i : Nat) (f : Op → Op) : (s.updOp i f).rrecs = s.rrecs := rfl
@[simp] theorem updOp_trackers (i : Nat) (f : Op → Op) : (s.updOp i f).trackers = s.trackers := rfl
@[simp] theorem updOp_parked (i : Nat) (f : Op → Op) : (s.updOp i f).parked = s.parked := rfl
@[simp] theorem updOp_loop (i : Nat) (f : Op → Op) : (s.updOp i f).loop = s.loop := rfl
@[simp] theorem updOp_nextMsg (i : Nat) (f : Op → Op) : (s.updOp i f).nextMsg = s.nextMsg := rfl
@[simp] theorem updOp_msgCount (i : Nat) (f : Op → Op) : (s.updOp i f).msgCount = s.msgCount := rfl
@[simp] theorem updOp_debt (i : Nat) (f : Op → Op) : (s.updOp i f).debt = s.debt := rfl
@[simp] theorem updOp_debtAt (i : Nat) (f : Op → Op) : (s.updOp i f).debtAt = s.debtAt := rfl
@[simp] theorem updOp_lifeOld (i : Nat) (f : Op → Op) : (s.updOp i f).lifeOld = s.lifeOld := rfl
@[simp] theorem updOp_posted (i : Nat) (f : Op → Op) : (s.updOp i f).posted = s.posted := rfl
@[simp] theorem updOp_wins (i : Nat) (f : Op → Op) : (s.updOp i f).wins = s.wins := rfl
@[simp] theorem updOp_insts (i : Nat) (f : Op → Op) : (s.updOp i f).insts = s.insts := rfl
@[simp] theorem updOp_fns (i : Nat) (f : Op → Op) : (s.updOp i f).fns = s.fns := rfl
@[simp] theorem updOp_vfEn (i : Nat) (f : Op → Op) : (s.updOp i f).vfEn = s.vfEn := rfl
@[simp] theorem updOp_numVfs (i : Nat) (f : Op → Op) : (s.updOp i f).numVfs = s.numVfs := rfl
@[simp] theorem updOp_priAlloc (i : Nat) (f : Op → Op) : (s.updOp i f).priAlloc = s.priAlloc := rfl
@[simp] theorem updOp_cxlMem (i : Nat) (f : Op → Op) : (s.updOp i f).cxlMem = s.cxlMem := rfl
@[simp] theorem updOp_msixTab (i : Nat) (f : Op → Op) : (s.updOp i f).msixTab = s.msixTab := rfl
@[simp] theorem updOp_msixPend (i : Nat) (f : Op → Op) : (s.updOp i f).msixPend = s.msixPend := rfl
@[simp] theorem updOp_filter (i : Nat) (f : Op → Op) : (s.updOp i f).filter = s.filter := rfl
@[simp] theorem updOp_freeing (i : Nat) (f : Op → Op) : (s.updOp i f).freeing = s.freeing := rfl
@[simp] theorem updOp_mcs (i : Nat) (f : Op → Op) : (s.updOp i f).mcs = s.mcs := rfl
@[simp] theorem updOp_split (i : Nat) (f : Op → Op) : (s.updOp i f).split = s.split := rfl
@[simp] theorem updOp_subs (i : Nat) (f : Op → Op) : (s.updOp i f).subs = s.subs := rfl
@[simp] theorem updOp_ingress (i : Nat) (f : Op → Op) : (s.updOp i f).ingress = s.ingress := rfl
@[simp] theorem updOp_fwdWrr (i : Nat) (f : Op → Op) : (s.updOp i f).fwdWrr = s.fwdWrr := rfl
@[simp] theorem updOp_time (i : Nat) (f : Op → Op) : (s.updOp i f).time = s.time := rfl
@[simp] theorem updOp_ephRows (i : Nat) (f : Op → Op) : (s.updOp i f).ephRows = s.ephRows := rfl
@[simp] theorem updOp_ephLive (i : Nat) (f : Op → Op) : (s.updOp i f).ephLive = s.ephLive := rfl
@[simp] theorem updOp_ephCopyAt (i : Nat) (f : Op → Op) : (s.updOp i f).ephCopyAt = s.ephCopyAt := rfl
@[simp] theorem updOp_keys (i : Nat) (f : Op → Op) : (s.updOp i f).keys = s.keys := rfl
@[simp] theorem updOp_cores (i : Nat) (f : Op → Op) : (s.updOp i f).cores = s.cores := rfl
@[simp] theorem updOp_cipherQ (i : Nat) (f : Op → Op) : (s.updOp i f).cipherQ = s.cipherQ := rfl
@[simp] theorem updOp_wraps (i : Nat) (f : Op → Op) : (s.updOp i f).wraps = s.wraps := rfl
@[simp] theorem updOp_boot (i : Nat) (f : Op → Op) : (s.updOp i f).boot = s.boot := rfl
@[simp] theorem updOp_fuses (i : Nat) (f : Op → Op) : (s.updOp i f).fuses = s.fuses := rfl
@[simp] theorem updOp_saved (i : Nat) (f : Op → Op) : (s.updOp i f).saved = s.saved := rfl
@[simp] theorem updOp_wakeHeld (i : Nat) (f : Op → Op) : (s.updOp i f).wakeHeld = s.wakeHeld := rfl
@[simp] theorem updOp_tripped (i : Nat) (f : Op → Op) : (s.updOp i f).tripped = s.tripped := rfl
@[simp] theorem updOp_capOk (i : Nat) (f : Op → Op) : (s.updOp i f).capOk = s.capOk := rfl
@[simp] theorem updOp_scrub (i : Nat) (f : Op → Op) : (s.updOp i f).scrub = s.scrub := rfl
@[simp] theorem updOp_tally (i : Nat) (f : Op → Op) : (s.updOp i f).tally = s.tally := rfl
@[simp] theorem updOp_comet (i : Nat) (f : Op → Op) : (s.updOp i f).comet = s.comet := rfl
@[simp] theorem updOp_night (i : Nat) (f : Op → Op) : (s.updOp i f).night = s.night := rfl
@[simp] theorem updOp_jtag (i : Nat) (f : Op → Op) : (s.updOp i f).jtag = s.jtag := rfl

/-! ## An emission changes out and tally alone -/

@[simp] theorem emit_pending (e : Emission) : (s.emit e).pending = s.pending := rfl
@[simp] theorem emit_free (e : Emission) : (s.emit e).free = s.free := rfl
@[simp] theorem emit_fresh (e : Emission) : (s.emit e).fresh = s.fresh := rfl
@[simp] theorem emit_ps (e : Emission) : (s.emit e).ps = s.ps := rfl
@[simp] theorem emit_ck (e : Emission) : (s.emit e).ck = s.ck := rfl
@[simp] theorem emit_regs (e : Emission) : (s.emit e).regs = s.regs := rfl
@[simp] theorem emit_shadow (e : Emission) : (s.emit e).shadow = s.shadow := rfl
@[simp] theorem emit_ownRes (e : Emission) : (s.emit e).ownRes = s.ownRes := rfl
@[simp] theorem emit_leaseAt (e : Emission) : (s.emit e).leaseAt = s.leaseAt := rfl
@[simp] theorem emit_mem (e : Emission) : (s.emit e).mem = s.mem := rfl
@[simp] theorem emit_raw (e : Emission) : (s.emit e).raw = s.raw := rfl
@[simp] theorem emit_tmem (e : Emission) : (s.emit e).tmem = s.tmem := rfl
@[simp] theorem emit_nbuf (e : Emission) : (s.emit e).nbuf = s.nbuf := rfl
@[simp] theorem emit_pio (e : Emission) : (s.emit e).pio = s.pio := rfl
@[simp] theorem emit_slots (e : Emission) : (s.emit e).slots = s.slots := rfl
@[simp] theorem emit_images (e : Emission) : (s.emit e).images = s.images := rfl
@[simp] theorem emit_ops (e : Emission) : (s.emit e).ops = s.ops := rfl
@[simp] theorem emit_jobs (e : Emission) : (s.emit e).jobs = s.jobs := rfl
@[simp] theorem emit_arrSeq (e : Emission) : (s.emit e).arrSeq = s.arrSeq := rfl
@[simp] theorem emit_armed (e : Emission) : (s.emit e).armed = s.armed := rfl
@[simp] theorem emit_laneMap (e : Emission) : (s.emit e).laneMap = s.laneMap := rfl
@[simp] theorem emit_reads (e : Emission) : (s.emit e).reads = s.reads := rfl
@[simp] theorem emit_writes (e : Emission) : (s.emit e).writes = s.writes := rfl
@[simp] theorem emit_atc (e : Emission) : (s.emit e).atc = s.atc := rfl
@[simp] theorem emit_xlating (e : Emission) : (s.emit e).xlating = s.xlating := rfl
@[simp] theorem emit_pages (e : Emission) : (s.emit e).pages = s.pages := rfl
@[simp] theorem emit_priStop (e : Emission) : (s.emit e).priStop = s.priStop := rfl
@[simp] theorem emit_invals (e : Emission) : (s.emit e).invals = s.invals := rfl
@[simp] theorem emit_sems (e : Emission) : (s.emit e).sems = s.sems := rfl
@[simp] theorem emit_poison (e : Emission) : (s.emit e).poison = s.poison := rfl
@[simp] theorem emit_zeroing (e : Emission) : (s.emit e).zeroing = s.zeroing := rfl
@[simp] theorem emit_semHeld (e : Emission) : (s.emit e).semHeld = s.semHeld := rfl
@[simp] theorem emit_rings (e : Emission) : (s.emit e).rings = s.rings := rfl
@[simp] theorem emit_sched (e : Emission) : (s.emit e).sched = s.sched := rfl
@[simp] theorem emit_fqs (e : Emission) : (s.emit e).fqs = s.fqs := rfl
@[simp] theorem emit_ctxs (e : Emission) : (s.emit e).ctxs = s.ctxs := rfl
@[simp] theorem emit_txq (e : Emission) : (s.emit e).txq = s.txq := rfl
@[simp] theorem emit_srecs (e : Emission) : (s.emit e).srecs = s.srecs := rfl
@[simp] theorem emit_rrecs (e : Emission) : (s.emit e).rrecs = s.rrecs := rfl
@[simp] theorem emit_trackers (e : Emission) : (s.emit e).trackers = s.trackers := rfl
@[simp] theorem emit_parked (e : Emission) : (s.emit e).parked = s.parked := rfl
@[simp] theorem emit_loop (e : Emission) : (s.emit e).loop = s.loop := rfl
@[simp] theorem emit_nextMsg (e : Emission) : (s.emit e).nextMsg = s.nextMsg := rfl
@[simp] theorem emit_msgCount (e : Emission) : (s.emit e).msgCount = s.msgCount := rfl
@[simp] theorem emit_debt (e : Emission) : (s.emit e).debt = s.debt := rfl
@[simp] theorem emit_debtAt (e : Emission) : (s.emit e).debtAt = s.debtAt := rfl
@[simp] theorem emit_lifeOld (e : Emission) : (s.emit e).lifeOld = s.lifeOld := rfl
@[simp] theorem emit_posted (e : Emission) : (s.emit e).posted = s.posted := rfl
@[simp] theorem emit_wins (e : Emission) : (s.emit e).wins = s.wins := rfl
@[simp] theorem emit_insts (e : Emission) : (s.emit e).insts = s.insts := rfl
@[simp] theorem emit_fns (e : Emission) : (s.emit e).fns = s.fns := rfl
@[simp] theorem emit_vfEn (e : Emission) : (s.emit e).vfEn = s.vfEn := rfl
@[simp] theorem emit_numVfs (e : Emission) : (s.emit e).numVfs = s.numVfs := rfl
@[simp] theorem emit_priAlloc (e : Emission) : (s.emit e).priAlloc = s.priAlloc := rfl
@[simp] theorem emit_cxlMem (e : Emission) : (s.emit e).cxlMem = s.cxlMem := rfl
@[simp] theorem emit_msixTab (e : Emission) : (s.emit e).msixTab = s.msixTab := rfl
@[simp] theorem emit_msixPend (e : Emission) : (s.emit e).msixPend = s.msixPend := rfl
@[simp] theorem emit_filter (e : Emission) : (s.emit e).filter = s.filter := rfl
@[simp] theorem emit_freeing (e : Emission) : (s.emit e).freeing = s.freeing := rfl
@[simp] theorem emit_mcs (e : Emission) : (s.emit e).mcs = s.mcs := rfl
@[simp] theorem emit_split (e : Emission) : (s.emit e).split = s.split := rfl
@[simp] theorem emit_subs (e : Emission) : (s.emit e).subs = s.subs := rfl
@[simp] theorem emit_ingress (e : Emission) : (s.emit e).ingress = s.ingress := rfl
@[simp] theorem emit_fwdWrr (e : Emission) : (s.emit e).fwdWrr = s.fwdWrr := rfl
@[simp] theorem emit_time (e : Emission) : (s.emit e).time = s.time := rfl
@[simp] theorem emit_ephRows (e : Emission) : (s.emit e).ephRows = s.ephRows := rfl
@[simp] theorem emit_ephLive (e : Emission) : (s.emit e).ephLive = s.ephLive := rfl
@[simp] theorem emit_ephCopyAt (e : Emission) : (s.emit e).ephCopyAt = s.ephCopyAt := rfl
@[simp] theorem emit_keys (e : Emission) : (s.emit e).keys = s.keys := rfl
@[simp] theorem emit_cores (e : Emission) : (s.emit e).cores = s.cores := rfl
@[simp] theorem emit_cipherQ (e : Emission) : (s.emit e).cipherQ = s.cipherQ := rfl
@[simp] theorem emit_wraps (e : Emission) : (s.emit e).wraps = s.wraps := rfl
@[simp] theorem emit_boot (e : Emission) : (s.emit e).boot = s.boot := rfl
@[simp] theorem emit_fuses (e : Emission) : (s.emit e).fuses = s.fuses := rfl
@[simp] theorem emit_saved (e : Emission) : (s.emit e).saved = s.saved := rfl
@[simp] theorem emit_wakeHeld (e : Emission) : (s.emit e).wakeHeld = s.wakeHeld := rfl
@[simp] theorem emit_tripped (e : Emission) : (s.emit e).tripped = s.tripped := rfl
@[simp] theorem emit_capOk (e : Emission) : (s.emit e).capOk = s.capOk := rfl
@[simp] theorem emit_scrub (e : Emission) : (s.emit e).scrub = s.scrub := rfl
@[simp] theorem emit_comet (e : Emission) : (s.emit e).comet = s.comet := rfl
@[simp] theorem emit_night (e : Emission) : (s.emit e).night = s.night := rfl
@[simp] theorem emit_jtag (e : Emission) : (s.emit e).jtag = s.jtag := rfl

/-! ## Setting a ring changes rings alone -/

@[simp] theorem setRing_pending (r : Nat) (x : Ring) : (s.setRing r x).pending = s.pending := rfl
@[simp] theorem setRing_free (r : Nat) (x : Ring) : (s.setRing r x).free = s.free := rfl
@[simp] theorem setRing_out (r : Nat) (x : Ring) : (s.setRing r x).out = s.out := rfl
@[simp] theorem setRing_fresh (r : Nat) (x : Ring) : (s.setRing r x).fresh = s.fresh := rfl
@[simp] theorem setRing_ps (r : Nat) (x : Ring) : (s.setRing r x).ps = s.ps := rfl
@[simp] theorem setRing_ck (r : Nat) (x : Ring) : (s.setRing r x).ck = s.ck := rfl
@[simp] theorem setRing_regs (r : Nat) (x : Ring) : (s.setRing r x).regs = s.regs := rfl
@[simp] theorem setRing_shadow (r : Nat) (x : Ring) : (s.setRing r x).shadow = s.shadow := rfl
@[simp] theorem setRing_ownRes (r : Nat) (x : Ring) : (s.setRing r x).ownRes = s.ownRes := rfl
@[simp] theorem setRing_leaseAt (r : Nat) (x : Ring) : (s.setRing r x).leaseAt = s.leaseAt := rfl
@[simp] theorem setRing_mem (r : Nat) (x : Ring) : (s.setRing r x).mem = s.mem := rfl
@[simp] theorem setRing_raw (r : Nat) (x : Ring) : (s.setRing r x).raw = s.raw := rfl
@[simp] theorem setRing_tmem (r : Nat) (x : Ring) : (s.setRing r x).tmem = s.tmem := rfl
@[simp] theorem setRing_nbuf (r : Nat) (x : Ring) : (s.setRing r x).nbuf = s.nbuf := rfl
@[simp] theorem setRing_pio (r : Nat) (x : Ring) : (s.setRing r x).pio = s.pio := rfl
@[simp] theorem setRing_slots (r : Nat) (x : Ring) : (s.setRing r x).slots = s.slots := rfl
@[simp] theorem setRing_images (r : Nat) (x : Ring) : (s.setRing r x).images = s.images := rfl
@[simp] theorem setRing_ops (r : Nat) (x : Ring) : (s.setRing r x).ops = s.ops := rfl
@[simp] theorem setRing_jobs (r : Nat) (x : Ring) : (s.setRing r x).jobs = s.jobs := rfl
@[simp] theorem setRing_arrSeq (r : Nat) (x : Ring) : (s.setRing r x).arrSeq = s.arrSeq := rfl
@[simp] theorem setRing_armed (r : Nat) (x : Ring) : (s.setRing r x).armed = s.armed := rfl
@[simp] theorem setRing_laneMap (r : Nat) (x : Ring) : (s.setRing r x).laneMap = s.laneMap := rfl
@[simp] theorem setRing_reads (r : Nat) (x : Ring) : (s.setRing r x).reads = s.reads := rfl
@[simp] theorem setRing_writes (r : Nat) (x : Ring) : (s.setRing r x).writes = s.writes := rfl
@[simp] theorem setRing_atc (r : Nat) (x : Ring) : (s.setRing r x).atc = s.atc := rfl
@[simp] theorem setRing_xlating (r : Nat) (x : Ring) : (s.setRing r x).xlating = s.xlating := rfl
@[simp] theorem setRing_pages (r : Nat) (x : Ring) : (s.setRing r x).pages = s.pages := rfl
@[simp] theorem setRing_priStop (r : Nat) (x : Ring) : (s.setRing r x).priStop = s.priStop := rfl
@[simp] theorem setRing_invals (r : Nat) (x : Ring) : (s.setRing r x).invals = s.invals := rfl
@[simp] theorem setRing_sems (r : Nat) (x : Ring) : (s.setRing r x).sems = s.sems := rfl
@[simp] theorem setRing_poison (r : Nat) (x : Ring) : (s.setRing r x).poison = s.poison := rfl
@[simp] theorem setRing_zeroing (r : Nat) (x : Ring) : (s.setRing r x).zeroing = s.zeroing := rfl
@[simp] theorem setRing_semHeld (r : Nat) (x : Ring) : (s.setRing r x).semHeld = s.semHeld := rfl
@[simp] theorem setRing_sched (r : Nat) (x : Ring) : (s.setRing r x).sched = s.sched := rfl
@[simp] theorem setRing_fqs (r : Nat) (x : Ring) : (s.setRing r x).fqs = s.fqs := rfl
@[simp] theorem setRing_ctxs (r : Nat) (x : Ring) : (s.setRing r x).ctxs = s.ctxs := rfl
@[simp] theorem setRing_txq (r : Nat) (x : Ring) : (s.setRing r x).txq = s.txq := rfl
@[simp] theorem setRing_srecs (r : Nat) (x : Ring) : (s.setRing r x).srecs = s.srecs := rfl
@[simp] theorem setRing_rrecs (r : Nat) (x : Ring) : (s.setRing r x).rrecs = s.rrecs := rfl
@[simp] theorem setRing_trackers (r : Nat) (x : Ring) : (s.setRing r x).trackers = s.trackers := rfl
@[simp] theorem setRing_parked (r : Nat) (x : Ring) : (s.setRing r x).parked = s.parked := rfl
@[simp] theorem setRing_loop (r : Nat) (x : Ring) : (s.setRing r x).loop = s.loop := rfl
@[simp] theorem setRing_nextMsg (r : Nat) (x : Ring) : (s.setRing r x).nextMsg = s.nextMsg := rfl
@[simp] theorem setRing_msgCount (r : Nat) (x : Ring) : (s.setRing r x).msgCount = s.msgCount := rfl
@[simp] theorem setRing_debt (r : Nat) (x : Ring) : (s.setRing r x).debt = s.debt := rfl
@[simp] theorem setRing_debtAt (r : Nat) (x : Ring) : (s.setRing r x).debtAt = s.debtAt := rfl
@[simp] theorem setRing_lifeOld (r : Nat) (x : Ring) : (s.setRing r x).lifeOld = s.lifeOld := rfl
@[simp] theorem setRing_posted (r : Nat) (x : Ring) : (s.setRing r x).posted = s.posted := rfl
@[simp] theorem setRing_wins (r : Nat) (x : Ring) : (s.setRing r x).wins = s.wins := rfl
@[simp] theorem setRing_insts (r : Nat) (x : Ring) : (s.setRing r x).insts = s.insts := rfl
@[simp] theorem setRing_fns (r : Nat) (x : Ring) : (s.setRing r x).fns = s.fns := rfl
@[simp] theorem setRing_vfEn (r : Nat) (x : Ring) : (s.setRing r x).vfEn = s.vfEn := rfl
@[simp] theorem setRing_numVfs (r : Nat) (x : Ring) : (s.setRing r x).numVfs = s.numVfs := rfl
@[simp] theorem setRing_priAlloc (r : Nat) (x : Ring) : (s.setRing r x).priAlloc = s.priAlloc := rfl
@[simp] theorem setRing_cxlMem (r : Nat) (x : Ring) : (s.setRing r x).cxlMem = s.cxlMem := rfl
@[simp] theorem setRing_msixTab (r : Nat) (x : Ring) : (s.setRing r x).msixTab = s.msixTab := rfl
@[simp] theorem setRing_msixPend (r : Nat) (x : Ring) : (s.setRing r x).msixPend = s.msixPend := rfl
@[simp] theorem setRing_filter (r : Nat) (x : Ring) : (s.setRing r x).filter = s.filter := rfl
@[simp] theorem setRing_freeing (r : Nat) (x : Ring) : (s.setRing r x).freeing = s.freeing := rfl
@[simp] theorem setRing_mcs (r : Nat) (x : Ring) : (s.setRing r x).mcs = s.mcs := rfl
@[simp] theorem setRing_split (r : Nat) (x : Ring) : (s.setRing r x).split = s.split := rfl
@[simp] theorem setRing_subs (r : Nat) (x : Ring) : (s.setRing r x).subs = s.subs := rfl
@[simp] theorem setRing_ingress (r : Nat) (x : Ring) : (s.setRing r x).ingress = s.ingress := rfl
@[simp] theorem setRing_fwdWrr (r : Nat) (x : Ring) : (s.setRing r x).fwdWrr = s.fwdWrr := rfl
@[simp] theorem setRing_time (r : Nat) (x : Ring) : (s.setRing r x).time = s.time := rfl
@[simp] theorem setRing_ephRows (r : Nat) (x : Ring) : (s.setRing r x).ephRows = s.ephRows := rfl
@[simp] theorem setRing_ephLive (r : Nat) (x : Ring) : (s.setRing r x).ephLive = s.ephLive := rfl
@[simp] theorem setRing_ephCopyAt (r : Nat) (x : Ring) : (s.setRing r x).ephCopyAt = s.ephCopyAt := rfl
@[simp] theorem setRing_keys (r : Nat) (x : Ring) : (s.setRing r x).keys = s.keys := rfl
@[simp] theorem setRing_cores (r : Nat) (x : Ring) : (s.setRing r x).cores = s.cores := rfl
@[simp] theorem setRing_cipherQ (r : Nat) (x : Ring) : (s.setRing r x).cipherQ = s.cipherQ := rfl
@[simp] theorem setRing_wraps (r : Nat) (x : Ring) : (s.setRing r x).wraps = s.wraps := rfl
@[simp] theorem setRing_boot (r : Nat) (x : Ring) : (s.setRing r x).boot = s.boot := rfl
@[simp] theorem setRing_fuses (r : Nat) (x : Ring) : (s.setRing r x).fuses = s.fuses := rfl
@[simp] theorem setRing_saved (r : Nat) (x : Ring) : (s.setRing r x).saved = s.saved := rfl
@[simp] theorem setRing_wakeHeld (r : Nat) (x : Ring) : (s.setRing r x).wakeHeld = s.wakeHeld := rfl
@[simp] theorem setRing_tripped (r : Nat) (x : Ring) : (s.setRing r x).tripped = s.tripped := rfl
@[simp] theorem setRing_capOk (r : Nat) (x : Ring) : (s.setRing r x).capOk = s.capOk := rfl
@[simp] theorem setRing_scrub (r : Nat) (x : Ring) : (s.setRing r x).scrub = s.scrub := rfl
@[simp] theorem setRing_tally (r : Nat) (x : Ring) : (s.setRing r x).tally = s.tally := rfl
@[simp] theorem setRing_comet (r : Nat) (x : Ring) : (s.setRing r x).comet = s.comet := rfl
@[simp] theorem setRing_night (r : Nat) (x : Ring) : (s.setRing r x).night = s.night := rfl
@[simp] theorem setRing_jtag (r : Nat) (x : Ring) : (s.setRing r x).jtag = s.jtag := rfl

/-! ## Setting a context changes ctxs alone -/

@[simp] theorem setCtx_pending (c : BitVec 20) (x : Ctx) : (s.setCtx c x).pending = s.pending := rfl
@[simp] theorem setCtx_free (c : BitVec 20) (x : Ctx) : (s.setCtx c x).free = s.free := rfl
@[simp] theorem setCtx_out (c : BitVec 20) (x : Ctx) : (s.setCtx c x).out = s.out := rfl
@[simp] theorem setCtx_fresh (c : BitVec 20) (x : Ctx) : (s.setCtx c x).fresh = s.fresh := rfl
@[simp] theorem setCtx_ps (c : BitVec 20) (x : Ctx) : (s.setCtx c x).ps = s.ps := rfl
@[simp] theorem setCtx_ck (c : BitVec 20) (x : Ctx) : (s.setCtx c x).ck = s.ck := rfl
@[simp] theorem setCtx_regs (c : BitVec 20) (x : Ctx) : (s.setCtx c x).regs = s.regs := rfl
@[simp] theorem setCtx_shadow (c : BitVec 20) (x : Ctx) : (s.setCtx c x).shadow = s.shadow := rfl
@[simp] theorem setCtx_ownRes (c : BitVec 20) (x : Ctx) : (s.setCtx c x).ownRes = s.ownRes := rfl
@[simp] theorem setCtx_leaseAt (c : BitVec 20) (x : Ctx) : (s.setCtx c x).leaseAt = s.leaseAt := rfl
@[simp] theorem setCtx_mem (c : BitVec 20) (x : Ctx) : (s.setCtx c x).mem = s.mem := rfl
@[simp] theorem setCtx_raw (c : BitVec 20) (x : Ctx) : (s.setCtx c x).raw = s.raw := rfl
@[simp] theorem setCtx_tmem (c : BitVec 20) (x : Ctx) : (s.setCtx c x).tmem = s.tmem := rfl
@[simp] theorem setCtx_nbuf (c : BitVec 20) (x : Ctx) : (s.setCtx c x).nbuf = s.nbuf := rfl
@[simp] theorem setCtx_pio (c : BitVec 20) (x : Ctx) : (s.setCtx c x).pio = s.pio := rfl
@[simp] theorem setCtx_slots (c : BitVec 20) (x : Ctx) : (s.setCtx c x).slots = s.slots := rfl
@[simp] theorem setCtx_images (c : BitVec 20) (x : Ctx) : (s.setCtx c x).images = s.images := rfl
@[simp] theorem setCtx_ops (c : BitVec 20) (x : Ctx) : (s.setCtx c x).ops = s.ops := rfl
@[simp] theorem setCtx_jobs (c : BitVec 20) (x : Ctx) : (s.setCtx c x).jobs = s.jobs := rfl
@[simp] theorem setCtx_arrSeq (c : BitVec 20) (x : Ctx) : (s.setCtx c x).arrSeq = s.arrSeq := rfl
@[simp] theorem setCtx_armed (c : BitVec 20) (x : Ctx) : (s.setCtx c x).armed = s.armed := rfl
@[simp] theorem setCtx_laneMap (c : BitVec 20) (x : Ctx) : (s.setCtx c x).laneMap = s.laneMap := rfl
@[simp] theorem setCtx_reads (c : BitVec 20) (x : Ctx) : (s.setCtx c x).reads = s.reads := rfl
@[simp] theorem setCtx_writes (c : BitVec 20) (x : Ctx) : (s.setCtx c x).writes = s.writes := rfl
@[simp] theorem setCtx_atc (c : BitVec 20) (x : Ctx) : (s.setCtx c x).atc = s.atc := rfl
@[simp] theorem setCtx_xlating (c : BitVec 20) (x : Ctx) : (s.setCtx c x).xlating = s.xlating := rfl
@[simp] theorem setCtx_pages (c : BitVec 20) (x : Ctx) : (s.setCtx c x).pages = s.pages := rfl
@[simp] theorem setCtx_priStop (c : BitVec 20) (x : Ctx) : (s.setCtx c x).priStop = s.priStop := rfl
@[simp] theorem setCtx_invals (c : BitVec 20) (x : Ctx) : (s.setCtx c x).invals = s.invals := rfl
@[simp] theorem setCtx_sems (c : BitVec 20) (x : Ctx) : (s.setCtx c x).sems = s.sems := rfl
@[simp] theorem setCtx_poison (c : BitVec 20) (x : Ctx) : (s.setCtx c x).poison = s.poison := rfl
@[simp] theorem setCtx_zeroing (c : BitVec 20) (x : Ctx) : (s.setCtx c x).zeroing = s.zeroing := rfl
@[simp] theorem setCtx_semHeld (c : BitVec 20) (x : Ctx) : (s.setCtx c x).semHeld = s.semHeld := rfl
@[simp] theorem setCtx_rings (c : BitVec 20) (x : Ctx) : (s.setCtx c x).rings = s.rings := rfl
@[simp] theorem setCtx_sched (c : BitVec 20) (x : Ctx) : (s.setCtx c x).sched = s.sched := rfl
@[simp] theorem setCtx_fqs (c : BitVec 20) (x : Ctx) : (s.setCtx c x).fqs = s.fqs := rfl
@[simp] theorem setCtx_txq (c : BitVec 20) (x : Ctx) : (s.setCtx c x).txq = s.txq := rfl
@[simp] theorem setCtx_srecs (c : BitVec 20) (x : Ctx) : (s.setCtx c x).srecs = s.srecs := rfl
@[simp] theorem setCtx_rrecs (c : BitVec 20) (x : Ctx) : (s.setCtx c x).rrecs = s.rrecs := rfl
@[simp] theorem setCtx_trackers (c : BitVec 20) (x : Ctx) : (s.setCtx c x).trackers = s.trackers := rfl
@[simp] theorem setCtx_parked (c : BitVec 20) (x : Ctx) : (s.setCtx c x).parked = s.parked := rfl
@[simp] theorem setCtx_loop (c : BitVec 20) (x : Ctx) : (s.setCtx c x).loop = s.loop := rfl
@[simp] theorem setCtx_nextMsg (c : BitVec 20) (x : Ctx) : (s.setCtx c x).nextMsg = s.nextMsg := rfl
@[simp] theorem setCtx_msgCount (c : BitVec 20) (x : Ctx) : (s.setCtx c x).msgCount = s.msgCount := rfl
@[simp] theorem setCtx_debt (c : BitVec 20) (x : Ctx) : (s.setCtx c x).debt = s.debt := rfl
@[simp] theorem setCtx_debtAt (c : BitVec 20) (x : Ctx) : (s.setCtx c x).debtAt = s.debtAt := rfl
@[simp] theorem setCtx_lifeOld (c : BitVec 20) (x : Ctx) : (s.setCtx c x).lifeOld = s.lifeOld := rfl
@[simp] theorem setCtx_posted (c : BitVec 20) (x : Ctx) : (s.setCtx c x).posted = s.posted := rfl
@[simp] theorem setCtx_wins (c : BitVec 20) (x : Ctx) : (s.setCtx c x).wins = s.wins := rfl
@[simp] theorem setCtx_insts (c : BitVec 20) (x : Ctx) : (s.setCtx c x).insts = s.insts := rfl
@[simp] theorem setCtx_fns (c : BitVec 20) (x : Ctx) : (s.setCtx c x).fns = s.fns := rfl
@[simp] theorem setCtx_vfEn (c : BitVec 20) (x : Ctx) : (s.setCtx c x).vfEn = s.vfEn := rfl
@[simp] theorem setCtx_numVfs (c : BitVec 20) (x : Ctx) : (s.setCtx c x).numVfs = s.numVfs := rfl
@[simp] theorem setCtx_priAlloc (c : BitVec 20) (x : Ctx) : (s.setCtx c x).priAlloc = s.priAlloc := rfl
@[simp] theorem setCtx_cxlMem (c : BitVec 20) (x : Ctx) : (s.setCtx c x).cxlMem = s.cxlMem := rfl
@[simp] theorem setCtx_msixTab (c : BitVec 20) (x : Ctx) : (s.setCtx c x).msixTab = s.msixTab := rfl
@[simp] theorem setCtx_msixPend (c : BitVec 20) (x : Ctx) : (s.setCtx c x).msixPend = s.msixPend := rfl
@[simp] theorem setCtx_filter (c : BitVec 20) (x : Ctx) : (s.setCtx c x).filter = s.filter := rfl
@[simp] theorem setCtx_freeing (c : BitVec 20) (x : Ctx) : (s.setCtx c x).freeing = s.freeing := rfl
@[simp] theorem setCtx_mcs (c : BitVec 20) (x : Ctx) : (s.setCtx c x).mcs = s.mcs := rfl
@[simp] theorem setCtx_split (c : BitVec 20) (x : Ctx) : (s.setCtx c x).split = s.split := rfl
@[simp] theorem setCtx_subs (c : BitVec 20) (x : Ctx) : (s.setCtx c x).subs = s.subs := rfl
@[simp] theorem setCtx_ingress (c : BitVec 20) (x : Ctx) : (s.setCtx c x).ingress = s.ingress := rfl
@[simp] theorem setCtx_fwdWrr (c : BitVec 20) (x : Ctx) : (s.setCtx c x).fwdWrr = s.fwdWrr := rfl
@[simp] theorem setCtx_time (c : BitVec 20) (x : Ctx) : (s.setCtx c x).time = s.time := rfl
@[simp] theorem setCtx_ephRows (c : BitVec 20) (x : Ctx) : (s.setCtx c x).ephRows = s.ephRows := rfl
@[simp] theorem setCtx_ephLive (c : BitVec 20) (x : Ctx) : (s.setCtx c x).ephLive = s.ephLive := rfl
@[simp] theorem setCtx_ephCopyAt (c : BitVec 20) (x : Ctx) : (s.setCtx c x).ephCopyAt = s.ephCopyAt := rfl
@[simp] theorem setCtx_keys (c : BitVec 20) (x : Ctx) : (s.setCtx c x).keys = s.keys := rfl
@[simp] theorem setCtx_cores (c : BitVec 20) (x : Ctx) : (s.setCtx c x).cores = s.cores := rfl
@[simp] theorem setCtx_cipherQ (c : BitVec 20) (x : Ctx) : (s.setCtx c x).cipherQ = s.cipherQ := rfl
@[simp] theorem setCtx_wraps (c : BitVec 20) (x : Ctx) : (s.setCtx c x).wraps = s.wraps := rfl
@[simp] theorem setCtx_boot (c : BitVec 20) (x : Ctx) : (s.setCtx c x).boot = s.boot := rfl
@[simp] theorem setCtx_fuses (c : BitVec 20) (x : Ctx) : (s.setCtx c x).fuses = s.fuses := rfl
@[simp] theorem setCtx_saved (c : BitVec 20) (x : Ctx) : (s.setCtx c x).saved = s.saved := rfl
@[simp] theorem setCtx_wakeHeld (c : BitVec 20) (x : Ctx) : (s.setCtx c x).wakeHeld = s.wakeHeld := rfl
@[simp] theorem setCtx_tripped (c : BitVec 20) (x : Ctx) : (s.setCtx c x).tripped = s.tripped := rfl
@[simp] theorem setCtx_capOk (c : BitVec 20) (x : Ctx) : (s.setCtx c x).capOk = s.capOk := rfl
@[simp] theorem setCtx_scrub (c : BitVec 20) (x : Ctx) : (s.setCtx c x).scrub = s.scrub := rfl
@[simp] theorem setCtx_tally (c : BitVec 20) (x : Ctx) : (s.setCtx c x).tally = s.tally := rfl
@[simp] theorem setCtx_comet (c : BitVec 20) (x : Ctx) : (s.setCtx c x).comet = s.comet := rfl
@[simp] theorem setCtx_night (c : BitVec 20) (x : Ctx) : (s.setCtx c x).night = s.night := rfl
@[simp] theorem setCtx_jtag (c : BitVec 20) (x : Ctx) : (s.setCtx c x).jtag = s.jtag := rfl

/-! ## Setting a window changes wins alone -/

@[simp] theorem setWin_pending (n : Nat) (x : Win) : (s.setWin n x).pending = s.pending := rfl
@[simp] theorem setWin_free (n : Nat) (x : Win) : (s.setWin n x).free = s.free := rfl
@[simp] theorem setWin_out (n : Nat) (x : Win) : (s.setWin n x).out = s.out := rfl
@[simp] theorem setWin_fresh (n : Nat) (x : Win) : (s.setWin n x).fresh = s.fresh := rfl
@[simp] theorem setWin_ps (n : Nat) (x : Win) : (s.setWin n x).ps = s.ps := rfl
@[simp] theorem setWin_ck (n : Nat) (x : Win) : (s.setWin n x).ck = s.ck := rfl
@[simp] theorem setWin_regs (n : Nat) (x : Win) : (s.setWin n x).regs = s.regs := rfl
@[simp] theorem setWin_shadow (n : Nat) (x : Win) : (s.setWin n x).shadow = s.shadow := rfl
@[simp] theorem setWin_ownRes (n : Nat) (x : Win) : (s.setWin n x).ownRes = s.ownRes := rfl
@[simp] theorem setWin_leaseAt (n : Nat) (x : Win) : (s.setWin n x).leaseAt = s.leaseAt := rfl
@[simp] theorem setWin_mem (n : Nat) (x : Win) : (s.setWin n x).mem = s.mem := rfl
@[simp] theorem setWin_raw (n : Nat) (x : Win) : (s.setWin n x).raw = s.raw := rfl
@[simp] theorem setWin_tmem (n : Nat) (x : Win) : (s.setWin n x).tmem = s.tmem := rfl
@[simp] theorem setWin_nbuf (n : Nat) (x : Win) : (s.setWin n x).nbuf = s.nbuf := rfl
@[simp] theorem setWin_pio (n : Nat) (x : Win) : (s.setWin n x).pio = s.pio := rfl
@[simp] theorem setWin_slots (n : Nat) (x : Win) : (s.setWin n x).slots = s.slots := rfl
@[simp] theorem setWin_images (n : Nat) (x : Win) : (s.setWin n x).images = s.images := rfl
@[simp] theorem setWin_ops (n : Nat) (x : Win) : (s.setWin n x).ops = s.ops := rfl
@[simp] theorem setWin_jobs (n : Nat) (x : Win) : (s.setWin n x).jobs = s.jobs := rfl
@[simp] theorem setWin_arrSeq (n : Nat) (x : Win) : (s.setWin n x).arrSeq = s.arrSeq := rfl
@[simp] theorem setWin_armed (n : Nat) (x : Win) : (s.setWin n x).armed = s.armed := rfl
@[simp] theorem setWin_laneMap (n : Nat) (x : Win) : (s.setWin n x).laneMap = s.laneMap := rfl
@[simp] theorem setWin_reads (n : Nat) (x : Win) : (s.setWin n x).reads = s.reads := rfl
@[simp] theorem setWin_writes (n : Nat) (x : Win) : (s.setWin n x).writes = s.writes := rfl
@[simp] theorem setWin_atc (n : Nat) (x : Win) : (s.setWin n x).atc = s.atc := rfl
@[simp] theorem setWin_xlating (n : Nat) (x : Win) : (s.setWin n x).xlating = s.xlating := rfl
@[simp] theorem setWin_pages (n : Nat) (x : Win) : (s.setWin n x).pages = s.pages := rfl
@[simp] theorem setWin_priStop (n : Nat) (x : Win) : (s.setWin n x).priStop = s.priStop := rfl
@[simp] theorem setWin_invals (n : Nat) (x : Win) : (s.setWin n x).invals = s.invals := rfl
@[simp] theorem setWin_sems (n : Nat) (x : Win) : (s.setWin n x).sems = s.sems := rfl
@[simp] theorem setWin_poison (n : Nat) (x : Win) : (s.setWin n x).poison = s.poison := rfl
@[simp] theorem setWin_zeroing (n : Nat) (x : Win) : (s.setWin n x).zeroing = s.zeroing := rfl
@[simp] theorem setWin_semHeld (n : Nat) (x : Win) : (s.setWin n x).semHeld = s.semHeld := rfl
@[simp] theorem setWin_rings (n : Nat) (x : Win) : (s.setWin n x).rings = s.rings := rfl
@[simp] theorem setWin_sched (n : Nat) (x : Win) : (s.setWin n x).sched = s.sched := rfl
@[simp] theorem setWin_fqs (n : Nat) (x : Win) : (s.setWin n x).fqs = s.fqs := rfl
@[simp] theorem setWin_ctxs (n : Nat) (x : Win) : (s.setWin n x).ctxs = s.ctxs := rfl
@[simp] theorem setWin_txq (n : Nat) (x : Win) : (s.setWin n x).txq = s.txq := rfl
@[simp] theorem setWin_srecs (n : Nat) (x : Win) : (s.setWin n x).srecs = s.srecs := rfl
@[simp] theorem setWin_rrecs (n : Nat) (x : Win) : (s.setWin n x).rrecs = s.rrecs := rfl
@[simp] theorem setWin_trackers (n : Nat) (x : Win) : (s.setWin n x).trackers = s.trackers := rfl
@[simp] theorem setWin_parked (n : Nat) (x : Win) : (s.setWin n x).parked = s.parked := rfl
@[simp] theorem setWin_loop (n : Nat) (x : Win) : (s.setWin n x).loop = s.loop := rfl
@[simp] theorem setWin_nextMsg (n : Nat) (x : Win) : (s.setWin n x).nextMsg = s.nextMsg := rfl
@[simp] theorem setWin_msgCount (n : Nat) (x : Win) : (s.setWin n x).msgCount = s.msgCount := rfl
@[simp] theorem setWin_debt (n : Nat) (x : Win) : (s.setWin n x).debt = s.debt := rfl
@[simp] theorem setWin_debtAt (n : Nat) (x : Win) : (s.setWin n x).debtAt = s.debtAt := rfl
@[simp] theorem setWin_lifeOld (n : Nat) (x : Win) : (s.setWin n x).lifeOld = s.lifeOld := rfl
@[simp] theorem setWin_posted (n : Nat) (x : Win) : (s.setWin n x).posted = s.posted := rfl
@[simp] theorem setWin_insts (n : Nat) (x : Win) : (s.setWin n x).insts = s.insts := rfl
@[simp] theorem setWin_fns (n : Nat) (x : Win) : (s.setWin n x).fns = s.fns := rfl
@[simp] theorem setWin_vfEn (n : Nat) (x : Win) : (s.setWin n x).vfEn = s.vfEn := rfl
@[simp] theorem setWin_numVfs (n : Nat) (x : Win) : (s.setWin n x).numVfs = s.numVfs := rfl
@[simp] theorem setWin_priAlloc (n : Nat) (x : Win) : (s.setWin n x).priAlloc = s.priAlloc := rfl
@[simp] theorem setWin_cxlMem (n : Nat) (x : Win) : (s.setWin n x).cxlMem = s.cxlMem := rfl
@[simp] theorem setWin_msixTab (n : Nat) (x : Win) : (s.setWin n x).msixTab = s.msixTab := rfl
@[simp] theorem setWin_msixPend (n : Nat) (x : Win) : (s.setWin n x).msixPend = s.msixPend := rfl
@[simp] theorem setWin_filter (n : Nat) (x : Win) : (s.setWin n x).filter = s.filter := rfl
@[simp] theorem setWin_freeing (n : Nat) (x : Win) : (s.setWin n x).freeing = s.freeing := rfl
@[simp] theorem setWin_mcs (n : Nat) (x : Win) : (s.setWin n x).mcs = s.mcs := rfl
@[simp] theorem setWin_split (n : Nat) (x : Win) : (s.setWin n x).split = s.split := rfl
@[simp] theorem setWin_subs (n : Nat) (x : Win) : (s.setWin n x).subs = s.subs := rfl
@[simp] theorem setWin_ingress (n : Nat) (x : Win) : (s.setWin n x).ingress = s.ingress := rfl
@[simp] theorem setWin_fwdWrr (n : Nat) (x : Win) : (s.setWin n x).fwdWrr = s.fwdWrr := rfl
@[simp] theorem setWin_time (n : Nat) (x : Win) : (s.setWin n x).time = s.time := rfl
@[simp] theorem setWin_ephRows (n : Nat) (x : Win) : (s.setWin n x).ephRows = s.ephRows := rfl
@[simp] theorem setWin_ephLive (n : Nat) (x : Win) : (s.setWin n x).ephLive = s.ephLive := rfl
@[simp] theorem setWin_ephCopyAt (n : Nat) (x : Win) : (s.setWin n x).ephCopyAt = s.ephCopyAt := rfl
@[simp] theorem setWin_keys (n : Nat) (x : Win) : (s.setWin n x).keys = s.keys := rfl
@[simp] theorem setWin_cores (n : Nat) (x : Win) : (s.setWin n x).cores = s.cores := rfl
@[simp] theorem setWin_cipherQ (n : Nat) (x : Win) : (s.setWin n x).cipherQ = s.cipherQ := rfl
@[simp] theorem setWin_wraps (n : Nat) (x : Win) : (s.setWin n x).wraps = s.wraps := rfl
@[simp] theorem setWin_boot (n : Nat) (x : Win) : (s.setWin n x).boot = s.boot := rfl
@[simp] theorem setWin_fuses (n : Nat) (x : Win) : (s.setWin n x).fuses = s.fuses := rfl
@[simp] theorem setWin_saved (n : Nat) (x : Win) : (s.setWin n x).saved = s.saved := rfl
@[simp] theorem setWin_wakeHeld (n : Nat) (x : Win) : (s.setWin n x).wakeHeld = s.wakeHeld := rfl
@[simp] theorem setWin_tripped (n : Nat) (x : Win) : (s.setWin n x).tripped = s.tripped := rfl
@[simp] theorem setWin_capOk (n : Nat) (x : Win) : (s.setWin n x).capOk = s.capOk := rfl
@[simp] theorem setWin_scrub (n : Nat) (x : Win) : (s.setWin n x).scrub = s.scrub := rfl
@[simp] theorem setWin_tally (n : Nat) (x : Win) : (s.setWin n x).tally = s.tally := rfl
@[simp] theorem setWin_comet (n : Nat) (x : Win) : (s.setWin n x).comet = s.comet := rfl
@[simp] theorem setWin_night (n : Nat) (x : Win) : (s.setWin n x).night = s.night := rfl
@[simp] theorem setWin_jtag (n : Nat) (x : Win) : (s.setWin n x).jtag = s.jtag := rfl

/-! ## Writing bytes of adapter memory changes mem alone -/

@[simp] theorem putBytes_pending (a : Nat) (bs : List Byte) : (s.putBytes a bs).pending = s.pending := rfl
@[simp] theorem putBytes_free (a : Nat) (bs : List Byte) : (s.putBytes a bs).free = s.free := rfl
@[simp] theorem putBytes_out (a : Nat) (bs : List Byte) : (s.putBytes a bs).out = s.out := rfl
@[simp] theorem putBytes_fresh (a : Nat) (bs : List Byte) : (s.putBytes a bs).fresh = s.fresh := rfl
@[simp] theorem putBytes_ps (a : Nat) (bs : List Byte) : (s.putBytes a bs).ps = s.ps := rfl
@[simp] theorem putBytes_ck (a : Nat) (bs : List Byte) : (s.putBytes a bs).ck = s.ck := rfl
@[simp] theorem putBytes_regs (a : Nat) (bs : List Byte) : (s.putBytes a bs).regs = s.regs := rfl
@[simp] theorem putBytes_shadow (a : Nat) (bs : List Byte) : (s.putBytes a bs).shadow = s.shadow := rfl
@[simp] theorem putBytes_ownRes (a : Nat) (bs : List Byte) : (s.putBytes a bs).ownRes = s.ownRes := rfl
@[simp] theorem putBytes_leaseAt (a : Nat) (bs : List Byte) : (s.putBytes a bs).leaseAt = s.leaseAt := rfl
@[simp] theorem putBytes_raw (a : Nat) (bs : List Byte) : (s.putBytes a bs).raw = s.raw := rfl
@[simp] theorem putBytes_tmem (a : Nat) (bs : List Byte) : (s.putBytes a bs).tmem = s.tmem := rfl
@[simp] theorem putBytes_nbuf (a : Nat) (bs : List Byte) : (s.putBytes a bs).nbuf = s.nbuf := rfl
@[simp] theorem putBytes_pio (a : Nat) (bs : List Byte) : (s.putBytes a bs).pio = s.pio := rfl
@[simp] theorem putBytes_slots (a : Nat) (bs : List Byte) : (s.putBytes a bs).slots = s.slots := rfl
@[simp] theorem putBytes_images (a : Nat) (bs : List Byte) : (s.putBytes a bs).images = s.images := rfl
@[simp] theorem putBytes_ops (a : Nat) (bs : List Byte) : (s.putBytes a bs).ops = s.ops := rfl
@[simp] theorem putBytes_jobs (a : Nat) (bs : List Byte) : (s.putBytes a bs).jobs = s.jobs := rfl
@[simp] theorem putBytes_arrSeq (a : Nat) (bs : List Byte) : (s.putBytes a bs).arrSeq = s.arrSeq := rfl
@[simp] theorem putBytes_armed (a : Nat) (bs : List Byte) : (s.putBytes a bs).armed = s.armed := rfl
@[simp] theorem putBytes_laneMap (a : Nat) (bs : List Byte) : (s.putBytes a bs).laneMap = s.laneMap := rfl
@[simp] theorem putBytes_reads (a : Nat) (bs : List Byte) : (s.putBytes a bs).reads = s.reads := rfl
@[simp] theorem putBytes_writes (a : Nat) (bs : List Byte) : (s.putBytes a bs).writes = s.writes := rfl
@[simp] theorem putBytes_atc (a : Nat) (bs : List Byte) : (s.putBytes a bs).atc = s.atc := rfl
@[simp] theorem putBytes_xlating (a : Nat) (bs : List Byte) : (s.putBytes a bs).xlating = s.xlating := rfl
@[simp] theorem putBytes_pages (a : Nat) (bs : List Byte) : (s.putBytes a bs).pages = s.pages := rfl
@[simp] theorem putBytes_priStop (a : Nat) (bs : List Byte) : (s.putBytes a bs).priStop = s.priStop := rfl
@[simp] theorem putBytes_invals (a : Nat) (bs : List Byte) : (s.putBytes a bs).invals = s.invals := rfl
@[simp] theorem putBytes_sems (a : Nat) (bs : List Byte) : (s.putBytes a bs).sems = s.sems := rfl
@[simp] theorem putBytes_poison (a : Nat) (bs : List Byte) : (s.putBytes a bs).poison = s.poison := rfl
@[simp] theorem putBytes_zeroing (a : Nat) (bs : List Byte) : (s.putBytes a bs).zeroing = s.zeroing := rfl
@[simp] theorem putBytes_semHeld (a : Nat) (bs : List Byte) : (s.putBytes a bs).semHeld = s.semHeld := rfl
@[simp] theorem putBytes_rings (a : Nat) (bs : List Byte) : (s.putBytes a bs).rings = s.rings := rfl
@[simp] theorem putBytes_sched (a : Nat) (bs : List Byte) : (s.putBytes a bs).sched = s.sched := rfl
@[simp] theorem putBytes_fqs (a : Nat) (bs : List Byte) : (s.putBytes a bs).fqs = s.fqs := rfl
@[simp] theorem putBytes_ctxs (a : Nat) (bs : List Byte) : (s.putBytes a bs).ctxs = s.ctxs := rfl
@[simp] theorem putBytes_txq (a : Nat) (bs : List Byte) : (s.putBytes a bs).txq = s.txq := rfl
@[simp] theorem putBytes_srecs (a : Nat) (bs : List Byte) : (s.putBytes a bs).srecs = s.srecs := rfl
@[simp] theorem putBytes_rrecs (a : Nat) (bs : List Byte) : (s.putBytes a bs).rrecs = s.rrecs := rfl
@[simp] theorem putBytes_trackers (a : Nat) (bs : List Byte) : (s.putBytes a bs).trackers = s.trackers := rfl
@[simp] theorem putBytes_parked (a : Nat) (bs : List Byte) : (s.putBytes a bs).parked = s.parked := rfl
@[simp] theorem putBytes_loop (a : Nat) (bs : List Byte) : (s.putBytes a bs).loop = s.loop := rfl
@[simp] theorem putBytes_nextMsg (a : Nat) (bs : List Byte) : (s.putBytes a bs).nextMsg = s.nextMsg := rfl
@[simp] theorem putBytes_msgCount (a : Nat) (bs : List Byte) : (s.putBytes a bs).msgCount = s.msgCount := rfl
@[simp] theorem putBytes_debt (a : Nat) (bs : List Byte) : (s.putBytes a bs).debt = s.debt := rfl
@[simp] theorem putBytes_debtAt (a : Nat) (bs : List Byte) : (s.putBytes a bs).debtAt = s.debtAt := rfl
@[simp] theorem putBytes_lifeOld (a : Nat) (bs : List Byte) : (s.putBytes a bs).lifeOld = s.lifeOld := rfl
@[simp] theorem putBytes_posted (a : Nat) (bs : List Byte) : (s.putBytes a bs).posted = s.posted := rfl
@[simp] theorem putBytes_wins (a : Nat) (bs : List Byte) : (s.putBytes a bs).wins = s.wins := rfl
@[simp] theorem putBytes_insts (a : Nat) (bs : List Byte) : (s.putBytes a bs).insts = s.insts := rfl
@[simp] theorem putBytes_fns (a : Nat) (bs : List Byte) : (s.putBytes a bs).fns = s.fns := rfl
@[simp] theorem putBytes_vfEn (a : Nat) (bs : List Byte) : (s.putBytes a bs).vfEn = s.vfEn := rfl
@[simp] theorem putBytes_numVfs (a : Nat) (bs : List Byte) : (s.putBytes a bs).numVfs = s.numVfs := rfl
@[simp] theorem putBytes_priAlloc (a : Nat) (bs : List Byte) : (s.putBytes a bs).priAlloc = s.priAlloc := rfl
@[simp] theorem putBytes_cxlMem (a : Nat) (bs : List Byte) : (s.putBytes a bs).cxlMem = s.cxlMem := rfl
@[simp] theorem putBytes_msixTab (a : Nat) (bs : List Byte) : (s.putBytes a bs).msixTab = s.msixTab := rfl
@[simp] theorem putBytes_msixPend (a : Nat) (bs : List Byte) : (s.putBytes a bs).msixPend = s.msixPend := rfl
@[simp] theorem putBytes_filter (a : Nat) (bs : List Byte) : (s.putBytes a bs).filter = s.filter := rfl
@[simp] theorem putBytes_freeing (a : Nat) (bs : List Byte) : (s.putBytes a bs).freeing = s.freeing := rfl
@[simp] theorem putBytes_mcs (a : Nat) (bs : List Byte) : (s.putBytes a bs).mcs = s.mcs := rfl
@[simp] theorem putBytes_split (a : Nat) (bs : List Byte) : (s.putBytes a bs).split = s.split := rfl
@[simp] theorem putBytes_subs (a : Nat) (bs : List Byte) : (s.putBytes a bs).subs = s.subs := rfl
@[simp] theorem putBytes_ingress (a : Nat) (bs : List Byte) : (s.putBytes a bs).ingress = s.ingress := rfl
@[simp] theorem putBytes_fwdWrr (a : Nat) (bs : List Byte) : (s.putBytes a bs).fwdWrr = s.fwdWrr := rfl
@[simp] theorem putBytes_time (a : Nat) (bs : List Byte) : (s.putBytes a bs).time = s.time := rfl
@[simp] theorem putBytes_ephRows (a : Nat) (bs : List Byte) : (s.putBytes a bs).ephRows = s.ephRows := rfl
@[simp] theorem putBytes_ephLive (a : Nat) (bs : List Byte) : (s.putBytes a bs).ephLive = s.ephLive := rfl
@[simp] theorem putBytes_ephCopyAt (a : Nat) (bs : List Byte) : (s.putBytes a bs).ephCopyAt = s.ephCopyAt := rfl
@[simp] theorem putBytes_keys (a : Nat) (bs : List Byte) : (s.putBytes a bs).keys = s.keys := rfl
@[simp] theorem putBytes_cores (a : Nat) (bs : List Byte) : (s.putBytes a bs).cores = s.cores := rfl
@[simp] theorem putBytes_cipherQ (a : Nat) (bs : List Byte) : (s.putBytes a bs).cipherQ = s.cipherQ := rfl
@[simp] theorem putBytes_wraps (a : Nat) (bs : List Byte) : (s.putBytes a bs).wraps = s.wraps := rfl
@[simp] theorem putBytes_boot (a : Nat) (bs : List Byte) : (s.putBytes a bs).boot = s.boot := rfl
@[simp] theorem putBytes_fuses (a : Nat) (bs : List Byte) : (s.putBytes a bs).fuses = s.fuses := rfl
@[simp] theorem putBytes_saved (a : Nat) (bs : List Byte) : (s.putBytes a bs).saved = s.saved := rfl
@[simp] theorem putBytes_wakeHeld (a : Nat) (bs : List Byte) : (s.putBytes a bs).wakeHeld = s.wakeHeld := rfl
@[simp] theorem putBytes_tripped (a : Nat) (bs : List Byte) : (s.putBytes a bs).tripped = s.tripped := rfl
@[simp] theorem putBytes_capOk (a : Nat) (bs : List Byte) : (s.putBytes a bs).capOk = s.capOk := rfl
@[simp] theorem putBytes_scrub (a : Nat) (bs : List Byte) : (s.putBytes a bs).scrub = s.scrub := rfl
@[simp] theorem putBytes_tally (a : Nat) (bs : List Byte) : (s.putBytes a bs).tally = s.tally := rfl
@[simp] theorem putBytes_comet (a : Nat) (bs : List Byte) : (s.putBytes a bs).comet = s.comet := rfl
@[simp] theorem putBytes_night (a : Nat) (bs : List Byte) : (s.putBytes a bs).night = s.night := rfl
@[simp] theorem putBytes_jtag (a : Nat) (bs : List Byte) : (s.putBytes a bs).jtag = s.jtag := rfl

/-! ## Reads after writes -/

/-- A register that was set reads as set; every other reads as before. -/
theorem reg_setReg (a b : Nat) (v : Word) : (s.setReg a v).reg b = if b = a then v else s.reg b := by
  simp only [State.reg, State.setReg, tget_tset]

@[simp] theorem reg_setReg_self (a : Nat) (v : Word) : (s.setReg a v).reg a = v := by simp [reg_setReg]

/-- A count adds to its register. -/
theorem reg_count (a b n : Nat) : (s.count a n).reg b = if b = a then s.reg a + BitVec.ofNat 64 n else s.reg b := by
  simp only [State.count, reg_setReg]

/-- A counter that counts one. -/
theorem reg_bump (a b : Nat) : (s.bump a).reg b = if b = a then s.reg a + 1 else s.reg b := by
  simp only [State.bump, reg_count]; rfl

/-- A slot that was set reads as set; every other as before. -/
theorem slot_setSlot (i j : Nat) (x : Slot) : (s.setSlot i x).slot j = if j = i then x else s.slot j := by
  simp only [State.slot, State.setSlot, tget_tset]

@[simp] theorem slot_setSlot_self (i : Nat) (x : Slot) : (s.setSlot i x).slot i = x := by simp [slot_setSlot]

/-- An updated slot. -/
theorem slot_updSlot (i j : Nat) (f : Slot → Slot) : (s.updSlot i f).slot j = if j = i then f (s.slot i) else s.slot j := by
  simp only [State.updSlot, slot_setSlot]

@[simp] theorem slot_updSlot_self (i : Nat) (f : Slot → Slot) : (s.updSlot i f).slot i = f (s.slot i) := by simp [slot_updSlot]

@[simp] theorem slot_setReg (a i : Nat) (v : Word) : (s.setReg a v).slot i = s.slot i := rfl
@[simp] theorem slot_count (a n i : Nat) : (s.count a n).slot i = s.slot i := rfl
@[simp] theorem slot_bump (a i : Nat) : (s.bump a).slot i = s.slot i := rfl
@[simp] theorem slot_emit (e : Emission) (i : Nat) : (s.emit e).slot i = s.slot i := rfl
@[simp] theorem reg_setSlot (i a : Nat) (x : Slot) : (s.setSlot i x).reg a = s.reg a := rfl
@[simp] theorem reg_updSlot (i a : Nat) (f : Slot → Slot) : (s.updSlot i f).reg a = s.reg a := rfl
@[simp] theorem reg_emit (e : Emission) (a : Nat) : (s.emit e).reg a = s.reg a := rfl
@[simp] theorem reg_setRing (r a : Nat) (x : Ring) : (s.setRing r x).reg a = s.reg a := rfl
@[simp] theorem reg_setCtx (c : BitVec 20) (a : Nat) (x : Ctx) : (s.setCtx c x).reg a = s.reg a := rfl
@[simp] theorem reg_setWin (n a : Nat) (x : Win) : (s.setWin n x).reg a = s.reg a := rfl

/-- A ring that was set reads as set; every other as before. -/
theorem ring_setRing (r q : Nat) (x : Ring) : (s.setRing r x).ring q = if q = r then x else s.ring q := by
  simp only [State.ring, State.setRing, tget_tset]

/-- A context that was set reads as set; every other as before. -/
theorem ctx_setCtx (c d : BitVec 20) (x : Ctx) : (s.setCtx c x).ctx d = if d = c then x else s.ctx d := by
  simp only [State.ctx, State.setCtx, tget_tset, BitVec.toNat_inj]

/-- A window that was set reads as set; every other as before. -/
theorem win_setWin (n m : Nat) (x : Win) : (s.setWin n x).win m = if m = n then x else s.win m := by
  simp only [State.win, State.setWin, tget_tset]

/-- A semaphore that was set reads as set; every other as before. -/
theorem sems_putSem (i : BitVec 16) (j : Nat) (v : Word) :
    tget 0 (s.putSem i v).sems j = if j = i.toNat then v else tget 0 s.sems j := by
  simp only [State.putSem, tget_tset]

end Sys2Proof.Laws
end

