-- ==== Sys2Proof/Laws/Memory.lean ====
section
/-!
SUPPORT. Laws of adapter memory and the on-chip stores: every operation keeps the canonical form, a read after a write gives
what was written, and a write leaves every other byte alone; and the word code on flipped check bits.
-/

namespace Sys2Proof.Laws

open Sys2Proof.Machine

/-! ## Tables of bytes -/

/-- Writing indexed bytes one by one keeps the canonical form. -/
theorem wf_fold (l : List (Byte × Nat)) (a : Nat) (m : Tab Byte) (h : Memory.wf m = true) :
    Memory.wf (l.foldl (fun m p => tset 0 m (a + p.2) p.1) m) = true := by
  induction l generalizing m with
  | nil => exact h
  | cons p l ih => exact ih _ (twf_tset _ _ _ _ h)

/-- What a byte reads as after indexed bytes were written one by one to places that do not hold it. -/
theorem tget_fold_out (l : List (Byte × Nat)) (a b : Nat) (m : Tab Byte) (h : ∀ p ∈ l, a + p.2 ≠ b) :
    tget 0 (l.foldl (fun m p => tset 0 m (a + p.2) p.1) m) b = tget 0 m b := by
  induction l generalizing m with
  | nil => rfl
  | cons p l ih =>
    rw [List.foldl_cons, ih _ (fun q hq => h q (List.mem_cons_of_mem _ hq)),
      tget_tset_ne _ _ _ _ _ (Ne.symm (h p List.mem_cons_self))]

/-- A byte reads after a run of bytes was written from `a` as the byte of the run, and outside the run as before. -/
theorem tget_run (bs : List Byte) (a b k : Nat) (m : Tab Byte) :
    tget 0 ((bs.zipIdx k).foldl (fun m p => tset 0 m (a + p.2) p.1) m) b
      = if a + k ≤ b ∧ b < a + k + bs.length then bs.getD (b - a - k) 0 else tget 0 m b := by
  induction bs generalizing k m with
  | nil => simp
  | cons x bs ih =>
    rw [List.zipIdx_cons, List.foldl_cons, ih]
    by_cases h : b = a + k
    · subst h
      have h1 : ¬ (a + (k + 1) ≤ a + k ∧ a + k < a + (k + 1) + bs.length) := by omega
      have h2 : a + k ≤ a + k ∧ a + k < a + k + (x :: bs).length := by simp
      rw [if_neg h1, if_pos h2]
      simp
    · rw [tget_tset_ne _ _ _ _ _ h]
      by_cases h1 : a + (k + 1) ≤ b ∧ b < a + (k + 1) + bs.length
      · have h2 : a + k ≤ b ∧ b < a + k + (x :: bs).length := by simp; omega
        rw [if_pos h1, if_pos h2, show b - a - k = (b - a - (k + 1)) + 1 by omega]
        simp
      · have h2 : ¬ (a + k ≤ b ∧ b < a + k + (x :: bs).length) := by simp; omega
        rw [if_neg h1, if_neg h2]

/-- Writing a byte table keeps the canonical form. -/
theorem wf_writeTab (t : Tab Byte) (a : Nat) (bs : List Byte) (h : Memory.wf t = true) :
    Memory.wf (writeTab t a bs) = true := wf_fold _ _ _ h

/-- What a byte table reads as after a write. -/
theorem tget_writeTab (t : Tab Byte) (a b : Nat) (bs : List Byte) :
    tget 0 (writeTab t a bs) b = if a ≤ b ∧ b < a + bs.length then bs.getD (b - a) 0 else tget 0 t b := by
  simpa [writeTab] using tget_run bs a b 0 t

/-- Reading back a run that was written gives the run. -/
theorem readTab_writeTab (t : Tab Byte) (a : Nat) (bs : List Byte) : readTab (writeTab t a bs) a bs.length = bs := by
  apply List.ext_getElem
  · simp [readTab]
  · intro i h1 h2
    have e : tget (0 : Byte) (writeTab t a bs) (a + i) = bs[i] := by
      rw [tget_writeTab, if_pos (by omega), Nat.add_sub_cancel_left]; simp [h2]
    simpa [readTab] using e

/-! ## Adapter memory -/

/-- Writing bytes keeps the canonical form. -/
theorem wf_putBytes (s : State) (a : Nat) (bs : List Byte) (h : Memory.wf s.mem = true) :
    Memory.wf (s.putBytes a bs).mem = true := wf_fold _ _ _ h

/-- What a byte of adapter memory reads as after bytes were written. -/
theorem tget_putBytes (s : State) (a b : Nat) (bs : List Byte) :
    tget 0 (s.putBytes a bs).mem b = if a ≤ b ∧ b < a + bs.length then bs.getD (b - a) 0 else tget 0 s.mem b := by
  simpa [State.putBytes] using tget_run bs a b 0 s.mem

theorem wf_putWord (s : State) (w : Nat) (bs : List Byte) (h : Memory.wf s.mem = true) :
    Memory.wf (s.putWord w bs).mem = true := wf_putBytes s _ _ h

theorem wf_poisonWord (s : State) (w : Nat) (d : BitVec 256) (h : Memory.wf s.mem = true) :
    Memory.wf (s.poisonWord w d).mem = true := wf_putBytes s _ _ h

/-- A record of an uncorrectable word leaves memory alone. -/
@[simp] theorem logUncorr_mem (s : State) (w : Nat) (i : BitVec 8) (b : Bool) : (s.logUncorr w i b).mem = s.mem := by
  unfold State.logUncorr; split <;> rfl

@[simp] theorem countCorr_mem (s : State) (w : Nat) : (s.countCorr w).mem = s.mem := rfl

/-- Reading a word keeps the canonical form, whether or not it is written back. -/
theorem wf_readWord (s : State) (w : Nat) (i : BitVec 8) (wb : Bool) (h : Memory.wf s.mem = true) :
    Memory.wf (s.readWord w i wb).2.2.mem = true := by
  unfold State.readWord
  split
  · exact h
  · dsimp only; split
    · exact wf_putWord _ _ _ (by simpa using h)
    · simpa using h
  · simpa using h
  · dsimp only; split
    · exact wf_poisonWord _ _ _ (by simpa using h)
    · simpa using h

/-- Reading bytes of adapter memory keeps the canonical form. -/
theorem wf_readMem (s : State) (i : BitVec 8) (off len : Nat) (h : Memory.wf s.mem = true) :
    Memory.wf (s.readMem i off len).2.2.mem = true := by
  unfold State.readMem
  split
  · exact h
  · dsimp only
    generalize List.range _ = l
    suffices H : ∀ acc : List Byte × Bool × State, Memory.wf acc.2.2.mem = true →
        Memory.wf (l.foldl (fun (acc : List Byte × Bool × State) k =>
          (acc.1 ++ (acc.2.2.readWord (off / 32 + k) i true).1, acc.2.1 || (acc.2.2.readWord (off / 32 + k) i true).2.1,
            (acc.2.2.readWord (off / 32 + k) i true).2.2)) acc).2.2.mem = true from H _ h
    induction l with
    | nil => exact fun acc ha => ha
    | cons k l ih => exact fun acc ha => ih _ (wf_readWord _ _ _ _ ha)

/-- Writing into a word keeps the canonical form, whether the write is made or discarded. -/
theorem wf_writeWord (s : State) (w : Nat) (i : BitVec 8) (f : Nat → Option Byte) (h : Memory.wf s.mem = true) :
    Memory.wf (s.writeWord w i f).2.mem = true := by
  unfold State.writeWord
  split
  · exact wf_putWord _ _ _ h
  · have hr : Memory.wf ((s.bump (Reg.MEM_CNT 6)).readWord w i false).2.2.mem = true := wf_readWord _ _ _ _ (by simpa using h)
    dsimp only; split
    · simpa using hr
    · exact wf_putWord _ _ _ hr

/-- Writing bytes with byte enables keeps the canonical form. -/
theorem wf_writeMemBe (s : State) (i : BitVec 8) (off : Nat) (bs : List (Option Byte)) (h : Memory.wf s.mem = true) :
    Memory.wf (s.writeMemBe i off bs).2.mem = true := by
  unfold State.writeMemBe
  split
  · exact h
  · refine List.foldlRecOn (motive := fun acc : Bool × State => Memory.wf acc.2.mem = true) _ _ h ?_
    intro acc ha k _
    dsimp only; split
    · exact ha
    · exact wf_writeWord _ _ _ _ ha

/-- Writing bytes keeps the canonical form. -/
theorem wf_writeMem (s : State) (i : BitVec 8) (off : Nat) (bs : List Byte) (h : Memory.wf s.mem = true) :
    Memory.wf (s.writeMem i off bs).2.mem = true := wf_writeMemBe _ _ _ _ h

/-! ## The on-chip stores -/

/-- A write to a place of an internal space keeps every store's canonical form. -/
theorem wf_writeLoc (s : State) (i : BitVec 8) (l : Loc) (bs : List Byte) (hm : Memory.wf s.mem = true)
    (ht : Memory.wf s.tmem = true) (hn : Memory.wf s.nbuf = true) :
    (∀ a, l = .mem a → Memory.wf (s.writeLoc i l bs).2.mem = true) ∧
    (∀ a, l = .tmem a → Memory.wf (s.writeLoc i l bs).2.tmem = true) ∧
    (∀ a, l = .nbuf a → Memory.wf (s.writeLoc i l bs).2.nbuf = true) := by
  refine ⟨?_, ?_, ?_⟩ <;> rintro a rfl
  · exact wf_writeMem _ _ _ _ hm
  · exact wf_writeTab _ _ _ ht
  · exact wf_writeTab _ _ _ hn

/-! ## The word code -/

theorem length_leBytes (n k : Nat) : (leBytes n k).length = k := by
  induction k generalizing n with
  | zero => rfl
  | succ k ih => simp [leBytes, ih]

/-- Bytes of two numbers differ where their exclusive or is not zero. -/
theorem leBytes_diff (c m k : Nat) : (((leBytes (c ^^^ m) k).zip (leBytes c k)).filter (fun p => p.1 ≠ p.2)).length
    = ((leBytes m k).filter (fun b => b ≠ 0)).length := by
  induction k generalizing c m with
  | zero => rfl
  | succ k ih =>
    have hb : BitVec.ofNat 8 (c ^^^ m) = BitVec.ofNat 8 c ^^^ BitVec.ofNat 8 m := by
      apply BitVec.eq_of_toNat_eq; simp
    have hd : (c ^^^ m) / 256 = c / 256 ^^^ m / 256 := Nat.xor_div_two_pow (n := 8)
    have hx : ∀ x y : BitVec 8, (x ^^^ y ≠ x) ↔ y ≠ 0 := by
      intro x y; constructor <;> intro h e <;> apply h
      · subst e; simp
      · have : x ^^^ (x ^^^ y) = x ^^^ x := by rw [e]
        simpa [← BitVec.xor_assoc] using this
    have ih' := ih (c / 256) (m / 256)
    rw [← hd] at ih'
    by_cases hm : BitVec.ofNat 8 m = 0
    · have hc : ¬ (BitVec.ofNat 8 (c ^^^ m) ≠ BitVec.ofNat 8 c) := by rw [hb, hx]; simpa using hm
      rw [leBytes, leBytes, leBytes, List.zip_cons_cons, List.filter_cons_of_neg (by simpa using hc), ih',
        List.filter_cons_of_neg (by simpa using hm)]
    · have hc : BitVec.ofNat 8 (c ^^^ m) ≠ BitVec.ofNat 8 c := by rw [hb, hx]; simpa using hm
      rw [leBytes, leBytes, leBytes, List.zip_cons_cons, List.filter_cons_of_pos (by simpa using hc), List.length_cons, ih',
        List.filter_cons_of_pos (by simpa using hm), List.length_cons]

/-- The symbols in which stored bits differ from a code word of the same data: those of the check bits that were flipped. -/
theorem symDistance_flip (d : BitVec 256) (c m : BitVec 64) :
    symDistance d (c ^^^ m) d c = ((leBytes m.toNat 8).filter (fun b => b ≠ 0)).length := by
  have h : ∀ l : List Byte, (l.zip l).filter (fun p => p.1 ≠ p.2) = [] := by
    intro l
    induction l with
    | nil => rfl
    | cons x l ih => rw [List.zip_cons_cons, List.filter_cons_of_neg (by simp), ih]
  rw [symDistance, List.zip_append (by simp [length_leBytes]), List.filter_append, h, List.nil_append, BitVec.toNat_xor, leBytes_diff]

/-- A word whose stored bits are listed decodes from them. -/
theorem decodeWord_raw (s : State) (w : Nat) (r : RawWord) (h : tget none s.raw w = some r) :
    s.decodeWord w = decodeRaw (s.flag Reg.MEM_CTRL 3) (dataBits (s.wordBytes w)) r := by rw [State.decodeWord, h]

/-- Check bits flipped in one symbol are corrected. -/
theorem decodeRaw_one (limit : Bool) (d : BitVec 256) :
    decodeRaw limit d ⟨d, Config.rsCheck d ^^^ 1#64⟩ = .good (dataBytes d) 1 := by
  have h : Config.rsCheck d ^^^ 1#64 ≠ poisonCheck d := by simp [poisonCheck]
  have h3 : symDistance d (Config.rsCheck d ^^^ 1#64) d (Config.rsCheck d) = 1 := by rw [symDistance_flip]; rfl
  cases limit <;> simp [decodeRaw, h, h3]

/-- Poison decodes as poison. -/
theorem decodeRaw_poison (limit : Bool) (d o : BitVec 256) : decodeRaw limit o ⟨d, poisonCheck d⟩ = .poison := by
  have h3 : symDistance d (poisonCheck d) d (Config.rsCheck d) = 8 := by rw [poisonCheck, symDistance_flip]; rfl
  simp [decodeRaw, h3]

/-- Four symbols in error are detected when three are corrected. -/
theorem decodeRaw_four (d : BitVec 256) : decodeRaw true d ⟨d, Config.rsCheck d ^^^ 0x01010101#64⟩ = .bad d := by
  have h : Config.rsCheck d ^^^ 0x01010101#64 ≠ poisonCheck d := by simp [poisonCheck]
  have h3 : symDistance d (Config.rsCheck d ^^^ 0x01010101#64) d (Config.rsCheck d) = 4 := by rw [symDistance_flip]; rfl
  simp [decodeRaw, h, h3]

/-! ## PIO slots and reset -/

/-- Storing enabled bytes of a PIO slot keeps the canonical form. -/
theorem wf_pioStore (s : State) (slot off : Nat) (bs : List (Option Byte)) (h : Memory.wf s.pio = true) :
    Memory.wf (s.pioStore slot off bs).pio = true := by
  unfold State.pioStore
  refine List.foldlRecOn (motive := fun m : Tab Byte => Memory.wf m = true) _ _ h ?_
  intro m hm e _
  split
  · split
    · exact twf_tset _ _ _ _ hm
    · exact hm
  · exact hm

/-- The stores after reset list nothing. -/
theorem wf_reset : Memory.wf State.reset.mem = true ∧ Memory.wf State.reset.tmem = true ∧
    Memory.wf State.reset.nbuf = true ∧ Memory.wf State.reset.pio = true := ⟨rfl, rfl, rfl, rfl⟩

end Sys2Proof.Laws
end

