-- ==== Sys2Proof/Laws/Ops.lean ====
section
/-!
SUPPORT. What the operations that commands share can do, each said once: free values and emissions, the issue of an
instruction, its retirement and its fault, fault records, and writes of registers.
-/

namespace Sys2Proof.Laws

open Sys2Proof.Machine

variable (s : State)

/-! ## Free values and emissions -/

/-- Taking a free value advances its counter and nothing else. -/
theorem takeFree_frame : { s.takeFree.2 with free := 0 } = { s with free := 0 } ∧ s.takeFree.2.free = s.free + 1 :=
  ⟨rfl, rfl⟩

/-- Taking a free bit advances its counter and nothing else. -/
theorem takeBit_frame : { s.takeBit.2 with free := 0 } = { s with free := 0 } ∧ s.takeBit.2.free = s.free + 1 :=
  ⟨rfl, rfl⟩

/-- A new handle is the counter's value, which moves on. -/
theorem takeHandle_frame : s.takeHandle.1 = s.fresh ∧ s.takeHandle.2 = { s with fresh := s.fresh + 1 } := ⟨rfl, rfl⟩

/-- An emission appends to the log what it looks like on its port. -/
theorem emit_out (e : Emission) : (s.emit e).out = s.out ++ s.onWire e := rfl

/-- What Tally does not count only appends to the log. -/
theorem emit_unmetered (e : Emission) (h : meterOf e = none) : s.emit e = { s with out := s.out ++ s.onWire e } := by
  simp [State.emit, h]

/-- Tally counts bytes without touching its counts of changes, starts and records. -/
theorem emit_tally (e : Emission) : (s.emit e).tally.changes = s.tally.changes ∧
    (s.emit e).tally.starts = s.tally.starts ∧ (s.emit e).tally.seq = s.tally.seq := by
  simp only [State.emit]; split <;> exact ⟨rfl, rfl, rfl⟩

/-! ## Retirement -/

/-- The slot that retires goes on at `pc` with no wait. -/
theorem slot_retireTo (sl pc : Nat) :
    (s.retireTo sl pc).slot sl = { s.slot sl with pc := pc, wait := none, progress := s.ps, ahead := (s.slot sl).ahead.tail } := by
  simp only [State.retireTo, State.progressed, slot_bump, slot_updSlot_self]; rfl

/-- Retirement leaves every other slot alone. -/
theorem slot_retireTo_ne (sl i pc : Nat) (h : i ≠ sl) : (s.retireTo sl pc).slot i = s.slot i := by
  simp [State.retireTo, State.progressed, slot_updSlot, h]

/-- Retirement counts one retired instruction of the cluster and changes no other register. -/
theorem reg_retireTo (sl pc a : Nat) : (s.retireTo sl pc).reg a =
    if a = Reg.DBG_CNT (sl / 4) 1 then s.reg (Reg.DBG_CNT (sl / 4) 1) + 1 else s.reg a := by
  simp only [State.retireTo, State.progressed, reg_bump, reg_updSlot]

/-- Nothing but slots and registers changes when an instruction retires. -/
theorem retireTo_frame (sl pc : Nat) : { s.retireTo sl pc with slots := [], regs := [] } = { s with slots := [], regs := [] } := by
  simp only [State.retireTo, State.bump, State.count, State.setReg, State.progressed, State.updSlot, State.setSlot]

/-! ## Issue -/

/-- Everything that the issue of an instruction can do: nothing; a fault at the end of the image or for its encoding; its
retirement under a false predicate; or its own effect. -/
theorem issue_cases (op : BitVec 8) (sl : Nat) (w : JWord) (enc : Slot → Bool) (run : State → State) :
    (s.issue op sl w enc run = s ∧ (s.canIssue sl = false ∨
      ((s.slot sl).pc < (s.slot sl).imemLen ∧ s.imemAt sl (s.slot sl).pc ≠ some (imemWord op w)))) ∨
    (s.canIssue sl = true ∧ (s.slot sl).imemLen ≤ (s.slot sl).pc ∧
      s.issue op sl w enc run = s.issueFault sl St.illegalInstruction 0) ∨
    (s.canIssue sl = true ∧ (s.slot sl).pc < (s.slot sl).imemLen ∧
      s.imemAt sl (s.slot sl).pc = some (imemWord op w) ∧
      ((enc (s.slot sl) = false ∧ s.issue op sl w enc run = s.issueFault sl St.illegalInstruction w.tag) ∨
       (enc (s.slot sl) = true ∧ predHolds (s.slot sl) w = false ∧ s.issue op sl w enc run = s.retire sl) ∨
       (enc (s.slot sl) = true ∧ predHolds (s.slot sl) w = true ∧ s.issue op sl w enc run = run s))) := by
  unfold State.issue
  cases h1 : s.canIssue sl
  · simp
  · by_cases h2 : (s.slot sl).imemLen ≤ (s.slot sl).pc
    · simp [h2]
    · have h2' : (s.slot sl).pc < (s.slot sl).imemLen := by omega
      by_cases h3 : s.imemAt sl (s.slot sl).pc = some (imemWord op w)
      · cases h4 : enc (s.slot sl)
        · simp [h2, h3, h4, h2']
        · cases h5 : predHolds (s.slot sl) w <;> simp [h2, h3, h4, h5, h2']
      · simp [h2, h3, h2']

/-- A slot that cannot issue carries no instruction out. -/
theorem issue_blocked (op : BitVec 8) (sl : Nat) (w : JWord) (enc : Slot → Bool) (run : State → State)
    (h : s.canIssue sl = false) : s.issue op sl w enc run = s := by simp [State.issue, h]

/-! ## Faults at issue -/

/-- Stopping a slot updates the slots as one update of the slot does. -/
theorem slot_stopSlot_upd (sl i : Nat) : (s.stopSlot sl).slot i =
    (s.updSlot sl (fun x => { x with
      phase := .draining, stopped := true, wait := none, halted := false, ahead := [], stalled := false })).slot i := rfl

/-- A slot that stops: it drains, waits for nothing, and has nothing decoded ahead. -/
theorem slot_stopSlot (sl : Nat) : (s.stopSlot sl).slot sl =
    { s.slot sl with
      phase := .draining, stopped := true, wait := none, halted := false, ahead := [], stalled := false } := by
  rw [slot_stopSlot_upd, slot_updSlot_self]

/-- Stopping a slot leaves every other slot alone. -/
theorem slot_stopSlot_ne (sl i : Nat) (h : i ≠ sl) : (s.stopSlot sl).slot i = s.slot i := by
  rw [slot_stopSlot_upd, slot_updSlot, if_neg h]

/-- Stopping a slot changes slots, operations, posted buffers and held accesses alone. -/
theorem stopSlot_frame (sl : Nat) : { s.stopSlot sl with slots := [], ops := [], posted := [], semHeld := [] } =
    { s with slots := [], ops := [], posted := [], semHeld := [] } := rfl

/-- A fault at issue keeps the pc, the first status of the program, and adds a record. -/
theorem slot_issueFault (sl : Nat) (st : Status) (tag : BitVec 24) : (s.issueFault sl st tag).slot sl =
    { s.slot sl with
      phase := .draining, stopped := true, wait := none, halted := false, ahead := [], stalled := false
      status := if (s.slot sl).status = 0 then st else (s.slot sl).status
      info := (s.slot sl).info ++ [s.slotRec sl st (if st = St.accessDenied then 0 else classOf st) tag] } := by
  simp only [State.issueFault, slot_stopSlot, State.slotFault, slot_updSlot_self]; rfl

/-- A fault at issue leaves every other slot alone. -/
theorem slot_issueFault_ne (sl i : Nat) (st : Status) (tag : BitVec 24) (h : i ≠ sl) :
    (s.issueFault sl st tag).slot i = s.slot i := by
  simp [State.issueFault, slot_stopSlot_ne _ _ _ h, State.slotFault, slot_updSlot, h]

/-- A fault at issue changes no register, no memory and no semaphore. -/
theorem issueFault_frame (sl : Nat) (st : Status) (tag : BitVec 24) :
    { s.issueFault sl st tag with slots := [], ops := [], posted := [], semHeld := [] } =
    { s with slots := [], ops := [], posted := [], semHeld := [] } := by
  simp only [State.issueFault, stopSlot_frame, State.slotFault, State.updSlot, State.setSlot]

/-! ## Interrupts and fault records -/

/-- An interrupt that its function may not raise does nothing, a masked one sets its pending bit, any other is written; nothing
else happens. -/
theorem msix_cases (fn : BitVec 8) (v : Nat) :
    (s.msixMay fn v = false ∧ s.msix fn v = s) ∨
    (s.msixMay fn v = true ∧ s.msixHeld fn v = true ∧
      s.msix fn v = { s with msixPend := tset false s.msixPend (2048 * fn.toNat + v) true }) ∨
    (s.msixMay fn v = true ∧ s.msixHeld fn v = false ∧
      s.msix fn v = s.emit (.msix fn v (s.vec fn v).addr (s.vec fn v).data)) := by
  unfold State.msix
  cases h1 : s.msixMay fn v <;> cases h2 : s.msixHeld fn v <;> simp

/-- A fault is counted as lost where the queue cannot take it, recorded at the queue's producer index, or lost by a queue
that is disabled because its memory cannot be written. -/
theorem fault_cases (q : Nat) (r : FaultRec) :
    s.fault q r = s.fqLose q r.cls ∨ s.fault q r = (s.fqReach q).2.fqPut q r ∨
    s.fault q r = ((s.fqReach q).2.setFld (Reg.RING_FQ_CTRL q) 0 1 0).fqLose q r.cls := by
  unfold State.fault; dsimp only; split
  · exact .inl rfl
  · split
    · exact .inr (.inl rfl)
    · exact .inr (.inr rfl)

/-- A lost fault changes registers and the queue's pending counts alone. -/
theorem fqLose_frame (q cls : Nat) : { s.fqLose q cls with regs := [], fqs := [] } = { s with regs := [], fqs := [] } := by
  simp only [State.fqLose, State.bump, State.count, State.setFld, State.setReg, State.setFq]

/-! ## Writes of registers -/

/-- Everything that a master's write can do: nothing, or what its arrival costs on the host's link; the owner's effect; or
a count of a master that is not the owner. -/
theorem mapWrite_cases (p : Path) (off : Nat) (k : State → State) :
    s.mapWrite p off k = s ∨ s.mapWrite p off k = s.tlp p 8 ∨
    (pathCode p = (s.tlp p 8).owner ∧ s.mapWrite p off k = k (s.tlp p 8)) ∨
    (pathCode p ≠ (s.tlp p 8).owner ∧ s.mapWrite p off k = (s.tlp p 8).bump Reg.GLB_CNT_NOT_OWNER) := by
  unfold State.mapWrite
  dsimp only
  split
  · simp
  · split
    · simp
    · split
      · simp
      · split
        · simp
        · split
          · simp
          · split
            · rename_i h; simp [h]
            · rename_i h; simp [h]

end Sys2Proof.Laws
end

