-- ==== Sys2Proof/Tests/Slice0.lean ====
section
/-!
SUPPORT. Tests: an ill-formed term for each check of well-formedness, examples of the spec, and for each statement with
hypotheses a state and operands that meet them.
-/

namespace Sys2Proof.Tests

set_option Elab.async false

open Sys2Proof.Machine Sys2Proof.Claims

/-! ## Small states -/

/-- An instruction word that always executes. -/
def J (flags : BitVec 4) (a b c : BitVec 8) (imm : Word) : JWord :=
  { predReg := 0, predNeg := false, flags := flags, opa := a, opb := b, opc := c, tag := 7, imm := imm }

/-- A running program of one instruction in slot 0, with the registers `rs`, on a machine with registers `regs`. -/
def prog (op : BitVec 8) (w : JWord) (sregs : Tab Word := []) (tregs : Tab TDesc := []) (regs : Tab Word := []) : State :=
  { State.reset with
    regs := regs
    images := [{ clu := 0, addr := 0, imageId := 0, count := 1, base := 0, words := [imemWord op w], launched := 0 }]
    slots := [(0, { Slot.init with phase := .running, imemLen := 1, sregs := sregs, tregs := tregs })] }

/-! ## Jadom instructions: results -/

theorem test_meets_alu : ∀ op ∈ [0x10, 0x11, 0x12, 0x13, 0x14, 0x15, 0x16, 0x17, 0x18, 0x19, 0x1A, 0x1B],
    isS 0x1F = true ∧ isX 0 = true ∧ isX 0x80 = true ∧
    Ready (prog (BitVec.ofNat 8 op) (J 0 0x1F 0 0x80 5)) 0 (BitVec.ofNat 8 op) (J 0 0x1F 0 0x80 5) := by
  unfold Ready Fetched; decide

theorem test_meets_predicates : (∀ n < 8, isP 0x31 = true ∧ isX 1 = true ∧ bits (BitVec.ofNat 64 n) 0 3 = n ∧
      Ready (prog 0x1C (J 0 0x31 1 1 (BitVec.ofNat 64 n))) 0 0x1C (J 0 0x31 1 1 (BitVec.ofNat 64 n))) ∧
    (∀ n < 4, isP 0x37 = true ∧ isP 0x30 = true ∧ bits (BitVec.ofNat 64 n) 0 2 = n ∧
      Ready (prog 0x1D (J 0 0x37 0x30 0x37 (BitVec.ofNat 64 n))) 0 0x1D (J 0 0x37 0x30 0x37 (BitVec.ofNat 64 n))) := by
  unfold Ready Fetched; decide

theorem test_meets_values : (∀ n < 16, isS 3 = true ∧ bits (BitVec.ofNat 64 n) 0 4 = n ∧
      Ready (prog 0x1E (J 0 3 0 0 (BitVec.ofNat 64 n))) 0 0x1E (J 0 3 0 0 (BitVec.ofNat 64 n))) ∧
    Ready (prog 0x84 (J 3 0 0 0 0xFFFFFFFF00000001)) 0 0x84 (J 3 0 0 0 0xFFFFFFFF00000001) := by
  unfold Ready Fetched; decide

/-- A tensor of four elements of format 1 in tensor memory. -/
def tT : TDesc := { TDesc.zero with attr := 0x121, e0 := 4 }

/-- A window operand of as many. -/
def tW : TDesc := { TDesc.zero with attr := 0x821, e0 := 4 }

theorem test_meets_descriptors : (∀ op ∈ [0x20, 0x21, 0x22, 0x25], ∀ t ∈ [tT, tW],
      isT 0x20 = true ∧ isT 0x3F = false ∧ isX 0x80 = true ∧ (tT.space ≠ 8 ∧ tW.space = 8) ∧
      Ready (prog (BitVec.ofNat 8 op) (J 0 0x20 0x21 0 1) [] [(0, t), (1, t)]) 0 (BitVec.ofNat 8 op) (J 0 0x20 0x21 0 1)) ∧
    (∀ op ∈ [0x23, 0x24], ∀ n < 8, bits (BitVec.ofNat 64 n) 0 3 = n ∧
      Ready (prog (BitVec.ofNat 8 op) (J 0 0x20 0x80 0 (BitVec.ofNat 64 n))) 0 (BitVec.ofNat 8 op)
        (J 0 0x20 0x80 0 (BitVec.ofNat 64 n))) := by
  unfold Ready Fetched; decide

theorem test_meets_controlFlow : (∀ op ∈ [0, 1, 2, 3], Ready (prog (BitVec.ofNat 8 op) (J 0 1 0 0 0)) 0 (BitVec.ofNat 8 op)
      (J 0 1 0 0 0) ∧ bits (0 : Word) 0 14 < ((prog 2 (J 0 1 0 0 0)).slot 0).imemLen) ∧
    (∀ op ∈ [2, 3], ∀ a ∈ [0, 31], Fetched (prog (BitVec.ofNat 8 op) (J 0 a 0 0 1)) 0 (BitVec.ofNat 8 op) (J 0 a 0 0 1) ∧
      ((prog 2 (J 0 1 0 0 1)).slot 0).imemLen ≤ bits (1 : Word) 0 14) := by
  unfold Ready Fetched; decide

/-- LOOP (R75): a register at zero or one does not branch and is left at zero; one at two branches and is left at one. -/
theorem test_loop_counts : ∀ v ∈ [0, 1, 2], ∃ t, exec (.loop 0 (J 0 1 0 0 0)) (prog 3 (J 0 1 0 0 0) [(1, BitVec.ofNat 64 v)])
    = .next t ∧ (slotS (t.slot 0) 1).toNat = v - 1 ∧ (t.slot 0).pc = if v = 2 then 0 else 1 := by
  intro v hv
  simp only [List.mem_cons, List.not_mem_nil, or_false] at hv
  rcases hv with rfl | rfl | rfl <;> exact ⟨_, rfl, by decide, by decide⟩

theorem test_meets_faults : Fetched (prog 0x0F (J 0 0 0 0 0)) 0 0x0F (J 0 0 0 0 0) ∧ fieldsOk 0x0F (J 0 0 0 0 0) 1 = false ∧
    Fetched (prog 0x10 (J 0 0x20 0 0 0)) 0 0x10 (J 0 0x20 0 0 0) ∧ fieldsOk 0x10 (J 0 0x20 0 0 0) 1 = false ∧
    Fetched (prog 0x30 (J 0 0x20 0x21 0 0x300000000)) 0 0x30 (J 0 0x20 0x21 0 0x300000000) ∧
    fieldsOk 0x30 (J 0 0x20 0x21 0 0x300000000) 1 = false ∧
    (prog 0 (J 0 0 0 0 0)).canIssue 0 = true ∧
    ({ prog 0 (J 0 0 0 0 0) with slots := [(0, { Slot.init with phase := .running })] } : State).canIssue (0 : Fin 32) = true := by
  unfold Fetched; decide

/-- A NOP whose predicate condition is false. -/
def jOff : JWord := { J 0 0 0 0 0 with predNeg := true }

theorem test_meets_falsePredicate : Fetched (prog 0 jOff) 0 0 jOff ∧ fieldsOk 0 jOff 1 = true ∧
    predHolds ((prog 0 jOff).slot 0) jOff = false := by unfold Fetched; decide

/-- SRA by 63 spreads the sign; SHL by 64 shifts by nothing (R77). -/
theorem test_shifts : alu .sra 0x8000000000000000 63 = 0xFFFFFFFFFFFFFFFF ∧ alu .shl 3 64 = 3 := by decide

/-! ## Jadom instructions: operations and waits -/

/-- An adapter whose context 0 belongs to instance 0, with a program of one instruction on two tensors. -/
def progT (op : BitVec 8) (w : JWord) (ts : Tab TDesc) (regs : Tab Word := []) : State :=
  { prog op w [] ts ((Reg.XPT_CTX_COUNT, 1) :: regs) with ctxs := [(0, { Ctx.init with valid := true })], mcs := [(0, ⟨1, 1⟩)] }

theorem test_meets_tensors :
    (∀ op ∈ [0x30, 0x31, 0x41], Ready (progT (BitVec.ofNat 8 op) (J 0 0x20 0x21 1 0) [(0, tT), (1, tT)]) 0 (BitVec.ofNat 8 op)
        (J 0 0x20 0x21 1 0) ∧ fieldsOk (BitVec.ofNat 8 op) (J 0 0x20 0x21 1 0) 1 = true ∧
      (progT (BitVec.ofNat 8 op) (J 0 0x20 0x21 1 0) [(0, tT), (1, tT)]).canOp 0 = true ∧ TensorsOk [tT, tT] tT ∧
      TensorsReachable (progT (BitVec.ofNat 8 op) (J 0 0x20 0x21 1 0) [(0, tT), (1, tT)]) 0 [tT, tT] ∧
      SignalOk (progT (BitVec.ofNat 8 op) (J 0 0x20 0x21 1 0) [(0, tT), (1, tT)]) 0 (J 0 0x20 0x21 1 0)) ∧
    Ready (progT 0x32 (J 1 0x20 0x80 0 0) [(0, tT)]) 0 0x32 (J 1 0x20 0x80 0 0) ∧ TensorsOk [tT] tT ∧ tT.fmt.mx = false ∧
    (∀ op ∈ [0x40, 0x50], Ready (progT (BitVec.ofNat 8 op) (J 0 0x20 0x21 0x22 0) [(0, tT), (1, tT), (2, tT)]) 0
        (BitVec.ofNat 8 op) (J 0 0x20 0x21 0x22 0) ∧ fieldsOk (BitVec.ofNat 8 op) (J 0 0x20 0x21 0x22 0) 1 = true) ∧
    TensorsOk [tT, tT, tT] tT ∧ residOk tT = true ∧
    Ready (progT 0x50 (J 0 0x20 0x21 0 0x40000000000) [(0, tT), (1, tT)]) 0 0x50 (J 0 0x20 0x21 0 0x40000000000) ∧
    fieldsOk 0x50 (J 0 0x20 0x21 0 0x40000000000) 1 = true ∧ bit (0x40000000000 : Word) 42 = true := by
  unfold Ready Fetched TensorsOk TensorsReachable SignalOk; decide

theorem test_meets_badTensors : (∀ p ∈ [(0x30, 1), (0x31, 1), (0x40, 0x22), (0x41, 1), (0x60, 1)],
      Ready (progT (BitVec.ofNat 8 p.1) (J 0 0x20 0x21 (BitVec.ofNat 8 p.2) 0) []) 0 (BitVec.ofNat 8 p.1) (J 0 0x20 0x21 (BitVec.ofNat 8 p.2) 0) ∧
      fieldsOk (BitVec.ofNat 8 p.1) (J 0 0x20 0x21 (BitVec.ofNat 8 p.2) 0) 1 = true ∧
      (progT (BitVec.ofNat 8 p.1) (J 0 0x20 0x21 (BitVec.ofNat 8 p.2) 0) []).canOp 0 = true) ∧
    Ready (progT 0x32 (J 0 0x20 0x80 1 0) []) 0 0x32 (J 0 0x20 0x80 1 0) ∧ fieldsOk 0x32 (J 0 0x20 0x80 1 0) 1 = true ∧
    TDesc.zero.rank = 0 ∧ ({ tT with attr := 0x1C1 } : TDesc).rank = 6 ∧ TDesc.zero.space ≠ 8 ∧
    ({ tT with e0 := 5 } : TDesc).count ≠ tT.count ∧ ({ tT with attr := 0x122 } : TDesc).format ≠ tT.format ∧
    ({ tT with attr := 0x130 } : TDesc).fmt.mx = true := by
  unfold Ready Fetched; decide

/-- An operation of slot 0, in one segment. -/
def anOp : Op :=
  { id := 0, sl := 0, kind := .copy, tag := 0, pc := 0, inst := 0, layer := 0, oper := 0, tc := 0,
    urgent := false, dst := .zero, a := .zero, b := .zero, val := 0, dest := 0, ctxv := 0, sigMode := 0,
    sigWhere := 0, semId := 0, semAd := 0, round := 0, redOp := 0, residOff := false, match_ := 0, srcFlag := false,
    nebCtrl := 0, seedXor := 0, seed := 0, group := 1, nseg := 1, next := 0, signalled := 0, segs := [],
    status := 0, held := false, done := false, sigs := 0, moved := 0, filters := 0, faultVa := 0, faultSpace := 0 }

theorem test_meets_cap : Ready { progT 0x65 (J 0 0x20 0x21 1 0) [] with ops := [anOp] } 0 0x65 (J 0 0x20 0x21 1 0) ∧
    ({ progT 0x65 (J 0 0x20 0x21 1 0) [] with ops := [anOp] } : State).canOp (0 : Fin 32) = false ∧
    fieldsOk 0x65 (J 0 0x20 0x21 1 0) 1 = true := by
  unfold Ready Fetched; decide

theorem test_meets_messages :
    (∀ op ∈ [0x60, 0x61, 0x64, 0x65], Ready (progT (BitVec.ofNat 8 op) (J 0 0x20 0x21 1 0) [(0, tW), (1, tT)]) 0 (BitVec.ofNat 8 op)
        (J 0 0x20 0x21 1 0) ∧ fieldsOk (BitVec.ofNat 8 op) (J 0 0x20 0x21 1 0) 1 = true) ∧
    (progT 0x60 (J 0 0x20 0x21 1 0) [(0, tW), (1, tT)]).canOp 0 = true ∧
    MessageOk (progT 0x60 (J 0 0x20 0x21 1 0) [(0, tW), (1, tT)]) 0 0 (J 0 0x20 0x21 1 0) [tW] tT false ∧
    MessageOk (progT 0x65 (J 0 0x20 0x21 1 0) [(0, tW), (1, tT)]) 0 0 (J 0 0x20 0x21 1 0) [tW] tT true ∧
    (progT 0x64 (J 0 0x20 0x21 1 0) [(0, tW), (1, tT)]).groupOk 0 0 = true ∧
    segsOk tT (groupAll [tW, tT]) = true ∧ tT.denseBytes (tT.segment 1 0).1 (tT.segment 1 0).2 = 16 := by
  unfold Ready Fetched MessageOk TensorsReachable SignalOk; decide

theorem test_meets_waits :
    (∀ op ∈ [0x80, 0x81, 0x82, 0x83],
      Ready (prog (BitVec.ofNat 8 op) (J 0 0 1 0 0) [(1, 1)] [] [(Reg.SEM_PAGE 0, 0x100)]) 0 (BitVec.ofNat 8 op) (J 0 0 1 0 0) ∧
      fieldsOk (BitVec.ofNat 8 op) (J 0 0 1 0 0) 1 = true ∧ isX 1 = true ∧
      (prog (BitVec.ofNat 8 op) (J 0 0 1 0 0) [(1, 1)] [] [(Reg.SEM_PAGE 0, 0x100)]).semProg 0 0 = true) ∧
    (prog 0x81 (J 0 0 1 0 0)).semProg 0 0 = false ∧ (prog 0x81 (J 0 0 1 0 0)).semZeroing 0 = false ∧
    (prog 0x81 (J 0 0 1 0 0)).semPoisoned 0 = false ∧ ((prog 0x81 (J 0 0 1 0 0)).semValue 0).toNat = 0 ∧
    ({ prog 0x81 (J 0 0 1 0 0) with poison := [(0, true)] } : State).semPoisoned 0 = true ∧
    (prog 0x80 (J 0 0 1 0 0)).fenceOk 0 0 = true ∧
    ({ prog 0x80 (J 7 0 1 0 0) with ops := [anOp] } : State).fenceOk 0 7 = false ∧
    (prog 0x82 (J 0 0 1 0 0)).nowNs = 0 ∧ (prog 0x83 (J 0 0 1 0 0)).tagged 0 0 = none ∧
    ({ prog 0x83 (J 0 0 1 0 0) with ops := [anOp] } : State).tagged 0 0 = some anOp ∧
    ({ prog 0x83 (J 0 0 1 0 0) with ops := [anOp] } : State).tileOk 0 0 = true ∧
    ({ prog 0x83 (J 0 0 1 0 0) with ops := [anOp] } : State).tileOk 0 1 = false := by
  unfold Ready Fetched; decide

theorem test_meets_semaphores :
    (∀ op ∈ [0x70, 0x71, 0x72, 0x73], Ready (prog (BitVec.ofNat 8 op) (J 0 3 1 0 0xFF) [(1, 5)] [] [(Reg.SEM_PAGE 0, 0x100)]) 0
        (BitVec.ofNat 8 op) (J 0 3 1 0 0xFF) ∧ fieldsOk (BitVec.ofNat 8 op) (J 0 3 1 0 0xFF) 1 = true) ∧
    bit (0xFF : Word) 32 = false ∧ (prog 0x70 (J 0 3 1 0 0xFF)).barriers = false ∧
    (prog 0x70 (J 0 3 1 0 0xFF)).semZeroing 0xFF = false ∧ (prog 0x70 (J 0 3 1 0 0xFF)).semPoisoned 0xFF = false ∧
    (prog 0x70 (J 0 3 1 0 0xFF) [] [] [(Reg.SEM_PAGE 0, 0x100)]).semProg 0 0xFF = true ∧
    ({ prog 0x70 (J 0 3 1 0 0xFF) with poison := [(63, true)] } : State).semPoisoned 0xFF = true := by
  unfold Ready Fetched; decide

/-! ## Operations, slots, translation, semaphores -/

/-- A machine with the given registers. -/
def on (regs : Tab Word) : State := { State.reset with regs := regs }

/-- A machine that the host owns. -/
def owned (regs : Tab Word) : State := on ((Reg.GLB_OWN_STATUS, 1) :: regs)

/-- A segment whose data is complete. -/
def aSeg : Seg :=
  { id := 0, idx := 0, phase := .done, waits := [], held := [], reads := 0, writes := 0, bufA := [], bufB := [],
    arr := 0, seq := 0 }

/-- A machine with one slot and one operation. -/
def withOp (x : Slot) (o : Op) : State := { on [] with slots := [(0, x)], ops := [o] }

/-- An operation with a segment in phase `ph`, in signal mode `m`. -/
def segOp (ph : SegPhase) (m : Nat) : Op := { anOp with segs := [{ aSeg with phase := ph }], sigMode := m }

/-- An operation that has ended with status `st`. -/
def endedOp (st : Status) : Op := { anOp with next := 1, signalled := 1, status := st }

theorem test_meets_segments :
    (∀ m ∈ [0, 2], (withOp Slot.init (segOp .done m)).alive = true ∧
      (withOp Slot.init (segOp .done m)).op? 0 = some (segOp .done m) ∧
      SegmentReady (segOp .done m) { aSeg with phase := .done } ∧ (segOp .done m).status = 0) ∧
    PlainSem (withOp Slot.init (segOp .done 2)) 0 ∧
    (∀ x ∈ (segOp .array 0).segs, x.idx = 0 → x.phase ≠ .done) ∧
    (withOp Slot.init (endedOp 0)).op? 0 = some (endedOp 0) ∧ (endedOp 0).ended = true ∧ (endedOp 0).status = 0 ∧
    (endedOp St.uncorrectable).ended = true ∧ (endedOp St.uncorrectable).status ≠ 0 := by
  unfold SegmentReady PlainSem; decide +kernel

/-- A slot with a program that waits. -/
def waiter (wt : Option Waiting) : Slot := { Slot.init with phase := .running, wait := wt }

/-- A machine whose slot 0 waits for semaphore 4 to reach `thr`, with the commands `cs` in the queue. -/
def waitM (thr : Word) (cs : List Instr) : State :=
  { withOp (waiter (some (.sem 4 thr 0 1 2 0))) anOp with
    regs := [(Reg.GLB_OWN_STATUS, 1), (Reg.SEM_PAGE 0, 0x300)], pending := cs, ps := 16000000 }

theorem test_meets_waitsEnd :
    (waitM 9 []).alive = true ∧ ((waitM 9 []).slot 0).wait = some (.sem 4 9 0 1 2 0) ∧ ((waitM 9 []).slot 0).halted = false ∧
    (waitM 9 []).stopNow 0 = false ∧ (waitM 9 []).satisfiedNow 0 = false ∧
    (waitM 9 [.slotStop .host 0 1]).stopNow 0 = true ∧ (waitM 1 [.cellSet .host 4 1 0xFF]).satisfiedNow 0 = true ∧
    0 + 1 * 16000000 ≤ (waitM 9 []).ps / 16000000 * 16000000 ∧
    ({ waitM 9 [] with ps := 15999999 } : State).ps / 16000000 * 16000000 < 0 + 1 * 16000000 ∧
    (waitM 9 []).flag Reg.SEM_TO_LOG0 0 = false ∧ (on [(Reg.SEM_TO_LOG0, 1)]).flag Reg.SEM_TO_LOG0 0 = true ∧
    ((withOp (waiter (some (.until_ 1))) anOp).slot 0).wait = some (.until_ 1) ∧ (withOp (waiter none) anOp).nowNs < 1 ∧
    ((withOp (waiter (some (.until_ 0))) anOp).slot 0).wait = some (.until_ 0) := by decide +kernel

theorem test_meets_programsComplete :
    (({ withOp { Slot.init with phase := .draining } anOp with ops := [] } : State).slot (0 : Fin 32)).phase = .draining ∧
    ({ withOp { Slot.init with phase := .draining } anOp with ops := [] } : State).slotOps (0 : Fin 32) = 0 ∧
    (withOp { Slot.init with phase := .draining } anOp).slotOps (0 : Fin 32) = 1 ∧
    (({ withOp { Slot.init with phase := .draining } anOp with ops := [] } : State)).alive = true := by decide +kernel

/-- A page of port H. -/
def aKey : XKey := { port := .h, fn := 1, pasid := 0, page := 5 }

/-- A machine with a page request, a translation in the cache, one under way, and an invalidation. -/
def xlatM : State :=
  { withOp Slot.init { anOp with held := true } with
    fresh := 1, pages := [⟨0, aKey, 0, 0, true⟩], xlating := [aKey], atc := [⟨aKey, 12, true, false, 7⟩]
    invals := [⟨0, .h, 1, 0, 0x5000, 0x1000, [0]⟩, ⟨1, .h, 1, 0, 0x5000, 0x1000, [9]⟩] }

theorem test_meets_translation :
    xlatM.alive = true ∧ xlatM.pages.find? (fun q => q.id = 0 ∧ q.sent ∧ q.key.port = .h) = some ⟨0, aKey, 0, 0, true⟩ ∧
    (∀ q ∈ xlatM.pages, q.id < xlatM.fresh) ∧ xlatM.op? 0 = some { anOp with held := true } ∧
    aKey ∈ xlatM.xlating ∧
    xlatM.invalRoom .h 1 = true ∧ ({ xlatM with invals := List.replicate 32 ⟨0, .h, 1, 0, 0, 0, []⟩ } : State).invalRoom .h 1 = false ∧
    (xlatM.invals.find? (fun x => x.id = 1)).map (fun v => v.users.any xlatM.inProgress) = some false := by decide +kernel

theorem test_meets_clusters :
    (∀ off ∈ [Reg.CLU_SLOT_STOP 0 0, Reg.CLU_CTRL 7, Reg.NEB_RES_INJECT, Reg.SEM_ZERO, Reg.SEM_BAR 0, Reg.SEM_BAR 255],
      Accepted (owned []) .host off) ∧
    ((withOp (waiter none) anOp).slot 0).phase ≠ .idle ∧ ((withOp (waiter none) anOp).slot 0).stopped = false ∧
    (waitM 1 [.cellSet .host 4 1 0xFF]).satisfiedNow 0 = true ∧ (owned []).satisfiedNow 0 = false ∧
    bit (1 : Word) 0 = true ∧ bit (2 : Word) 1 = true ∧ bit (1 : Word) 1 = false := by unfold Accepted; decide +kernel

/-- A segment of two passes at the head of array 0. -/
def aJob : Job := { arr := 0, op := 0, seg := 0, elems := 8, per := 4, done := 0, began := false, tally := [0, 0, 0, 0], lanes := 1 }

/-- Array 0 with a job. -/
def jobM (j : Job) : State :=
  { withOp Slot.init { anOp with segs := [{ aSeg with phase := .array }] } with
    jobs := [j], regs := [(Reg.GLB_CAPS, 0x40)] }

theorem test_meets_arrays : ∀ j ∈ [aJob, { aJob with done := 4 }],
    (jobM j).alive = true ∧ (jobM j).arrayUp (0 : Fin 4).val = true ∧ (jobM j).jobs.find? (fun k => k.arr = 0) = some j ∧
    ((jobM j).op? 0).isSome = true ∧ (∀ o ∈ (jobM j).ops, o.seg? 0 = none → False) ∧ (jobM j).armed = none ∧
    0 < j.per ∧ j.done < j.elems ∧ j.tally.length = 4 ∧ (j.done + j.per < j.elems ↔ j.done = 0) := by decide +kernel

theorem test_meets_cells :
    (owned []).cellPath .host = true ∧ (on [(Reg.SEM_PAGE 255, 0x300)]).semCell .host 0xFFFF = true ∧
    PlainSem (on [(Reg.SEM_PAGE 255, 0x300)]) 0xFFFF ∧ (on []).semCell .host 0xFFFF = false ∧
    ({ on [] with zeroing := some 255 } : State).alive = true ∧ ({ on [] with zeroing := some 255 } : State).semHeld = [] ∧
    (owned [(Reg.GLB_PROFILE, 0xC), (Reg.GLB_MAP_STATUS, 1)]).barriers = true := by unfold PlainSem; decide +kernel

/-! ## Rings -/

/-- A descriptor that software has given to the adapter, of type `typ`. -/
def desc (typ : Nat) : Desc := ⟨BitVec.ofNat 64 (2 ^ 63 + 2 ^ 16 + typ), 0, 0, 0, 0, 0, 0, 0⟩

/-- Ring 3: 16 descriptors, enabled, weight 1, burst 1, with the given descriptors. -/
def aRing (ds : List RDesc) : Ring :=
  { Ring.init with
    cfg1 := BitVec.ofNat 64 (4 + 3 * 2 ^ 8 + 2 ^ 12 + 2 ^ 20 + 2 ^ 27), cfg3 := 0x800, phase := .active
    tail := 2, fetched := 2, descs := ds }

/-- A machine with ring 3, which the host owns, with a PF that can master and translate. -/
def ringM (g : Ring) : State :=
  { owned [(Reg.RING_CTRL, 1), (Reg.CLU_CTRL 0, 1), (Reg.BOOT_STATE, 5), (Reg.GLB_CAPS, 0x88), (Reg.MEM_STATUS, 0x10000), (Reg.SEM_PAGE 0, 0x100),
      (Reg.RING_SEL, 3), (Reg.RING_FQ_CTRL 256, 0x1001)] with
    rings := [(3, g)], fns := [(0, { Fn.init with master := true, ats := true, pasid := true, msixOn := true })]
    vfEn := true, fqs := [(256, { FaultQ.init with irqAt := some 0, irqHeld := true })] }

theorem test_meets_doorbells : (ringM (aRing [])).bellPath .host = true ∧
    ¬ (2 ^ (aRing []).log2 < ((16 : Word).setWidth 32 - (aRing []).head).toNat) ∧
    2 ^ (aRing []).log2 < ((17 : Word).setWidth 32 - (aRing []).head).toNat := by decide +kernel

theorem test_meets_fetches : (ringM { aRing [] with want := 2 }).alive = true ∧
    ((ringM { aRing [] with want := 2 }).ring 3).want = 2 ∧ bit (desc 0).w0 63 = true ∧
    bit (0 : Word) 63 = false ∧ ((ringM { aRing [] with want := 2 }).ring 3).phase ≠ .error := by decide +kernel

theorem test_meets_rereads :
    ((ringM { aRing [] with backoff := some 0 }).ring 3).backoff = some 0 ∧ 0 ≤ (ringM (aRing [])).ck ∧
    (∀ n ∈ [6, 7], ((ringM { aRing [] with backoff := some 0, rereads := n }).ring 3).rereads = n) ∧
    RingReach (ringM (aRing [])) (aRing []) ((aRing []).descVa 2) 64 false ∧ (ringM (aRing [])).ck < 1 ∧
    (aRing []).phase ≠ .error ∧ (aRing []).phase ≠ .stopped ∧ (aRing []).fetched = (aRing []).tail ∧
    ((ringM { aRing [] with phase := .stopped, cfg3 := 0x10000000 }).ring 3).phase = .stopped ∧
    bits (0x10000000 : Word) 28 16 = 1 ∧ (ringM (aRing [])).ps < 0 + 1 * 1000000 ∧
    0 + 1 * 1000000 ≤ ({ ringM (aRing []) with ps := 1000000 } : State).ps := by unfold RingReach; decide +kernel

/-- Ring 3 with one descriptor of type `typ`, in phase `ph`. -/
def oneDesc (typ : Nat) (ph : DPhase) : Ring := aRing [⟨0, desc typ, ph, 0⟩]

theorem test_meets_dispatches : (∀ t ∈ [0, 3], (ringM (oneDesc t .fetched)).alive = true ∧
      (ringM (oneDesc t .fetched)).watching = true ∧ (ringM (oneDesc t .fetched)).flag Reg.RING_CTRL 0 = true ∧
      (ringM (oneDesc t .fetched)).sched.last = none ∧
      ((ringM (oneDesc t .fetched)).schedTrim.chooseRing.map (·.1)) = some 3 ∧
      ((ringM (oneDesc t .fetched)).ring 3).first? = some ⟨0, desc t, .fetched, 0⟩ ∧ bits (desc t).w0 0 8 = t) ∧
    (ringM (aRing [])).schedTrim.chooseRing = none ∧
    (ringM (oneDesc 3 .fetched)).semProg ((ringM (oneDesc 3 .fetched)).ring 3).inst 0 = true ∧
    ({ ringM (oneDesc 3 .fetched) with regs := tset 0 (ringM (oneDesc 3 .fetched)).regs (Reg.SEM_PAGE 0) 0 } : State).semProg 0 0 = false ∧
    PlainSem (ringM (oneDesc 3 .fetched)) 0 := by unfold PlainSem; decide +kernel

/-- A machine whose memory holds, at its first byte, an image of one END instruction. -/
def imageM (x : Slot) (m : Tab Byte) : State :=
  { ringM (oneDesc 1 .dispatched) with slots := [(0, x)], mem := m }

/-- The image's bytes. -/
def imageBytes : Tab Byte :=
  [(0, 0x31), (1, 0x4D), (2, 0x44), (3, 0x4A), (4, 1), (0xC, 1), (0x21, 1), (0x29, 1), (256, 1)]

/-- A slot on which the launch of ring 3's first descriptor is placed. -/
def loader : Slot := { Slot.init with launch := some (3, 0, 0) }

/-- A machine on which that launch waits for a cluster; cluster 0 takes launches if `on`. -/
def launchM (enabled : Word) : State :=
  { ringM (oneDesc 1 .waiting) with regs := tset 0 (ringM (oneDesc 1 .waiting)).regs (Reg.CLU_CTRL 0) enabled }

theorem test_meets_launches : (launchM 1).alive = true ∧ (launchM 1).running = true ∧ (launchM 1).watching = true ∧
    (launchM 1).chooseCluster 0 (desc 1) = some 0 ∧ (launchM 0).chooseCluster 0 (desc 1) = none ∧
    (((launchM 1).ring 3).waiting?).isSome = true ∧ (launchM 1).idleSlot 0 = some 0 ∧
    (imageM loader imageBytes).idleSlot 0 = some 1 := by decide +kernel

/-- The header of that image. -/
def aHeader : Header := ⟨0, 1, 0, 0, 256, 256⟩

/-- A machine whose instruction memory of cluster 0 other programs fill. -/
def fullM : State :=
  { imageM loader imageBytes with
    images := [{ clu := 0, addr := 0x100000, imageId := 0, count := 16384, base := 0, words := [], launched := 0 }]
    slots := [(0, loader), (1, { Slot.init with phase := .running, image := 0x100000, imemLen := 16384 })] }

theorem test_meets_images : ((imageM loader imageBytes).slot 0).launch = some (3, 0, 0) ∧
    ((imageM loader imageBytes).ring 3).desc? 0 = some ⟨0, desc 1, .dispatched, 0⟩ ∧
    (imageM loader imageBytes).imageAt 0 0x40000000 256 = none ∧ (imageM loader imageBytes).imageAt 0 0 256 = some 0 ∧
    ({ imageM loader [] with regs := (Reg.MEM_RGN 0, 0xC001000) :: (imageM loader []).regs } : State).prot 0 256 = true ∧
    (imageM loader imageBytes).prot 0 256 = false ∧
    headerOf ((imageM loader []).readMem 0 0 256).1 = none ∧ ((imageM loader imageBytes).readMem 0 0 256).2.1 = false ∧
    headerOf ((imageM loader imageBytes).readMem 0 0 256).1 = some aHeader ∧
    (imageM loader imageBytes).canHold 0 0 aHeader = true ∧ fullM.canHold 0 0 aHeader = false ∧
    ((imageM loader imageBytes).residentOf 0 0 aHeader).isNone = true ∧
    ((imageM loader imageBytes).imageRead 0 0 256 16).2.1 = 0 ∧ ((imageM loader imageBytes).imageRead 0 0 256 0).2.1 = 0 ∧
    ((imageM loader imageBytes).makeResident 0 0 aHeader (wordsOf ((imageM loader imageBytes).imageRead 0 0 256 16).1 1)).isSome
      = true := by decide +kernel

theorem test_meets_publication : (ringM (oneDesc 0 (.finished 0))).alive = true ∧
    ((ringM (oneDesc 0 (.finished 0))).ring 3).desc? 0 = some ⟨0, desc 0, .finished 0, 0⟩ ∧
    (aRing []).cfg0.toNat % 64 = 0 ∧
    RingReach (ringM (oneDesc 0 (.finished 0))) (oneDesc 0 (.finished 0)) ((oneDesc 0 (.finished 0)).descVa 0) 8 true ∧
    descSigSem { desc 1 with w7 := 0x10000 } = some 0 ∧ descSigSem (desc 0) = none ∧
    (aRing [⟨1, desc 0, .finished 0, 0⟩]).head ≠ 1 := by unfold RingReach; decide +kernel

theorem test_meets_holdoffs : (ringM { aRing [] with irqHeld := true, irqAt := some 0 }).alive = true ∧
    bit (aRing []).cfg3 11 = true ∧ bits (aRing []).cfg3 12 16 = 0 ∧ (ringM (aRing [])).msixMay 0 0 = true ∧
    (ringM (aRing [])).msixHeld 0 0 = true ∧ (ringM (aRing [])).msixMay 1 0 = false ∧
    ({ ringM (aRing []) with msixTab := [(0, { MsixVec.init with masked := false })] } : State).msixHeld 0 0 = false ∧
    (aRing []).irqHeld = false ∧ ((ringM (aRing [])).fq 256).irqHeld = true ∧
    (ringM (aRing [])).flag (Reg.RING_FQ_CTRL 256) 12 = true ∧ ((ringM (aRing [])).fq 256).irqAt = some 0 := by decide +kernel

theorem test_meets_ringCommands : RingSelected (ringM (aRing [])) .host 3 ∧
    ({ aRing [] with fetched := 0 } : Ring).head = ({ aRing [] with fetched := 0 } : Ring).fetched ∧
    (aRing []).head ≠ (aRing []).fetched ∧ ((ringM (aRing [])).sh (pathAt .host Reg.RING_CFG0)).toNat % 4096 = 0 ∧
    (({ ringM (aRing []) with shadow := [(Reg.RING_CFG0, 1)] } : State).sh (pathAt .host Reg.RING_CFG0)).toNat % 4096 ≠ 0 := by
  unfold RingSelected ViewAccepted Accepted; decide +kernel

theorem test_meets_faultQueues : ViewAccepted (ringM (aRing [])) .host (Reg.RING_FQ_CONS 256) ∧
    ((ringM (aRing [])).fq 256).pend.any (· != 0) = false ∧
    (({ ringM (aRing []) with fqs := [(256, { FaultQ.init with pend := [0, 0, 0, 0, 0, 0, 2, 0] })] } : State).fq 256).pend.any (· != 0) = true ∧
    (ringM (aRing [])).fqFull 256 = false ∧ (ringM (aRing [])).canTranslate .h (fqFn 256) = true ∧
    (0 - (0xFFFFF000 : BitVec 32)).toNat = 4096 ∧ 4096 < (0 - (0xFFFFEFFF : BitVec 32)).toNat := by
  unfold ViewAccepted Accepted; decide +kernel

/-! ## Messages and packets -/

/-- A packet of message 5 for window 2. -/
def aPkt : Packet :=
  { ver := 1, typ := 0, urgent := false, enc := false, mcast := false, ordered := false, sig := false,
    retx := false, ece := false, fin := false, attr := 0, src := 0, dst := 0, srcCtx := 0, dstCtx := 0, msg := 5,
    idx := 0, last := 0, ts := 0, part := 0, len := 4, prev := 0, tgtA := 2, tgtB := 0, payload := [1, 2, 3, 4],
    gcmTag := 0 }

/-- A packet of type `typ` as it arrives. -/
def aRx (typ : BitVec 4) : Rx := { pkt := { aPkt with typ := typ }, cksumOk := true, udpLen := 52, ce := false, tc := 0 }

/-- As many bytes as an ACK or a NACK has. -/
def short (r : Rx) (f : Packet → Packet) : Rx := { r with pkt := f { r.pkt with payload := [], len := 0 }, udpLen := 48 }

/-- A sender record of a write of two packets, of which one is sent. -/
def aSrec : SRec :=
  { msg := 5, src := .op 0 0, sl := 0, inst := 0, typ := 1, srcCtx := 0, dst := 0, dstCtx := 0, mcast := false,
    birth := 0, last := 1, cum := 0, acked := 0, sent := 1, fast := [], again := [], busy := [], members := 0, line := ⟨0, 0⟩,
    retx := 0, expo := 0, timer := some 0, status := none, ordered := false, prev := 0, part := 0, tc := 0,
    urgent := false, key := none, plane := [], attr := 0, tgtA := 0, tgtB := 0, sig := false, unit := 0, data := [],
    trig := [], group := none, made := 0 }

/-- A receive record of a message of two packets. -/
def aRrec : RRec :=
  { src := 0, msg := 5, typ := 1, ts := 0, last := 1, cum := 0, got := 0, phase := .receiving, status := 0,
    dstCtx := 0, srcCtx := 0, part := 0, tc := 0, urgent := false, writes := 0, prev := 0, hasPrev := false,
    prevGone := none, sig := false, semId := 0, mcast := false, bound := none, length := none, unacked := 1,
    ackDue := some 0, ece := false, finalSent := false, semHeld := false, flushed := false, ctrl := none, bytes := 0, made := 0 }

/-- A request for a remote semaphore add. -/
def aTx : TxReq :=
  { id := 7, src := .semOp 0 1 4 9, sl := 0, inst := 0, srcCtx := 0, dst := 1, dstCtx := 0, tc := 0,
    urgent := false, since := 0, trkWait := false, recWait := false, data := [], trig := [] }

/-- A machine with a resident context 0, an open window 2 of adapter memory, and the given records. -/
def netM (tx : List TxReq) (sr : List SRec) (rr : List RRec) (os : List Op) : State :=
  { owned [(Reg.XPT_CTRL, 3), (Reg.XPT_CTX_COUNT, 4), (Reg.XPT_LIFETIME, 2000), (Reg.XPT_TX_REC, 16), (Reg.WIN_TBL_COUNT, 4),
      (Reg.MEM_STATUS, 0x10000), (Reg.GLB_CAPS, 0x88), (Reg.SEM_PAGE 0, 0x4100), (Reg.XPT_RTO_CFG, 0x700000000),
      (Reg.XPT_CTX_SEL, 1), (Reg.WIN_SEL, 1)] with
    ctxs := [(0, { Ctx.init with valid := true, resident := true })], debt := 0, ops := os
    wins := [(2, { Win.init with
      data1 := 0xF0000000001000, data2 := 0x1000000000, phase := .open_, cached := true })]
    txq := tx, srecs := sr, rrecs := rr, posted := [⟨9, 0, 2, 16, none⟩] }

theorem test_meets_creation : (netM [aTx] [] [] []).alive = true ∧ (netM [aTx] [] [] []).txq.find? (fun q => q.id = 7) = some aTx ∧
    Creatable (netM [aTx] [] [] []) aTx (semForm 1 4 9) ∧ (semForm 1 4 9).mcast = false := by
  unfold Creatable
  refine ⟨by decide +kernel, by decide +kernel, ⟨by decide +kernel, by decide +kernel, by decide +kernel, by decide +kernel,
    by decide +kernel, ?_, by decide +kernel, by decide +kernel⟩, by decide +kernel⟩
  intro k hk; exact absurd hk (by decide)

theorem test_meets_release : (netM [] [aSrec] [] []).srec? 5 = some aSrec ∧ aSrec.nextPacket 1 = some none ∧ aSrec.key = none ∧
    aSrec.mcast = false ∧ (netM [] [aSrec] [] []).hop 0 = .loop ∧
    (netM [] [{ aSrec with again := [⟨0, .timer, 0, 0⟩] }] [] []).mayRetx 0 = true ∧
    ({ aSrec with again := [⟨0, .timer, 0, 0⟩] } : SRec).nextPacket 0 = some (some ⟨0, .timer, 0, 0⟩) := by decide +kernel

/-- A machine with sub-port F0a up in direct mode, its peer being adapter 1. -/
def lineM (r : SRec) : State :=
  { netM [] [r] [] [] with
    subs := [(0, { Sub.init with link := .up, lanes := 8, peer := 1 })]
    regs := (Reg.FAB_CTRL, 1) :: (Reg.FAB_PLANE 0, 1) :: (Reg.XPT_PLANE_WT 0, 100) :: (netM [] [r] [] []).regs }

theorem test_meets_releaseByLine : (lineM { aSrec with dst := 1, urgent := true }).hop 1 = .line 1 1 ∧
    (lineM { aSrec with dst := 1, urgent := true }).ephOpen { aSrec with dst := 1, urgent := true } 1 = true ∧
    ((lineM { aSrec with dst := 1, urgent := true }).pickPlane { aSrec with dst := 1, urgent := true } 1 false
      ((lineM { aSrec with dst := 1, urgent := true }).routePlanes 1)).map (·.1) = some 0 ∧
    (lineM { aSrec with dst := 1, urgent := true }).egressFits 0 4200 = true := by decide +kernel

theorem test_meets_arrivals :
    (∀ n ∈ [1, 2, 3, 4, 6], Taken (netM [] [] [] []) (if n = 4 then short (aRx 4) id else
      if n = 6 then short (aRx 6) (fun p => { p with attr := 1 }) else
      if n = 2 then { aRx 2 with pkt := { (aRx 2).pkt with attr := 0x800 } } else aRx (BitVec.ofNat 4 n)) (BitVec.ofNat 4 n)) ∧
    Receivable (netM [] [] [] []) aPkt ∧ WindowAdmits (netM [] [] [] []) { aPkt with typ := 1 } ∧
    WindowAdmits (netM [] [] [] []) { aPkt with typ := 2, attr := 0x800 } ∧ CleanMemory (netM [] [] [] []) ∧
    ((netM [] [] [] []).win 2).space = 0 ∧ (netM [] [] [] []).armed = none ∧ (netM [] [] [] []).pickArray.isSome = true ∧
    (netM [] [] [aRrec] []).rrec? 0 5 = some aRrec ∧ aRrec.got.testBit 1 = false := by
  unfold Taken Receivable WindowAdmits CleanMemory; decide +kernel

theorem test_meets_reads : (netM [] [] [] []).winCheck { aPkt with typ := 4 } = none ∧
    (netM [] [] [] []).winProt ((netM [] [] [] []).win 2) 0 (readReach { aPkt with typ := 4 }) = false ∧
    (netM [] [] [] []).winCheck { aPkt with typ := 4, tgtA := 3 } = some St.windowClosed ∧
    Taken (netM [] [{ aSrec with typ := 4 }] [] []) (aRx 5) 5 ∧
    (netM [] [{ aSrec with typ := 4, src := .op 0 0 }] [] [{ anOp with segs := [aSeg] }]).respDup { aSrec with typ := 4 } 0 = false ∧
    ((netM [] [] [] [{ anOp with segs := [aSeg] }]).segIdx 0 0).isSome = true ∧
    (netM [] [] [] []).respDup { aSrec with typ := 4, acked := 1 } 0 = true := by
  unfold Taken; decide +kernel

theorem test_meets_semPackets : (netM [] [] [] []).semRemote 0 2 = true ∧ PlainSem (netM [] [] [] []) 2 ∧
    (∀ n ∈ [1, 2, 3], (netM [] [] [] []).headerOk (short (aRx 6) (fun p => { p with attr := BitVec.ofNat 16 n })) = true) := by
  unfold PlainSem; decide +kernel

theorem test_meets_acknowledgements :
    (∀ n ∈ [8, 9], (netM [] [aSrec] [] []).headerOk (short (aRx (BitVec.ofNat 4 n)) id) = true) ∧
    (netM [] [aSrec] [] []).srec? (short (aRx 8) id).pkt.msg = some aSrec ∧ aSrec.mcast = false ∧
    (∀ m ∈ [1, 3], (netM [] [{ aSrec with mcast := true, members := BitVec.ofNat 64 m, line := ⟨1, 1⟩ }] [] []).srec? 5
      = some { aSrec with mcast := true, members := BitVec.ofNat 64 m, line := ⟨1, 1⟩ } ∧
      (BitVec.ofNat 64 m &&& ~~~(BitVec.ofNat 64 (2 ^ rankIn ⟨1, 1⟩ (0 : AdapterId))) = 0 ↔ m = 1)) ∧
    (netM [] [] [] []).srec? (short (aRx 8) id).pkt.msg = none ∧ (short (aRx 8) (fun p => { p with fin := true })).pkt.fin = true ∧
    (short (aRx 9) (fun p => { p with attr := St.busy })).pkt.attr = St.busy ∧ (short (aRx 9) id).pkt.attr ≠ St.busy := by
  decide +kernel

theorem test_meets_timers : (netM [] [] [aRrec] []).rrec? 0 5 = some aRrec ∧ aRrec.ackDue = some 0 ∧ aRrec.finalSent = false ∧
    aRrec.mcast = false ∧ (netM [] [] [aRrec] []).hop aRrec.src = .loop ∧ (lineM aSrec).hop 1 ≠ .loop ∧
    ((wrrPick ((lineM aSrec).ctx 0).wrr ((lineM aSrec).routePlanes 1)).map (·.1)) = some 0 ∧
    (netM [] [aSrec] [] []).srec? 5 = some aSrec ∧ aSrec.timer = some 0 ∧ (netM [] [aSrec] [] []).mayRetx aSrec.birth = true ∧
    aSrec.retx < (netM [] [aSrec] [] []).fld Reg.XPT_RTO_CFG 32 4 ∧ aSrec.cum ≤ aSrec.last ∧
    (netM [] [{ aSrec with retx := 7 }] [] []).fld Reg.XPT_RTO_CFG 32 4 ≤ 7 ∧ (netM [] [aSrec] [] []).ps < 1 ∧
    ({ aSrec with busy := [(⟨0, .busy, 0, 0⟩, 0)] } : SRec).busy.find? (fun e => e.1.idx = 0 ∧ e.2 ≤ 0) = some (⟨0, .busy, 0, 0⟩, 0) := by
  decide +kernel

/-- The machine when Meridian time reads `n` ns. -/
def later (s : State) (n : Nat) : State := { s with time := { s.time with now := BitVec.ofNat 96 (n * 2 ^ 32) } }

theorem test_meets_lifetimes : ((netM [] [aSrec] [] []).lifeNs : Int) = 2000000 ∧
    (later (netM [] [aSrec] [] []) 2000000).msgAge aSrec.birth = 2000000 ∧
    (later (netM [] [aSrec] [] []) 1999999).msgAge aSrec.birth = 1999999 ∧ (netM [] [aSrec] [] []).msgRouteUp aSrec = true ∧
    (netM [] [aSrec] [] []).msgRouteUp { aSrec with dst := 1 } = false ∧
    ((later (netM [] [] [aRrec] []) 2000128).lifeNs : Int) < (later (netM [] [] [aRrec] []) 2000128).ageNs aRrec.ts ∧
    (netM [] [] [aRrec] []).ageNs aRrec.ts ≤ ((netM [] [] [aRrec] []).lifeNs : Int) ∧ aRrec.writes = 0 := by decide +kernel

theorem test_meets_contextEvents : (netM [] [] [] []).ctxOk 0 = true ∧
    max ((netM [] [] [] []).ctx 0).aiAt (((netM [] [] [] []).ctx 0).mdAt.getD 0) + (netM [] [] [] []).fld Reg.XPT_RATE_CFG 16 8 * 1000000 ≤ 0 ∧
    (({ netM [] [] [] [] with ctxs := [(0, { Ctx.init with valid := true, fetching := true })] } : State).ctx 0).fetching = true ∧
    (({ netM [] [] [] [] with wins := [(1, { Win.init with fetching := true })] } : State).win 1).fetching = true ∧
    (netM [] [] [] []).storing ((netM [] [] [] []).ctxAt 0) 256 = false ∧ (netM [] [] [] []).storing ((netM [] [] [] []).winAt 1) 64 = false ∧
    (netM [] [] [] []).raw = [] ∧ (netM [] [] [] []).txq = [] ∧
    (netM [] [] [] []).parked = [] ∧ Accepted (netM [] [] [] []) .host Reg.XPT_COMMIT := by unfold Accepted; decide +kernel

/-- A machine with an access under way for a segment of operation 0. -/
def accessM : State :=
  { netM [] [] [] [{ anOp with a := { tT with attr := 0x321 }, segs := [{ aSeg with phase := .reading, writes := 2 }] }] with
    reads := [⟨3, .seg 0 0 0, 16, [], true⟩], writes := [⟨4, .seg 0 0, 0, some .h, [], 0, [], 16⟩] }

theorem test_meets_accesses : accessM.alive = true ∧ (accessM.op? 0).isSome = true ∧
    (accessM.op? 0).all (fun o => isExt ((o.srcs.getD 0 o.a).space) && decide (o.seg? 0 ≠ none)) = true ∧
    accessM.reads.find? (fun r => r.id = 3 ∧ r.sent) = some ⟨3, .seg 0 0 0, 16, [], true⟩ ∧
    accessM.writes.find? (fun w => w.id = 4 ∧ w.port.isSome) = some ⟨4, .seg 0 0, 0, some .h, [], 0, [], 16⟩ ∧
    accessM.inOrder (accessM.readSource (.seg 0 0 0)) none 3 = true ∧
    ({ accessM with reads := [⟨2, .seg 0 0 0, 16, [aKey], true⟩, ⟨3, .seg 0 0 0, 16, [aKey], true⟩] } : State).inOrder
      (accessM.readSource (.seg 0 0 0)) (some .h) 3 = false ∧
    { accessM with reads := [] }.inOrder (accessM.writeSource ⟨4, .seg 0 0, 0, some .h, [], 0, [], 16⟩) (some .h) 4 = true ∧
    accessM.inOrder (accessM.writeSource ⟨5, .seg 0 0, 0, some .h, [], 0, [], 16⟩) (some .h) 5 = false ∧
    (accessM.ops.all (fun o => !o.held)) = true := by decide +kernel

/-- A core's job on an arriving packet with tag `t`. -/
def aJobC (ingress : Bool) (t : BitVec 128) : CJob :=
  { ingress := ingress, slot := 0, key := 0, gen := 0, rx := { aRx 1 with pkt := { aPkt with gcmTag := t } }, win := some 2
    upset := none, plane := none, fin := false, moved := false, at_ := 0 }

/-- The tag that the cipher computes for the packet of `aJobC`. -/
def gT : BitVec 128 := Config.gcmTag 0 (packetIv aPkt) (packetAad aPkt) [1, 2, 3, 4]

theorem test_meets_cipher :
    (({ netM [] [] [] [] with cores := [(55, { Core.init with job := some (aJobC false 0) })] } : State).core (55 : Fin 56).val).job
      = some (aJobC false 0) ∧
    (∀ t, Config.gcmTag (aJobC true t).key (packetIv (aJobC true t).rx.pkt) (packetAad (aJobC true t).rx.pkt)
      (aJobC true t).rx.pkt.payload = gT ∧ (aJobC true t).rx.pkt.gcmTag = t) ∧ gT ≠ gT + 1 := by
  refine ⟨by decide +kernel, fun _ => ⟨rfl, rfl⟩, ?_⟩
  generalize gT = v
  intro e
  have := congrArg (fun w => w - v) e
  simp at this

theorem test_meets_contextCommands : CtxSelected (netM [] [] [] []) .host 1 ∧ (1 : BitVec 20).toNat < (netM [] [] [] []).ctxCount ∧
    ((netM [] [] [] []).ctx 1).valid = false ∧ (netM [] [] [] []).instExists 0 = true ∧ (netM [] [] [] []).inRange 0 .ctxs 1 = true ∧
    (netM [] [] [] []).ctxOk 1 = false ∧ (netM [] [] [] []).ctxOk 0 = true ∧ (netM [] [] [] []).ctxHeld 0 = false ∧
    (netM [] [aSrec] [] []).ctxHeld 0 = true ∧ (netM [] [] [] []).pinnedBut 1 < 1024 ∧
    WinSelected (netM [] [] [] []) .host 1 := by
  unfold CtxSelected WinSelected ViewAccepted Accepted; decide +kernel

/-- The staged registers of a window of 4 KiB of adapter memory. -/
def winShadow : Tab Word := [(Reg.WIN_DATA1, 0xF0000000001000)]

theorem test_meets_windowCommands :
    (1 < (netM [] [] [] []).winCount ∧ ((netM [] [] [] []).win 1).phase = .free ∧ (netM [] [] [] []).inRange 0 .wins 1 = true) ∧
    ({ Win.init with data1 := 0xF0000000001000 } : Win).formOk = true ∧
    (netM [] [] [] []).winFits { Win.init with data1 := 0xF0000000001000 } = true ∧
    ((netM [] [] [] []).win 2).phase = .open_ ∧ ((netM [] [] [] []).win 2).flight = 0 ∧
    (0 : Word).toNat + (netM [] [] [] []).lifeNs ≤ (later (netM [] [] [] []) 2000000).nowNs ∧
    (later (netM [] [] [] []) 1999999).nowNs < (0 : Word).toNat + (netM [] [] [] []).lifeNs := by decide +kernel

/-! ## Fabric and ports -/

/-- A broadcast frame of 138 bytes and its FCS with a WRITE packet from adapter 1 of message 5 for adapter 0 (R204 to R206, R265). -/
def aFrame : Frame :=
  { bytes := List.replicate 12 0xFF ++ [0x81, 0, 0, 0, 0x86, 0xDD] ++ [0x60, 0, 0, 0, 0, 60, 17, 64] ++ List.replicate 32 0
      ++ [0xBA, 0x30, 0xBA, 0x30, 0, 60, 0, 1] ++ [0x11, 0, 0, 0, 0, 1, 0, 0] ++ List.replicate 11 0 ++ [5] ++ List.replicate 11 0
      ++ [4] ++ List.replicate 16 0 ++ [1, 2, 3, 4]
    fcsOk := true, fec := ⟨0, 0, 0⟩ }

/-- A frame of flow control, which is no transport frame. -/
def pauseFrame : Frame := { aFrame with bytes := List.replicate 12 0xFF ++ [0x88, 8, 0, 1] ++ List.replicate 44 0 }

/-- The fields of the transport frame, read from its bytes. -/
theorem test_frame_bytes : aFrame.kind = .transport ∧ aFrame.len = 122 ∧ aFrame.tagged = true ∧ aFrame.pcp = 0 ∧
    aFrame.rx.pkt.typ = 1 ∧ aFrame.rx.pkt.src = 1 ∧ aFrame.rx.pkt.msg = 5 ∧ aFrame.rx.pkt.len = 4 ∧
    aFrame.rx.pkt.payload = [1, 2, 3, 4] ∧ pauseFrame.kind = .pause := by decide +kernel

/-- A good frame of the link layer. -/
def aLinkFrame : LinkFrame :=
  { fcsOk := true, src := 0, vc := 0, urgent := false, seq := 0, ack := 0, credit0 := 0, credit1 := 0,
    credit2 := 0, credit3 := 0, adapter := 0, len := 0, data := none }

/-- A machine with sub-port F0a in state `x`, in direct mode or not. -/
def portM (direct : Nat) (x : Sub) : State :=
  { owned [(Reg.FAB_CTRL, direct), (Reg.FAB_PLANE 0, 1), (Reg.MAC_FRAME 0, 9216), (Reg.MAC_CTRL 0, 0x41), (Reg.FAB_PFC, 0x100801),
      (Reg.FAB_LINK_CFG, 1), (Reg.GLB_CAPS, 0x1000), (Reg.BOOT_TRAIN_CFG, 0x10000), (Reg.XPT_V6_PREFIX, 0)] with
    subs := [(0, x)]
    boot := { Boot.init with decided := true, attWidth := [(0, 16)], recs := [{ Rec.default with ports := [0x10, 0x10] }] } }

/-- A sub-port that is up. -/
def upSub : Sub := { Sub.init with link := .up, lanes := 8 }

/-- A frame that waits in the class queue of TC `c`. -/
def waiting (c : Nat) : EgFrame :=
  { prio := c, len := 64, vc := 0, vid := 0, body := .own 0 ⟨0, 0, 0, 0, 0, 0⟩ aPkt, seq := 0, sentAt := 0, stalled := false }

theorem test_meets_frames : (portM 0 upSub).alive = true ∧ (portM 0 upSub).role 0 ≠ 0 ∧ (portM 0 upSub).role 1 = 0 ∧
    ((portM 0 upSub).sub (0 : Fin 6) (0 : Fin 4)).isUp = true ∧ (portM 0 upSub).fld (Reg.MAC_FRAME 0) 0 14 = 9216 ∧
    (portM 0 upSub).noRoom 0 0 aFrame = false ∧ (portM 0 upSub).macOk 0 0 aFrame = true ∧
    aFrame.vid = (portM 0 upSub).vid 0 ∧ (ipAt aFrame.bytes).dstV6 = (portM 0 upSub).v6 (portM 0 upSub).me ∧
    aFrame.fcsOk = true ∧ aFrame.fec.bad = 0 ∧ 64 ≤ aFrame.len ∧ aFrame.len ≤ 9216 ∧ aFrame.kind = .transport ∧
    ({ aFrame with bytes := [] } : Frame).len < 64 ∧ ({ aFrame with fec := ⟨0, 0, 1⟩ } : Frame).fec.bad ≠ 0 ∧
    (on [(Reg.MAC_FRAME 0, 100)]).fld (Reg.MAC_FRAME 0) 0 14 < aFrame.len ∧ (portM 0 Sub.init).role 0 ≠ 0 ∧
    ((portM 0 Sub.init).sub (0 : Fin 6) (0 : Fin 4)).isUp = false ∧ pauseFrame.kind ≠ .transport ∧
    (∀ c ∈ [0, 7], (((portM 0 { upSub with queue := [waiting c] }).countStalls 0 0).pickFrame 0 0).isSome = true) ∧
    ((portM 0 { upSub with queue := [waiting 0, waiting 7] }).countStalls 0 0).candidate 0 0 7 = some (waiting 7) := by
  decide +kernel

theorem test_meets_flowControl : (portM 0 upSub).direct = false ∧ (portM 1 upSub).direct = true ∧
    (portM 0 { upSub with xoff := 1 }).pfcOn 0 = true ∧ upSub.xoffAt.getD 0 0 + 10000000 ≤ ({ portM 0 upSub with ps := 10000000 } : State).ps ∧
    (portM 0 upSub).pfcBytes 0 20 < ({ portM 0 upSub with
      ingress := [⟨0, 0, 0, 2000, 0, aRx 1, none, 0⟩] } : State).inBytes 0 0 0 ∧ (portM 0 upSub).role 0 ≠ 0 ∧ (portM 0 upSub).role 1 = 0 ∧
    (portM 0 upSub).inBytes 0 0 7 ≤ (portM 0 upSub).pfcBytes 0 20 := by decide +kernel

theorem test_meets_linkLayer : (portM 1 upSub).alive = true ∧ (portM 1 upSub).direct = true ∧
    ((portM 1 upSub).sub (0 : Fin 6) (0 : Fin 4)).isUp = true ∧ aLinkFrame.fcsOk = true ∧ aLinkFrame.seq = upSub.seqRx ∧
    ({ aLinkFrame with seq := 1 } : LinkFrame).seq ≠ upSub.seqRx ∧ upSub.ackAt = 0 ∧
    (portM 1 upSub).role 0 ≠ 0 ∧ (portM 1 upSub).role 1 = 0 ∧
    (({ portM 1 upSub with subs := [(4, upSub)] } : State).sub (1 : Fin 6) (0 : Fin 4)).isUp = true ∧
    ({ upSub with ctrlDue := some 0, replayAt := some 0 } : Sub).ctrlDue = some 0 ∧ (portM 1 upSub).ps < 1 := by decide +kernel

theorem test_meets_linksChange : GoesDown (portM 0 { upSub with fecDue := true }) 0 0 .fec ∧
    GoesDown { portM 1 { upSub with held := [waiting 0] } with ps := 1000000 } 0 0 .replay ∧
    GoesDown { portM 0 { upSub with lockAt := some 0 } with ps := 1000001 } 0 0 .lock :=
  ⟨⟨.inl rfl, rfl, rfl⟩, ⟨.inl rfl, rfl, _, _, rfl, by decide +kernel⟩, ⟨.inl rfl, rfl, _, rfl, by decide +kernel⟩⟩

theorem test_meets_retry : (portM 0 upSub).portOn 0 = true ∧ (portM 0 upSub).boot.decided = true ∧ (portM 0 upSub).attUp 0 = true ∧
    0 + 1000000000 * (portM 0 upSub).fld Reg.BOOT_TRAIN_CFG 16 16 ≤ ({ portM 0 upSub with ps := 1000000000 } : State).ps ∧
    (portM 0 upSub).present 1 = true ∧ ¬ GoesDown (portM 0 Sub.init) 0 0 .fec := by unfold GoesDown; decide +kernel

theorem test_meets_portCommands : (∀ off ∈ [Reg.MAC_CTRL 0, Reg.FAB_COMMIT, Reg.FAB_MC_CMD, Reg.MAC_TQ_PROD 5],
      Accepted (portM 0 upSub) .host off) ∧
    bit ((portM 0 upSub).reg (Reg.MAC_CTRL 0)) 0 = true ∧ bit ((portM 0 upSub).reg (Reg.MAC_CTRL 1)) 0 = false ∧
    PfcRefused { portM 0 upSub with shadow := [] } ∧
    ¬ PfcRefused { portM 0 upSub with shadow := [(Reg.FAB_PFC, 0x100200)] } ∧
    ((1 : Word).setWidth 32 - (portM 0 upSub).tqCons 0).toNat = 1 ∧ 2 ^ (portM 0 upSub).fld (Reg.MAC_TQ_CFG 0) 0 4 = 1 ∧
    0 < (portM 0 upSub).subCount 0 := by unfold Accepted PfcRefused; decide +kernel

/-! ## Host attach -/

/-- A window operand of SEND and RECV: none; the tensor is data. -/
theorem test_meets_sendReceive : (∀ op ∈ [0x62, 0x63],
      Ready (progT (BitVec.ofNat 8 op) (J 0 0x20 1 1 0) [(0, tT)]) 0 (BitVec.ofNat 8 op) (J 0 0x20 1 1 0) ∧
      fieldsOk (BitVec.ofNat 8 op) (J 0 0x20 1 1 0) 1 = true ∧
      (progT (BitVec.ofNat 8 op) (J 0 0x20 1 1 0) [(0, tT)]).canOp 0 = true) ∧
    MessageOk (progT 0x63 (J 0 0x20 1 1 0) [(0, tT)]) 0 0 (J 0 0x20 1 1 0) [] tT false ∧ tT.denseBytes 0 tT.count = 16 ∧
    (progT 0x63 (J 0 0x20 1 1 0) [(0, tT)]).posted = [] ∧ (progT 0x63 (J 0 0x20 1 1 0) [(0, tT)]).ops = [] := by
  unfold Ready Fetched MessageOk TensorsReachable SignalOk; decide +kernel

/-- An instance of partition 1 with 16 PIO slots from slot 0, open to the host. -/
def anInst : Inst := { c0 := 0x100000, c1 := 0, c2 := 0, c3 := 0, c4 := 0, c5 := 0x100000000000, c6 := 0 }

/-- A machine with instance 1 and attach port A0 up, with CXL.mem and an aperture of one unit. -/
def attM (rgn : Word) : State :=
  { owned [(Reg.GLB_CAPS, 0x1000), (Reg.MEM_STATUS, 0x10000), (Reg.XPT_CTX_COUNT, 4), (Reg.XLT_ATT_APER 0, 0x4000),
      (Reg.MEM_RGN 0, rgn), (Reg.XLT_INST_SEL, 1), (Reg.BOOT_STATE, 5), (Reg.DBG_CTRL, 0x1000)] with
    insts := [(1, some anInst)], cxlMem := 1, vfEn := true, numVfs := 1
    ctxs := [(0, { Ctx.init with valid := true, data0 := 0x100 })]
    fns := [(0, { Fn.init with master := true }), (1, { Fn.init with master := true })]
    boot := { Boot.init with attWidth := [(0, 16)] } }

theorem test_meets_pio : (attM 0).pioPath .host = true ∧ (attM 0).pioSlot .host 0 = some (1, 0) ∧
    bit ((attM 0).instCfg0 1) (20 + pioBit .host) = true ∧ (attM 0).pioBad 1 (triggerWords (attM 0) 0 0) = true ∧
    (attM 0).pioBad 1 (triggerWords (attM 0) 0 0x2010) = false ∧
    (attM 0).pioSlot .host 16 = some (0, 16) ∧ bit ((attM 0).instCfg0 0) (20 + pioBit .host) = false ∧
    (attM 0).pioSlot .bmc 0 = none := by decide +kernel

theorem test_meets_aperture : (attM 0).alive = true ∧ (attM 0).attUp (0 : Fin 4).val = true ∧ (attM 0).cxlMem.getLsbD 0 = true ∧
    (attM 0).aperture 0 0x40000000 = some 0 ∧ (attM 0).prot 0 64 = false ∧ 0 + 64 ≤ (attM 0).memBytes ∧
    (attM 0xC001000).prot 0 64 = true ∧ CleanMemory (attM 0) ∧ (attM 0).writes = [] ∧
    (attM 0).raw = [] ∧ (attM 0).lineAsked 0 5 = false ∧ ({ attM 0 with freeing := [(0, 5)] } : State).lineAsked 0 5 = true ∧
    ({ attM 0 with filter := [(0, 5)] } : State).filter.all (· == (0, 5)) = true ∧
    ({ attM 0 with writes := [⟨1, .hdm 0, 0, none, [(0, 5)], 0, [some 1], 1⟩] } : State).writes = [⟨1, .hdm 0, 0, none, [(0, 5)], 0, [some 1], 1⟩] := by
  unfold CleanMemory; decide +kernel

theorem test_meets_functions : (attM 0).twilight = false ∧ (attM 0).tripped = false ∧ (attM 0).vfOk 1 = true ∧ (attM 0).vfOk 2 = false ∧
    (attM 0).cfgReach (.busMaster 2 true) = false ∧ (attM 0).fnAt .h 1 = true ∧ (attM 0).fnAt (.a 0) 0 = true ∧
    (attM 0).vfEn = true ∧ ({ attM 0 with vfEn := false } : State).vfEn = false ∧ (attM 0).attUp (0 : Fin 4).val = true := by
  decide +kernel

theorem test_meets_ownership : Commands (attM 0) .host ∧ (attM 0).epoch = 0 ∧ (attM 0).owner = pathCode .host ∧
    (attM 0).owner ≠ pathCode .bmc ∧ Commands (attM 0) .bmc ∧ (on []).ownState = 0 ∧ (on [(Reg.GLB_OWN_STATUS, 9)]).ownState = 1 ∧
    0 + 3000000000000 ≤ ({ on [] with ps := 3000000000000 } : State).ps ∧
    ({ on [] with ps := 2999999999999 } : State).ps < 0 + 3000000000000 := by unfold Commands; decide +kernel

theorem test_meets_registers : Accepted (attM 0) .host Reg.NEB_SEED_XOR ∧ (attM 0).pathUp .bmc = true ∧
    pathCode .bmc ≠ (attM 0).owner ∧ (attM 0).pathUp (.vf 1) = true ∧ (attM 0).bellPath .host = true ∧
    (attM 0).pioPath .host = true ∧ Accepted (on [(Reg.GLB_OWN_STATUS, 2)]) .bmc Reg.NEB_SEED_XOR ∧
    (0x200000 : BitVec 32).toNat = 0x200000 := by unfold Accepted; decide +kernel

theorem test_meets_instances : Accepted (attM 0) .host Reg.XLT_INST_CMD ∧ (attM 0).instSel = 1 ∧
    ((tget none (attM 0).insts 1).isSome = true ∧ (attM 0).holdBits 1 = 0) ∧
    ({ attM 0 with slots := [(0, { waiter none with inst := 1 })] } : State).holdBits 1 = 2 ∧
    ({ attM 0 with insts := [], shadow := [] } : State).overRange ({ attM 0 with shadow := [] } : State).instStaged = false ∧
    ({ attM 0 with insts := [] } : State).overRange { anInst with c1 := 0x10004000 } = true ∧
    (attM 0).instExists 1 = true ∧ (attM 0).instExists 2 = false := by unfold Accepted; decide +kernel

theorem test_meets_management : (attM 0).mgmtOn = true ∧ 1 ∈ (attM 0).linePeers ∧ 4096 ∉ (attM 0).linePeers ∧
    ({ attM 0 with ps := 10000000000, night := { (attM 0).night with asked := [⟨1, none, 0, true⟩] } } : State).night.asked.any
      (({ attM 0 with ps := 10000000000 } : State).lateQuery 1) = true ∧ (attM 0).night.asked.any ((attM 0).lateQuery 1) = false ∧
    (({ attM 0 with subs := [(0, upSub)] } : State).sub 0 0).isUp = true ∧
    (({ attM 0 with subs := [(0, upSub)] } : State).sub 0 0).queued none + 1518 ≤ ({ attM 0 with subs := [(0, upSub)] } : State).egressRoom 0 ∧
    ((attM 0).sub 0 0).isUp = false := by decide +kernel

/-! ## Adapter memory and start-up -/

/-- A machine of the host with 1 GiB in 6 channels, ready, whose first code word holds the stored bits `r`, test mode on. -/
def memS (rgn : Word) (raw : Tab (Option RawWord)) : State :=
  { owned [(Reg.MEM_STATUS, 0x1000D), (Reg.MEM_CTRL, 0x1D), (Reg.MEM_RGN 0, rgn)] with raw := raw, shadow := [(Reg.MEM_RGN 0, rgn)] }

theorem test_meets_regions : Accepted (memS 0 []) .host Reg.MEM_COMMIT ∧ (memS 0 []).memRefused = false ∧
    (memS 0xC001001 []).memRefused = true ∧ bit (1 : Word) 0 = true ∧
    ({ memS 0 [] with shadow := [(Reg.MEM_RGN 0, 0xE040000), (Reg.MEM_RGN 1, 0)] } : State).memRefused = true := by
  unfold Accepted; decide +kernel

/-- The data bits of a word of zeros. -/
theorem wordBytes_memS (rgn : Word) (raw : Tab (Option RawWord)) : dataBits ((memS rgn raw).wordBytes 0) = 0 :=
  (by decide +kernel : dataBits ((memS 0 []).wordBytes 0) = 0)

theorem test_meets_decodes : (memS 0 []).decodeWord 0 = .good (List.replicate 32 0) 0 ∧
    (memS 0 [(0, some ⟨0, Config.rsCheck 0 ^^^ 1#64⟩)]).decodeWord 0 = .good (dataBytes 0) 1 ∧ (dataBytes 0).length = 32 ∧
    (memS 0 [(0, some ⟨0, poisonCheck 0⟩)]).decodeWord 0 = .poison ∧
    (memS 0 [(0, some ⟨0, Config.rsCheck 0 ^^^ 0x01010101#64⟩)]).decodeWord 0 = .bad 0 := by
  have hf : ∀ raw, (memS 0 raw).flag Reg.MEM_CTRL 3 = true :=
    fun _ => (by decide +kernel : (memS 0 []).flag Reg.MEM_CTRL 3 = true)
  refine ⟨by decide +kernel, ?_, by decide, ?_, ?_⟩ <;> rw [Laws.decodeWord_raw _ _ _ rfl, wordBytes_memS, hf]
  · exact Laws.decodeRaw_one _ _
  · exact Laws.decodeRaw_poison _ _ _
  · exact Laws.decodeRaw_four _

theorem test_meets_memoryTest (raw : Tab (Option RawWord)) : Accepted (memS 0 raw) .host Reg.MEM_TEST_CMD ∧
    (memS 0 raw).flag Reg.MEM_CTRL 4 = true ∧ ((memS 0 raw).reg Reg.MEM_TEST_ADDR).toNat = 0 ∧ 0 < (memS 0 raw).memBytes ∧
    Accepted (owned []) .host Reg.MEM_TEST_CMD ∧ (owned []).flag Reg.MEM_CTRL 4 = false ∧
    (owned [(Reg.MEM_CTRL, 0x10), (Reg.MEM_TEST_ADDR, 16)]).flag Reg.MEM_CTRL 4 = true ∧
    ((owned [(Reg.MEM_CTRL, 0x10), (Reg.MEM_TEST_ADDR, 16)]).reg Reg.MEM_TEST_ADDR).toNat % 32 ≠ 0 :=
  (by unfold Accepted; decide +kernel : Accepted (memS 0 []) .host Reg.MEM_TEST_CMD ∧
    (memS 0 []).flag Reg.MEM_CTRL 4 = true ∧ ((memS 0 []).reg Reg.MEM_TEST_ADDR).toNat = 0 ∧ 0 < (memS 0 []).memBytes ∧
    Accepted (owned []) .host Reg.MEM_TEST_CMD ∧ (owned []).flag Reg.MEM_CTRL 4 = false ∧
    (owned [(Reg.MEM_CTRL, 0x10), (Reg.MEM_TEST_ADDR, 16)]).flag Reg.MEM_CTRL 4 = true ∧
    ((owned [(Reg.MEM_CTRL, 0x10), (Reg.MEM_TEST_ADDR, 16)]).reg Reg.MEM_TEST_ADDR).toNat % 32 ≠ 0)

theorem test_meets_scrubbing (raw : Tab (Option RawWord)) : (memS 0 raw).alive = true ∧
    (memS 0 raw).flag Reg.MEM_STATUS 0 = true ∧ (memS 0 raw).flag Reg.MEM_CTRL 0 = true ∧
    (0 : Fin 12).val < (memS 0 raw).fld Reg.MEM_STATUS 1 4 ∧ (memS 0 raw).channelWord 0 (tget 0 (memS 0 raw).scrub 0) = 0 ∧
    (memS 0 raw).fld Reg.MEM_STATUS 1 4 ≤ (6 : Fin 12).val :=
  (by decide +kernel : (memS 0 []).alive = true ∧
    (memS 0 []).flag Reg.MEM_STATUS 0 = true ∧ (memS 0 []).flag Reg.MEM_CTRL 0 = true ∧
    (0 : Fin 12).val < (memS 0 []).fld Reg.MEM_STATUS 1 4 ∧ (memS 0 []).channelWord 0 (tget 0 (memS 0 []).scrub 0) = 0 ∧
    (memS 0 []).fld Reg.MEM_STATUS 1 4 ≤ (6 : Fin 12).val)

theorem test_meets_resets : (owned []).twilight = false ∧ (owned []).tripped = false ∧
    (owned [(Reg.PWR_TWI_STATUS, 2)]).twilight = true ∧ Accepted (owned []) .host Reg.GLB_RESET ∧ (owned []).atWork = false ∧
    ({ owned [] with slots := [(0, loader)] } : State).atWork = true ∧
    Accepted { owned [] with slots := [(0, loader)] } .host Reg.GLB_RESET := by unfold Accepted; decide +kernel

/-- A module of 64 GB. -/
def aModule : Module := { present := true, x4 := true, gb := 64, speed := 1, ppr := 1 }

/-- A machine whose links train, with sub-port F0a not up. -/
def trainM (n : Nat) : State :=
  { owned [(Reg.BOOT_STATE, n)] with
    ps := 5000000000000, subs := [(0, { Sub.init with downAt := some 0 })]
    boot := { Boot.init with recs := [Rec.default, Rec.default, Rec.default, Rec.default] } }

theorem test_meets_training : (trainM 0).bootState = 0 ∧ (trainM 1).bootState ≠ 0 ∧ (trainM 1).training = true ∧
    popcount (0xFF : BitVec 8) ≤ (trainM 1).slices (0 : Fin 6) ∧
    ((trainM 1).sub (0 : Fin 6) (0 : Fin 4)).downAt.isSome = true ∧
    (trainM 1).attMay (0 : Fin 4).val = true ∧ tget 0 (trainM 1).boot.attWidth 0 = 0 ∧ (1 : Fin 3) ≠ 0 ∧
    (trainM 1).badUnits.mem.getLsbD (0 : Fin 12).val = false ∧
    (trainM 1).boot.trainAt + 1000000000 * (trainM 1).boot.window ≤ (trainM 1).ps ∧
    ({ trainM 1 with ps := 0 } : State).ps < (trainM 1).boot.trainAt + 1000000000 * (trainM 1).boot.window := by decide +kernel

/-- A machine whose training window has closed with `m` in its first channels. -/
def settledM (mods : Tab (Option Module)) : State :=
  { trainM 1 with boot := { (trainM 1).boot with closed := true, modules := mods } }

theorem test_meets_profile : (settledM []).bootState = 1 ∧ (settledM []).trained = true ∧ (settledM []).boot.target < 4 ∧
    (settleProfile (countOf 12 (settledM []).chOk) 8 4 56 3 0 false false).2.1 = false ∧
    (settleProfile (countOf 12 (settledM [(0, some aModule), (1, some aModule), (2, some aModule), (3, some aModule),
      (4, some aModule), (5, some aModule)]).chOk) 8 4 56 3 0 false false).1 = 2 ∧
    (settleProfile (countOf 12 (settledM [(0, some aModule), (1, some aModule), (2, some aModule), (3, some aModule),
      (4, some aModule), (5, some aModule)]).chOk) 8 4 56 3 0 false false).2.1 = true ∧
    (min 8 (good 9 (fun i => (settledM []).badUnits.clusters.getLsbD i)).length,
      min 4 (good 5 (unitsBadArray (settledM []).badUnits)).length,
      (good 56 (fun i => (settledM []).badUnits.cipher.getLsbD i)).length, (settledM []).boot.target) = (8, 4, 56, 0) := by
  decide +kernel

theorem test_meets_memoryReady : (trainM 2).bootState = 2 ∧ (trainM 1).bootState ≠ 2 ∧ (trainM 2).boot.full = true ∧
    ({ trainM 2 with boot := { Boot.init with full := false } } : State).flag Reg.BOOT_TRAIN_SUM 12 = false := by decide +kernel

/-- The bytes of an image of 0x240 bytes that are not zero. -/
def fwBytes : Tab Byte :=
  [(0, 0x46), (1, 0x54), (2, 0x53), (3, 0x4C), (5, 2), (8, 0x40), (9, 2), (0x21, 0x48), (0x25, 2), (0x29, 2), (0x2D, 2)]

/-- A machine in start-up state `n` with that image, or without it, in its firmware region. -/
def fwM (n : Nat) (m : Tab Byte) (src : Word) : State :=
  { owned [(Reg.BOOT_STATE, n), (Reg.MEM_STATUS, 0x1000D), (Reg.MEM_RGN 0, 0xC001000), (Reg.BOOT_FW_LEN, 0x240),
      (Reg.BOOT_FW_SRC, src), (Reg.GLB_CAPS, 0x1000)] with
    mem := m, fns := [(0, { Fn.init with master := true })]
    boot := { Boot.init with fwLen := 0x240, stream := List.replicate 0x240 0 } }

theorem test_meets_loads : Accepted (fwM 3 [] 5) .host Reg.BOOT_FW_DATA ∧ Accepted (fwM 3 [] 5) .host Reg.BOOT_CMD ∧
    (fwM 3 [] 5).fwRgn = some (0, 2 ^ 30) ∧ (fwM 3 [] 5).linesOf 0 0x240 none = [] ∧ (fwM 3 [] 5).loadable = true ∧ fwLenOk ((fwM 3 [] 5).reg Reg.BOOT_FW_LEN).toNat = true ∧
    (fwM 3 [] 5).fld Reg.BOOT_FW_SRC 0 3 = 5 ∧ (fwM 3 [] 5).boot.stream.length = 0x240 ∧ (fwM 3 [] 0).fwRgn = some (0, 2 ^ 30) ∧
    (fwM 3 [] 0).fld Reg.BOOT_FW_SRC 0 3 < 5 ∧ (fwM 3 [] 0).srcUp 0 = true ∧ (List.replicate 0x240 (0 : Byte)).length = 0x240 ∧
    (fwM 3 [] 1).srcUp 1 = false ∧ (fwM 5 [] 5).loadable = false ∧ fwLenOk 0x241 = false := by unfold Accepted; decide +kernel

theorem test_meets_authentication : (∀ m ∈ [[], fwBytes], (fwM 4 m 5).alive = true ∧ (fwM 4 m 5).boot.waking = false ∧
      (fwM 4 m 5).bootState = 4 ∧ (fwM 4 m 5).fwRgn = some (0, 2 ^ 30) ∧ ((fwM 4 m 5).readMem 0 0 0x240).2.1 = false) ∧
    (fwM 4 [] 5).imgStoring = false ∧ (fwM 4 fwBytes 5).imgStoring = false ∧
    ((fwM 4 [] 5).readMem 0 0 0x240).1 = List.replicate 0x240 0 ∧
    (fwM 4 [] 5).authenticate (List.replicate 0x240 0) 0x240 = none ∧
    (fwM 5 [] 5).running = true ∧ Accepted (fwM 5 [] 5) .host Reg.BOOT_CMD ∧
    (fwM 5 [] 5).fld Reg.BOOT_DRV_VER 16 16 = (fwM 5 [] 5).fld Reg.BOOT_FW_VER 16 16 ∧
    ({ fwM 5 [] 5 with regs := [(Reg.BOOT_STATE, 5), (Reg.BOOT_DRV_VER, 0x10000)] } : State).fld Reg.BOOT_DRV_VER 16 16 ≠ 0 := by
  unfold Accepted; decide +kernel

/-- An image with a good header authenticates where its key's digest is that of key 0 and its signature verifies: both
rest on functions that the model leaves open. -/
theorem authenticate_of (s : State) (img : List Byte) (n : Nat) (h1 : imgHeaderOk img n = true)
    (h2 : s.fuses.minSvn = 0) (h3 : s.fuses.rev0 = false)
    (hk : Config.sha512 ((img.drop 0x40).take 133) = Config.fwKeyDigest false) (hs : signatureOk img = true) :
    s.authenticate img n = some false := by
  simp [State.authenticate, State.fwKey, h1, h2, h3, hk, hs]

/-- The image that memory then holds. -/
def fwImage : List Byte := ((fwM 4 fwBytes 5).readMem 0 0 0x240).1

theorem fwImage_header : imgHeaderOk fwImage (fwM 4 fwBytes 5).boot.fwLen = true := by decide +kernel

theorem test_meets_goodImage (hk : Config.sha512 ((fwImage.drop 0x40).take 133) = Config.fwKeyDigest false)
    (hs : signatureOk fwImage = true) :
    (fwM 4 fwBytes 5).authenticate fwImage (fwM 4 fwBytes 5).boot.fwLen = some false :=
  authenticate_of _ _ _ fwImage_header rfl rfl hk hs

theorem test_meets_version : (fwM 4 fwBytes 5).fld Reg.BOOT_DRV_VER 16 16
    = bits (BitVec.ofNat 64 (imgFld fwImage 0x10 4)) 16 16 := by decide +kernel

/-! ## Security and time -/

theorem test_meets_fuses : Accepted (owned [(Reg.BOOT_STATE, 5), (Reg.SEC_STATUS, 0x800)]) .host Reg.SEC_FUSE_CMD ∧
    (owned [(Reg.BOOT_STATE, 5), (Reg.SEC_STATUS, 0x800)]).running = true ∧
    (owned [(Reg.BOOT_STATE, 5), (Reg.SEC_STATUS, 0x800)]).fuses.minSvn
      ≤ (owned [(Reg.BOOT_STATE, 5), (Reg.SEC_STATUS, 0x800)]).fld Reg.SEC_STATUS 11 7 ∧
    (owned []).fld Reg.SEC_STATUS 11 7 < ({ owned [] with fuses := { (owned []).fuses with minSvn := 1 } } : State).fuses.minSvn ∧
    (owned [(Reg.SEC_STATUS, 2)]).flag Reg.SEC_STATUS 1 = true ∧ (owned []).flag Reg.SEC_STATUS 1 = false ∧
    (owned []).running = false := by unfold Accepted; decide +kernel

/-- A machine with a key-encryption key in key slot 1 and slot 0 selected; window 0 uses slot 0 if `used`. -/
def keyM (used : Bool) : State :=
  { owned [(Reg.SEC_CTRL, 1)] with
    keys := [(0, { KeySlot.init with phase := .loaded }), (1, { KeySlot.init with phase := .loaded, kek := true })]
    wins := if used then [(0, { Win.init with phase := .open_, data1 := 0x100000000000000 })] else [] }

theorem test_meets_keys : (∀ u ∈ [true, false], Accepted (keyM u) .host Reg.SEC_KEY_CMD ∧ Accepted (keyM u) .host Reg.SEC_CTRL ∧
      (keyM u).keySel = 0 ∧ (keyM u).keyBusy 0 = u) ∧ (keyM true).keyRefs 0 ≠ 0 ∧ (keyM false).keyRefs 0 = 0 ∧
    (keyM false).kekOk 1 0 = true ∧ (keyM false).kekOk 0 0 = false ∧ (∃ e ∈ (keyM false).keys, e.2.phase ≠ .empty) ∧
    (∀ e ∈ (owned []).keys, e.2.phase = .empty) := by unfold Accepted; decide +kernel

/-- Whatever the unwrapping, of which the model leaves the value open, one of the two cases of a wrapped load is met. -/
theorem test_meets_unwrap (k : BitVec 256) (bs : List Byte) : Config.kwUnwrap k bs = none ∨ ∃ key, Config.kwUnwrap k bs = some key := by
  cases Config.kwUnwrap k bs with
  | none => exact .inl rfl
  | some key => exact .inr ⟨key, rfl⟩

/-- A chaining state of key slot 0. -/
def aChain : Chain := { counter := 0, ghash := 0, aadBits := 0, dataBits := 0, slot := 0, gen := 0, block := 0 }

/-- A machine whose selected cipher core is `x`; the data registers hold a record in the clear of key slot `k`, with generation `g`. -/
def coreM (x : Core) (w : Word) : State :=
  { owned [(Reg.SEC_CTRL, 1), (Reg.SEC_CIPH_DATA 6, w)] with cores := [(0, x)] }

theorem test_meets_cipherCores : Accepted (coreM Core.init 0) .host Reg.SEC_CIPH_CMD ∧ (coreM Core.init 0).coreSel = 0 ∧
    Core.init.job = none ∧ ({ Core.init with job := some (aJobC true 0) } : Core).susp = none ∧
    ({ Core.init with held := true } : Core).held = true ∧ Core.init.held = false ∧ Core.init.susp = none ∧
    ({ Core.init with held := true, susp := some (none, aChain) } : Core).susp = some (none, aChain) ∧
    ((coreM Core.init 0).ciphRecord.map (fun bs => (chainFrom bs).slot) = some 0) ∧
    ((coreM Core.init 0).key (chainFrom ((coreM Core.init 0).ciphData 8)).slot.toNat).gen
      = (chainFrom ((coreM Core.init 0).ciphData 8)).gen ∧
    4096 ≤ (chainFrom ((coreM Core.init 0x1000).ciphData 8)).slot.toNat ∧
    ((coreM Core.init 0x10000).key (chainFrom ((coreM Core.init 0x10000).ciphData 8)).slot.toNat).gen
      ≠ (chainFrom ((coreM Core.init 0x10000).ciphData 8)).gen := by unfold Accepted; decide +kernel

/-- With clear records disabled, a record that does not unwrap is refused. -/
theorem test_meets_badRecord (h : Config.kwUnwrap (Config.wrapKey (owned []).wraps) ((owned []).ciphData 9) = none) :
    (owned []).ciphRecord = none := h

theorem test_meets_spdm : (owned []).tripped = false ∧ (owned []).twilight = false ∧ (owned []).running = false ∧
    (on [(Reg.BOOT_STATE, 5)]).running = true ∧ (on [(Reg.PWR_TWI_STATUS, 2)]).twilight = true ∧
    0 ≤ (on []).chain.length := ⟨by decide +kernel, by decide +kernel, by decide +kernel, by decide +kernel, by decide +kernel, Nat.zero_le _⟩

/-- A machine whose Meridian time is `n` ns. -/
def clockM (n : Nat) (regs : Tab Word) : State := later (owned regs) n

theorem test_meets_timeSteps : Accepted (clockM 5 []) .host Reg.TIME_SET ∧ Accepted (clockM 5 []) .host Reg.TIME_ADJ ∧
    (clockM 5 []).now = 5 ∧ ((5 : Word) - (clockM 5 []).now).toInt = 0 ∧ ((4 : Word) - (clockM 5 []).now).toInt < 0 ∧
    0 < ((6 : Word) - (clockM 5 []).now).toInt ∧ (clockM 5 []).flag Reg.TIME_EPH_CTRL 0 = false ∧
    (clockM 5 [(Reg.TIME_EPH_CTRL, 1)]).flag Reg.TIME_EPH_CTRL 0 = true := by unfold Accepted; decide +kernel

/-- The clock in a phase, with a threshold of 1 ns, 3 samples to lock, and steps beyond 1 us at need. -/
def loopM (src : Word) (p : TimePhase) : State :=
  { clockM 1000000000 [(Reg.TIME_CTRL, src), (Reg.TIME_SERVO_CFG, 0x10300100000000), (Reg.BOOT_STATE, 5)] with
    time := { (clockM 1000000000 []).time with phase := p } }

theorem test_meets_loop : (∀ p ∈ [TimePhase.freerun, .acquire, .locked, .holdover],
      Accepted (loopM 0x43 p) .host Reg.TIME_SERVO_IN ∧ Accepted (loopM 0x43 p) .host Reg.TIME_CTRL ∧ (loopM 0x43 p).time.phase = p ∧
      (loopM 0x43 p).timeOn = true) ∧ (loopM 0x43 .acquire).flag Reg.TIME_CTRL 6 = true ∧
    (loopM 0x43 .acquire).fld Reg.TIME_SERVO_CFG 52 12 * 1000 * 65536 < (65536001 : Int).natAbs ∧
    (loopM 0x43 .acquire).time.run + 1 < (loopM 0x43 .acquire).fld Reg.TIME_SERVO_CFG 44 8 ∧
    (loopM 0x43 .locked).lockThresh = 65536 ∧ 4 * (loopM 0x43 .locked).lockThresh < (262145 : Int).natAbs ∧
    ({ loopM 0x43 .acquire with time := { (loopM 0x43 .acquire).time with run := 2 } } : State).time.run + 1
      = (loopM 0x43 .acquire).fld Reg.TIME_SERVO_CFG 44 8 := by unfold Accepted; decide +kernel

theorem test_meets_samples : (loopM 3 .locked).fld Reg.TIME_CTRL 0 2 = 3 ∧ (loopM 1 .locked).fld Reg.TIME_CTRL 0 2 = 1 ∧
    (loopM 1 .locked).alive = true ∧ (loopM 1 .locked).running = true ∧ (loopM 2 .locked).fld Reg.TIME_CTRL 0 2 = 2 ∧
    2 * ((((loopM 2 .locked).nowNs : Int) - ((loopM 2 .locked).fld Reg.TIME_PPS 32 16 : Nat)) % 1000000000) < 1000000000 ∧
    1000000000 < 2 * ((((later (loopM 2 .locked) 999999999).nowNs : Int)
      - ((later (loopM 2 .locked) 999999999).fld Reg.TIME_PPS 32 16 : Nat)) % 1000000000) ∧
    (loopM 2 .locked).time.sample.getD 0 + 1000000000 * (loopM 2 .locked).fld Reg.TIME_HOLD 0 16 ≤ (loopM 2 .locked).ps ∧
    (clockM 0 [(Reg.TIME_HOLD, 1)]).ps < (clockM 0 []).time.sample.getD 0
      + 1000000000 * (clockM 0 [(Reg.TIME_HOLD, 1)]).fld Reg.TIME_HOLD 0 16 := by decide +kernel

/-- A row of group 0, for every destination, open for the first `n` ns of the period. -/
def aRow (n : Nat) : EphRow := ⟨BitVec.ofNat 64 (n * 2 ^ 32), 0x1000000000⟩

/-- A clock at `n` ns with schedule group 0 of period 100 ns and a row of 10 ns; a sender record of group 0 waits. -/
def ephM (n : Nat) (status act : Word) : State :=
  { clockM n [(Reg.TIME_EPH_STATUS, status), (Reg.TIME_EPH_ACT, act), (Reg.TIME_EPH_CTRL, 1), (Reg.TIME_CTRL, 0x80),
      (Reg.TIME_EPH_GRP_CYCLE 0, 0x1000000000064)] with
    ephRows := [(0, aRow 10)], ephLive := [(0, 1)], srecs := [{ aSrec with group := some 0 }] }

theorem test_meets_schedule : (∀ st ∈ [0, 1, 2], Accepted (ephM 5 (BitVec.ofNat 64 st) 5) .host Reg.TIME_EPH_COMMIT) ∧
    (ephM 5 0 5).fld Reg.TIME_EPH_STATUS 0 2 = 0 ∧ (ephM 5 1 5).fld Reg.TIME_EPH_STATUS 0 2 ≠ 0 ∧
    (ephM 5 0 5).reg Reg.TIME_EPH_ACT ≤ (ephM 5 0 5).now ∧ (ephM 5 0 6).now < (ephM 5 0 6).reg Reg.TIME_EPH_ACT ∧
    (ephM 5 1 5).timeOn = true ∧ (ephM 5 1 5).flag Reg.TIME_EPH_STATUS 0 = true ∧ (ephM 5 2 5).flag Reg.TIME_EPH_STATUS 1 = true ∧
    (ephM 5 2 5).ck < (ephM 5 2 5).ephCopyAt + 4096000000 ∧
    (ephM 5 2 5).ephCopyAt + 4096000000 ≤ ({ ephM 5 2 5 with ck := 4096000000 } : State).ck ∧
    (ephM 5 0 5).flag Reg.TIME_EPH_STATUS 1 = false ∧ (ephM 5 0 5).alive = true := by unfold Accepted; decide +kernel

theorem test_meets_slots : bits ((ephM 10 0 0).ephRow 0).r1 32 4 = 0 ∧ tget 0 (ephM 10 0 0).ephLive 0 ≠ 0 ∧
    (ephM 10 0 0).rowOpen 0 ((ephM 10 0 0).ephRow 0) = false ∧ (ephM 10 0 0).slotWaits 0 ((ephM 10 0 0).ephRow 0) 1 = true ∧
    tget 0 (ephM 10 0 0).ephLive 1 = 0 ∧ ({ ephM 10 0 0 with srecs := [] } : State).slotWaits 0 ((ephM 10 0 0).ephRow 0) 1 = false ∧
    (ephM 9 0 0).rowOpen 0 ((ephM 9 0 0).ephRow 0) = true ∧
    (ephM 0 0 0).flag Reg.TIME_CTRL 7 = true ∧ ((ephM 0 0 0).nowNs + (ephM 0 0 0).fld Reg.TIME_PPS 16 16) % 1000000000 = 0 ∧
    ((ephM 1 0 0).nowNs + (ephM 1 0 0).fld Reg.TIME_PPS 16 16) % 1000000000 ≠ 0 := by decide +kernel

/-! ## Power, Tally and debug -/

/-- A running machine with capping and thermal control on, a hysteresis of 255 W and `need` milliseconds below it to step down. -/
def powM (need : Nat) (twi : Word) : State :=
  owned [(Reg.BOOT_STATE, 5), (Reg.PWR_CTRL, BitVec.ofNat 64 (3 + 255 * 2 ^ 32 + need * 2 ^ 40)), (Reg.PWR_TWI_STATUS, twi)]

/-- Readings of the rails: `mw` on the first, none on the others. -/
def rails (mw : Nat) : List Nat := mw :: List.replicate 7 0

theorem test_meets_capping : (powM 3 0).alive = true ∧ (powM 3 0).running = true ∧ (rails 5).length = 8 ∧
    (powM 3 0).flag Reg.PWR_CTRL 0 = true ∧ 1000 * (powM 3 0).limitW < sumNat (rails 5000000) ∧
    (sumNat (rails 0) + 1000 * (powM 3 0).fld Reg.PWR_CTRL 32 8 ≤ 1000 * (powM 3 0).limitW ∧ (powM 3 0).railOver (rails 0) = false) ∧
    (powM 3 0).capOk + 1 < (powM 3 0).fld Reg.PWR_CTRL 40 8 ∧ (powM 1 0).fld Reg.PWR_CTRL 40 8 ≤ (powM 1 0).capOk + 1 ∧
    ¬ 1000 * (powM 3 0).limitW < sumNat (rails (1000 * (powM 3 0).limitW)) ∧ (powM 3 0).railOver (rails (1000 * (powM 3 0).limitW)) = false ∧
    ¬ sumNat (rails (1000 * (powM 3 0).limitW)) + 1000 * (powM 3 0).fld Reg.PWR_CTRL 32 8 ≤ 1000 * (powM 3 0).limitW ∧
    (owned []).running = false ∧ (owned []).flag Reg.PWR_CTRL 0 = false ∧
    (owned [(Reg.BOOT_STATE, 5)]).running = true := by decide +kernel

theorem test_meets_thermal : (List.replicate 32 (500 : BitVec 16)).length = 32 ∧ 500 ≤ tempMax (List.replicate 32 500) ∧
    tempMax (List.replicate 32 499) < 500 ∧ (powM 3 0).tripped = false ∧ (powM 3 0).twilight = false ∧ (powM 3 2).twilight = true := by
  decide +kernel

theorem test_meets_twilight : (∀ n ∈ [0, 1, 3], Accepted (powM 3 (BitVec.ofNat 64 n)) .host Reg.PWR_TWI_CMD ∧
      (powM 3 (BitVec.ofNat 64 n)).twiState = n) ∧ (powM 3 0).twiRefused = false ∧ (owned []).twiRefused = true ∧
    (owned []).twiState = 0 ∧ (powM 3 2).twiState = 2 ∧ (powM 3 2).tripped = false ∧
    Accepted (on [(Reg.GLB_OWN_STATUS, 2), (Reg.PWR_TWI_STATUS, 2)]) .bmc Reg.PWR_TWI_CMD ∧
    (on [(Reg.GLB_OWN_STATUS, 2), (Reg.PWR_TWI_STATUS, 2)]).twiState = 2 := by unfold Accepted; decide +kernel

theorem test_meets_tally : twf 0 [(0, 3), (256, 1)] = true ∧ ∀ e ∈ ([(0, 3), (256, 1)] : Tab Nat), e.1 < 257 := by decide

/-- A machine that Nightwatch watches, in state `st`, at `n` ps, with a running slot 0 and ring 3 behind. -/
def nightM (st : Word) (n : Nat) : State :=
  { owned [(Reg.BOOT_STATE, 5), (Reg.DBG_NW_CFG, 0x10001), (Reg.DBG_NW_STATUS, st), (Reg.MEM_STATUS, 0x10000D),
      (Reg.MEM_RGN 0, 0xE001000)] with
    ps := n, slots := [(0, { Slot.init with phase := .running, halted := true })]
    rings := [(3, { Ring.init with cfg1 := 0x8101306, phase := .active, tail := 1 })] }

theorem test_meets_hangs : (nightM 0 0).alive = true ∧ (nightM 0 0).flag Reg.DBG_NW_CFG 0 = true ∧ (nightM 0 0).watching = true ∧
    (nightM 0 1000000000).slotHung (0 : Fin 32) = true ∧ (nightM 0 999999999).slotHung (0 : Fin 32) = false ∧
    (nightM 0 1000000000).ringHung 3 = true ∧ (nightM 0 0).ringHung 3 = false ∧ (nightM 0 1000000000).zenithHung = true ∧
    (nightM 1 0).watching = false ∧ (owned []).flag Reg.DBG_NW_CFG 0 = false ∧ (nightM 0 0).running = true ∧
    Accepted (nightM 0 0) .host Reg.DBG_NW_CMD ∧ Accepted (nightM 3 0) .host Reg.DBG_NW_CMD ∧ (nightM 3 0).nwEnds = true ∧
    (nightM 0 0).nwEnds = false ∧ ((nightM 3 0).slot 0).halted = true ∧ ((nightM 3 0).slot 0).phase ≠ .idle ∧
    ((nightM 3 0).slot 0).stopped = false := by unfold Accepted; decide +kernel

/-- A staged trace record. -/
def aTrace : Trace := ⟨0, 1, 2, 3, 4⟩

theorem test_meets_dumps : (nightM 1 0).fld Reg.DBG_NW_STATUS 0 3 = 1 ∧ (nightM 0 0).fld Reg.DBG_NW_STATUS 0 3 ≠ 1 ∧
    (nightM 0xB 0).graphReady = true ∧ (nightM 0xB 0).dumpBase = some (2 ^ 30 - 2 ^ 28) ∧ (nightM 0 0).graphReady = false ∧
    (nightM 0 0).ck - (nightM 0 0).comet.sampled < 1024000000 ∧
    1024000000 ≤ ({ nightM 0 0 with ck := 1024000000 } : State).ck - (nightM 0 0).comet.sampled ∧
    (on [(Reg.DBG_HSEL 2, 5)]).fld (Reg.DBG_HSEL 2) 0 4 = 5 ∧ (on [(Reg.DBG_HSEL 2, 5)]).fld (Reg.DBG_HSEL 2) 4 14 = 0 ∧
    (on []).fld (Reg.DBG_HSEL 2) 0 4 = 0 ∧ (on []).traceArea = none ∧ (nightM 0 0).traceArea = some (0, 2 ^ 30 - 2 ^ 28) ∧
    (nightM 0 0).cometFull = false ∧ (nightM 0 0).tracedCores = [] ∧ (nightM 0 0).comet.lost = 0 ∧ (nightM 0 0).raw = [] ∧
    ({ nightM 0 0 with comet := ⟨[aTrace], 0, [], 0⟩ } : State).comet.staged = [aTrace] ∧
    ((nightM 0 0).reg Reg.DBG_COMET_WPTR).toNat + 32 < 2 ^ 30 - 2 ^ 28 := by decide +kernel

/-- A queued command is carried out, and with an empty queue the clock runs, tripped or not. -/
theorem test_meets_steps : ({ State.reset with pending := [.tallyPowerOn] } : State).pending = .tallyPowerOn :: [] ∧
    State.reset.pending = [] ∧ State.reset.tripped = false ∧ State.reset.time.adj = 0 ∧
    ({ State.reset with tripped := true } : State).tripped = true := by decide

theorem test_meets_kept : ∃ t, exec .tallyPowerOn State.reset = .next t ∧ t.tally.starts = 2 := ⟨_, rfl, by decide⟩

theorem test_meets_invariant : StoresKept State.reset ∧ BoundsKept State.reset ∧ ∃ t, step State.reset = .next t :=
  ⟨by unfold StoresKept; decide, ⟨by decide, by decide, fun p h => by simp [State.reset] at h, by decide, fun x h => by simp [State.reset] at h⟩,
    _, rfl⟩

/-! ## Well-formedness -/

/-- A packet whose header announces one byte more than it has. -/
def badRx : Rx := { aRx 1 with pkt := { aPkt with len := aPkt.len + 1 } }

theorem test_illFormed : ∀ c ∈ [Instr.descriptorFetchReturn 0 (List.replicate 17 (desc 1)) true, .writePacket badRx,
    .writeAccPacket badRx none, .sendPacket badRx, .readReq badRx, .readResp badRx, .semPacket badRx, .ack badRx, .nack badRx,
    .pioTrigger .host 32768 0, .cappingTick [1], .thermalTick [], .pfcFrame 0 0 0 [1, 2], .apertureAccess 0 (.write 0 [1] []),
    .nop 0x10 0 (J 0 0 0 0 0)], c.wellFormed = false := by decide +kernel

theorem test_wellFormed : ∀ c ∈ [Instr.descriptorFetchReturn 0 (List.replicate 16 (desc 1)) true, .writePacket (aRx 1),
    .pioTrigger .host 32767 0, .cappingTick (rails 1), .thermalTick (List.replicate 32 0), .pfcFrame 0 0 0 (List.replicate 8 1),
    .apertureAccess 0 (.write 0 [1] [true]), .nop 0x0F 0 (J 0 0 0 0 0), .jtagInstructionLoad .extest],
    c.wellFormed = true := by decide +kernel

/-! ## Examples of the spec -/

/-- A command answers a next state that passes the check `f`. -/
def after (o : Out) (f : State → Bool) : Bool :=
  match o with
  | .next t => f t
  | _ => false

/-- Before the decision in the example of a fallback on a defective start (16_bring_up.md): cluster 6 failed its test, the
module of channel 7 is missing, F2 is degraded at four lanes and F4 is disabled. -/
def exampleM : State :=
  { owned [(Reg.BOOT_STATE, 1)] with
    subs := [(0, upSub), (4, upSub), (8, { Sub.init with link := .degraded, lanes := 4 }), (12, upSub),
      (16, { Sub.init with link := .down })]
    boot := { Boot.init with
      closed := true, recBad := 0, test := { UnitSet.empty with clusters := 0x40 }
      modules := (List.range 12).map (fun c => (c, some { aModule with present := c != 7 }))
      attWidth := (List.range 4).map (fun q => (q, 16)), attRate := (List.range 4).map (fun q => (q, 2))
      fabLanes := [(0, 0xFF), (1, 0xFF), (2, 0x3F), (3, 0xFF), (4, 0x07)] } }

/-- The registers of that example. -/
theorem test_example_fallback : after (exec .profileDecision exampleM) (fun t =>
    t.reg Reg.GLB_MAP_CLU == 0x687543210 && t.reg Reg.BOOT_TRAIN_SUM == 0x814 && t.reg Reg.BOOT_TRAIN_M == 0x80F7F
    && t.reg Reg.BOOT_MAP_IO == 0xE4FFFF86543210 && t.flag Reg.GLB_MAP_STATUS 1) = true := by decide +kernel

/-- One defective cluster in the fuses (01_architecture.md). -/
theorem test_example_cluster : ({ on [] with fuses := { State.reset.fuses with bad := { UnitSet.empty with clusters := 8 } } }
    : State).writeMap.reg Reg.GLB_MAP_CLU = 0x387654210 := by decide +kernel

/-- Capping to a board limit (18_power_tally.md): over 280 W the step goes up, at 280 W it holds. -/
theorem test_example_capping : ∀ e ∈ [(0, 300000, 1), (1, 293300, 2), (2, 286700, 3), (3, 280000, 3)],
    after (exec (.cappingTick (rails e.2.1)) { State.reset with
      regs := tset 0 (tset 0 State.reset.regs Reg.BOOT_STATE 5) Reg.PWR_STATUS (BitVec.ofNat 64 (e.1 * 16))
      boot := { Boot.init with inReset := false, recs := [{ Rec.default with power := 280 }] } })
      (fun t => t.capStep == e.2.2 && t.fld Reg.PWR_STATUS 0 4 == e.2.2) = true := by decide +kernel

end Sys2Proof.Tests
end

section
/-!
PROOF. The return of a segment's read and the acknowledgement of its write (R21, R53, R61): what settling the waiting slots
and failing a segment leave alone, what becomes of the operation and its segment, and that nothing which follows the last
read of a segment makes a read or counts bytes read.
-/

namespace Sys2Proof.Proofs

open Sys2Proof.Machine Sys2Proof.Laws Sys2Proof.Claims

/-! ## What changes leave alone -/

/-- From `s` to `t` the outstanding reads and the clusters' counts of bytes read (R444) stay. -/
structure KeepsReads (s t : State) : Prop where
  reads : t.reads = s.reads
  counted : ∀ c, t.reg (Reg.DBG_CNT c 4) = s.reg (Reg.DBG_CNT c 4)

/-- From `s` to `t` the outstanding reads and writes, the counts of bytes read, and the stores stay. -/
structure KeepsAccesses (s t : State) : Prop extends KeepsReads s t where
  writes : t.writes = s.writes
  stores : SameStores s t

theorem KeepsReads.refl (s : State) : KeepsReads s s := ⟨rfl, fun _ => rfl⟩

theorem KeepsReads.trans {s t u : State} (h : KeepsReads s t) (k : KeepsReads t u) : KeepsReads s u :=
  ⟨k.reads.trans h.reads, fun c => (k.counted c).trans (h.counted c)⟩

/-- A change before that touches neither reads nor registers does not matter. -/
theorem KeepsReads.after {s s' t : State} (h : KeepsReads s' t) (hreads : s'.reads = s.reads) (hregs : s'.regs = s.regs) :
    KeepsReads s t :=
  ⟨h.reads.trans hreads, fun c => (h.counted c).trans (by rw [State.reg, State.reg, hregs])⟩

theorem KeepsAccesses.refl (s : State) : KeepsAccesses s s := ⟨.refl s, rfl, rfl, rfl, rfl, rfl, rfl⟩

theorem KeepsAccesses.trans {s t u : State} (h : KeepsAccesses s t) (k : KeepsAccesses t u) : KeepsAccesses s u := by
  obtain ⟨hr, hw, h1, h2, h3, h4, h5⟩ := h
  obtain ⟨kr, kw, k1, k2, k3, k4, k5⟩ := k
  exact ⟨hr.trans kr, kw.trans hw, k1.trans h1, k2.trans h2, k3.trans h3, k4.trans h4, k5.trans h5⟩

/-- The register is no cluster's count of bytes read. -/
def NoReadCount (a : Nat) : Prop := ∀ c, Reg.DBG_CNT c 4 ≠ a

theorem noReadCount_below {a : Nat} (h : a < 0x1C0100) : NoReadCount a := by
  intro c; unfold Reg.DBG_CNT; omega

theorem noReadCount_cluster (i : Nat) {j : Nat} (hj : j < 8) (h : j ≠ 4) : NoReadCount (Reg.DBG_CNT i j) := by
  intro c; unfold Reg.DBG_CNT; omega

theorem noReadCount_mark (i : Nat) {j : Nat} (h0 : 0 < j) (hj : j < 4) : NoReadCount (Reg.DBG_TAG_CNT i j) := by
  intro c; unfold Reg.DBG_CNT Reg.DBG_TAG_CNT; omega

theorem KeepsReads.setReg {s t : State} (h : KeepsReads s t) {a : Nat} (ha : NoReadCount a) (v : Word) :
    KeepsReads s (t.setReg a v) :=
  ⟨h.reads, fun c => by rw [reg_setReg, if_neg (ha c), h.counted]⟩

theorem KeepsReads.setFld {s t : State} (h : KeepsReads s t) {a : Nat} (ha : NoReadCount a) (lo w v : Nat) :
    KeepsReads s (t.setFld a lo w v) := h.setReg ha _

theorem KeepsReads.count {s t : State} (h : KeepsReads s t) {a : Nat} (ha : NoReadCount a) (n : Nat) :
    KeepsReads s (t.count a n) := h.setReg ha _

theorem KeepsReads.bump {s t : State} (h : KeepsReads s t) {a : Nat} (ha : NoReadCount a) : KeepsReads s (t.bump a) :=
  h.setReg ha _

theorem KeepsReads.emit {s t : State} (h : KeepsReads s t) (e : Emission) : KeepsReads s (t.emit e) :=
  ⟨h.reads, h.counted⟩

theorem KeepsReads.setFq {s t : State} (h : KeepsReads s t) (q : Nat) (f : FaultQ) : KeepsReads s (t.setFq q f) :=
  ⟨h.reads, h.counted⟩

theorem KeepsReads.updOp {s t : State} (h : KeepsReads s t) (op : Nat) (f : Op → Op) : KeepsReads s (t.updOp op f) :=
  ⟨h.reads, h.counted⟩

theorem KeepsReads.updSeg {s t : State} (h : KeepsReads s t) (op g : Nat) (f : Seg → Seg) :
    KeepsReads s (t.updSeg op g f) := h.updOp op _

/-- A loop whose every round keeps reads and counts keeps them. -/
theorem KeepsReads.foldl {α β : Type} {s : State} (st : β → State) (f : β → α → β) (l : List α) (b : β)
    (hb : KeepsReads s (st b)) (hf : ∀ b x, KeepsReads (st b) (st (f b x))) : KeepsReads s (st (l.foldl f b)) :=
  List.foldlRecOn (motive := fun b => KeepsReads s (st b)) l f hb fun b h x _ => h.trans (hf b x)

variable (s : State)

/-! ## Settling changes slots and counts of retired instructions alone -/

/-- What retirements keep, settling keeps. -/
theorem settle_induction {P : State → Prop} (h : P s) (hretire : ∀ t sl, P t → P (t.retire sl)) : P s.settle := by
  unfold State.settle
  generalize allSlots = slots
  refine List.foldlRecOn (motive := P) slots _ h fun t ht sl _ => ?_
  split
  · split
    · exact hretire t sl ht
    · exact ht
  · split
    · exact hretire t sl ht
    · exact ht
  · exact ht

theorem retire_ops (sl : Nat) : (s.retire sl).ops = s.ops := by
  simp only [State.retire, State.retireTo, State.progressed, bump_ops, updSlot_ops]

@[simp] theorem settle_ops : s.settle.ops = s.ops :=
  settle_induction s (P := fun t => t.ops = s.ops) rfl fun t sl h => (retire_ops t sl).trans h

@[simp] theorem settle_op? (op : Nat) : s.settle.op? op = s.op? op := by simp only [State.op?, settle_ops]

theorem keepsAccesses_updSlot (i : Nat) (f : Slot → Slot) : KeepsAccesses s (s.updSlot i f) :=
  ⟨⟨rfl, fun _ => rfl⟩, rfl, rfl, rfl, rfl, rfl, rfl⟩

theorem keepsAccesses_bump {a : Nat} (ha : NoReadCount a) : KeepsAccesses s (s.bump a) :=
  ⟨(KeepsReads.refl s).bump ha, rfl, rfl, rfl, rfl, rfl, rfl⟩

theorem keepsAccesses_retire (sl : Nat) : KeepsAccesses s (s.retire sl) :=
  ((keepsAccesses_updSlot s _ _).trans (keepsAccesses_updSlot _ _ _)).trans
    (keepsAccesses_bump _ (noReadCount_cluster _ (by decide) (by decide)))

theorem keepsAccesses_settle : KeepsAccesses s s.settle :=
  settle_induction s (.refl s) fun t sl h => h.trans (keepsAccesses_retire t sl)

/-! ## Operations and segments after an update -/

/-- An update that keeps the handles is seen by a lookup of the handle that it changes. -/
theorem find?_map_update {α : Type} (key : α → Nat) (k : Nat) (f : α → α) (hf : ∀ x, key (f x) = key x)
    (l : List α) :
    (l.map (fun x => if key x = k then f x else x)).find? (fun x => key x = k) = (l.find? (fun x => key x = k)).map f := by
  induction l with
  | nil => rfl
  | cons x l ih =>
    by_cases hx : key x = k
    · simp [hx, hf]
    · simpa [hx] using ih

variable {s}

theorem op?_id {op : Nat} {o : Op} (h : s.op? op = some o) : o.id = op := by simpa using List.find?_some h

theorem op?_updOp {op : Nat} {o : Op} (h : s.op? op = some o) (f : Op → Op) (hf : ∀ o, (f o).id = o.id) :
    (s.updOp op f).op? op = some (f o) :=
  (find?_map_update Op.id op f hf s.ops).trans (congrArg (Option.map f) h)

theorem op?_updSeg {op : Nat} {o : Op} (h : s.op? op = some o) (g : Nat) (f : Seg → Seg) :
    (s.updSeg op g f).op? op = some { o with segs := o.segs.map (fun x => if x.id = g then f x else x) } :=
  op?_updOp h _ fun _ => rfl

/-- A segment that is changed under its handle is found changed. -/
theorem seg?_updSeg {op g : Nat} {o : Op} {x : Seg} (h : s.op? op = some o) (hx : o.seg? g = some x)
    (f : Seg → Seg) (hf : ∀ y, (f y).id = y.id) :
    ∃ o', (s.updSeg op g f).op? op = some o' ∧ o'.seg? g = some (f x) :=
  ⟨_, op?_updSeg h g f, (find?_map_update Seg.id g f hf o.segs).trans (congrArg (Option.map f) hx)⟩

theorem op?_dropSegs {op : Nat} {o : Op} (h : s.op? op = some o) (p : Seg → Bool) :
    (s.dropSegs op p).op? op = some { o with segs := o.segs.filter (fun x => !p x) } := by
  rw [State.dropSegs, h]
  exact op?_updOp h _ fun _ => rfl

/-! ## A segment that fails -/

theorem keepsAccesses_dropSegs (op : Nat) (p : Seg → Bool) : KeepsAccesses s (s.dropSegs op p) := by
  unfold State.dropSegs
  split
  · exact .refl s
  · exact ⟨⟨rfl, fun _ => rfl⟩, rfl, rfl, rfl, rfl, rfl, rfl⟩

theorem keepsAccesses_updOp (op : Nat) (f : Op → Op) : KeepsAccesses s (s.updOp op f) :=
  ⟨⟨rfl, fun _ => rfl⟩, rfl, rfl, rfl, rfl, rfl, rfl⟩

theorem keepsAccesses_failSeg (op g : Nat) (st : Status) : KeepsAccesses s (s.failSeg op g st) := by
  unfold State.failSeg
  split
  · exact keepsAccesses_updOp _ _
  · exact (keepsAccesses_updOp _ _).trans (keepsAccesses_dropSegs _ _)

/-- A failed segment gives its operation the status, unless the operation has failed before. -/
theorem op?_failSeg {op : Nat} {o : Op} (h : s.op? op = some o) (g : Nat) (st : Status) :
    ∃ o', (s.failSeg op g st).op? op = some o' ∧ o'.status = (if o.status = 0 then st else o.status) := by
  unfold State.failSeg
  split
  · exact ⟨_, op?_updOp h (·.failed st) fun _ => rfl, rfl⟩
  · exact ⟨_, op?_dropSegs (op?_updOp h (fun o => { o.failed st with held := false }) fun _ => rfl) _, rfl⟩

/-! ## What may follow a read keeps the outstanding reads and their counts: interrupts, lookups and fault records -/

theorem keepsReads_emits (es : List Emission) : KeepsReads s (s.emits es) :=
  .foldl id State.emit es s (.refl s) fun t e => (KeepsReads.refl t).emit e

theorem keepsReads_msix (fn : BitVec 8) (v : Nat) : KeepsReads s (s.msix fn v) := by
  obtain ⟨-, h⟩ | ⟨-, -, h⟩ | ⟨-, -, h⟩ := msix_cases s fn v
  · rw [h]; exact .refl s
  · rw [h]; exact ⟨rfl, fun _ => rfl⟩
  · rw [h]; exact (KeepsReads.refl s).emit _

theorem keepsReads_askAts (k : XKey) : KeepsReads s (s.askAts k) := by
  unfold State.askAts
  split
  · exact .refl s
  · exact ⟨rfl, fun _ => rfl⟩

theorem keepsReads_touch (k : XKey) : KeepsReads s (s.touch k) := by
  unfold State.touch
  split
  · exact .refl s
  · exact ⟨rfl, fun _ => rfl⟩

theorem keepsReads_lookupCount (k : XKey) (write : Bool) : KeepsReads s (s.lookupCount k write).2 := by
  have hc (i : Nat) (hi : i < 2) : KeepsReads s (s.bump (Reg.XLT_CNT i)) :=
    (KeepsReads.refl s).bump (noReadCount_below (by unfold Reg.XLT_CNT; omega))
  unfold State.lookupCount
  split
  · exact (hc 1 (by decide)).trans (keepsReads_askAts k)
  · exact (hc 0 (by decide)).trans (keepsReads_touch k)

theorem keepsReads_engineReach (p : Port) (i : BitVec 8) (va : Word) (n : Nat) (write : Bool) :
    KeepsReads s (s.engineReach p i va n write).2 := by
  unfold State.engineReach
  split
  · exact .refl s
  · exact .foldl Prod.snd _ _ (true, s) (.refl s) fun _ _ => keepsReads_lookupCount _ _

/-- The registers of fault queues are no clusters' counts. -/
theorem noReadCount_faultQueue {a q : Nat} (hq : q ≤ 256) (ha : a ≤ Reg.RING_FQ_OVF1 q) : NoReadCount a :=
  noReadCount_below (by unfold Reg.RING_FQ_OVF1 at ha; omega)

theorem keepsReads_fqIrq (q : Nat) : KeepsReads s (s.fqIrq q) := by
  unfold State.fqIrq
  dsimp only
  split
  · exact .refl s
  · split
    all_goals split
    · exact ((KeepsReads.refl s).setFq q _).trans (keepsReads_msix _ _)
    · exact (KeepsReads.refl s).setFq q _
    · exact ((KeepsReads.refl s).setFq q _).trans (keepsReads_msix _ _)
    · exact (KeepsReads.refl s).setFq q _

theorem keepsReads_fqPut {q : Nat} (hq : q ≤ 256) (r : FaultRec) : KeepsReads s (s.fqPut q r) := by
  refine KeepsReads.trans ?_ (keepsReads_fqIrq q)
  refine (((KeepsReads.refl s).emit _).setFld ?_ _ _ _).bump (noReadCount_below (by decide))
  exact noReadCount_faultQueue hq (by unfold Reg.RING_FQ_PROD Reg.RING_FQ_OVF1; omega)

theorem keepsReads_fqLose {q : Nat} (hq : q ≤ 256) (cls : Nat) : KeepsReads s (s.fqLose q cls) := by
  have hreg : NoReadCount (if cls < 4 then Reg.RING_FQ_OVF0 q else Reg.RING_FQ_OVF1 q) :=
    noReadCount_faultQueue hq (by unfold Reg.RING_FQ_OVF0 Reg.RING_FQ_OVF1; split <;> omega)
  exact (((KeepsReads.refl s).setFld hreg _ _ _).setFq q _).bump (noReadCount_below (by decide))

theorem keepsReads_fault {q : Nat} (hq : q ≤ 256) (r : FaultRec) : KeepsReads s (s.fault q r) := by
  have hreach : KeepsReads s (s.fqReach q).2 := keepsReads_engineReach _ _ _ _ _
  obtain h | h | h := fault_cases s q r
  · rw [h]; exact keepsReads_fqLose hq _
  · rw [h]; exact hreach.trans (keepsReads_fqPut hq r)
  · rw [h]
    refine (hreach.setFld (noReadCount_faultQueue hq ?_) _ _ _).trans (keepsReads_fqLose hq _)
    unfold Reg.RING_FQ_CTRL Reg.RING_FQ_OVF1; omega

/-- What the counts of mark filters keep, counting an event in the filters that an operation matched keeps. -/
theorem tagCount_induction {P : State → Prop} {s : State} {k n : Nat} (h : P s)
    (hcount : ∀ t i, P t → P (t.count (Reg.DBG_TAG_CNT i k) n)) (filters : BitVec 8) : P (s.tagCount filters k n) := by
  unfold State.tagCount
  generalize List.range 8 = marks
  refine List.foldlRecOn (motive := P) marks _ h fun t ht i _ => ?_
  split
  · exact hcount t i ht
  · exact ht

theorem keepsReads_tagCount (filters : BitVec 8) {k : Nat} (h0 : 0 < k) (hk : k < 4) (n : Nat) :
    KeepsReads s (s.tagCount filters k n) :=
  tagCount_induction (KeepsReads.refl s) (fun _ i ht => ht.count (noReadCount_mark i h0 hk) n) filters

theorem keepsReads_record (r : FaultRec) : KeepsReads s (s.record r) :=
  (keepsReads_fault (by have := r.inst.isLt; omega) r).trans (keepsReads_tagCount _ (by decide) (by decide) _)

/-! ## Page requests -/

theorem keepsReads_sendPage (id : Nat) : KeepsReads s (s.sendPage id) := by
  unfold State.sendPage
  split
  · exact .refl s
  · split
    · refine KeepsReads.bump ?_ (noReadCount_below (by decide))
      exact ⟨rfl, fun _ => rfl⟩
    · exact .refl s

theorem keepsReads_partialNow (op : Nat) : KeepsReads s (s.partialNow op) := by
  unfold State.partialNow
  split
  · exact .refl s
  · dsimp only
    split
    · exact .refl s
    · refine KeepsReads.trans ?_ (keepsReads_sendPage _)
      refine KeepsReads.trans (t := State.record _ _) ?_ ⟨rfl, fun _ => rfl⟩
      exact (keepsReads_record _).after rfl rfl

/-! ## Memory -/

theorem keepsReads_putWord (w : Nat) (bs : List Byte) : KeepsReads s (s.putWord w bs) := ⟨rfl, fun _ => rfl⟩

theorem keepsReads_countCorr (w : Nat) : KeepsReads s (s.countCorr w) := by
  have hch : s.channelOf (32 * w) < 16 := by
    have hf : s.fld Reg.MEM_STATUS 1 4 < 16 := Nat.mod_lt _ (by decide)
    have := Nat.mod_lt (32 * w / 256) (show 0 < max 1 (s.fld Reg.MEM_STATUS 1 4) by omega)
    unfold State.channelOf; omega
  refine ((KeepsReads.refl s).bump (noReadCount_below (by decide))).bump (noReadCount_below ?_)
  unfold Reg.MEM_CNT_CORR_M; omega

theorem keepsReads_logUncorr (w : Nat) (i : BitVec 8) (scrub : Bool) : KeepsReads s (s.logUncorr w i scrub) := by
  unfold State.logUncorr
  split
  · exact .refl s
  · exact ((KeepsReads.refl s).setReg (noReadCount_below (by decide)) _).setReg (noReadCount_below (by decide)) _

theorem keepsReads_readWord (w : Nat) (i : BitVec 8) (wb : Bool) : KeepsReads s (s.readWord w i wb).2.2 := by
  have h1 : KeepsReads s (s.bump (Reg.MEM_CNT 1)) := (KeepsReads.refl s).bump (noReadCount_below (by decide))
  unfold State.readWord
  split
  · exact .refl s
  · dsimp only; split
    · exact (keepsReads_countCorr w).trans (keepsReads_putWord w _)
    · exact keepsReads_countCorr w
  · exact h1.bump (noReadCount_below (by decide))
  · have hlog := h1.trans (keepsReads_logUncorr w i false)
    dsimp only; split
    · exact ⟨hlog.reads, hlog.counted⟩
    · exact hlog

theorem keepsReads_writeWord (w : Nat) (i : BitVec 8) (f : Nat → Option Byte) : KeepsReads s (s.writeWord w i f).2 := by
  have hread : KeepsReads s ((s.bump (Reg.MEM_CNT 6)).readWord w i false).2.2 :=
    ((KeepsReads.refl s).bump (noReadCount_below (by decide))).trans (keepsReads_readWord w i false)
  unfold State.writeWord
  split
  · exact keepsReads_putWord w _
  · dsimp only; split
    · exact hread.bump (noReadCount_below (by decide))
    · exact hread.trans (keepsReads_putWord w _)

theorem keepsReads_writeMemBe (i : BitVec 8) (off : Nat) (bs : List (Option Byte)) :
    KeepsReads s (s.writeMemBe i off bs).2 := by
  unfold State.writeMemBe
  split
  · exact .refl s
  · refine .foldl Prod.snd _ _ (false, s) (.refl s) fun acc k => ?_
    dsimp only; split
    · exact .refl _
    · exact keepsReads_writeWord _ _ _

theorem keepsReads_writeLoc (i : BitVec 8) (l : Loc) (bs : List Byte) : KeepsReads s (s.writeLoc i l bs).2 := by
  have hrmw (a : Nat) : KeepsReads s (s.sramRmw a (bs.map some)) :=
    (KeepsReads.refl s).count (noReadCount_below (by decide)) _
  cases l with
  | mem a => exact keepsReads_writeMemBe i a _
  | tmem a => exact ⟨(hrmw a).reads, (hrmw a).counted⟩
  | nbuf a => exact ⟨(hrmw a).reads, (hrmw a).counted⟩

theorem keepsReads_askLines (ls : List (Nat × Nat)) : KeepsReads s (s.askLines ls) :=
  ((KeepsReads.refl s).count (noReadCount_below (by decide)) _).trans (keepsReads_emits _)

theorem keepsReads_storeMem (i : BitVec 8) (k : WriteKind) (a : Nat) (bs : List Byte) (skip : Option Nat) :
    KeepsReads s (s.storeMem i k a bs skip).2.2 := by
  unfold State.storeMem State.storeMemBe
  dsimp only; split
  · exact keepsReads_writeMemBe i a _
  · exact (keepsReads_askLines _).after rfl rfl

/-! ## Writes of a segment -/

theorem keepsReads_storeRun (i : BitVec 8) (clu space : Nat) (k : WriteKind) (a : Word) (bs : List Byte) :
    KeepsReads s (s.storeRun i clu space k a bs).2.2 := by
  unfold State.storeRun
  split
  · exact keepsReads_storeMem i k _ bs none
  · exact keepsReads_writeLoc i _ bs

theorem keepsReads_storeRuns (i : BitVec 8) (clu space : Nat) (k : WriteKind) (rs : List (Word × Nat)) (bs : List Byte) :
    KeepsReads s (s.storeRuns i clu space k rs bs).2.2 := by
  unfold State.storeRuns
  split
  · exact .refl s
  · split
    · exact (keepsReads_emits _).after rfl rfl
    · refine .foldl (fun acc => acc.2.2.2) _ rs (false, 0, bs, s) (.refl s) fun acc r => ?_
      exact keepsReads_storeRun _ _ _ _ _ _

theorem keepsReads_dropSegs (op : Nat) (p : Seg → Bool) : KeepsReads s (s.dropSegs op p) :=
  (keepsAccesses_dropSegs op p).toKeepsReads

theorem keepsReads_failSeg (op g : Nat) (st : Status) : KeepsReads s (s.failSeg op g st) :=
  (keepsAccesses_failSeg op g st).toKeepsReads

theorem keepsReads_countWrite (o : Op) (n : Nat) : KeepsReads s (s.countWrite o n) :=
  (((KeepsReads.refl s).count (noReadCount_cluster _ (by decide) (by decide)) n).trans
    (keepsReads_tagCount _ (by decide) (by decide) n)).updOp _ _

theorem keepsReads_segDone (o : Op) (g : Nat) : KeepsReads s (s.segDone o g) := by
  unfold State.segDone
  split
  · exact .refl s
  · rename_i p x _
    have hdone := (keepsReads_countWrite (s := s) o (o.written x.idx)).updSeg o.id g
      (fun x => { x with phase := .done, reads := 0, writes := 0, held := [] })
    dsimp only; split
    · exact hdone
    · split
      · exact (hdone.trans (keepsReads_dropSegs _ _)).trans (keepsReads_partialNow _)
      · exact hdone.trans (keepsReads_partialNow _)

theorem keepsReads_writeSeg (o : Op) (x : Seg) (bss : List (List Byte)) : KeepsReads s (s.writeSeg o x bss) := by
  have hstore : KeepsReads s ((o.dsts.zip bss).foldl (fun (acc : Bool × Nat × State) e =>
      let w := acc.2.2.storeRuns o.inst o.clu e.1.space (.seg o.id x.id) (e.1.span (o.part x.idx).1 (o.part x.idx).2) e.2
      (acc.1 || w.1, acc.2.1 + w.2.1, w.2.2)) (false, 0, s)).2.2 := by
    refine .foldl (fun acc => acc.2.2) _ _ (false, 0, s) (.refl s) fun acc e => ?_
    exact keepsReads_storeRuns _ _ _ _ _ _
  unfold State.writeSeg
  dsimp only; split
  · exact hstore.trans (keepsReads_failSeg _ _ _)
  · split
    · exact hstore.trans (keepsReads_segDone _ _)
    · exact hstore.updSeg _ _ _

/-! ## After the last read -/

theorem keepsReads_queueSeg (o : Op) (x : Seg) : KeepsReads s (s.queueSeg o x) := by
  unfold State.queueSeg
  split
  · exact keepsReads_failSeg _ _ _
  · exact ⟨rfl, fun _ => rfl⟩

theorem keepsReads_afterReads (o : Op) (x : Seg) : KeepsReads s (s.afterReads o x) := by
  unfold State.afterReads
  split
  · exact (keepsReads_dropSegs _ _).trans (keepsReads_partialNow _)
  · split
    · exact ⟨rfl, fun _ => rfl⟩
    · split
      · exact keepsReads_queueSeg o x
      · split
        · exact keepsReads_writeSeg o x _
        · exact keepsReads_writeSeg o x _

/-! ## Reads that return (R21, R53, R61) -/

/-- The state without the read of a handle. -/
def withoutRead (s : State) (id : Nat) : State := { s with reads := s.reads.filter (fun r => r.id ≠ id) }

theorem not_mem_withoutRead (id : Nat) : ∀ y ∈ (withoutRead s id).reads, y.id ≠ id := by simp [withoutRead]

/-- The state without the write of a handle. -/
def withoutWrite (s : State) (id : Nat) : State := { s with writes := s.writes.filter (fun w => w.id ≠ id) }

theorem not_mem_withoutWrite (id : Nat) : ∀ y ∈ (withoutWrite s id).writes, y.id ≠ id := by simp [withoutWrite]

theorem exec_readRequest (hs : s.alive = true) (id : Nat) (bs : List Byte) (err : Bool) :
    exec (.memoryReadReturn (.request id bs err)) s = .next (s.readReturn id bs err) := by
  change execMemoryReadReturn (.request id bs err) s = _
  simp [execMemoryReadReturn, hs]

section Read

variable {id op g which : Nat} {q : ReadReq} {o : Op} {x : Seg}

theorem exec_readRequest_outOfOrder (hs : s.alive = true)
    (hq : s.reads.find? (fun r => r.id = id ∧ r.sent) = some q)
    (h : s.inOrder (s.readSource q.kind) q.port id = false) (bs : List Byte) (err : Bool) :
    exec (.memoryReadReturn (.request id bs err)) s = .next s := by
  rw [exec_readRequest hs, State.readReturn, hq]
  simp [h]

theorem exec_segRead (hs : s.alive = true) (hq : s.reads.find? (fun r => r.id = id ∧ r.sent) = some q)
    (hk : q.kind = .seg op g which) (h : s.inOrder (s.readSource q.kind) q.port id = true) (bs : List Byte) (err : Bool) :
    exec (.memoryReadReturn (.request id bs err)) s = .next (s.segReturn q op g which bs err) := by
  rw [exec_readRequest hs, State.readReturn, hq]
  simp only [h, Bool.not_true, Bool.false_eq_true, if_false]
  rw [hk]

/-- The data of an outside source reaches its segment, which goes on when it was the last. -/
theorem segReturn_data (ho : s.op? op = some o) (hx : o.seg? g = some x)
    (hext : isExt ((o.srcs.getD which o.a).space) = true) {bs : List Byte} (hlen : bs.length = q.len) :
    s.segReturn q op g which bs false =
      (if (x.took o which bs).reads = 0 then
        (((withoutRead s q.id).countRead o bs.length).updSeg op g (fun _ => x.took o which bs)).afterReads o
          (x.took o which bs)
      else ((withoutRead s q.id).countRead o bs.length).updSeg op g (fun _ => x.took o which bs)).settle := by
  simp only [State.segReturn, ho, hx, Option.bind_some, Option.map_some, hext, hlen, ne_eq, not_true_eq_false, and_false,
    if_false, if_true, Bool.false_eq_true]
  rfl

theorem segReturn_error (ho : s.op? op = some o) (hx : o.seg? g = some x)
    (hext : isExt ((o.srcs.getD which o.a).space) = true) (bs : List Byte) :
    s.segReturn q op g which bs true = ((withoutRead s q.id).failSeg op g St.uncorrectable).settle := by
  simp only [State.segReturn, ho, hx, Option.bind_some, Option.map_some, hext, Bool.not_true, Bool.false_eq_true, false_and,
    and_false, if_false, if_true]
  rfl

/-- A read that returns leaves the outstanding ones and its bytes are counted; what follows neither reads nor counts more. -/
theorem segReturn_counts (ho : s.op? op = some o) (hx : o.seg? g = some x)
    (hext : isExt ((o.srcs.getD which o.a).space) = true) {bs : List Byte} (hlen : bs.length = q.len) :
    (∀ y ∈ (s.segReturn q op g which bs false).reads, y.id ≠ q.id) ∧
      Counts s (s.segReturn q op g which bs false) (Reg.DBG_CNT (o.sl / 4) 4) bs.length := by
  have hkeep : KeepsReads ((withoutRead s q.id).countRead o bs.length) (s.segReturn q op g which bs false) := by
    rw [segReturn_data ho hx hext hlen]
    refine KeepsReads.trans ?_ (keepsAccesses_settle _).toKeepsReads
    have htook := (KeepsReads.refl ((withoutRead s q.id).countRead o bs.length)).updSeg op g fun _ => x.took o which bs
    split
    · exact htook.trans (keepsReads_afterReads _ _)
    · exact htook
  constructor
  · rw [hkeep.reads]
    exact not_mem_withoutRead q.id
  · rw [Counts, hkeep.counted]
    exact reg_setReg_self _ _ _

/-- A failed segment, once the waiting slots have settled: the operation has the status, and accesses and stores stay. -/
theorem failSeg_settle (ho : s.op? op = some o) (g : Nat) (st : Status) :
    KeepsAccesses s (s.failSeg op g st).settle ∧
      ∃ o', (s.failSeg op g st).settle.op? op = some o' ∧ o'.status = (if o.status = 0 then st else o.status) := by
  rw [settle_op?]
  exact ⟨(keepsAccesses_failSeg op g st).trans (keepsAccesses_settle _), op?_failSeg ho g st⟩

end Read

/-! ## Writes that are acknowledged (R21, R53, R61) -/

theorem exec_writeAcknowledged (hs : s.alive = true) (id : Nat) (ok : Bool) :
    exec (.writeAcknowledged id ok) s = .next (s.writeAcked id ok) := by
  change execWriteAcknowledged id ok s = _
  rw [execWriteAcknowledged, if_pos hs]

section Write

variable {id op g : Nat} {w : WriteReq} {o : Op} {x : Seg}

theorem exec_writeAcknowledged_outOfOrder (hs : s.alive = true)
    (hw : s.writes.find? (fun w => w.id = id ∧ w.port.isSome) = some w)
    (h : s.inOrder (s.writeSource w) w.port id = false) (ok : Bool) : exec (.writeAcknowledged id ok) s = .next s := by
  rw [exec_writeAcknowledged hs, State.writeAcked, hw]
  simp [h]

/-- A segment's write needs no flushing read of a message: in its order it ends with its acknowledgement. -/
theorem exec_segWrite (hs : s.alive = true) (hw : s.writes.find? (fun w => w.id = id ∧ w.port.isSome) = some w)
    (hk : w.kind = .seg op g) (h : s.inOrder (s.writeSource w) w.port id = true) (ok : Bool) :
    exec (.writeAcknowledged id ok) s = .next ((withoutWrite s id).writeEnded (.seg op g) ok) := by
  have hflushed : s.flushedOf w = true := by rw [State.flushedOf, hk]; exact Bool.or_true _
  rw [exec_writeAcknowledged hs, State.writeAcked, hw]
  simp only [h, hflushed, hk, Bool.not_true, Bool.or_self, Bool.false_eq_true, if_false]
  rfl

theorem writeEnded_error (ho : s.op? op = some o) (hx : o.seg? g = some x) :
    s.writeEnded (.seg op g) false = (s.failSeg op g St.uncorrectable).settle := by
  simp [State.writeEnded, ho, hx]

theorem writeEnded_last (ho : s.op? op = some o) (hx : o.seg? g = some x) (h : x.writes ≤ 1) :
    s.writeEnded (.seg op g) true = (s.segDone o g).settle := by
  simp [State.writeEnded, ho, hx, h]

theorem writeEnded_next (ho : s.op? op = some o) (hx : o.seg? g = some x) (h : 1 < x.writes) :
    s.writeEnded (.seg op g) true = s.updSeg op g (fun x => { x with writes := x.writes - 1 }) := by
  simp [State.writeEnded, ho, hx, Nat.not_le.mpr h]

theorem countWrite_writes (o : Op) (n : Nat) : (s.countWrite o n).writes = s.writes := by
  have htags : ((s.count (Reg.DBG_CNT o.clu 5) n).tagCount o.filters 1 n).writes = s.writes :=
    tagCount_induction (P := fun t => t.writes = s.writes) (count_writes s _ n) (fun _ _ h => h) _
  exact htags

theorem op?_countWrite (ho : s.op? op = some o) (n : Nat) :
    (s.countWrite o n).op? op = some { o with moved := o.moved + n } := by
  obtain rfl := op?_id ho
  have hop : ((s.count (Reg.DBG_CNT o.clu 5) n).tagCount o.filters 1 n).op? o.id = some o :=
    tagCount_induction (P := fun t => t.op? o.id = some o) (s := s.count _ n) ho (fun _ _ h => h) _
  exact op?_updOp hop (fun o => { o with moved := o.moved + n }) fun _ => rfl

/-- The data of a segment of an operation that is not held is complete: the segment waits to signal. -/
theorem segDone_done (ho : s.op? op = some o) (hx : o.seg? g = some x) (hheld : o.held = false) :
    (s.segDone o g).writes = s.writes ∧
      ∃ o' x', (s.segDone o g).op? op = some o' ∧ o'.seg? g = some x' ∧ x'.phase = .done := by
  have hseg : s.segDone o g = (s.countWrite o (o.written x.idx)).updSeg op g
      (fun x => { x with phase := .done, reads := 0, writes := 0, held := [] }) := by
    simp [State.segDone, op?_id ho, ho, hx, hheld]
  rw [hseg]
  refine ⟨countWrite_writes _ _, ?_⟩
  obtain ⟨o', ho', hx'⟩ := seg?_updSeg (op?_countWrite ho (o.written x.idx)) hx
    (fun x => { x with phase := .done, reads := 0, writes := 0, held := [] }) fun _ => rfl
  exact ⟨o', _, ho', hx', rfl⟩

end Write

/-! ## The statement -/

/-- Settles O30: each clause by the equation of its return, what the failed or finished segment becomes, and what the
rest of the return keeps. -/
theorem accessesReturn : Obligations.AccessesReturn := by
  unfold Obligations.AccessesReturn
  intro s id op g o x hs ho hx
  refine ⟨fun q which bs hq hk hext => ?_, fun w hw hk => ?_⟩
  · have hid : q.id = id := by
      have hfound := List.find?_some hq
      exact (of_decide_eq_true hfound).1
    refine ⟨fun h err => ?_, fun h hlen => ?_, fun h => ?_⟩
    · exact exec_readRequest_outOfOrder hs hq h bs err
    · have hcounts := segReturn_counts ho hx hext hlen
      rw [hid] at hcounts
      refine ⟨_, ?_, hcounts⟩
      rw [exec_segRead hs hq hk h]
    · obtain ⟨hkeep, o', ho', hst⟩ := failSeg_settle (s := withoutRead s id) ho g St.uncorrectable
      refine ⟨_, o', ?_, ?_, ho', hst, hkeep.stores⟩
      · rw [exec_segRead hs hq hk h, segReturn_error ho hx hext, hid]
      · rw [hkeep.reads]
        exact not_mem_withoutRead id
  · refine ⟨fun h ok => ?_, fun h => ⟨fun hlast hheld => ?_, fun hmore => ?_, ?_⟩⟩
    · exact exec_writeAcknowledged_outOfOrder hs hw h ok
    · obtain ⟨hwrites, o', x', ho', hx', hdone⟩ := segDone_done (s := withoutWrite s id) ho hx hheld
      refine ⟨_, o', x', ?_, ?_, (settle_op? _ op).trans ho', hx', hdone⟩
      · rw [exec_segWrite hs hw hk h, writeEnded_last (s := withoutWrite s id) ho hx hlast]
      · rw [(keepsAccesses_settle _).writes, hwrites]
        exact not_mem_withoutWrite id
    · obtain ⟨o', ho', hx'⟩ := seg?_updSeg (s := withoutWrite s id) ho hx (fun x => { x with writes := x.writes - 1 })
        fun _ => rfl
      refine ⟨_, o', _, ?_, ?_, ho', hx', rfl⟩
      · rw [exec_segWrite hs hw hk h, writeEnded_next (s := withoutWrite s id) ho hx hmore]
      · exact not_mem_withoutWrite (s := s) id
    · obtain ⟨-, o', ho', hst⟩ := failSeg_settle (s := withoutWrite s id) ho g St.uncorrectable
      refine ⟨_, o', ?_, ho', hst⟩
      rw [exec_segWrite hs hw hk h, writeEnded_error (s := withoutWrite s id) ho hx]

end Sys2Proof.Proofs
end

section
/-!
PROOF. Instruction words and their fields (R43): each field has its own bits, and together they cover the word.
-/

namespace Sys2Proof.Proofs

open Sys2Proof.Machine Sys2Proof.Laws Sys2Proof.Claims

/-- No field is lost in the word: each lies whole in its own bits. -/
theorem wordFields_imemWord (op : BitVec 8) (w : JWord) : wordFields (imemWord op w) = (op, w) := by
  simp only [wordFields, imemWord, BitVec.extractLsb'_append_eq_ite, BitVec.getLsbD_append]
  simp

/-- No bit of a word is dropped: its fields are adjacent and cover it. -/
theorem imemWord_wordFields (v : BitVec 128) : imemWord (wordFields v).1 (wordFields v).2 = v := by
  have hpred : BitVec.ofNat 3 (Fin.ofNat 8 (v.extractLsb' 8 3).toNat).val = v.extractLsb' 8 3 := by
    apply BitVec.eq_of_toNat_eq
    simp
  have hneg : BitVec.ofBool (v.getLsbD 11) = v.extractLsb' 11 1 := by
    apply BitVec.eq_of_getLsbD_eq
    simp
  simp only [imemWord, wordFields, hpred, hneg,
    BitVec.extractLsb'_append_extractLsb'_eq_extractLsb' (show 64 = 40 + 24 from rfl),
    BitVec.extractLsb'_append_extractLsb'_eq_extractLsb' (show 40 = 32 + 8 from rfl),
    BitVec.extractLsb'_append_extractLsb'_eq_extractLsb' (show 32 = 24 + 8 from rfl),
    BitVec.extractLsb'_append_extractLsb'_eq_extractLsb' (show 24 = 16 + 8 from rfl),
    BitVec.extractLsb'_append_extractLsb'_eq_extractLsb' (show 16 = 12 + 4 from rfl),
    BitVec.extractLsb'_append_extractLsb'_eq_extractLsb' (show 12 = 11 + 1 from rfl),
    BitVec.extractLsb'_append_extractLsb'_eq_extractLsb' (show 11 = 8 + 3 from rfl),
    BitVec.extractLsb'_append_extractLsb'_eq_extractLsb' (show 8 = 0 + 8 from rfl)]
  exact BitVec.extractLsb'_eq_self

/-- Settles O60: reading the fields and building the word are inverse to each other. -/
theorem wordRoundTrip : Obligations.WordRoundTrip := ⟨wordFields_imemWord, imemWord_wordFields⟩

end Sys2Proof.Proofs
end

section
/-!
PROOF. The issue of an instruction (R44, R76): each command issues its opcode under the encoding that R45 and R69 to R95
accept, and each way an issue goes by what holds of the slot.
-/

namespace Sys2Proof.Proofs

open Sys2Proof.Machine Sys2Proof.Laws Sys2Proof.Claims

/-! ## Every command is one issue -/


theorem sigEnc_eq (w : JWord) (msg : Bool) : sigEnc w msg =
    (bits w.imm 32 2 != 3 && bits w.imm 34 2 != 3 && (msg || bits w.imm 34 2 != 1)) := by
  rw [Bool.or_comm msg]; rfl

theorem aluInstr_eq (s : State) (o : AluOp) (sl : Fin 32) (w : JWord) : s.aluInstr o sl w =
    s.issue (aluCode o) sl w (aluEnc w) (fun s => (s.updSlot sl (fun x => x.alu o w)).retire sl) := rfl

theorem exec_commandOf (s : State) (sl : Fin 32) (op : BitVec 8) (w : JWord) :
    ∃ run, exec (commandOf op sl w) s = .next (s.issue op sl w (fun x => fieldsOk op w x.imemLen) run) := by
  obtain ⟨n, hop⟩ : ∃ n, op.toNat = n := ⟨_, rfl⟩
  have hcode : op = BitVec.ofNat 8 n := by simp [← hop]
  simp only [commandOf, fieldsOk, ← sigEnc_eq, hop]
  split
  case h_46 =>
    by_cases h0 : op = 0
    · subst h0
      obtain rfl : 0 = n := hop
      exact ⟨_, rfl⟩
    · have hn : n ≠ 0 := by
        rintro rfl
        exact h0 (BitVec.eq_of_toNat_eq hop)
      have hres : reservedOpcode op = true := by
        simp only [imp_false] at *
        simp only [reservedOpcode, hop, Bool.or_eq_true, Bool.and_eq_true, decide_eq_true_eq, beq_iff_eq]
        omega
      refine ⟨fun s => s.retire sl, ?_⟩
      change execNop op sl w s = _
      rw [execNop, if_pos (.inr hres), beq_eq_false_iff_ne.mpr h0]
      simp [*]
  case h_4 | h_5 | h_6 | h_7 | h_8 | h_9 | h_10 | h_11 | h_12 | h_13 | h_14 =>
    subst hcode
    exact ⟨_, congrArg Host.Outcome.next (aluInstr_eq s _ sl w)⟩
  all_goals
    subst hcode

    exact ⟨_, rfl⟩


/-! ## The ways of an issue -/

section Issue

variable {s : State} {sl : Fin 32} {op : BitVec 8} {w : JWord} {enc : Slot → Bool} {run : State → State}

theorem issue_pastEnd (hcan : s.canIssue sl = true) (hpc : (s.slot sl).imemLen ≤ (s.slot sl).pc) :
    s.issue op sl w enc run = s.issueFault sl St.illegalInstruction 0 := by
  simp [State.issue, hcan, hpc]

theorem issue_badEncoding (h : Fetched s sl op w) (henc : enc (s.slot sl) = false) :
    s.issue op sl w enc run = s.issueFault sl St.illegalInstruction w.tag := by
  obtain ⟨hcan, hpc, hword⟩ := h
  simp [State.issue, hcan, Nat.not_le.mpr hpc, hword, henc]

theorem issue_ready (h : Ready s sl op w) (henc : enc (s.slot sl) = true) : s.issue op sl w enc run = run s := by
  obtain ⟨⟨hcan, hpc, hword⟩, hpred⟩ := h
  simp [State.issue, hcan, Nat.not_le.mpr hpc, hword, henc, hpred]

end Issue

/-- A fault at issue stops the slot precisely: pc and registers stay, and so does all that is not the slot's. -/
theorem faultsAt_issueFault (s : State) (sl : Fin 32) (st : Status) (tag : BitVec 24) :
    FaultsAt s sl st (.next (s.issueFault sl st tag)) := by
  have hslot := slot_issueFault s sl st tag
  refine ⟨_, s.slotRec sl st (if st = St.accessDenied then 0 else classOf st) tag, rfl, ?_⟩
  simp only [hslot, true_and]
  exact ⟨rfl, rfl, rfl, fun i hi => slot_issueFault_ne s sl i st tag hi, rfl, rfl, rfl, rfl⟩

/-! ## The statement -/

theorem encodingFaults : EncodingFaults := by
  intro s sl op w hfetched henc
  obtain ⟨run, hexec⟩ := exec_commandOf s sl op w
  rw [hexec, issue_badEncoding hfetched henc]
  exact faultsAt_issueFault s sl _ _

theorem endOfImageFaults : EndOfImageFaults := by
  intro s sl op w hcan hpc
  obtain ⟨run, hexec⟩ := exec_commandOf s sl op w
  rw [hexec, issue_pastEnd hcan hpc]
  exact faultsAt_issueFault s sl _ _

/-- Settles O6: every command is one issue of its opcode, and the issue faults before it looks at the predicate. -/
theorem illegalInstructions : Obligations.IllegalInstructions := ⟨encodingFaults, endOfImageFaults⟩

end Sys2Proof.Proofs
end

section
/-!
PROOF. The operations that instructions issue (R41, R66, R71, R83 to R88): what each instruction of groups 0x3 to 0x6 does once
it is ready, what an issued operation takes from its instruction, and what its issue leaves alone.
-/

namespace Sys2Proof.Proofs

open Sys2Proof.Machine Sys2Proof.Laws Sys2Proof.Claims

/-! ## The issue of an operation changes its slot, the operations, counters and the trace alone -/

theorem traceOp_frame (s : State) (o : Op) (event : Nat) (st : Status) (w3 : Nat) :
    { s.traceOp o event st w3 with regs := [], comet := State.reset.comet } =
      { s with regs := [], comet := State.reset.comet } := by
  unfold State.traceOp State.stage
  split
  · split <;> rfl
  · rfl

theorem tagCount_frame (s : State) (filters : BitVec 8) (k n : Nat) :
    { s.tagCount filters k n with regs := [] } = { s with regs := [] } :=
  tagCount_induction (P := fun t => ({ t with regs := [] } : State) = { s with regs := [] }) rfl (fun _ _ h => h) filters

/-- The state in which an operation has been counted and traced, before its instruction retires. -/
def counted (s : State) (o : Op) : State :=
  (({ s with fresh := s.fresh + 1, ops := s.ops ++ [o] }.bump (Reg.DBG_CNT o.clu 0)).tagCount o.filters 0 1).traceOp o 0 0 0

theorem addOp_eq (s : State) (o : Op) : s.addOp o = (counted s o).retire o.sl := rfl

theorem counted_frame (s : State) (o : Op) : { counted s o with regs := [], comet := State.reset.comet } =
    { s with regs := [], comet := State.reset.comet, fresh := s.fresh + 1, ops := s.ops ++ [o] } := by
  have htag := congrArg (fun t : State => { t with comet := State.reset.comet })
    (tagCount_frame ({ s with fresh := s.fresh + 1, ops := s.ops ++ [o] }.bump (Reg.DBG_CNT o.clu 0)) o.filters 0 1)
  exact (traceOp_frame _ o 0 0 0).trans htag

theorem addOp_frame (s : State) (o : Op) : { s.addOp o with slots := [], regs := [], comet := State.reset.comet } =
    { s with slots := [], regs := [], comet := State.reset.comet, fresh := s.fresh + 1, ops := s.ops ++ [o] } := by
  have hret := congrArg (fun t : State => { t with comet := State.reset.comet })
    (retireTo_frame (counted s o) o.sl (((counted s o).slot o.sl).pc + 1))
  exact hret.trans (congrArg (fun t : State => { t with slots := [] }) (counted_frame s o))

theorem slot_counted (s : State) (o : Op) (i : Nat) : (counted s o).slot i = s.slot i := by
  have hslots : (counted s o).slots = s.slots := (congrArg State.slots (counted_frame s o) :)
  rw [State.slot, hslots]; rfl

/-- An operation with the next handle that is added for its slot is issued. -/
theorem issues_addOp {s : State} {sl : Fin 32} {o : Op} (hid : o.id = s.fresh) (hsl : o.sl = sl.val) (hst : o.status = 0) :
    Issues s sl (.next ((s.addOp o).startSegs o.id)) o (s.addOp o) := by
  have hframe := addOp_frame s o
  refine ⟨rfl, (congrArg State.ops hframe :), hid, hsl, hst, ?_, ?_, fun i hi => ?_, (congrArg State.mem hframe :),
    (congrArg State.tmem hframe :), (congrArg State.nbuf hframe :), (congrArg State.sems hframe :), (congrArg State.txq hframe :),
    (congrArg State.posted hframe :)⟩
  · rw [addOp_eq, State.retire, hsl, slot_retireTo, slot_counted]
  · rw [addOp_eq, State.retire, hsl, slot_retireTo, slot_counted]; rfl
  · rw [addOp_eq, State.retire, hsl, slot_retireTo_ne _ _ _ _ hi, slot_counted]

/-! ## Instructions that are ready -/

section Ready

variable {s : State} {sl : Fin 32} {w : JWord}

theorem exec_copy (h : Ready s sl 0x30 w) (hf : fieldsOk 0x30 w (s.slot sl).imemLen = true) :
    exec (.copy sl w) s = .next (s.issueTensor sl w .copy (valT (s.slot sl) w.opa) (valT (s.slot sl) w.opb) TDesc.zero 0
      [valT (s.slot sl) w.opa, valT (s.slot sl) w.opb] ((valT (s.slot sl) w.opa).format == (valT (s.slot sl) w.opb).format)) :=
  congrArg Host.Outcome.next (issue_ready h (by rw [sigEnc_eq]; exact hf))

theorem exec_convert (h : Ready s sl 0x31 w) (hf : fieldsOk 0x31 w (s.slot sl).imemLen = true) :
    exec (.convert sl w) s = .next (s.issueTensor sl w .convert (valT (s.slot sl) w.opa) (valT (s.slot sl) w.opb)
      TDesc.zero 0 [valT (s.slot sl) w.opa, valT (s.slot sl) w.opb] true) :=
  congrArg Host.Outcome.next (issue_ready h (by rw [sigEnc_eq]; exact hf))

theorem exec_fill (h : Ready s sl 0x32 w) (hf : fieldsOk 0x32 w (s.slot sl).imemLen = true) :
    exec (.fill sl w) s = .next (s.issueTensor sl w .fill (valT (s.slot sl) w.opa) TDesc.zero TDesc.zero
      (valX (s.slot sl) w.opb) [valT (s.slot sl) w.opa] (!(valT (s.slot sl) w.opa).fmt.mx)) :=
  congrArg Host.Outcome.next (issue_ready h (by rw [sigEnc_eq]; exact hf))

theorem exec_red (h : Ready s sl 0x40 w) (hf : fieldsOk 0x40 w (s.slot sl).imemLen = true) :
    exec (.red sl w) s = .next (s.issueTensor sl w .red (valT (s.slot sl) w.opa) (valT (s.slot sl) w.opb)
      (valT (s.slot sl) w.opc) 0 [valT (s.slot sl) w.opa, valT (s.slot sl) w.opb, valT (s.slot sl) w.opc] true) :=
  congrArg Host.Outcome.next (issue_ready h (by rw [sigEnc_eq]; exact hf))

theorem exec_scale (h : Ready s sl 0x41 w) (hf : fieldsOk 0x41 w (s.slot sl).imemLen = true) :
    exec (.scale sl w) s = .next (s.issueTensor sl w .scale (valT (s.slot sl) w.opa) (valT (s.slot sl) w.opb) TDesc.zero
      (slotS (s.slot sl) w.opc.toNat) [valT (s.slot sl) w.opa, valT (s.slot sl) w.opb] true) :=
  congrArg Host.Outcome.next (issue_ready h (by rw [sigEnc_eq]; exact hf))

theorem exec_quant_noResidual (h : Ready s sl 0x50 w) (hf : fieldsOk 0x50 w (s.slot sl).imemLen = true)
    (hoff : bit w.imm 42 = true) :
    exec (.quant sl w) s = .next (s.issueTensor sl w .quant (valT (s.slot sl) w.opa) (valT (s.slot sl) w.opb) TDesc.zero 0
      [valT (s.slot sl) w.opa, valT (s.slot sl) w.opb] true) := by
  refine congrArg Host.Outcome.next ((issue_ready h (by rw [sigEnc_eq]; exact hf)).trans ?_)
  exact if_pos hoff

theorem exec_quant_residual (h : Ready s sl 0x50 w) (hf : fieldsOk 0x50 w (s.slot sl).imemLen = true)
    (hoff : bit w.imm 42 = false) :
    exec (.quant sl w) s = .next (s.issueTensor sl w .quant (valT (s.slot sl) w.opa) (valT (s.slot sl) w.opb)
      (valT (s.slot sl) w.opc) 0 [valT (s.slot sl) w.opa, valT (s.slot sl) w.opb, valT (s.slot sl) w.opc]
      (residOk (valT (s.slot sl) w.opc))) := by
  refine congrArg Host.Outcome.next ((issue_ready h (by rw [sigEnc_eq]; exact hf)).trans ?_)
  exact if_neg (by simp [residOffOf, hoff])

theorem exec_put (h : Ready s sl 0x60 w) (hf : fieldsOk 0x60 w (s.slot sl).imemLen = true) :
    exec (.put sl w) s = .next (s.issueWin sl w .put) :=
  congrArg Host.Outcome.next (issue_ready h (by rw [sigEnc_eq]; exact hf))

/-! ## Tensor instructions whose operands pass the checks -/

/-- The operation that a tensor instruction issues on the tensors `ds` (R51, R66, R71). -/
def tensorOp (s : State) (sl : Nat) (w : JWord) (kind : OpKind) (dst a b : TDesc) (val : Word) (ds : List TDesc) : Op :=
  let o := s.newOp sl w kind dst a b val 0 (groupAll ds) 1
  { o with nseg := o.segSrc.segments (groupAll ds) }

theorem issueTensor_accepted {kind : OpKind} {dst a b src : TDesc} {val : Word} {ds : List TDesc} (hcan : s.canOp sl = true)
    (hds : TensorsOk ds src) (hsrc : (s.newOp sl w kind dst a b val 0 (groupAll ds) 1).segSrc = src)
    (hreach : TensorsReachable s (s.slot sl).inst ds) (hsig : SignalOk s (s.slot sl).inst w) :
    s.issueTensor sl w kind dst a b val ds true =
      (s.addOp (tensorOp s sl w kind dst a b val ds)).startSegs (tensorOp s sl w kind dst a b val ds).id := by
  obtain ⟨hchecks, hcounts, hsegs, hhost⟩ := hds
  have hall : ds.all (·.checks false) = true := List.all_eq_true.mpr hchecks
  have hin : s.outside (s.slot sl).inst ds = false := by
    rw [State.outside, List.any_eq_false]
    intro d hd
    obtain h | ⟨h, -⟩ := hreach d hd <;> simp [h]
  have hclear : s.protected_ (s.slot sl).inst ds = false := by
    rw [State.protected_, List.any_eq_false]
    intro d hd
    obtain h | ⟨-, h⟩ := hreach d hd <;> simp [h]
  have hseg' : segsOk (tensorOp s sl w kind dst a b val ds).segSrc (groupAll ds) = true := by rw [← hsrc] at hsegs; exact hsegs
  have hden : s.sigDenied (s.slot sl).inst w = false := hsig
  unfold tensorOp at hseg' ⊢
  simp only [State.issueTensor, hcan, hall, hcounts, hseg', hhost, hin, hclear, hden, Bool.not_true, Bool.false_eq_true,
    or_self, if_false]

/-- The operation takes its values from its instruction and its slot. -/
theorem takesValues_tensorOp (kind : OpKind) (dst a b : TDesc) (val : Word) (ds : List TDesc) :
    TakesValues s sl w (tensorOp s sl w kind dst a b val ds) := by
  refine ⟨rfl, rfl, rfl, rfl, rfl, rfl, rfl, ?_, ?_, rfl, rfl, rfl⟩
  · apply BitVec.eq_of_toNat_eq; simp [tensorOp, State.newOp, sigSem, bits]
  · apply BitVec.eq_of_toNat_eq; simp [tensorOp, State.newOp, bits]

theorem issues_issueTensor {kind : OpKind} {dst a b src : TDesc} {val : Word} {ds : List TDesc}
    (hcan : s.canOp sl = true) (hds : TensorsOk ds src)
    (hsrc : (s.newOp sl w kind dst a b val 0 (groupAll ds) 1).segSrc = src)
    (hreach : TensorsReachable s (s.slot sl).inst ds) (hsig : SignalOk s (s.slot sl).inst w) :
    Issues s sl (.next (s.issueTensor sl w kind dst a b val ds true)) (tensorOp s sl w kind dst a b val ds)
      (s.addOp (tensorOp s sl w kind dst a b val ds)) := by
  rw [issueTensor_accepted hcan hds hsrc hreach hsig]
  exact issues_addOp rfl rfl rfl

end Ready

/-- Settles O8: each instruction is one tensor issue, whose checks the hypotheses meet. -/
theorem tensorInstructionsIssue : Obligations.TensorInstructionsIssue := by
  unfold Obligations.TensorInstructionsIssue
  intro s sl w x d a b ok src
  refine ⟨?copy, ?convert, ?fill, ?red, ?scale, ?quantNoResidual, ?quantResidual⟩
  case copy =>
    rintro ⟨hready, hf, hcan, hds, hreach, hsig⟩ hformat
    rw [exec_copy hready hf, beq_iff_eq.mpr hformat]
    exact ⟨_, _, issues_issueTensor hcan hds rfl hreach hsig, takesValues_tensorOp .., rfl, rfl, rfl⟩
  case convert =>
    rintro ⟨hready, hf, hcan, hds, hreach, hsig⟩
    rw [exec_convert hready hf]
    exact ⟨_, _, issues_issueTensor hcan hds rfl hreach hsig, takesValues_tensorOp .., rfl, rfl, rfl⟩
  case fill =>
    rintro ⟨hready, hf, hcan, hds, hreach, hsig⟩ hmx
    have hfmt : (!(valT (s.slot sl) w.opa).fmt.mx) = true := Bool.not_eq_true' _ ▸ hmx
    rw [exec_fill hready hf, hfmt]
    exact ⟨_, _, issues_issueTensor hcan hds rfl hreach hsig, takesValues_tensorOp .., rfl, rfl, rfl⟩
  case red =>
    rintro ⟨hready, hf, hcan, hds, hreach, hsig⟩
    rw [exec_red hready hf]
    exact ⟨_, _, issues_issueTensor hcan hds rfl hreach hsig, takesValues_tensorOp .., rfl, rfl, rfl, rfl⟩
  case scale =>
    rintro ⟨hready, hf, hcan, hds, hreach, hsig⟩
    rw [exec_scale hready hf]
    exact ⟨_, _, issues_issueTensor hcan hds rfl hreach hsig, takesValues_tensorOp .., rfl, rfl, rfl, rfl⟩
  case quantNoResidual =>
    rintro hoff ⟨hready, hf, hcan, hds, hreach, hsig⟩
    rw [exec_quant_noResidual hready hf hoff]
    exact ⟨_, _, issues_issueTensor hcan hds rfl hreach hsig, takesValues_tensorOp .., rfl, rfl, rfl, hoff⟩
  case quantResidual =>
    rintro hoff ⟨hready, hf, hcan, hds, hreach, hsig⟩ hresid
    have hb : residOk (valT (s.slot sl) w.opc) = true := hresid
    rw [exec_quant_residual hready hf hoff, hb]
    exact ⟨_, _, issues_issueTensor hcan hds rfl hreach hsig, takesValues_tensorOp .., rfl, rfl, rfl, rfl, hoff⟩

/-! ## What the statements on caps and bad tensors leave out

The segments that a message instruction starts are those of the handle that a new operation would take, whether or not it
issued one. Where an operation is outstanding under that handle, its segments start. -/

section Window

variable {s : State} {sl : Fin 32} {w : JWord}

theorem issueWin_full (kind : OpKind) (h : s.canOp sl = false) : s.issueWin sl w kind = s.startSegs s.fresh := by
  simp only [State.issueWin, State.issueMsg, h, Bool.not_false, if_true]
  rfl

theorem issueWin_badTensor (h : s.canOp sl = true)
    (hwin : winArgOk (valT (s.slot sl) w.opa) (valT (s.slot sl) w.opb) false = false) :
    s.issueWin sl w .put = (s.issueFault sl St.badTensor w.tag).startSegs s.fresh := by
  have hput : (OpKind.put == OpKind.putacc) = false := by decide
  simp [State.issueWin, State.issueMsg, State.msgOp, State.newOp, h, hput, hwin]

end Window

/-- A PUT of the descriptors t0 and t1. -/
def putWord : JWord :=
  { predReg := 0, predNeg := false, flags := 0, opa := 0x20, opb := 0x21, opc := 1, tag := 0, imm := 0 }

/-- A FILL of slot `sl` in one segment, outstanding under the handle that the next operation takes. No run comes to such a
state, but the statements speak of every state. -/
def strayFill (sl : Nat) (dst : TDesc) : Op :=
  { id := State.reset.fresh, sl := sl, kind := .fill, tag := 0, pc := 0, inst := 0, layer := 0, oper := 0, tc := 0,
    urgent := false, dst := dst, a := .zero, b := .zero, val := 1, dest := 0, ctxv := 0, sigMode := 0, sigWhere := 0,
    semId := 0, semAd := 0, round := 0, redOp := 0, residOff := false, match_ := 0, srcFlag := false, nebCtrl := 0,
    seedXor := 0, seed := 0, group := 1, nseg := 1, next := 0, signalled := 0, segs := [], status := 0, held := false,
    done := false, sigs := 0, moved := 0, filters := 0, faultVa := 0, faultSpace := 0 }

/-- Slot 0 runs a program of one PUT while operation `o` is outstanding. -/
def putState (o : Op) : State :=
  { State.reset with
    regs := []
    images := [{ clu := 0, addr := 0, imageId := 0, count := 1, base := 0, words := [imemWord 0x60 putWord], launched := 0 }]
    slots := [(0, { Slot.init with phase := .running, imemLen := 1 })]
    ops := [o] }

theorem ready_putState (o : Op) : Ready (putState o) 0 0x60 putWord := ⟨⟨rfl, Nat.zero_lt_one, rfl⟩, rfl⟩

/-- Refutes O7: slot 0 is at its cap of one operation, a FILL, which stands under the next handle; the PUT that is held there
starts the FILL's segment, so that the operations change. -/
theorem not_heldAndSkipped : ¬ Obligations.HeldAndSkipped := by
  rintro ⟨-, hcap⟩
  let s := putState (strayFill 0 TDesc.zero)
  have hfull : s.canOp (0 : Fin 32) = false := by decide
  have hready : Ready s 0 0x60 putWord := ready_putState _
  obtain ⟨t, hexec, -, hops, -⟩ := hcap s 0 putWord hfull 0x60 (by decide) (by decide) (by decide) hready
  have hput : exec (.put 0 putWord) s = .next t := hexec
  rw [exec_put hready (by decide), issueWin_full .put hfull] at hput
  obtain rfl := Host.Outcome.next.inj hput
  exact absurd (congrArg (List.map Op.next) hops) (by decide)

/-- Four elements in tensor memory. -/
def onChip : TDesc := { TDesc.zero with attr := 0x121, e0 := 4 }

/-- Refutes O9: the PUT faults with BAD_TENSOR for its empty descriptors, but a FILL of another slot, which stands under the next
handle, writes tensor memory in the same command. -/
theorem not_badTensorFaults : ¬ Obligations.BadTensorFaults := by
  unfold Obligations.BadTensorFaults
  intro h
  let s := putState (strayFill 4 onChip)
  have hroom : s.canOp (0 : Fin 32) = true := by decide
  have hready : Ready s 0 0x60 putWord := ready_putState _
  obtain ⟨-, -, -, -, -, hput⟩ := h s 0 putWord
  obtain ⟨t, r, hexec, -, -, -, -, -, -, -, -, -, -, -, -, -, -, htmem, -⟩ :=
    hput ⟨hready, by decide, hroom⟩ (by decide)
  rw [exec_put hready (by decide), issueWin_badTensor hroom (by decide)] at hexec
  obtain rfl := Host.Outcome.next.inj hexec
  exact absurd htmem (by decide)

end Sys2Proof.Proofs
end

section
/-!
PROOF. What the operations below the commands change: lookups, interrupts and fault records; accesses to memory and page
requests; the segments of an operation. Each level is one relation between the states before and after.
-/

namespace Sys2Proof.Proofs

open Sys2Proof.Machine Sys2Proof.Laws Sys2Proof.Claims

/-! ## The relations -/

/-- The register belongs to the arrays (R131). -/
def NebulaReg (a : Nat) : Prop := 0x0C0000 ≤ a ∧ a < 0x0D0000

/-- From `s` to `t` nothing changes but what `except` leaves out; of that, the registers of the arrays stay, the cache holds the
same translations, handles are only given out, page requests are old ones or have new handles, and every operation keeps its
place, its handle and its count of signalled segments. -/
structure Changes (except : State → State) (s t : State) : Prop where
  frame : except t = except s
  nebula : ∀ a, NebulaReg a → t.reg a = s.reg a
  atc : ∀ e, e ∈ t.atc ↔ e ∈ s.atc
  fresh : s.fresh ≤ t.fresh
  pages : ∀ q ∈ t.pages, s.fresh ≤ q.id ∨ ∃ p ∈ s.pages, p.id = q.id
  ops : t.ops.map (fun o => (o.id, o.signalled)) = s.ops.map (fun o => (o.id, o.signalled))

/-- A state without what lookups, interrupts and fault records change. -/
def exceptRecords (s : State) : State :=
  { s with out := [], tally := State.reset.tally, regs := [], fqs := [], msixPend := [], atc := [], xlating := [] }

/-- A state without what accesses to memory and page requests change. -/
def exceptAccesses (s : State) : State :=
  { exceptRecords s with fresh := 0, mem := [], raw := [], tmem := [], nbuf := [], reads := [], writes := [], pages := [] }

/-- A state without what segments that run change. -/
def exceptRuns (s : State) : State := { exceptAccesses s with slots := [], ops := [], jobs := [], txq := [] }

/-- Lookups, interrupts and fault records lead from `s` to `t`. -/
abbrev Records := Changes exceptRecords

/-- Accesses to memory and page requests lead from `s` to `t`. -/
abbrev Accesses := Changes exceptAccesses

/-- Segments that run lead from `s` to `t`. -/
abbrev Runs := Changes exceptRuns

section Relations

variable {except : State → State} {s t u : State}

/-- A change that touches nothing which the relation follows. -/
theorem Changes.same (hframe : except t = except s) (hregs : t.regs = s.regs) (hatc : t.atc = s.atc)
    (hfresh : t.fresh = s.fresh) (hpages : t.pages = s.pages) (hops : t.ops = s.ops) : Changes except s t where
  frame := hframe
  nebula a _ := by rw [State.reg, State.reg, hregs]
  atc e := by rw [hatc]
  fresh := hfresh.ge
  pages q hq := .inr ⟨q, hpages ▸ hq, rfl⟩
  ops := by rw [hops]

theorem Changes.refl (s : State) : Changes except s s := .same rfl rfl rfl rfl rfl rfl

theorem Changes.trans (h : Changes except s t) (k : Changes except t u) : Changes except s u where
  frame := k.frame.trans h.frame
  nebula a ha := (k.nebula a ha).trans (h.nebula a ha)
  atc e := (k.atc e).trans (h.atc e)
  fresh := h.fresh.trans k.fresh
  pages q hq := by
    obtain hnew | ⟨p, hp, hpq⟩ := k.pages q hq
    · exact .inl (h.fresh.trans hnew)
    · rw [← hpq]
      exact h.pages p hp
  ops := k.ops.trans h.ops

/-- What leaves out more follows no more. -/
theorem Changes.mono {wider : State → State} (h : Changes except s t) (hwider : ∀ s, wider (except s) = wider s) :
    Changes wider s t :=
  { h with frame := by rw [← hwider t, h.frame, hwider s] }

theorem Changes.accesses (h : Records s t) : Accesses s t := h.mono fun _ => rfl

theorem Changes.runs (h : Accesses s t) : Runs s t := h.mono fun _ => rfl

/-- A loop whose every round is such a change is one. -/
theorem Changes.foldl {α β : Type} (st : β → State) (f : β → α → β) (l : List α) (b : β)
    (hf : ∀ b x, Changes except (st b) (st (f b x))) : Changes except (st b) (st (l.foldl f b)) :=
  List.foldlRecOn (motive := fun c => Changes except (st b) (st c)) l f (.refl _) fun c h x _ => h.trans (hf c x)

end Relations

/-! ## Lookups, interrupts and fault records -/

section Lookups

variable (s : State)

theorem records_setReg {a : Nat} (ha : ¬ NebulaReg a) (v : Word) : Records s (s.setReg a v) where
  frame := rfl
  nebula b hb := by
    have hne : b ≠ a := fun h => ha (h ▸ hb)
    rw [reg_setReg, if_neg hne]
  atc _ := Iff.rfl
  fresh := Nat.le_refl _
  pages q hq := .inr ⟨q, hq, rfl⟩
  ops := rfl

theorem records_setFld {a : Nat} (ha : ¬ NebulaReg a) (lo w v : Nat) : Records s (s.setFld a lo w v) :=
  records_setReg s ha _

theorem records_count {a : Nat} (ha : ¬ NebulaReg a) (n : Nat) : Records s (s.count a n) := records_setReg s ha _

theorem records_bump {a : Nat} (ha : ¬ NebulaReg a) : Records s (s.bump a) := records_setReg s ha _

theorem records_emit (e : Emission) : Records s (s.emit e) := .same rfl rfl rfl rfl rfl rfl

theorem records_emits (es : List Emission) : Records s (s.emits es) :=
  .foldl id State.emit es s fun t e => records_emit t e

theorem records_msix (fn : BitVec 8) (v : Nat) : Records s (s.msix fn v) := by
  obtain ⟨-, h⟩ | ⟨-, -, h⟩ | ⟨-, -, h⟩ := msix_cases s fn v
  · rw [h]; exact .refl s
  · rw [h]; exact .same rfl rfl rfl rfl rfl rfl
  · rw [h]; exact records_emit s _

theorem records_askAts (k : XKey) : Records s (s.askAts k) := by
  unfold State.askAts
  split
  · exact .refl s
  · exact .same rfl rfl rfl rfl rfl rfl

/-- The entry that is used moves to the end of the cache. -/
theorem records_touch (k : XKey) : Records s (s.touch k) := by
  unfold State.touch
  split
  · exact .refl s
  · rename_i e he
    have hmem : e ∈ s.atc := List.mem_of_find?_eq_some he
    exact { (Changes.refl s : Records s s) with
      frame := rfl
      atc := fun x => by
        rw [((List.perm_cons_erase hmem).trans (List.perm_append_singleton e _).symm).mem_iff] }

theorem records_lookupCount (k : XKey) (write : Bool) : Records s (s.lookupCount k write).2 := by
  unfold State.lookupCount
  split
  · exact (records_bump s (by unfold NebulaReg Reg.XLT_CNT; omega)).trans (records_askAts _ k)
  · exact (records_bump s (by unfold NebulaReg Reg.XLT_CNT; omega)).trans (records_touch _ k)

theorem records_engineReach (p : Port) (i : BitVec 8) (va : Word) (n : Nat) (write : Bool) :
    Records s (s.engineReach p i va n write).2 := by
  unfold State.engineReach
  split
  · exact .refl s
  · exact .foldl Prod.snd _ _ (true, s) fun _ _ => records_lookupCount _ _ _

theorem records_setFq (q : Nat) (f : FaultQ) : Records s (s.setFq q f) := .same rfl rfl rfl rfl rfl rfl

theorem records_fqIrq (q : Nat) : Records s (s.fqIrq q) := by
  unfold State.fqIrq
  dsimp only
  split
  · exact .refl s
  · split
    all_goals split
    · exact (records_setFq s q _).trans (records_msix _ _ _)
    · exact records_setFq s q _
    · exact (records_setFq s q _).trans (records_msix _ _ _)
    · exact records_setFq s q _

/-- The registers of fault queues are none of the arrays'. -/
theorem not_nebulaReg_faultQueue {a q : Nat} (hq : q ≤ 256) (ha : a ≤ Reg.RING_FQ_OVF1 q) : ¬ NebulaReg a := by
  unfold Reg.RING_FQ_OVF1 at ha; unfold NebulaReg; omega

theorem records_fqPut {q : Nat} (hq : q ≤ 256) (r : FaultRec) : Records s (s.fqPut q r) := by
  refine Changes.trans ?_ (records_fqIrq _ q)
  refine ((records_emit s _).trans (records_setFld _ ?_ _ _ _)).trans (records_bump _ (by unfold NebulaReg Reg.RING_CNT; omega))
  exact not_nebulaReg_faultQueue hq (by unfold Reg.RING_FQ_PROD Reg.RING_FQ_OVF1; omega)

theorem records_fqLose {q : Nat} (hq : q ≤ 256) (cls : Nat) : Records s (s.fqLose q cls) := by
  have hreg : ¬ NebulaReg (if cls < 4 then Reg.RING_FQ_OVF0 q else Reg.RING_FQ_OVF1 q) :=
    not_nebulaReg_faultQueue hq (by unfold Reg.RING_FQ_OVF0 Reg.RING_FQ_OVF1; split <;> omega)
  exact ((records_setFld s hreg _ _ _).trans (records_setFq _ q _)).trans
    (records_bump _ (by unfold NebulaReg Reg.RING_CNT; omega))

theorem records_fault {q : Nat} (hq : q ≤ 256) (r : FaultRec) : Records s (s.fault q r) := by
  have hreach : Records s (s.fqReach q).2 := records_engineReach s _ _ _ _ _
  obtain h | h | h := fault_cases s q r
  · rw [h]; exact records_fqLose s hq _
  · rw [h]; exact hreach.trans (records_fqPut _ hq r)
  · rw [h]
    refine (hreach.trans (records_setFld _ (not_nebulaReg_faultQueue hq ?_) _ _ _)).trans (records_fqLose _ hq _)
    unfold Reg.RING_FQ_CTRL Reg.RING_FQ_OVF1; omega

theorem records_tagCount (filters : BitVec 8) (k n : Nat) : Records s (s.tagCount filters k n) :=
  tagCount_induction (P := fun t => Records s t) (.refl s)
    (fun t _ h => h.trans (records_count t (by unfold NebulaReg Reg.DBG_TAG_CNT; omega) n)) filters

theorem records_record (r : FaultRec) : Records s (s.record r) :=
  (records_fault s (by have := r.inst.isLt; omega) r).trans (records_tagCount _ _ _ _)

theorem records_segLookup (ks : List (XKey × Bool)) : Records s (s.segLookup ks).2.2.2 := by
  unfold State.segLookup
  refine .foldl (fun acc : Option XKey × List (XKey × Bool) × List (XKey × Bool) × State => acc.2.2.2) _ ks
    (none, [], [], s) fun acc e => ?_
  have hlook := records_lookupCount acc.2.2.2 e.1 e.2
  dsimp only
  split <;> exact hlook

end Lookups

/-! ## Accesses to memory and page requests -/

section Memory

variable (s : State)

theorem accesses_sendPage (id : Nat) : Accesses s (s.sendPage id) := by
  unfold State.sendPage
  split
  · exact .refl s
  · split
    · refine Changes.trans ?_ (records_bump _ (by unfold NebulaReg Reg.XLT_CNT; omega)).accesses
      refine { (Changes.refl s : Accesses s s) with frame := rfl, pages := fun q hq => .inr ?_ }
      obtain ⟨p, hp, rfl⟩ := List.mem_map.mp hq
      exact ⟨p, hp, by split <;> rfl⟩
    · exact .refl s

theorem accesses_flushPages : Accesses s s.flushPages :=
  .foldl id State.sendPage _ s fun t id => accesses_sendPage t id

theorem accesses_putWord (w : Nat) (bs : List Byte) : Accesses s (s.putWord w bs) := .same rfl rfl rfl rfl rfl rfl

theorem accesses_poisonWord (w : Nat) (d : BitVec 256) : Accesses s (s.poisonWord w d) := .same rfl rfl rfl rfl rfl rfl

theorem records_countCorr (w : Nat) : Records s (s.countCorr w) :=
  (records_bump s (by unfold NebulaReg Reg.MEM_CNT; omega)).trans
    (records_bump _ (by unfold NebulaReg Reg.MEM_CNT_CORR_M; omega))

theorem records_logUncorr (w : Nat) (i : BitVec 8) (scrub : Bool) : Records s (s.logUncorr w i scrub) := by
  unfold State.logUncorr
  split
  · exact .refl s
  · exact (records_setReg s (by unfold NebulaReg Reg.MEM_ERR_LOG0; omega) _).trans
      (records_setReg _ (by unfold NebulaReg Reg.MEM_ERR_LOG1; omega) _)

theorem records_memCnt (i : Nat) : Records s (s.bump (Reg.MEM_CNT i)) :=
  records_bump s (by unfold NebulaReg Reg.MEM_CNT; omega)

theorem accesses_readWord (w : Nat) (i : BitVec 8) (wb : Bool) : Accesses s (s.readWord w i wb).2.2 := by
  unfold State.readWord
  split
  · exact .refl s
  · dsimp only; split
    · exact (records_countCorr s w).accesses.trans (accesses_putWord _ w _)
    · exact (records_countCorr s w).accesses
  · exact ((records_memCnt s 1).trans (records_memCnt _ 2)).accesses
  · have hlog := ((records_memCnt s 1).trans (records_logUncorr _ w i false)).accesses
    dsimp only; split
    · exact hlog.trans (accesses_poisonWord _ w _)
    · exact hlog

theorem accesses_readMem (i : BitVec 8) (off len : Nat) : Accesses s (s.readMem i off len).2.2 := by
  unfold State.readMem
  split
  · exact .refl s
  · refine .foldl (fun acc : List Byte × Bool × State => acc.2.2) _ _ ([], false, s) fun acc k => ?_
    exact accesses_readWord _ _ _ _

theorem accesses_writeWord (w : Nat) (i : BitVec 8) (f : Nat → Option Byte) : Accesses s (s.writeWord w i f).2 := by
  have hread : Accesses s ((s.bump (Reg.MEM_CNT 6)).readWord w i false).2.2 :=
    (records_memCnt s 6).accesses.trans (accesses_readWord _ w i false)
  unfold State.writeWord
  split
  · exact accesses_putWord s w _
  · dsimp only; split
    · exact hread.trans (records_memCnt _ 7).accesses
    · exact hread.trans (accesses_putWord _ w _)

theorem accesses_writeMemBe (i : BitVec 8) (off : Nat) (bs : List (Option Byte)) : Accesses s (s.writeMemBe i off bs).2 := by
  unfold State.writeMemBe
  split
  · exact .refl s
  · refine .foldl Prod.snd _ _ (false, s) fun acc k => ?_
    dsimp only; split
    · exact .refl _
    · exact accesses_writeWord _ _ _ _

theorem accesses_writeLoc (i : BitVec 8) (l : Loc) (bs : List Byte) : Accesses s (s.writeLoc i l bs).2 := by
  have hrmw (a : Nat) : Accesses s (s.sramRmw a (bs.map some)) :=
    (records_count s (by unfold NebulaReg Reg.MEM_CNT; omega) _).accesses
  cases l with
  | mem a => exact accesses_writeMemBe s i a _
  | tmem a => exact (hrmw a).trans (.same rfl rfl rfl rfl rfl rfl)
  | nbuf a => exact (hrmw a).trans (.same rfl rfl rfl rfl rfl rfl)

theorem records_askLines (ls : List (Nat × Nat)) : Records s (s.askLines ls) :=
  (records_count s (by unfold NebulaReg Reg.XLT_CNT; omega) _).trans (records_emits _ _)

/-- A write that goes out takes a handle and waits for its acknowledgement. -/
theorem accesses_newWrite (w : WriteReq) : Accesses s { s with fresh := s.fresh + 1, writes := s.writes ++ [w] } :=
  { (Changes.refl s : Accesses s s) with frame := rfl, fresh := Nat.le_succ _ }

theorem accesses_storeMem (i : BitVec 8) (k : WriteKind) (a : Nat) (bs : List Byte) (skip : Option Nat) :
    Accesses s (s.storeMem i k a bs skip).2.2 := by
  unfold State.storeMem State.storeMemBe
  dsimp only; split
  · exact accesses_writeMemBe s i a _
  · exact (accesses_newWrite s _).trans (records_askLines _ _).accesses

theorem accesses_storeRun (i : BitVec 8) (clu space : Nat) (k : WriteKind) (a : Word) (bs : List Byte) :
    Accesses s (s.storeRun i clu space k a bs).2.2 := by
  unfold State.storeRun
  split
  · exact accesses_storeMem s i k _ bs none
  · exact accesses_writeLoc s i _ bs

theorem accesses_storeRuns (i : BitVec 8) (clu space : Nat) (k : WriteKind) (rs : List (Word × Nat)) (bs : List Byte) :
    Accesses s (s.storeRuns i clu space k rs bs).2.2 := by
  unfold State.storeRuns
  split
  · exact .refl s
  · split
    · exact (accesses_newWrite s _).trans (records_emits _ _).accesses
    · refine .foldl (fun acc => acc.2.2.2) _ rs (false, 0, bs, s) fun acc r => ?_
      exact accesses_storeRun _ _ _ _ _ _ _

end Memory

end Sys2Proof.Proofs
end

section
/-!
PROOF. Waits that end by their timeout or at their time (R97, R98, R175 to R177), and programs that complete (R63, R67, R76).
-/

namespace Sys2Proof.Proofs

open Sys2Proof.Machine Sys2Proof.Laws Sys2Proof.Claims

/-! ## A slot that stops -/

section Stops

variable {s : State}

/-- A fault of a slot that stops it: the first status of the program is kept, and the record is due. -/
theorem stopped_slotFault (s : State) (sl : Nat) (r : FaultRec) :
    Stopped s ((s.slotFault sl r).stopSlot sl) sl r.status := by
  have hslot : ((s.slotFault sl r).stopSlot sl).slot sl = { s.slot sl with
      status := if (s.slot sl).status = 0 then r.status else (s.slot sl).status, info := (s.slot sl).info ++ [r]
      phase := .draining, stopped := true, wait := none, halted := false, ahead := [], stalled := false } := by
    rw [slot_stopSlot, State.slotFault, slot_updSlot_self]
  rw [Stopped, hslot]
  exact ⟨rfl, rfl, rfl, rfl, r, rfl, rfl⟩

/-- What a stop is counts from the slot before. -/
theorem Stopped.of_slot {s' t : State} {sl : Nat} {st : Status} (h : Stopped s' t sl st) (hslot : s'.slot sl = s.slot sl) :
    Stopped s t sl st := by
  rw [Stopped, hslot] at h
  exact h

theorem slot_slotFault_ne (sl i : Nat) (r : FaultRec) (h : i ≠ sl) :
    ((s.slotFault sl r).stopSlot sl).slot i = s.slot i := by
  rw [slot_stopSlot_ne _ _ _ h, State.slotFault, slot_updSlot, if_neg h]

/-- A slot that stops leaves the stores alone. -/
theorem sameStores_slotFault {u : State} (h : { u with regs := [] } = { s with regs := [] }) (sl : Nat) (r : FaultRec) :
    SameStores s ((u.slotFault sl r).stopSlot sl) :=
  ⟨(congrArg State.mem h :), (congrArg State.tmem h :), (congrArg State.nbuf h :), (congrArg State.pio h :),
    (congrArg State.sems h :)⟩

end Stops

/-! ## Timeouts (R97, R98, R175 to R177) -/

section Timeouts

variable {s : State} {sl : Fin 32}

theorem exec_waitTimeout (hs : s.alive = true) : exec (.waitTimeout sl) s = .next (s.timeoutNow sl) := by
  change execWaitTimeout sl s = _
  rw [execWaitTimeout, if_pos hs]

/-- The log of a timeout is written once, and then holds. -/
theorem logTimeout_eq (s : State) (sl : Nat) (id : BitVec 16) (thr : Word) (tag : BitVec 24) :
    (s.flag Reg.SEM_TO_LOG0 0 = true ∧ s.logTimeout sl id thr tag = s) ∨
    (s.flag Reg.SEM_TO_LOG0 0 = false ∧ ∃ p < 2, s.logTimeout sl id thr tag =
      ((s.setReg Reg.SEM_TO_LOG0 (BitVec.ofNat 64 (1 + p * 2 + (s.slot sl).inst.toNat * 2 ^ 8 + sl % 32 * 2 ^ 16
        + id.toNat * 2 ^ 24 + tag.toNat * 2 ^ 40))).setReg Reg.SEM_TO_LOG1 thr).setReg Reg.SEM_TO_LOG2 (s.semValue id)) := by
  by_cases hlog : s.flag Reg.SEM_TO_LOG0 0 = true
  · exact .inl ⟨hlog, by rw [State.logTimeout, if_pos hlog]⟩
  · refine .inr ⟨by simpa using hlog, b2n (s.semPoisoned id), ?_, by rw [State.logTimeout, if_neg hlog]⟩
    unfold b2n; split <;> omega

theorem setReg_frame (s : State) (a : Nat) (v : Word) : { s.setReg a v with regs := [] } = { s with regs := [] } := rfl

theorem logTimeout_frame (s : State) (sl : Nat) (id : BitVec 16) (thr : Word) (tag : BitVec 24) :
    { s.logTimeout sl id thr tag with regs := [] } = { s with regs := [] } := by
  obtain ⟨-, h⟩ | ⟨-, p, -, h⟩ := logTimeout_eq s sl id thr tag
  · rw [h]
  · rw [h, setReg_frame, setReg_frame, setReg_frame]

/-- What the first word of a log of a timeout says (R177). -/
theorem timeoutLog_fields {p i sl id tag : Nat} (hp : p < 2) (hi : i < 2 ^ 8) (hsl : sl < 32) (hid : id < 2 ^ 16)
    (htag : tag < 2 ^ 24) :
    let w := BitVec.ofNat 64 (1 + p * 2 + i * 2 ^ 8 + sl % 32 * 2 ^ 16 + id * 2 ^ 24 + tag * 2 ^ 40)
    bit w 0 = true ∧ bits w 24 16 = id ∧ bits w 40 24 = tag ∧ bits w 16 5 = sl ∧ bits w 8 8 = i := by
  refine ⟨?_, ?_, ?_, ?_, ?_⟩
  · rw [bit, BitVec.getLsbD_ofNat, Nat.testBit_zero]
    simp; omega
  all_goals
    rw [bits, BitVec.toNat_ofNat, Nat.shiftRight_eq_div_pow]
    omega

theorem logTimeout_fields (s : State) (sl : Fin 32) (id : BitVec 16) (thr : Word) (tag : BitVec 24)
    (hfree : s.flag Reg.SEM_TO_LOG0 0 = false) :
    let t := s.logTimeout sl id thr tag
    t.flag Reg.SEM_TO_LOG0 0 = true ∧ t.fld Reg.SEM_TO_LOG0 24 16 = id.toNat ∧ t.fld Reg.SEM_TO_LOG0 40 24 = tag.toNat
      ∧ t.fld Reg.SEM_TO_LOG0 16 5 = sl.val ∧ t.fld Reg.SEM_TO_LOG0 8 8 = (s.slot sl).inst.toNat
      ∧ t.reg Reg.SEM_TO_LOG1 = thr ∧ t.reg Reg.SEM_TO_LOG2 = s.semValue id := by
  obtain ⟨hlog, -⟩ | ⟨-, p, hp, heq⟩ := logTimeout_eq s sl id thr tag
  · rw [hlog] at hfree; cases hfree
  · obtain ⟨hvalid, hidF, htagF, hslF, hiF⟩ := timeoutLog_fields hp (s.slot sl).inst.isLt sl.isLt id.isLt tag.isLt
    have h01 : Reg.SEM_TO_LOG0 ≠ Reg.SEM_TO_LOG1 := by decide
    have h02 : Reg.SEM_TO_LOG0 ≠ Reg.SEM_TO_LOG2 := by decide
    have h12 : Reg.SEM_TO_LOG1 ≠ Reg.SEM_TO_LOG2 := by decide
    dsimp only
    simp only [heq, State.flag, State.fld, reg_setReg, if_neg h01, if_neg h02, if_neg h12, if_true]
    exact ⟨hvalid, hidF, htagF, hslF, hiF, trivial, trivial⟩

theorem reg_logTimeout_count (s : State) (sl : Nat) (id : BitVec 16) (thr : Word) (tag : BitVec 24) :
    (s.logTimeout sl id thr tag).reg Reg.SEM_CNT_TIMEOUT = s.reg Reg.SEM_CNT_TIMEOUT := by
  obtain ⟨-, h⟩ | ⟨-, p, -, h⟩ := logTimeout_eq s sl id thr tag
  · rw [h]
  · rw [h]
    have h0 : Reg.SEM_CNT_TIMEOUT ≠ Reg.SEM_TO_LOG0 := by decide
    have h1 : Reg.SEM_CNT_TIMEOUT ≠ Reg.SEM_TO_LOG1 := by decide
    have h2 : Reg.SEM_CNT_TIMEOUT ≠ Reg.SEM_TO_LOG2 := by decide
    rw [reg_setReg, if_neg h2, reg_setReg, if_neg h1, reg_setReg, if_neg h0]

/-- A count of the semaphore memory is no part of a barrier and does not decide what is one. -/
theorem semValue_bump {a : Nat} (hprofile : a ≠ Reg.GLB_PROFILE) (hmap : a ≠ Reg.GLB_MAP_STATUS)
    (hbar : a < Reg.SEM_BAR 0) (id : BitVec 16) : (s.bump a).semValue id = s.semValue id := by
  have hval : (s.bump a).barriers = s.barriers := by
    simp only [State.barriers, State.mapValid, State.profile, State.flag, State.fld, reg_bump, if_neg hprofile.symm,
      if_neg hmap.symm]
  have hne : barReg id ≠ a := by unfold barReg Reg.SEM_BAR; unfold Reg.SEM_BAR at hbar; omega
  have hbarReg : (s.bump a).fld (barReg id) 32 32 = s.fld (barReg id) 32 32 := by
    rw [State.fld, State.fld, reg_bump, if_neg hne]
  rw [State.semValue, State.semValue, State.isBar, State.isBar, hval, hbarReg]
  rfl

/-- A wait that has lasted as long as its timeout stops the slot, counted and logged. -/
theorem waitTimeout_timedOut {sl : Nat} {id : BitVec 16} {thr : Word} {since n : Nat} {tag : BitVec 24} {began : Nat}
    (hwait : (s.slot sl).wait = some (.sem id thr since n tag began)) (hdue : s.timedOut since n = true)
    (hhalted : (s.slot sl).halted = false) :
    ∃ r : FaultRec, r.status = St.timeout ∧
      s.waitTimeout sl = (((s.bump Reg.SEM_CNT_TIMEOUT).logTimeout sl id thr tag).slotFault sl r).stopSlot sl := by
  refine ⟨{ s.slotRec sl St.timeout 3 tag with
    w4 := BitVec.ofNat 64 (id.toNat + b2n (s.semPoisoned id) * 2 ^ 16), w5 := thr, w6 := s.semValue id }, rfl, ?_⟩
  simp only [State.waitTimeout, hwait, hdue, hhalted, Bool.not_true, Bool.or_self, Bool.false_eq_true, if_false]

theorem waitTimeout_idle {sl : Nat} {id : BitVec 16} {thr : Word} {since n : Nat} {tag : BitVec 24} {began : Nat}
    (hwait : (s.slot sl).wait = some (.sem id thr since n tag began))
    (h : s.timedOut since n = false ∨ (s.slot sl).halted = true) : s.waitTimeout sl = s := by
  have hif : (!s.timedOut since n || (s.slot sl).halted) = true := by
    obtain h | h := h <;> simp [h]
  simp only [State.waitTimeout, hwait, if_pos hif]

theorem timedOut_iff (s : State) (since n : Nat) :
    s.timedOut since n = true ↔ since + n * 16000000 ≤ s.ps / 16000000 * 16000000 := by
  rw [State.timedOut, decide_eq_true_eq]; rfl

end Timeouts

/-- R97, R98, R175 to R177, but for the precedence of a stop and of a satisfaction. -/
theorem timeout_stops {s : State} {sl : Fin 32} {id : BitVec 16} {thr : Word} {since n : Nat} {tag : BitVec 24} {began : Nat}
    (hwait : (s.slot sl).wait = some (.sem id thr since n tag began)) (hdue : s.timedOut since n = true)
    (hhalted : (s.slot sl).halted = false) :
    let t := s.waitTimeout sl
    Stopped s t sl St.timeout ∧ Counts s t Reg.SEM_CNT_TIMEOUT 1 ∧ (t.slot sl).pc = (s.slot sl).pc ∧ SameStores s t
      ∧ (s.flag Reg.SEM_TO_LOG0 0 = false → t.flag Reg.SEM_TO_LOG0 0 = true
          ∧ t.fld Reg.SEM_TO_LOG0 24 16 = id.toNat ∧ t.fld Reg.SEM_TO_LOG0 40 24 = tag.toNat
          ∧ t.fld Reg.SEM_TO_LOG0 16 5 = sl.val ∧ t.fld Reg.SEM_TO_LOG0 8 8 = (s.slot sl).inst.toNat
          ∧ t.reg Reg.SEM_TO_LOG1 = thr ∧ t.reg Reg.SEM_TO_LOG2 = s.semValue id)
      ∧ (s.flag Reg.SEM_TO_LOG0 0 = true → RegsBut s t [Reg.SEM_CNT_TIMEOUT]) := by
  obtain ⟨r, hr, heq⟩ := waitTimeout_timedOut hwait hdue hhalted
  have hframe : { (s.bump Reg.SEM_CNT_TIMEOUT).logTimeout sl id thr tag with regs := [] } = { s with regs := [] } :=
    logTimeout_frame _ _ _ _ _
  have hcount : ((s.bump Reg.SEM_CNT_TIMEOUT).logTimeout sl id thr tag).reg Reg.SEM_CNT_TIMEOUT
      = s.reg Reg.SEM_CNT_TIMEOUT + 1 := by
    rw [reg_logTimeout_count, reg_bump, if_pos rfl]
  have hfields := logTimeout_fields (s.bump Reg.SEM_CNT_TIMEOUT) sl id thr tag
  rw [semValue_bump (by decide) (by decide) (by decide)] at hfields
  have hkept := logTimeout_eq (s.bump Reg.SEM_CNT_TIMEOUT) sl id thr tag
  dsimp only
  rw [heq]
  generalize (s.bump Reg.SEM_CNT_TIMEOUT).logTimeout sl id thr tag = u at *
  have hlogged : (s.bump Reg.SEM_CNT_TIMEOUT).flag Reg.SEM_TO_LOG0 0 = s.flag Reg.SEM_TO_LOG0 0 := by
    rw [State.flag, State.flag, reg_bump, if_neg (by decide)]
  have hslot : u.slot sl = s.slot sl := by rw [State.slot, State.slot, (congrArg State.slots hframe :)]
  refine ⟨?_, ?_, ?_, ?_, fun hfree => ?_, fun hlog => ?_⟩
  · rw [← hr]; exact Stopped.of_slot (stopped_slotFault u sl r) hslot
  · exact hcount
  · rw [slot_stopSlot, State.slotFault, slot_updSlot_self, hslot]
  · exact sameStores_slotFault hframe sl r
  · have hregs (a : Nat) : ((u.slotFault sl r).stopSlot sl).reg a = u.reg a := rfl
    simp only [State.flag, State.fld, hregs]
    exact hfields (hlogged.trans hfree)
  · intro a ha
    have hne : a ≠ Reg.SEM_CNT_TIMEOUT := by simpa using ha
    obtain ⟨-, h⟩ | ⟨hfree, -⟩ := hkept
    · calc u.reg a = (s.bump Reg.SEM_CNT_TIMEOUT).reg a := by rw [h]
        _ = s.reg a := by rw [reg_bump, if_neg hne]
    · rw [hlogged, hlog] at hfree; cases hfree

/-! ## Retirement without another effect -/

theorem retires_retireTo (s : State) (sl : Fin 32) (pc : Nat) : Retires s (s.retireTo sl pc) sl pc := by
  refine ⟨?_, ?_, ?_, fun i hi => slot_retireTo_ne s sl i pc hi, ?_, fun a ha => ?_, retireTo_frame s sl pc⟩
  · rw [slot_retireTo]
  · rw [slot_retireTo]
  · rw [slot_retireTo]
  · rw [reg_retireTo, if_pos rfl]
  · rw [reg_retireTo, if_neg ha]

theorem goesTo_retire (s : State) (sl : Fin 32) : GoesTo s sl ((s.slot sl).pc + 1) (.next (s.retire sl)) :=
  ⟨_, rfl, retires_retireTo s sl _, by rw [State.retire, slot_retireTo]; rfl⟩

theorem waitsEnd : WaitsEnd := by
  intro s sl hs
  refine ⟨fun id thr since n tag began hwait => ?_, fun v hwait => ?_⟩
  · have hdue := timedOut_iff s since n
    rw [exec_waitTimeout hs, State.timeoutNow]
    refine ⟨fun h => ?_, fun hstop hsat hlong hhalted => ?_, fun h => ?_⟩
    · rw [if_pos (by obtain h | h := h <;> simp [h])]
    · rw [hstop, hsat, Bool.or_self, if_neg Bool.false_ne_true]
      exact ⟨_, rfl, timeout_stops hwait (hdue.mpr hlong) hhalted⟩
    · have hidle : s.waitTimeout sl = s := by
        refine waitTimeout_idle hwait (h.imp_left fun hshort => ?_)
        rw [← Bool.not_eq_true, hdue]; omega
      rw [hidle, ite_self]
  · have hrelease : exec (.twaitRelease sl) s = .next (if v.toNat ≤ s.nowNs then s.retire sl else s) := by
      change execTwaitRelease sl s = _
      rw [execTwaitRelease, if_pos hs, State.twaitRelease, hwait]
    rw [hrelease]
    refine ⟨fun hreached => ?_, fun hbefore => ?_⟩
    · rw [if_pos hreached]; exact goesTo_retire s sl
    · rw [if_neg (by omega)]

/-! ## Programs that complete (R63, R67, R76) -/

/-- A state without what the end of a descriptor changes. -/
def exceptDescriptor (s : State) : State := { exceptRecords s with rings := [] }

theorem setRing_frame (s : State) (r : Nat) (x : Ring) : exceptDescriptor (s.setRing r x) = exceptDescriptor s := rfl

theorem exceptDescriptor_of_records {s t : State} (h : Records s t) : exceptDescriptor t = exceptDescriptor s :=
  congrArg (fun t : State => { t with rings := [] }) h.frame

theorem ringFault_frame (s : State) (r : Nat) (st : Status) (idx : BitVec 32) (w0 : Word) :
    exceptDescriptor (s.ringFault r st idx w0) = exceptDescriptor s :=
  exceptDescriptor_of_records (records_record s _)

theorem finishDesc_frame (s : State) (r : Nat) (idx : BitVec 32) (st : Status) :
    exceptDescriptor (s.finishDesc r idx st) = exceptDescriptor s := by
  have hended (f : Ring → Ring) : exceptDescriptor ((s.setDesc r idx (.finished st)).updRing r f) = exceptDescriptor s := by
    rw [State.updRing, setRing_frame, State.setDesc, State.updRing, setRing_frame]
  have haborted (t : State) : exceptDescriptor (if st = St.aborted then t.bump (Reg.RING_CNT 5) else t)
      = exceptDescriptor t := by
    split
    · exact exceptDescriptor_of_records (records_bump t (by unfold NebulaReg Reg.RING_CNT; omega))
    · rfl
  unfold State.finishDesc
  split
  · rfl
  · split
    · rfl
    · dsimp only; split
      · rw [ringFault_frame, haborted, hended]
      · rw [haborted, hended]

theorem records_foldl_record (l : List FaultRec) (s : State) : Records s (l.foldl State.record s) :=
  .foldl id State.record l s fun t r => records_record t r

theorem exec_programComplete {s : State} {sl : Fin 32} (hs : s.alive = true) :
    exec (.programComplete sl) s = .next (s.programComplete sl) := by
  change execProgramComplete sl s = _
  rw [execProgramComplete, if_pos hs]

/-- The slot of a program that has ended. -/
def freedSlot (x : Slot) : Slot :=
  { x with phase := .idle, stopped := false, wait := none, halted := false, info := [] }

/-- A program that completes leaves everything but its slot, its descriptor and the records of its faults. -/
theorem programComplete_eq {s : State} {sl : Nat} (hphase : (s.slot sl).phase = .draining) (hops : s.slotOps sl = 0) :
    ∃ u, exceptDescriptor u = exceptDescriptor (s.updSlot sl Slot.faulted)
      ∧ s.programComplete sl = (u.updSlot sl freedSlot).progressed sl := by
  refine ⟨(((s.slot sl).info.foldl State.record (s.updSlot sl Slot.faulted)).finishDesc (s.slot sl).ring.toNat
    (s.slot sl).desc (s.slot sl).status), ?_, ?_⟩
  · rw [finishDesc_frame]
    exact exceptDescriptor_of_records (records_foldl_record _ _)
  · rw [State.programComplete, if_neg (by simp [hphase, hops])]
    rfl

/-- The fault registers take the most recent fault, and the others stay. -/
theorem faulted_cases (x : Slot) : (x.info.getLast? = none ∧ x.faulted = x) ∨ (∃ r, x.info.getLast? = some r
    ∧ x.faulted = { x with faultTag := r.tag, faultPc := r.index, faultSt := r.status }) := by
  unfold Slot.faulted
  split
  · exact .inl ⟨‹_›, rfl⟩
  · exact .inr ⟨_, ‹_›, rfl⟩

theorem programsComplete : ProgramsComplete := by
  intro s sl hs
  rw [exec_programComplete hs]
  refine ⟨fun hphase hops => ?_, fun h => ?_⟩
  · obtain ⟨u, hframe, heq⟩ := programComplete_eq hphase hops
    have hslots (i : Nat) : u.slot i = (s.updSlot sl Slot.faulted).slot i :=
      congrArg (tget Slot.init · i) (congrArg State.slots hframe :)
    have hslot : (s.programComplete sl).slot sl = { freedSlot (s.slot sl).faulted with progress := u.ps } := by
      rw [heq, State.progressed, slot_updSlot_self, slot_updSlot_self, hslots, slot_updSlot_self]; rfl
    refine ⟨_, rfl, ?_, ?_, ?_, ?_, ?_, ?_, ?_, fun r hr => ?_, fun i hi => ?_, ?_, ?_⟩
    iterate 7
      · rw [hslot]
        obtain ⟨-, h⟩ | ⟨r, -, h⟩ := faulted_cases (s.slot sl) <;> rw [h] <;> rfl
    · rw [hslot]
      obtain ⟨hnone, -⟩ | ⟨r', hr', h⟩ := faulted_cases (s.slot sl)
      · rw [hnone] at hr; cases hr
      · rw [hr'] at hr; cases hr
        rw [h]; exact ⟨rfl, rfl, rfl⟩
    · rw [heq, State.progressed, slot_updSlot, if_neg hi, slot_updSlot, if_neg hi, hslots, slot_updSlot, if_neg hi]
    · rw [heq]
      exact ⟨(congrArg State.mem hframe :), (congrArg State.tmem hframe :), (congrArg State.nbuf hframe :),
        (congrArg State.pio hframe :), (congrArg State.sems hframe :)⟩
    · rw [heq]
      exact (congrArg State.ops hframe :)
  · rw [State.programComplete, if_pos h]

/-- Settles O14, from what a timeout, a reached time and a completion do to the slot. -/
theorem waitsAndProgramsEnd : Obligations.WaitsAndProgramsEnd := ⟨waitsEnd, programsComplete⟩

end Sys2Proof.Proofs
end

section
/-!
PROOF. What segments that run change: the operations keep their places, handles and counts of signalled segments, and the
stores besides memory, the translations and the arrays' registers stay.
-/

namespace Sys2Proof.Proofs

open Sys2Proof.Machine Sys2Proof.Laws Sys2Proof.Claims

/-- A state without what accesses and the progress of operations and slots change: the queues stay. -/
def exceptProgress (s : State) : State := { exceptAccesses s with slots := [], ops := [] }

/-- Accesses and the progress of operations and slots lead from `s` to `t`. -/
abbrev Progress := Changes exceptProgress

theorem Changes.progress {s t : State} (h : Accesses s t) : Progress s t := h.mono fun _ => rfl

theorem Changes.ofProgress {s t : State} (h : Progress s t) : Runs s t := h.mono fun _ => rfl

/-! ## Progress of operations and slots -/

section Marks

variable (s : State)

/-- A change of an operation that keeps its handle and its count of signalled segments. -/
theorem progress_updOp (op : Nat) {f : Op → Op} (hf : ∀ o, ((f o).id, (f o).signalled) = (o.id, o.signalled)) :
    Progress s (s.updOp op f) :=
  { (Changes.refl s : Progress s s) with
    frame := rfl
    ops := by
      rw [State.updOp, List.map_map]
      refine List.map_congr_left fun o _ => ?_
      dsimp only [Function.comp]
      split
      · exact hf o
      · rfl }

theorem progress_updSeg (op g : Nat) (f : Seg → Seg) : Progress s (s.updSeg op g f) := progress_updOp s op fun _ => rfl

theorem progress_updSlot (sl : Nat) (f : Slot → Slot) : Progress s (s.updSlot sl f) := .same rfl rfl rfl rfl rfl rfl

theorem progress_countWrite (o : Op) (n : Nat) : Progress s (s.countWrite o n) := by
  refine Changes.trans ?_ (progress_updOp _ o.id fun _ => rfl)
  refine Changes.trans ?_ (records_tagCount _ _ _ _).accesses.progress
  exact (records_count s (by unfold NebulaReg Reg.DBG_CNT; omega) n).accesses.progress

/-- A page request takes a new handle. -/
theorem accesses_newPage (key : XKey) (inst : BitVec 8) (op : Nat) :
    Accesses s { s with fresh := s.fresh + 1, pages := s.pages ++ [⟨s.fresh, key, inst, op, false⟩] } :=
  { (Changes.refl s : Accesses s s) with
    frame := rfl
    fresh := Nat.le_succ _
    pages := fun q hq => by
      obtain hq | hq := List.mem_append.mp hq
      · exact .inr ⟨q, hq, rfl⟩
      · rw [List.mem_singleton.mp hq]; exact .inl (Nat.le_refl _) }

theorem progress_partialNow (op : Nat) : Progress s (s.partialNow op) := by
  unfold State.partialNow
  split
  · exact .refl s
  · split
    · exact .refl s
    · refine Changes.trans ?_ (accesses_sendPage _ _).progress
      refine Changes.trans ?_ (progress_updSlot _ _ _)
      exact (accesses_newPage s _ _ _).progress.trans (records_record _ _).accesses.progress

end Marks

/-! ## Segments -/

section Segments

variable (s : State)

theorem runs_updOp (op : Nat) {f : Op → Op} (hf : ∀ o, ((f o).id, (f o).signalled) = (o.id, o.signalled)) :
    Runs s (s.updOp op f) := (progress_updOp s op hf).ofProgress

theorem runs_updSeg (op g : Nat) (f : Seg → Seg) : Runs s (s.updSeg op g f) := (progress_updSeg s op g f).ofProgress

theorem runs_updSlot (sl : Nat) (f : Slot → Slot) : Runs s (s.updSlot sl f) := (progress_updSlot s sl f).ofProgress

theorem runs_countWrite (o : Op) (n : Nat) : Runs s (s.countWrite o n) := (progress_countWrite s o n).ofProgress

theorem runs_partialNow (op : Nat) : Runs s (s.partialNow op) := (progress_partialNow s op).ofProgress

/-- The queues of the arrays and of the send engines. -/
theorem runs_queues (jobs : List Job) (txq : List TxReq) : Runs s { s with jobs := jobs, txq := txq } :=
  .same rfl rfl rfl rfl rfl rfl

theorem runs_dropSegs (op : Nat) (p : Seg → Bool) : Runs s (s.dropSegs op p) := by
  unfold State.dropSegs
  split
  · exact .refl s
  · refine (runs_updOp s op ?_).trans (runs_queues _ _ _)
    exact fun _ => rfl

theorem runs_failSeg (op g : Nat) (st : Status) : Runs s (s.failSeg op g st) := by
  unfold State.failSeg
  split
  · exact runs_updOp s op fun _ => rfl
  · refine Changes.trans (runs_updOp s op ?_) (runs_dropSegs _ _ _)
    exact fun _ => rfl

theorem runs_segDone (o : Op) (g : Nat) : Runs s (s.segDone o g) := by
  unfold State.segDone
  split
  · exact .refl s
  · dsimp only; split
    · exact (runs_countWrite s o _).trans (runs_updSeg _ _ _ _)
    · split
      · exact (((runs_countWrite s o _).trans (runs_updSeg _ _ _ _)).trans (runs_dropSegs _ _ _)).trans (runs_partialNow _ _)
      · exact ((runs_countWrite s o _).trans (runs_updSeg _ _ _ _)).trans (runs_partialNow _ _)

/-- The results of a segment are stored; then it fails, is done, or waits for acknowledgements. -/
theorem writeSeg_cases (o : Op) (x : Seg) (bss : List (List Byte)) : ∃ t, Accesses s t ∧
    (s.writeSeg o x bss = t.failSeg o.id x.id St.uncorrectable ∨ s.writeSeg o x bss = t.segDone o x.id ∨
      ∃ f, s.writeSeg o x bss = t.updSeg o.id x.id f) := by
  unfold State.writeSeg
  dsimp only
  set r := (o.dsts.zip bss).foldl _ (false, 0, s)
  refine ⟨r.2.2, ?_, ?_⟩
  · refine .foldl (fun acc : Bool × Nat × State => acc.2.2) _ _ (false, 0, s) fun acc e => ?_
    exact accesses_storeRuns _ _ _ _ _ _ _
  · split
    · exact .inl rfl
    · split
      · exact .inr (.inl rfl)
      · exact .inr (.inr ⟨_, rfl⟩)

theorem runs_writeSeg (o : Op) (x : Seg) (bss : List (List Byte)) : Runs s (s.writeSeg o x bss) := by
  obtain ⟨t, hstored, h | h | ⟨f, h⟩⟩ := writeSeg_cases s o x bss
  · rw [h]; exact hstored.runs.trans (runs_failSeg _ _ _ _)
  · rw [h]; exact hstored.runs.trans (runs_segDone _ _ _)
  · rw [h]; exact hstored.runs.trans (runs_updSeg _ _ _ _)

theorem runs_queueSeg (o : Op) (x : Seg) : Runs s (s.queueSeg o x) := by
  unfold State.queueSeg
  split
  · exact runs_failSeg s _ _ _
  · exact Changes.trans (runs_updSeg s _ _ _) (runs_queues _ _ _)

theorem runs_askSeg (o : Op) (x : Seg) (data : List Byte) : Runs s (s.askSeg o x data) :=
  { (Changes.refl s : Runs s s) with frame := rfl, fresh := Nat.le_succ _ }

theorem runs_afterReads (o : Op) (x : Seg) : Runs s (s.afterReads o x) := by
  unfold State.afterReads
  split
  · exact (runs_dropSegs s _ _).trans (runs_partialNow _ _)
  · split
    · exact (runs_updSeg s _ _ _).trans (runs_askSeg _ _ _ _)
    · split
      · exact runs_queueSeg s o x
      · split
        · exact runs_writeSeg s o x _
        · exact runs_writeSeg s o x _

/-- A read that goes out takes a handle and waits for its return. -/
theorem accesses_newRead (r : ReadReq) : Accesses s { s with fresh := s.fresh + 1, reads := s.reads ++ [r] } :=
  { (Changes.refl s : Accesses s s) with frame := rfl, fresh := Nat.le_succ _ }

theorem accesses_askRead (o : Op) (x : Seg) (which : Nat) (d : TDesc) : Accesses s (s.askRead o x which d) := by
  unfold State.askRead
  dsimp only; split
  · exact (accesses_newRead s _).trans (records_emits _ _).accesses
  · exact accesses_newRead s _

theorem runs_goSeg (o : Op) (x : Seg) : Runs s (s.goSeg o x) := by
  unfold State.goSeg
  split
  · exact (runs_updSeg s _ _ _).trans (runs_askSeg _ _ _ _)
  · dsimp only; split
    · exact ((runs_updSeg s _ _ _).trans (runs_updSeg _ _ _ _)).trans (runs_afterReads _ _ _)
    · exact (runs_updSeg s _ _ _).trans
        (Changes.foldl id (fun t (e : TDesc × Nat) => t.askRead o x e.2 e.1) _ _ fun _ _ => accesses_askRead _ _ _ _ _).runs

theorem runs_pageFault (op k : Nat) (key : XKey) : Runs s (s.pageFault op k key) := by
  unfold State.pageFault
  split
  · exact .refl s
  · refine Changes.trans ((runs_dropSegs s _ _).trans (runs_updOp _ op fun o => ?_)) (runs_partialNow _ _)
    dsimp only; split <;> rfl

/-- A handle is given out. -/
theorem accesses_newHandle : Accesses s { s with fresh := s.fresh + 1 } :=
  { (Changes.refl s : Accesses s s) with frame := rfl, fresh := Nat.le_succ _ }

theorem runs_startSeg (op : Nat) : Runs s (s.startSeg op) := by
  unfold State.startSeg
  split
  · exact .refl s
  · split
    · exact .refl s
    · dsimp only; split
      · exact (accesses_newHandle s).runs.trans (runs_updOp _ op fun _ => rfl)
      · split
        · exact runs_updOp s op fun _ => rfl
        · have hlook (k : Nat) (o : Op) (y : Seg) : Runs s (((({ s with fresh := s.fresh + 1 }).segLookup
              (s.segKeys o k)).2.2.2).updOp op (fun o => { o with next := k + 1, segs := o.segs ++ [y] })) :=
            ((accesses_newHandle s).runs.trans (records_segLookup _ _).accesses.runs).trans (runs_updOp _ op fun _ => rfl)
          split
          · exact (hlook _ _ _).trans (runs_pageFault _ _ _ _)
          · split
            · exact (hlook _ _ _).trans (runs_goSeg _ _ _)
            · exact hlook _ _ _

theorem runs_startSegs (op : Nat) : Runs s (s.startSegs op) :=
  (((runs_startSeg s op).trans (runs_startSeg _ op)).trans (runs_startSeg _ op)).trans (runs_startSeg _ op)

theorem runs_retire (sl : Nat) : Runs s (s.retire sl) :=
  ((runs_updSlot s sl _).trans (runs_updSlot _ sl _)).trans
    (records_bump _ (by unfold NebulaReg Reg.DBG_CNT; omega)).accesses.runs

theorem runs_settle : Runs s s.settle :=
  settle_induction s (P := Runs s) (Changes.refl s) fun t sl (h : Runs s t) => h.trans (runs_retire t sl)

end Segments

end Sys2Proof.Proofs
end

section
/-!
PROOF. The owner's commands to clusters and arrays (R35, R67, R134, R176), and the passes of the arrays (R121, R126, R131).
-/

namespace Sys2Proof.Proofs

open Sys2Proof.Machine Sys2Proof.Laws Sys2Proof.Claims

/-! ## The owner's commands -/

section Commands

variable {s : State} {p : Path}

/-- What a request costs on its path is counted by Tally alone. -/
theorem tlp_eq (s : State) (p : Path) (n : Nat) : ∃ tally, s.tlp p n = { s with tally := tally } := by
  cases p with
  | bmc => exact ⟨s.tally, rfl⟩
  | _ => exact ⟨_, rfl⟩

/-- An accepted write takes effect. -/
theorem mapWrite_accepted {off : Nat} (h : Accepted s p off) (k : State → State) :
    s.mapWrite p off k = k (s.tlp p 8) := by
  obtain ⟨htripped, hup, htwilight, hreset, hrefused, hcode, howner⟩ := h
  obtain ⟨tally, htlp⟩ := tlp_eq s p 8
  have hawake : ((s.tlp p 8).twilight && off != Reg.PWR_TWI_CMD) = false := by
    rw [htlp]
    obtain h | rfl := htwilight
    · exact Bool.and_eq_false_imp.mpr fun h' => absurd (h.symm.trans h') Bool.false_ne_true
    · simp
  have hreset' : (s.tlp p 8).boot.inReset = false := by rw [htlp]; exact hreset
  have hstarted : ((s.tlp p 8).refusedStart && decide (0x20000 ≤ off)) = false := by
    rw [htlp]
    obtain h | h := hrefused
    · exact Bool.and_eq_false_imp.mpr fun h' => absurd (h.symm.trans h') Bool.false_ne_true
    · simp [h]
  have howner' : pathCode p = (s.tlp p 8).owner := by rw [htlp]; exact howner
  rw [State.mapWrite, htripped, hup]
  simp only [Bool.not_true, Bool.or_self, Bool.false_eq_true, if_false, hawake, hreset', hstarted, if_neg hcode, if_pos howner']

/-- A stop of a slot with a program that is not stopped. -/
theorem slotStop_running {sl : Nat} (hphase : (s.slot sl).phase ≠ .idle) (hstopped : (s.slot sl).stopped = false) :
    s.slotStop sl = (s.slotFault sl (s.slotRec sl St.aborted 7 0)).stopSlot sl := by
  rw [State.slotStop, if_neg (by simp [hphase, hstopped])]

theorem slotStop_stops {sl : Nat} (hphase : (s.slot sl).phase ≠ .idle) (hstopped : (s.slot sl).stopped = false) :
    let t := s.slotStop sl
    Stopped s t sl St.aborted ∧ (∀ i, i ≠ sl → t.slot i = s.slot i) ∧ SameStores s t ∧ (t.slot sl).pc = (s.slot sl).pc
      ∧ t.regs = s.regs := by
  rw [slotStop_running hphase hstopped]
  refine ⟨stopped_slotFault s sl _, fun i hi => slot_slotFault_ne sl i _ hi, sameStores_slotFault rfl sl _, ?_, rfl⟩
  rw [slot_stopSlot, State.slotFault, slot_updSlot_self]

/-- A stop after a wait that is satisfied in the same ck (R176). -/
theorem retire_slotStop {sl : Nat} (hphase : (s.slot sl).phase ≠ .idle) (hstopped : (s.slot sl).stopped = false) :
    let t := (s.retire sl).slotStop sl
    Stopped s t sl St.aborted ∧ (∀ i, i ≠ sl → t.slot i = s.slot i) ∧ SameStores s t
      ∧ (t.slot sl).pc = (s.slot sl).pc + 1 := by
  have hslot : (s.retire sl).slot sl = _ := slot_retireTo s sl ((s.slot sl).pc + 1)
  have hphase' : ((s.retire sl).slot sl).phase ≠ .idle := by rw [hslot]; exact hphase
  have hstopped' : ((s.retire sl).slot sl).stopped = false := by rw [hslot]; exact hstopped
  have hframe := retireTo_frame s sl ((s.slot sl).pc + 1)
  obtain ⟨hstop, hothers, ⟨hmem, htmem, hnbuf, hpio, hsems⟩, hpc, -⟩ := slotStop_stops hphase' hstopped'
  refine ⟨?_, fun i hi => ?_, ⟨?_, ?_, ?_, ?_, ?_⟩, ?_⟩
  · rw [Stopped, hslot] at hstop; exact hstop
  · rw [hothers i hi]; exact slot_retireTo_ne s sl i _ hi
  · exact hmem.trans (congrArg State.mem hframe :)
  · exact htmem.trans (congrArg State.tmem hframe :)
  · exact hnbuf.trans (congrArg State.nbuf hframe :)
  · exact hpio.trans (congrArg State.pio hframe :)
  · exact hsems.trans (congrArg State.sems hframe :)
  · rw [hpc, hslot]

/-- The lowest bit of a word whose lowest bit was written. -/
theorem bit_putBits_zero (v : Word) (b : Bool) : bit (putBits v 0 1 (b2n b)) 0 = b := by
  cases b <;> simp [bit, putBits, b2n]

/-- A flush keeps the images of other clusters and those in use (R35). -/
theorem mem_imemFlush (s : State) (clu : Nat) (r : Resident) :
    r ∈ (s.imemFlush clu).images ↔ r ∈ s.images ∧ (r.clu ≠ clu ∨ s.imageUsed r = true) := by
  rw [State.imemFlush, List.mem_filter, Bool.or_eq_true, decide_eq_true_eq]

theorem cluCtrl_effect (s : State) (clu : Fin 8) (v : Word) :
    let t := s.cluCtrl clu v
    t.flag (Reg.CLU_CTRL clu) 0 = bit v 0 ∧ RegsBut s t [Reg.CLU_CTRL clu]
      ∧ (bit v 1 = false → t.images = s.images)
      ∧ (bit v 1 = true → ∀ r, r ∈ t.images ↔ r ∈ s.images ∧ (r.clu ≠ clu.val ∨ s.imageUsed r = true))
      ∧ { t with regs := [], images := [] } = { s with regs := [], images := [] } := by
  have hflag : (s.setFld (Reg.CLU_CTRL clu) 0 1 (b2n (bit v 0))).flag (Reg.CLU_CTRL clu) 0 = bit v 0 := by
    rw [State.flag, State.setFld, reg_setReg_self, bit_putBits_zero]
  have hothers : RegsBut s (s.setFld (Reg.CLU_CTRL clu) 0 1 (b2n (bit v 0))) [Reg.CLU_CTRL clu] := fun a ha => by
    rw [State.setFld, reg_setReg, if_neg (by simpa using ha)]
  dsimp only
  by_cases hflush : bit v 1 = true
  · rw [State.cluCtrl, if_pos hflush]
    exact ⟨hflag, hothers, fun h => absurd (hflush.symm.trans h) (by decide), fun _ r => mem_imemFlush _ _ _, rfl⟩
  · rw [State.cluCtrl, if_neg hflush]
    exact ⟨hflag, hothers, fun _ => rfl, fun h => absurd h hflush, rfl⟩

end Commands

theorem clusterCommands : ClusterCommands := by
  intro s p v
  obtain ⟨tally, htlp⟩ := tlp_eq s p 8
  refine ⟨fun sl hacc hv hphase hstopped => ?_, fun clu hacc => ?_, fun hacc => ?_⟩
  · have hexec : exec (.slotStop p sl v) s = .next ((s.tlp p 8).writtenStop sl) := by
      change execSlotStop p sl v s = _
      rw [execSlotStop, mapWrite_accepted hacc, if_pos hv]
    refine ⟨_, hexec, ?_⟩
    rw [htlp]
    by_cases hsat : ({ s with tally := tally } : State).satisfiedNow sl = true
    · obtain ⟨hstop, hothers, hstores, hpc⟩ := retire_slotStop (s := { s with tally := tally }) (sl := sl) hphase hstopped
      rw [State.writtenStop, if_pos hsat, if_pos hsat]
      exact ⟨hstop, hothers, hstores, hpc, fun h => absurd (hsat.symm.trans h) (by decide)⟩
    · obtain ⟨hstop, hothers, hstores, hpc, hregs⟩ :=
        slotStop_stops (s := { s with tally := tally }) (sl := sl) hphase hstopped
      rw [State.writtenStop, if_neg hsat, if_neg hsat]
      exact ⟨hstop, hothers, hstores, hpc, fun _ => hregs⟩
  · have hexec : exec (.imemFlush p clu v) s = .next ((s.tlp p 8).cluCtrl clu v) := by
      change execImemFlush p clu v s = _
      rw [execImemFlush, mapWrite_accepted hacc]
    obtain ⟨hflag, hregs, hkept, hflushed, hframe⟩ := cluCtrl_effect (s.tlp p 8) clu v
    refine ⟨_, hexec, hflag, ?_⟩
    rw [htlp] at *
    exact ⟨hregs, hkept, hflushed, congrArg (fun t : State => { t with tally := s.tally }) hframe⟩
  · have hexec : exec (.residueInject p v) s = .next ((s.tlp p 8).injectWrite v) := by
      change execResidueInject p v s = _
      rw [execResidueInject, mapWrite_accepted hacc]
    refine ⟨_, hexec, ?_⟩
    rw [htlp, State.injectWrite]
    split <;> exact ⟨rfl, rfl⟩

/-! ## Passes -/

section Passes

variable {s : State}

/-- Without an injection and an upset the residues agree (R126). -/
theorem residue_agrees (harmed : s.armed = none) (a n per : Nat) (checked : Bool) :
    s.residue a n per checked none = (none, s) := by
  cases checked <;> simp [State.residue, harmed]

/-- The array takes up a segment: nothing but the operation and the array's number changes. -/
theorem beginJob_frame (s : State) (j : Job) :
    { s.beginJob j with ops := [], arrSeq := [] } = { s with ops := [], arrSeq := [] } := by
  unfold State.beginJob
  split <;> rfl

theorem beginJob_seg {j : Job} {o : Op} {x : Seg} (ho : s.op? j.op = some o) (hx : o.seg? j.seg = some x) :
    ∃ o' x', (s.beginJob j).op? j.op = some o' ∧ o'.seg? j.seg = some x' := by
  unfold State.beginJob
  split
  · exact ⟨o, x, ho, hx⟩
  · obtain ⟨o', ho', hx'⟩ := seg?_updSeg ho hx
      (fun y => { y with arr := j.arr, seq := BitVec.ofNat 48 (tget 0 s.arrSeq j.arr) }) fun _ => rfl
    exact ⟨o', _, ho', hx'⟩

/-- The job after a pass of `n` elements on array `a`. -/
def ranJob (j : Job) (a n : Nat) : Job :=
  { j with done := j.done + n, began := true, tally := j.tally.modify a (· + n) }

/-- A pass whose residues agree: the segment stays at the head of the queue, or is finished. -/
theorem nebulaPass_agrees {a : Nat} {j : Job} {o : Op} {x : Seg} (hj : s.jobs.find? (fun k => k.arr = a) = some j)
    (ho : s.op? j.op = some o) (hx : o.seg? j.seg = some x) (harmed : s.armed = none) :
    ∃ o' x', s.nebulaPass a none =
      (let k := ranJob j a (min j.per (j.elems - j.done))
       if k.done < j.elems then (s.beginJob j).putJob j k
       else ({ s.beginJob j with jobs := (s.beginJob j).jobs.erase j }.finishJob k o' x').settle) := by
  obtain ⟨o', x', ho', hx'⟩ := beginJob_seg ho hx
  have harmed' : (s.beginJob j).armed = none := (congrArg State.armed (beginJob_frame s j) :).trans harmed
  refine ⟨o', x', ?_⟩
  simp only [State.nebulaPass, hj, ho', residue_agrees harmed', hx']
  rfl

/-- The first element that meets `p` is replaced by one that meets it too. -/
theorem find?_map_replace {α : Type} {p c : α → Bool} {j k : α} {l : List α} (hj : l.find? p = some j) (hcj : c j = true)
    (hk : p k = true) : (l.map fun x => if c x = true then k else x).find? p = some k := by
  induction l with
  | nil => cases hj
  | cons x l ih =>
    rw [List.map_cons, List.find?_cons]
    by_cases hc : c x = true
    · rw [if_pos hc, hk]
    · by_cases hp : p x = true
      · rw [List.find?_cons, hp] at hj
        cases hj
        exact absurd hcj hc
      · have hp' : p x = false := by simpa using hp
        rw [List.find?_cons, hp'] at hj
        rw [if_neg hc, hp']
        exact ih hj

theorem find?_putJob {a : Nat} {j k : Job} (hj : s.jobs.find? (fun k => k.arr = a) = some j) (hk : k.arr = j.arr) :
    (s.putJob j k).jobs.find? (fun k => k.arr = a) = some k := by
  have harr : j.arr = a := by simpa using List.find?_some hj
  have hmap := find?_map_replace (c := fun x => decide (x.op = j.op ∧ x.seg = j.seg)) (k := k) hj (by simp)
    (by simp [hk, harr])
  simpa [State.putJob] using hmap

/-! ### The end of a segment -/

/-- Segments that are dropped take their jobs out of the queues. -/
theorem jobs_length_dropSegs (s : State) (op : Nat) (p : Seg → Bool) : (s.dropSegs op p).jobs.length ≤ s.jobs.length := by
  unfold State.dropSegs
  split
  · exact Nat.le_refl _
  · exact List.length_filter_le _ _

theorem jobs_length_failSeg (s : State) (op g : Nat) (st : Status) : (s.failSeg op g st).jobs.length ≤ s.jobs.length := by
  unfold State.failSeg
  split
  · exact Nat.le_refl _
  · exact jobs_length_dropSegs _ _ _

theorem Changes.jobs {t : State} (h : Progress s t) : t.jobs = s.jobs := (congrArg State.jobs h.frame :)

theorem jobs_length_segDone (s : State) (o : Op) (g : Nat) : (s.segDone o g).jobs.length ≤ s.jobs.length := by
  have hdone (n : Nat) (f : Seg → Seg) : ((s.countWrite o n).updSeg o.id g f).jobs = s.jobs :=
    ((progress_countWrite s o n).trans (progress_updSeg _ o.id g f)).jobs
  unfold State.segDone
  split
  · exact Nat.le_refl _
  · dsimp only; split
    · rw [hdone]
    · split
      · rw [(progress_partialNow _ _).jobs]
        exact (jobs_length_dropSegs _ _ _).trans (by rw [hdone])
      · rw [(progress_partialNow _ _).jobs, hdone]

theorem jobs_length_writeSeg (s : State) (o : Op) (x : Seg) (bss : List (List Byte)) :
    (s.writeSeg o x bss).jobs.length ≤ s.jobs.length := by
  obtain ⟨t, hstored, h | h | ⟨f, h⟩⟩ := writeSeg_cases s o x bss
  all_goals rw [h, ← hstored.progress.jobs]
  · exact jobs_length_failSeg _ _ _ _
  · exact jobs_length_segDone _ _ _
  · exact Nat.le_refl _

theorem retire_jobs (s : State) (sl : Nat) : (s.retire sl).jobs = s.jobs := by
  simp only [State.retire, State.retireTo, State.progressed, bump_jobs, updSlot_jobs]

theorem settle_jobs (s : State) : s.settle.jobs = s.jobs :=
  settle_induction s (P := fun t => t.jobs = s.jobs) rfl fun t sl h => (retire_jobs t sl).trans h

/-- The counts of the arrays' operations (R131). -/
theorem reg_countOps (s : State) (j : Job) (a : Fin 4) :
    (s.countOps j).reg (Reg.NEB_CNT_OPS a) = s.reg (Reg.NEB_CNT_OPS a) + BitVec.ofNat 64 (j.tally.getD a 0 * j.lanes) := by
  have hrange : List.range 4 = [0, 1, 2, 3] := rfl
  rw [State.countOps, hrange]
  simp only [List.foldl_cons, List.foldl_nil, reg_count]
  fin_cases a <;> simp [Reg.NEB_CNT_OPS]

/-- The count of the last pass is its elements on the array. -/
theorem ranJob_tally {j : Job} (hlen : j.tally.length = 4) (a : Fin 4) (n : Nat) :
    (ranJob j a n).tally.getD a 0 = j.tally.getD a 0 + n := by
  have ha : a.val < j.tally.length := by rw [hlen]; exact a.isLt
  simp [ranJob, List.getD_eq_getElem?_getD, List.getElem?_eq_getElem ha]

/-- A finished segment is counted, and its results are written. -/
theorem finishJob_effect (s : State) (k : Job) (o : Op) (x : Seg) (a : Fin 4) :
    let t := (s.finishJob k o x).settle
    Counts s t (Reg.NEB_CNT_OPS a) (k.tally.getD a 0 * k.lanes) ∧ t.jobs.length ≤ s.jobs.length := by
  dsimp only
  rw [settle_jobs]
  refine ⟨?_, ?_⟩
  · have hneb : NebulaReg (Reg.NEB_CNT_OPS a) := by unfold NebulaReg Reg.NEB_CNT_OPS; omega
    have hsat : Reg.NEB_CNT_OPS a ≠ Reg.NEB_CNT_SAT := by unfold Reg.NEB_CNT_OPS Reg.NEB_CNT_SAT; omega
    have hlost : Reg.NEB_CNT_OPS a ≠ Reg.NEB_CNT_NAN_LOST := by unfold Reg.NEB_CNT_OPS Reg.NEB_CNT_NAN_LOST; omega
    rw [Counts, (runs_settle _).nebula _ hneb, State.finishJob]
    rw [(runs_writeSeg _ _ _ _).nebula _ hneb, reg_count, if_neg hlost, reg_count, if_neg hsat, reg_countOps]
  · refine (jobs_length_writeSeg _ _ _ _).trans (Nat.le_of_eq ?_)
    rw [count_jobs, count_jobs, State.countOps]
    exact List.foldlRecOn (motive := fun t : State => t.jobs.length = s.jobs.length) _ _ rfl fun t h a _ => h

end Passes

theorem arraysRunPasses : ArraysRunPasses := by
  intro s arr j o x hs hup hj ho hx harmed hper hdone hlen
  have hexec : exec (.nebulaPass arr none) s = .next (s.nebulaPass arr none) := by
    change execNebulaPass arr none s = _
    rw [execNebulaPass, if_pos ⟨hs, hup⟩]
  obtain ⟨o', x', hpass⟩ := nebulaPass_agrees hj ho hx harmed
  have hbegan := beginJob_frame s j
  have hjobs : (s.beginJob j).jobs = s.jobs := (congrArg State.jobs hbegan :)
  rw [hexec, hpass]
  dsimp only
  refine ⟨fun hmore => ?_, fun hlast => ?_⟩
  · have hn : min j.per (j.elems - j.done) = j.per := by omega
    have hstays : (ranJob j arr j.per).done < j.elems := hmore
    rw [hn, if_pos hstays]
    refine ⟨_, _, rfl, find?_putJob (hjobs ▸ hj) rfl, rfl, rfl, rfl, ?_, ?_, ?_⟩
    · exact ⟨(congrArg State.mem hbegan :), (congrArg State.tmem hbegan :), (congrArg State.nbuf hbegan :),
        (congrArg State.pio hbegan :), (congrArg State.sems hbegan :)⟩
    · exact (congrArg State.regs hbegan :)
    · exact (congrArg State.slots hbegan :)
  · have hn : min j.per (j.elems - j.done) = j.elems - j.done := by omega
    have hall : ¬ (ranJob j arr (j.elems - j.done)).done < j.elems := by
      change ¬ j.done + (j.elems - j.done) < j.elems
      omega
    rw [hn, if_neg hall]
    obtain ⟨hcount, hshort⟩ := finishJob_effect { s.beginJob j with jobs := (s.beginJob j).jobs.erase j }
      (ranJob j arr (j.elems - j.done)) o' x' arr
    refine ⟨_, rfl, ?_, hshort.trans_lt ?_⟩
    · have hregs : (s.beginJob j).reg (Reg.NEB_CNT_OPS arr) = s.reg (Reg.NEB_CNT_OPS arr) :=
        congrArg (tget 0 · _) (congrArg State.regs hbegan :)
      rw [Counts, hcount, ranJob_tally hlen, ← hregs]
      rfl
    · have hmem : j ∈ (s.beginJob j).jobs := hjobs ▸ List.mem_of_find?_eq_some hj
      have hpos := List.length_pos_of_mem hmem
      change ((s.beginJob j).jobs.erase j).length < s.jobs.length
      rw [List.length_erase_of_mem hmem, ← hjobs]
      omega

/-- Settles O16, from the owner's commands and from what one pass of an array does. -/
theorem clustersAndArrays : Obligations.ClustersAndArrays := ⟨clusterCommands, arraysRunPasses⟩


end Sys2Proof.Proofs
end

section
/-!
PROOF. Launches (R30 to R35, R68): the predicates of a program that starts.
-/

namespace Sys2Proof.Proofs

open Sys2Proof.Machine Sys2Proof.Laws Sys2Proof.Claims

/-- The header of an image without instructions. -/
def emptyHeader : Header := ⟨0, 0, 0, 0, 0, 0⟩

/-- A launch of the image at the first byte of adapter memory. -/
def dispatchedLaunch : RDesc := ⟨0, ⟨0, 0, 0, 0, 0, 0, 0, 0⟩, .dispatched, 0⟩

/-- Slot 0 has the launch of an image without instructions placed on it. -/
def launchState : State :=
  { State.reset with
    regs := [(Reg.MEM_STATUS, 0x10000)]
    mem := [(0, 0x31), (1, 0x4D), (2, 0x44), (3, 0x4A), (4, 1)]
    rings := [(0, { Ring.init with descs := [dispatchedLaunch] })]
    slots := [(0, { Slot.init with launch := some (0, 0, 0) })] }

/-- The predicate register of a started program holds p0, which reads as 1. -/
theorem preds_launchState : ((launchState.imageCheck 0).slot 0).preds = 1 := by decide

/-- Refutes O20: a program starts with the predicate register 1, whose lowest bit is p0, and not 0. The launch of an image
without instructions has a good header, reads nothing more and finds room. -/
theorem not_launchesLoad : ¬ Obligations.LaunchesLoad := by
  rintro ⟨-, himages⟩
  let s := launchState
  obtain ⟨-, hplaced⟩ := himages s 0 0 0 0 dispatchedLaunch (by decide) rfl (by decide)
  obtain ⟨-, hread⟩ := hplaced 0 (by decide)
  obtain ⟨-, -, -, hstarts⟩ := hread (by decide) _ _ _ rfl
  obtain ⟨t, hexec, hstarted⟩ := hstarts emptyHeader (by decide) (by decide) (by decide) (by decide) (by decide) (by decide)
  obtain ⟨-, -, -, -, -, -, -, -, -, -, -, -, -, -, hpreds, -⟩ := hstarted
  have hchecked : exec (.imageCheck 0) s = .next (s.imageCheck 0) := rfl
  obtain rfl := Host.Outcome.next.inj (hchecked.symm.trans hexec)
  exact absurd (preds_launchState.symm.trans hpreds) (by decide)

end Sys2Proof.Proofs
end

section
/-!
PROOF. Segments that signal and operations that complete (R52 to R54, R61, R63).
-/

namespace Sys2Proof.Proofs

open Sys2Proof.Machine Sys2Proof.Laws Sys2Proof.Claims

/-! ## The handle of an operation and its signalled segments -/

section Handles

variable {except : State → State} {s t : State}

/-- An operation keeps its handle and its count of signalled segments. -/
theorem Changes.op? (h : Changes except s t) {op : Nat} {o : Op} (ho : s.op? op = some o) :
    ∃ o', t.op? op = some o' ∧ o'.signalled = o.signalled := by
  have hfind (u : State) : (u.op? op).map (fun o => (o.id, o.signalled))
      = (u.ops.map (fun o => (o.id, o.signalled))).find? (fun p => p.1 = op) := by
    rw [List.find?_map]; rfl
  have heq : (t.op? op).map (fun o => (o.id, o.signalled)) = some (o.id, o.signalled) := by
    rw [hfind, h.ops, ← hfind, ho]; rfl
  obtain ⟨o', ho', hpair⟩ := Option.map_eq_some_iff.mp heq
  exact ⟨o', ho', congrArg Prod.snd hpair⟩

end Handles

/-! ## Semaphores -/

/-- A state without what segments that run and signals change. -/
def exceptSignals (s : State) : State := { exceptRuns s with sems := [], semHeld := [], comet := State.reset.comet }

/-- Segments that run and signals lead from `s` to `t`. -/
abbrev Signals := Changes exceptSignals

theorem Changes.sems {s t : State} (h : Runs s t) : t.sems = s.sems := (congrArg State.sems h.frame :)

theorem Changes.signals {s t : State} (h : Runs s t) : Signals s t := h.mono fun _ => rfl

section Semaphores

variable (s : State)

theorem semWake_induction {P : State → Prop} {s : State} (h : P s) (hretire : ∀ t sl, P t → P (t.retire sl))
    (id : BitVec 16) : P (s.semWake id) := by
  unfold State.semWake
  generalize allSlots = slots
  refine List.foldlRecOn (motive := P) slots _ h fun t ht sl _ => ?_
  split
  · split
    · exact hretire t sl ht
    · exact ht
  · exact ht

theorem runs_semWake (id : BitVec 16) : Runs s (s.semWake id) :=
  semWake_induction (P := Runs s) (Changes.refl s) (fun t sl (h : Runs s t) => h.trans (runs_retire t sl)) id

theorem records_barArrive (id : BitVec 16) : Records s (s.barArrive id) := by
  have hbar : ¬ NebulaReg (barReg id) := by
    have := id.isLt
    unfold NebulaReg barReg Reg.SEM_BAR; omega
  unfold State.barArrive
  dsimp only; split
  · exact (records_setFld s hbar _ _ _).trans (records_setFld _ hbar _ _ _)
  · exact records_setFld s hbar _ _ _

theorem signals_putSem (id : BitVec 16) (v : Word) : Signals s (s.putSem id v) := .same rfl rfl rfl rfl rfl rfl

theorem signals_putSat (id : BitVec 16) (r : Word × Bool) : Signals s (s.putSat id r) := by
  unfold State.putSat
  split
  · exact (signals_putSem s id r.1).trans
      (records_bump _ (by unfold NebulaReg Reg.SEM_CNT_SAT; omega)).accesses.runs.signals
  · exact signals_putSem s id r.1

theorem signals_semEffect (id : BitVec 16) (a : SemAct) : Signals s (s.semEffect id a) := by
  cases a with
  | add v =>
    unfold State.semEffect
    dsimp only; split
    · split
      · exact .refl s
      · exact (records_barArrive s id).accesses.runs.signals
    · exact signals_putSat s id _
  | sub v =>
    unfold State.semEffect
    dsimp only; split
    · exact .refl s
    · exact signals_putSat s id _
  | set v =>
    unfold State.semEffect
    dsimp only; split
    · exact .refl s
    · exact signals_putSem s id v
  | read => exact .refl s
  | wait => exact .refl s

theorem signals_semApply (id : BitVec 16) (a : SemAct) : Signals s (s.semApply id a).2.2 := by
  have hcounted : Signals s (s.bump Reg.SEM_CNT_OPS) :=
    (records_bump s (by unfold NebulaReg Reg.SEM_CNT_OPS; omega)).accesses.runs.signals
  unfold State.semApply
  dsimp only; split
  · exact .refl s
  · dsimp only
    exact (hcounted.trans (signals_semEffect _ id a)).trans (runs_semWake _ id).signals

theorem signals_semHeld (held : List HeldSem) : Signals s { s with semHeld := held } := .same rfl rfl rfl rfl rfl rfl

theorem signals_holdSem (id : BitVec 16) (a : SemAct) (src : SemSrc) : Signals s (s.holdSem id a src) :=
  signals_semHeld s _

theorem signals_semSignal (inst : BitVec 8) (id : BitVec 16) : Signals s (s.semSignal inst id).2 := by
  unfold State.semSignal
  split
  · exact signals_holdSem s id _ _
  · exact signals_semApply s id _

/-- A count of the semaphore memory leaves a plain semaphore one. -/
theorem isBar_bump {a : Nat} (hprofile : a ≠ Reg.GLB_PROFILE) (hmap : a ≠ Reg.GLB_MAP_STATUS) (id : BitVec 16) :
    (s.bump a).isBar id = s.isBar id := by
  simp only [State.isBar, State.barriers, State.mapValid, State.profile, State.flag, State.fld, reg_bump,
    if_neg hprofile.symm, if_neg hmap.symm]

/-- A signal to a plain semaphore adds 1 and wakes its waiters. -/
theorem semSignal_plain {s : State} {id : BitVec 16} (h : PlainSem s id) (inst : BitVec 8) :
    s.semSignal inst id =
      (false, ((s.bump Reg.SEM_CNT_OPS).putSat id (satAdd (tget 0 s.sems id.toNat) 1)).semWake id) := by
  obtain ⟨hbar, hpoison, hzeroing⟩ := h
  have hbar' : (s.bump Reg.SEM_CNT_OPS).isBar id = false := (isBar_bump s (by decide) (by decide) id).trans hbar
  have hvalue : (s.bump Reg.SEM_CNT_OPS).semValue id = tget 0 s.sems id.toNat := by
    rw [State.semValue, hbar']; rfl
  simp only [State.semSignal, State.semApply, State.semEffect, hzeroing, hpoison, hbar', hvalue, Bool.false_eq_true, if_false]

theorem satAdd_toNat (x : Word) : (satAdd x 1).1.toNat = min (x.toNat + 1) (2 ^ 64 - 1) := by
  have hx := x.isLt
  have hone : (1 : Word).toNat = 1 := rfl
  unfold satAdd
  split
  · rw [BitVec.toNat_add, hone]; omega
  · rw [BitVec.toNat_allOnes]; omega

theorem sems_putSat (id : BitVec 16) (r : Word × Bool) (j : Nat) :
    tget 0 (s.putSat id r).sems j = if j = id.toNat then r.1 else tget 0 s.sems j := by
  unfold State.putSat
  split
  · exact sems_putSem s id j r.1
  · exact sems_putSem s id j r.1

theorem slots_putSat (id : BitVec 16) (r : Word × Bool) : (s.putSat id r).slots = s.slots := by
  unfold State.putSat
  split <;> rfl

/-- The value of a plain semaphore after a signal (R170). -/
theorem sems_semSignal {s : State} {id : BitVec 16} (h : PlainSem s id) (inst : BitVec 8) :
    (tget 0 (s.semSignal inst id).2.sems id.toNat).toNat
      = min ((tget 0 s.sems id.toNat).toNat + 1) (2 ^ 64 - 1) := by
  rw [semSignal_plain h]
  dsimp only
  rw [(runs_semWake _ id).sems, sems_putSat, if_pos rfl, satAdd_toNat]

end Semaphores

/-! ## Segments (R52, R54) -/

section Segments

variable (s : State)

theorem signals_stage (t : Trace) : Signals s (s.stage t) := by
  unfold State.stage
  split
  · exact .same rfl rfl rfl rfl rfl rfl
  · refine Changes.trans (t := { s with comet := { s.comet with lost := s.comet.lost + 1 } }) ?_ ?_
    · exact .same rfl rfl rfl rfl rfl rfl
    · exact (records_bump _ (by unfold NebulaReg Reg.DBG_COMET_LOST; omega)).accesses.runs.signals

theorem signals_traceOp (o : Op) (event : Nat) (st : Status) (w3 : Nat) : Signals s (s.traceOp o event st w3) := by
  unfold State.traceOp
  split
  · exact signals_stage s _
  · exact .refl s

theorem runs_txAsk (src : MsgSrc) (sl : Nat) (inst : BitVec 8) (srcCtx : BitVec 20) (dst : AdapterId) (dstCtx : BitVec 20)
    (tc : BitVec 3) (urgent : Bool) (data : List Byte) (trig : List Word) :
    Runs s (s.txAsk src sl inst srcCtx dst dstCtx tc urgent data trig) :=
  { (Changes.refl s : Runs s s) with frame := rfl, fresh := Nat.le_succ _ }

theorem runs_askSignal (o : Op) (k : Nat) : Runs s (s.askSignal o k) := by
  unfold State.askSignal
  split
  · refine Changes.trans (runs_updOp s o.id ?_) (runs_txAsk _ _ _ _ _ _ _ _ _ _ _)
    exact fun _ => rfl
  · exact runs_updOp s o.id fun _ => rfl

theorem runs_lastSignal (o : Op) : Runs s (s.lastSignal o) := by
  unfold State.lastSignal
  split
  · exact runs_askSignal s o _
  · exact .refl s

theorem signals_segSignal (o : Op) (k : Nat) : Signals s (s.segSignal o k) := by
  unfold State.segSignal
  split
  · exact .refl s
  · split
    · dsimp only; split
      · refine (signals_semSignal s o.inst o.semId).trans (Changes.signals (runs_updOp _ o.id ?_))
        exact fun _ => rfl
      · exact signals_semSignal s _ _
    · split
      · exact (runs_askSignal s o k).signals
      · exact .refl s

/-- What follows the signal of a segment: the last signal, and the segments that start. -/
def afterSignal (o : Op) (x : Seg) : State :=
  (((if x.idx + 1 = o.nseg then s.lastSignal o else s).startSegs o.id).partialNow o.id).settle

theorem runs_afterSignal (o : Op) (x : Seg) : Runs s (afterSignal s o x) := by
  have hlast : Runs s (if x.idx + 1 = o.nseg then s.lastSignal o else s) := by
    split
    · exact runs_lastSignal s o
    · exact .refl s
  exact ((hlast.trans (runs_startSegs _ _)).trans (runs_partialNow _ _)).trans (runs_settle _)

/-- The operation after segment `x` has signalled. -/
def signalledOp (x : Seg) (o : Op) : Op :=
  { o with signalled := o.signalled + 1, segs := o.segs.filter (fun y => y.id ≠ x.id) }

/-- The state in which segment `x` signals: the operation counts it, and the slot makes progress. -/
def countedSeg (o : Op) (x : Seg) : State := ((s.updOp o.id (signalledOp x)).traceOp o 1 0 x.idx).progressed o.sl

variable {s} {o : Op} {x : Seg}

theorem segmentComplete_ready (ho : s.op? o.id = some o) (hx : SegmentReady o x) (hst : o.status = 0) :
    s.segmentComplete o.id = afterSignal ((countedSeg s o x).segSignal o x.idx) o x := by
  have hst' : ¬ o.status ≠ 0 := not_not_intro hst
  have hx' : o.segs.find? (fun y => y.idx = o.signalled ∧ y.phase = .done) = some x := hx
  simp only [State.segmentComplete, ho, hx', if_neg hst']
  rfl

theorem segmentComplete_waiting (ho : s.op? o.id = some o) (h : ∀ x ∈ o.segs, x.idx = o.signalled → x.phase ≠ .done) :
    s.segmentComplete o.id = s := by
  have hnone : o.segs.find? (fun y => y.idx = o.signalled ∧ y.phase = .done) = none :=
    List.find?_eq_none.mpr fun x hx => by simpa using h x hx
  simp only [State.segmentComplete, ho, hnone]

theorem op?_countedSeg (ho : s.op? o.id = some o) :
    ∃ o', (countedSeg s o x).op? o.id = some o' ∧ o'.signalled = o.signalled + 1 :=
  ((signals_traceOp (s.updOp o.id (signalledOp x)) o 1 0 x.idx).trans (runs_updSlot _ o.sl _).signals).op?
    (op?_updOp ho (signalledOp x) fun _ => rfl)

theorem PlainSem.stage {id : BitVec 16} (h : PlainSem s id) (t : Trace) : PlainSem (s.stage t) id := by
  obtain ⟨hbar, hpoison, hzeroing⟩ := h
  unfold State.stage
  split
  · exact ⟨hbar, hpoison, hzeroing⟩
  · have hbar' := (isBar_bump { s with comet := { s.comet with lost := s.comet.lost + 1 } } (a := Reg.DBG_COMET_LOST)
      (by decide) (by decide) id).trans hbar
    refine ⟨hbar', ?_, hzeroing⟩
    rw [State.semPoisoned, hbar']
    rw [State.semPoisoned, hbar] at hpoison
    exact hpoison

theorem traceOp_sems (s : State) (o : Op) (event : Nat) (st : Status) (w3 : Nat) : (s.traceOp o event st w3).sems = s.sems :=
  (congrArg State.sems (traceOp_frame s o event st w3) :)

theorem PlainSem.traceOp {id : BitVec 16} (h : PlainSem s id) (o : Op) (event : Nat) (st : Status) (w3 : Nat) :
    PlainSem (s.traceOp o event st w3) id := by
  unfold State.traceOp
  split
  · exact PlainSem.stage h _
  · exact h

theorem countedSeg_sems (s : State) (o : Op) (x : Seg) : (countedSeg s o x).sems = s.sems :=
  traceOp_sems (s.updOp o.id (signalledOp x)) o 1 0 x.idx

theorem PlainSem.countedSeg {id : BitVec 16} (h : PlainSem s id) (o : Op) (x : Seg) : PlainSem (countedSeg s o x) id :=
  PlainSem.traceOp (s := s.updOp o.id (signalledOp x)) h o 1 0 x.idx

/-- A segment signals at once in segment mode at this adapter. -/
theorem segSignal_here {k : Nat} (hmode : o.sigMode = 2) (hwhere : o.sigWhere = 0) (hplain : PlainSem s o.semId) :
    s.segSignal o k = (s.semSignal o.inst o.semId).2 := by
  have hclean : (s.semSignal o.inst o.semId).1 = false := by rw [semSignal_plain hplain]
  simp [State.segSignal, hmode, hwhere, hclean]

end Segments

theorem segmentsSignalInOrder : SegmentsSignalInOrder := by
  intro s op o hs ho
  obtain rfl := op?_id ho
  have hexec : exec (.segmentComplete o.id) s = .next (s.segmentComplete o.id) := by
    change execSegmentComplete o.id s = _
    rw [execSegmentComplete, if_pos hs]
  rw [hexec]
  refine ⟨fun x hx hst => ?_, fun h => ?_⟩
  · obtain ⟨o₁, ho₁, hcount⟩ := op?_countedSeg (x := x) ho
    have hafter := runs_afterSignal ((countedSeg s o x).segSignal o x.idx) o x
    obtain ⟨o₂, ho₂, hkept⟩ := ((signals_segSignal (countedSeg s o x) o x.idx).trans hafter.signals).op? ho₁
    rw [segmentComplete_ready ho hx hst]
    refine ⟨_, o₂, rfl, ho₂, hkept.trans hcount, fun hmode => ?_, fun hmode hwhere hplain => ?_⟩
    · rw [hafter.sems, State.segSignal, if_pos (by omega), countedSeg_sems]
    · have hplain' := PlainSem.countedSeg hplain o x
      rw [hafter.sems, segSignal_here hmode hwhere hplain', sems_semSignal hplain', countedSeg_sems]
  · rw [segmentComplete_waiting ho h]

/-! ## Operations that complete (R53, R61, R63) -/

section Completion

variable {s : State}

theorem status_retire (s : State) (sl i : Nat) : ((s.retire sl).slot i).status = (s.slot i).status := by
  by_cases hi : i = sl
  · rw [hi, State.retire, slot_retireTo]
  · rw [State.retire, slot_retireTo_ne s sl i _ hi]

theorem status_settle (s : State) (i : Nat) : (s.settle.slot i).status = (s.slot i).status :=
  settle_induction s (P := fun t => (t.slot i).status = (s.slot i).status) rfl fun t sl h => (status_retire t sl i).trans h

theorem status_semWake (s : State) (id : BitVec 16) (i : Nat) : ((s.semWake id).slot i).status = (s.slot i).status :=
  semWake_induction (P := fun t : State => (t.slot i).status = (s.slot i).status) rfl
    (fun t sl h => (status_retire t sl i).trans h) id

/-- A signal to a plain semaphore leaves the statuses of programs alone. -/
theorem status_semSignal {id : BitVec 16} (h : PlainSem s id) (inst : BitVec 8) (i : Nat) :
    ((s.semSignal inst id).2.slot i).status = (s.slot i).status := by
  rw [semSignal_plain h]
  dsimp only
  rw [status_semWake, State.slot, slots_putSat]
  rfl

/-- A slot that has stopped waits for nothing, so that no wait of it ends. -/
theorem Stopped.retire {t : State} {sl : Nat} {st : Status} (h : Stopped s t sl st) (i : Nat) : Stopped s (t.retire i) sl st := by
  obtain ⟨hphase, hstopped, hwait, hstatus, hinfo⟩ := h
  by_cases hi : sl = i
  · subst hi
    rw [Stopped, State.retire, slot_retireTo]
    exact ⟨hphase, hstopped, rfl, hstatus, hinfo⟩
  · rw [Stopped, State.retire, slot_retireTo_ne t i sl _ hi]
    exact ⟨hphase, hstopped, hwait, hstatus, hinfo⟩

theorem Stopped.settle {t : State} {sl : Nat} {st : Status} (h : Stopped s t sl st) : Stopped s t.settle sl st :=
  settle_induction t (P := fun t => Stopped s t sl st) h fun _ i h => Stopped.retire h i

/-- The buffers that waiting RECVs post are all that changes (R255). -/
theorem postWaiting_frame (s : State) : { s.postWaiting with posted := [] } = { s with posted := [] } := by
  unfold State.postWaiting
  refine List.foldlRecOn (motive := fun t : State => { t with posted := [] } = { s with posted := [] }) _ _ rfl
    fun t h o _ => ?_
  split
  · exact h
  · exact h

/-- The state in which operation `o` has left, with its last event traced. -/
def leftOp (s : State) (o : Op) (st : Status) : State :=
  (({ s with
      ops := s.ops.filter (fun x => x.id ≠ o.id)
      pages := s.pages.filter (fun x => x.sent || x.op != o.id) } : State).traceOp o 2 st o.moved).progressed o.sl

theorem leftOp_frame (s : State) (o : Op) (st : Status) :
    { leftOp s o st with slots := [], regs := [], comet := State.reset.comet, ops := [], pages := [] }
      = { s with slots := [], regs := [], comet := State.reset.comet, ops := [], pages := [] } :=
  congrArg (fun t : State => { t with slots := [], ops := [], pages := [] }) (traceOp_frame _ o 2 st o.moved)

theorem mem_leftOp {o : Op} {st : Status} {y : Op} (hy : y ∈ (leftOp s o st).ops) : y.id ≠ o.id := by
  have hops : (leftOp s o st).ops = s.ops.filter (fun x => x.id ≠ o.id) :=
    (congrArg State.ops (traceOp_frame _ o 2 st o.moved) :)
  rw [hops] at hy
  exact of_decide_eq_true (List.mem_filter.mp hy).2

theorem slot_traceOp (s : State) (o : Op) (event : Nat) (st : Status) (w3 i : Nat) :
    (s.traceOp o event st w3).slot i = s.slot i :=
  congrArg (tget Slot.init · i) (congrArg State.slots (traceOp_frame s o event st w3) :)

/-- The program's status and records of faults stay when an operation leaves. -/
theorem slot_leftOp (s : State) (o : Op) (st : Status) :
    ((leftOp s o st).slot o.sl).status = (s.slot o.sl).status ∧ ((leftOp s o st).slot o.sl).info = (s.slot o.sl).info := by
  rw [leftOp, State.progressed, slot_updSlot_self, slot_traceOp]
  exact ⟨rfl, rfl⟩

theorem endRec_status (s : State) (o : Op) (st : Status) : (s.endRec o st).status = st := by
  unfold State.endRec
  split <;> rfl

variable {o : Op}

theorem operationComplete_waiting (ho : s.op? o.id = some o) (h : s.opEnded o = false) : s.operationComplete o.id = s := by
  simp only [State.operationComplete, ho, h, Bool.not_false, if_true]

/-- An operation that ends without a failure. -/
theorem operationComplete_ok (ho : s.op? o.id = some o) (h : s.opEnded o = true) (hok : (s.opSignal o).1 = 0) :
    s.operationComplete o.id = (leftOp (s.opSignal o).2 o 0).settle.postWaiting := by
  simp only [State.operationComplete, ho, h, Bool.not_true, Bool.false_eq_true, if_false, hok, if_true]
  rfl

/-- An operation that ends with a failure stops its slot (R63). -/
theorem operationComplete_failed (ho : s.op? o.id = some o) (h : s.opEnded o = true) (hbad : (s.opSignal o).1 ≠ 0) :
    ∃ r : FaultRec, r.status = (s.opSignal o).1 ∧ s.operationComplete o.id =
      (((leftOp (s.opSignal o).2 o (s.opSignal o).1).slotFault o.sl r).stopSlot o.sl).settle.postWaiting := by
  refine ⟨_, endRec_status (leftOp (s.opSignal o).2 o (s.opSignal o).1) o _, ?_⟩
  simp only [State.operationComplete, ho, h, Bool.not_true, Bool.false_eq_true, if_false, if_neg hbad]
  rfl

theorem opSignal_none (hsig : o.sigMode ≠ 1 ∨ o.status ≠ 0) : s.opSignal o = (o.status, s) := by
  have hnot : ¬ (o.status = 0 ∧ o.sigMode = 1 ∧ o.sigWhere = 0) := by
    rintro ⟨hst, hmode, -⟩
    obtain h | h := hsig
    · exact h hmode
    · exact h hst
  rw [State.opSignal, if_neg hnot]

theorem postWaiting_ops (s : State) : s.postWaiting.ops = s.ops := (congrArg State.ops (postWaiting_frame s) :)

theorem postWaiting_sems (s : State) : s.postWaiting.sems = s.sems := (congrArg State.sems (postWaiting_frame s) :)

/-- The operations that are outstanding when one has left, with the waits that end and the buffers that are posted. -/
theorem ops_settle_postWaiting (s : State) : s.settle.postWaiting.ops = s.ops := by
  rw [postWaiting_ops, settle_ops]

theorem slot_postWaiting (s : State) (i : Nat) : s.postWaiting.slot i = s.slot i :=
  congrArg (tget Slot.init · i) (congrArg State.slots (postWaiting_frame s) :)

theorem sems_settle_postWaiting (s : State) : s.settle.postWaiting.sems = s.sems := by
  rw [postWaiting_sems, (runs_settle s).sems]

theorem leftOp_sems (s : State) (o : Op) (st : Status) : (leftOp s o st).sems = s.sems :=
  (congrArg State.sems (leftOp_frame s o st) :)

theorem slotFault_sems (s : State) (sl : Nat) (r : FaultRec) : ((s.slotFault sl r).stopSlot sl).sems = s.sems := rfl

/-- What has left does not come back when its slot stops. -/
theorem mem_stopSlot_ops {sl : Nat} {r : FaultRec} {y : Op} (hy : y ∈ ((s.slotFault sl r).stopSlot sl).ops) :
    ∃ x ∈ s.ops, x.id = y.id := by
  obtain ⟨x, hx, rfl⟩ := List.mem_map.mp hy
  refine ⟨x, hx, ?_⟩
  dsimp only; split <;> rfl

end Completion

theorem operationsComplete : OperationsComplete := by
  intro s op o hs ho
  obtain rfl := op?_id ho
  have hexec : exec (.operationComplete o.id) s = .next (s.operationComplete o.id) := by
    change execOperationComplete o.id s = _
    rw [execOperationComplete, if_pos hs]
  rw [hexec]
  refine ⟨fun h => by rw [operationComplete_waiting ho h], fun h => ⟨_, rfl, ?_⟩⟩
  by_cases hok : (s.opSignal o).1 = 0
  case pos =>
    rw [operationComplete_ok ho h hok]
    have hstatus : ((leftOp (s.opSignal o).2 o 0).settle.postWaiting.slot o.sl).status
        = ((s.opSignal o).2.slot o.sl).status := by
      rw [slot_postWaiting, status_settle, (slot_leftOp _ o 0).1]
    refine ⟨fun y hy => ?_, fun hst hmode => ?_, fun hst hmode hwhere hplain => ?_, fun hst => ?_⟩
    · rw [ops_settle_postWaiting] at hy
      exact mem_leftOp hy
    · have hnone : s.opSignal o = (o.status, s) := opSignal_none (.inl (by omega))
      rw [sems_settle_postWaiting, leftOp_sems, hstatus, hnone]
      exact ⟨rfl, rfl⟩
    · have hsignal : (s.opSignal o).2 = (s.semSignal o.inst o.semId).2 := by
        rw [State.opSignal, if_pos ⟨hst, hmode, hwhere⟩]
      rw [sems_settle_postWaiting, leftOp_sems, hstatus, hsignal]
      exact ⟨sems_semSignal hplain _, status_semSignal hplain _ _⟩
    · have hnone : s.opSignal o = (o.status, s) := opSignal_none (.inr hst)
      rw [hnone] at hok
      exact absurd hok hst
  case neg =>
    obtain ⟨r, hr, heq⟩ := operationComplete_failed ho h hok
    rw [heq]
    refine ⟨fun y hy => ?_, fun hst hmode => ?_, fun hst hmode hwhere hplain => ?_, fun hst => ?_⟩
    · rw [ops_settle_postWaiting] at hy
      obtain ⟨x, hx, hid⟩ := mem_stopSlot_ops hy
      rw [← hid]
      exact mem_leftOp hx
    · have hnone : s.opSignal o = (o.status, s) := opSignal_none (.inl (by omega))
      rw [hnone] at hok
      exact absurd hst hok
    · refine absurd ?_ hok
      rw [State.opSignal, if_pos ⟨hst, hmode, hwhere⟩, semSignal_plain hplain]
      rfl
    · have hnone : s.opSignal o = (o.status, s) := opSignal_none (.inr hst)
      rw [hnone] at hr ⊢
      obtain ⟨hstatus, hinfo⟩ := slot_leftOp s o o.status
      refine ⟨?_, ?_⟩
      · rw [sems_settle_postWaiting, slotFault_sems, leftOp_sems]
      · rw [Stopped, slot_postWaiting]
        have hstopped := Stopped.settle (stopped_slotFault (leftOp s o o.status) o.sl r)
        rw [Stopped, hstatus, hinfo, hr] at hstopped
        exact hstopped

/-- Settles O13, from the signal of a segment and from what leaves when an operation completes. -/
theorem segmentsAndOperations : Obligations.SegmentsAndOperations := ⟨segmentsSignalInOrder, operationsComplete⟩

end Sys2Proof.Proofs
end

section
/-!
PROOF. What holds translations: nothing of the segments, the receiver, the windows or the arrays takes a translation out of the
cache or brings one in (R322, R323).
-/

namespace Sys2Proof.Proofs

open Sys2Proof.Machine Sys2Proof.Laws Sys2Proof.Claims

/-- The cache holds the same translations. -/
def KeepsAtc (s t : State) : Prop := ∀ e, e ∈ t.atc ↔ e ∈ s.atc

section Relation

variable {s t u : State}

theorem KeepsAtc.of_eq (h : t.atc = s.atc) : KeepsAtc s t := fun e => by rw [h]

theorem KeepsAtc.refl (s : State) : KeepsAtc s s := fun _ => Iff.rfl

theorem KeepsAtc.trans (h : KeepsAtc s t) (k : KeepsAtc t u) : KeepsAtc s u := fun e => (k e).trans (h e)

theorem Changes.keepsAtc {except : State → State} (h : Changes except s t) : KeepsAtc s t := h.atc

/-- A loop whose every round keeps the cache keeps it. -/
theorem KeepsAtc.foldl {α β : Type} (st : β → State) (f : β → α → β) (l : List α) (b : β)
    (hf : ∀ b x, KeepsAtc (st b) (st (f b x))) : KeepsAtc (st b) (st (l.foldl f b)) :=
  List.foldlRecOn (motive := fun c => KeepsAtc (st b) (st c)) l f (.refl _) fun c h x _ => h.trans (hf c x)

end Relation

variable (s : State)

/-! ## Packets that answer -/

section Answers

theorem keepsAtc_toPlane (plane : Option Nat) (tc : Nat) (p : Packet) : KeepsAtc s (s.toPlane plane tc p) := by
  cases plane with
  | none => exact .of_eq rfl
  | some i => exact .of_eq rfl

theorem keepsAtc_sendCtl (ctx : BitVec 20) (tc : Nat) (p : Packet) : KeepsAtc s (s.sendCtl ctx tc p) := by
  unfold State.sendCtl
  split
  · exact keepsAtc_toPlane s none tc p
  · dsimp only; split
    · exact .refl s
    · refine KeepsAtc.trans (.of_eq ?_) (keepsAtc_toPlane _ _ _ _)
      split <;> rfl

theorem keepsAtc_nack (x : Rx) (st : Status) : KeepsAtc s (s.nack x st) := by
  unfold State.nack
  split
  · exact .refl s
  · exact keepsAtc_sendCtl (s.bump _) _ _ _

theorem keepsAtc_updRrec (src : AdapterId) (m : MsgId) (f : RRec → RRec) : KeepsAtc s (s.updRrec src m f) := .of_eq rfl

theorem keepsAtc_sendAck (src : AdapterId) (m : MsgId) (fin : Bool) : KeepsAtc s (s.sendAck src m fin) := by
  unfold State.sendAck
  split
  · exact .refl s
  · split
    · exact keepsAtc_updRrec s _ _ _
    · exact (keepsAtc_updRrec s _ _ _).trans (keepsAtc_sendCtl _ _ _ _)

end Answers

/-! ## Messages that arrive -/

section Messages

theorem keepsAtc_slotFault (sl : Nat) (r : FaultRec) : KeepsAtc s ((s.slotFault sl r).stopSlot sl) := .of_eq rfl

theorem keepsAtc_postWaiting : KeepsAtc s s.postWaiting := .of_eq (congrArg State.atc (postWaiting_frame s) :)

theorem keepsAtc_opSignal (o : Op) : KeepsAtc s (s.opSignal o).2 := by
  unfold State.opSignal
  split
  · exact (signals_semSignal s _ _).keepsAtc
  · exact .refl s

theorem keepsAtc_leftOp (o : Op) (st : Status) : KeepsAtc s (leftOp s o st) := .of_eq (congrArg State.atc (leftOp_frame s o st) :)

theorem keepsAtc_operationComplete (op : Nat) : KeepsAtc s (s.operationComplete op) := by
  have hended (t : State) : KeepsAtc t t.settle.postWaiting := (runs_settle t).keepsAtc.trans (keepsAtc_postWaiting _)
  have hleft (o : Op) (st : Status) : KeepsAtc s (leftOp (s.opSignal o).2 o st) :=
    (keepsAtc_opSignal s o).trans (keepsAtc_leftOp _ o st)
  cases ho : s.op? op with
  | none => rw [State.operationComplete, ho]; exact .refl s
  | some o =>
    obtain rfl := op?_id ho
    cases hend : s.opEnded o with
    | false => rw [operationComplete_waiting ho hend]; exact .refl s
    | true =>
      by_cases hok : (s.opSignal o).1 = 0
      · rw [operationComplete_ok ho hend hok]
        exact (hleft o 0).trans (hended _)
      · obtain ⟨r, -, heq⟩ := operationComplete_failed ho hend hok
        rw [heq]
        exact ((hleft o _).trans (keepsAtc_slotFault _ o.sl r)).trans (hended _)

theorem keepsAtc_delivered (op : Nat) (st : Status) (bytes : Nat) : KeepsAtc s (s.delivered op st bytes) := by
  unfold State.delivered
  dsimp only; split
  · exact KeepsAtc.trans (.of_eq rfl) (keepsAtc_postWaiting _)
  · rename_i o _
    refine KeepsAtc.trans ?_ (keepsAtc_operationComplete _ op)
    refine KeepsAtc.trans ?_ (runs_settle _).keepsAtc
    refine KeepsAtc.trans ?_ (keepsAtc_postWaiting _)
    have hcounted (f : Op → Op) : KeepsAtc s
        ((({ s with posted := s.posted.filter (fun b => b.op ≠ op) } : State).countWrite o bytes).updOp op f) :=
      KeepsAtc.trans (.of_eq rfl) (runs_countWrite { s with posted := s.posted.filter (fun b => b.op ≠ op) } o bytes).keepsAtc
    split
    · exact ((hcounted _).trans (signals_traceOp _ o 1 0 0).keepsAtc).trans (runs_lastSignal _ o).keepsAtc
    · exact hcounted _

theorem keepsAtc_deliverBound (r : RRec) (st : Status) : KeepsAtc s (s.deliverBound r st) := by
  unfold State.deliverBound
  split
  · exact keepsAtc_delivered s _ _ _
  · exact .refl s

theorem keepsAtc_publishAs (r : RRec) (st : Status) : KeepsAtc s (s.publishAs r st) := by
  unfold State.publishAs
  dsimp only
  refine KeepsAtc.trans ?_ (keepsAtc_sendAck _ _ _ _)
  refine KeepsAtc.trans ?_ (keepsAtc_deliverBound _ _ _)
  split
  · exact keepsAtc_updRrec s _ _ _
  · exact (keepsAtc_updRrec s _ _ _).trans (keepsAtc_nack _ _ _)

theorem keepsAtc_sigAdd (r : RRec) : KeepsAtc s (s.sigAdd r).2 := by
  unfold State.sigAdd
  split
  · exact .refl s
  · split
    · exact .of_eq rfl
    · exact (signals_semApply s _ _).keepsAtc

theorem keepsAtc_publish (r : RRec) : KeepsAtc s (s.publish r) := by
  unfold State.publish
  split
  · exact .of_eq rfl
  · exact (keepsAtc_sigAdd s r).trans (keepsAtc_publishAs _ _ _)

theorem keepsAtc_release (src : AdapterId) (m : MsgId) (n : Nat) : KeepsAtc s (s.release src m n) := by
  induction n generalizing s m with
  | zero => exact .refl s
  | succ n ih =>
    rw [State.release]
    split
    · exact .refl s
    · have hpub := keepsAtc_publish s ‹_›
      dsimp only; split
      · split
        · exact hpub.trans (ih _ _)
        · exact hpub
      · exact hpub

theorem keepsAtc_rxFinish (src : AdapterId) (m : MsgId) : KeepsAtc s (s.rxFinish src m) := by
  unfold State.rxFinish
  split
  · exact .refl s
  · split
    · exact .refl s
    · split
      · dsimp only; split
        · exact (keepsAtc_publish s _).trans (keepsAtc_release _ _ _ _)
        · exact keepsAtc_publish s _
      · exact .of_eq rfl

theorem keepsAtc_rxFlush (src : AdapterId) (m : MsgId) : KeepsAtc s (s.rxFlush src m) := by
  unfold State.rxFlush
  split
  · split
    · exact .of_eq rfl
    · exact .refl s
  · exact .refl s

theorem keepsAtc_rxFailFinal (src : AdapterId) (m : MsgId) : KeepsAtc s (s.rxFailFinal src m) := by
  unfold State.rxFailFinal
  split
  · exact .refl s
  · split
    · exact .refl s
    · exact ((keepsAtc_updRrec s _ _ _).trans (keepsAtc_sendAck _ _ _ _)).trans (keepsAtc_deliverBound _ _ _)

theorem keepsAtc_rxFail (x : Rx) (st : Status) : KeepsAtc s (s.rxFail x st) := by
  have hnack := keepsAtc_nack s x st
  unfold State.rxFail
  dsimp only; split
  · exact hnack
  · split
    · exact hnack
    · split
      · exact hnack.trans (keepsAtc_rxFailFinal _ _ _)
      · exact (((hnack.trans (keepsAtc_updRrec _ _ _ _)).trans (keepsAtc_rxFlush _ _ _)).trans
          (keepsAtc_release _ _ _ _)).trans (keepsAtc_rxFailFinal _ _ _)

end Messages

/-! ## Windows and writes of messages -/

section Windows

theorem keepsAtc_updWin (w : Nat) (f : Win → Win) : KeepsAtc s (s.updWin w f) := .of_eq rfl

theorem keepsAtc_revokeDone (w : Nat) : KeepsAtc s (s.revokeDone w) := by
  unfold State.revokeDone
  dsimp only; split
  · exact .refl s
  · have hfreed (x : Win) : KeepsAtc s ((s.setWin w x).bump (Reg.WIN_CNT 6)) := .of_eq rfl
    have hraised (x : Win) (inst : BitVec 8) (id : BitVec 16) :
        KeepsAtc s (((s.setWin w x).bump (Reg.WIN_CNT 6)).semSignal inst id).2 :=
      (hfreed x).trans (signals_semSignal _ inst id).keepsAtc
    split
    · split
      · split
        · exact hraised _ _ _
        · exact hfreed _
      · exact hfreed _
    · split
      · split
        · exact hraised _ _ _
        · exact .of_eq rfl
      · exact .of_eq rfl

theorem keepsAtc_winLeave (w : Option Nat) : KeepsAtc s (s.winLeave w) := by
  cases w with
  | none => exact .refl s
  | some w => exact (keepsAtc_updWin s w _).trans (keepsAtc_revokeDone _ w)

theorem keepsAtc_rxWriteDone (src : AdapterId) (m : MsgId) (w : Option Nat) : KeepsAtc s (s.rxWriteDone src m w) :=
  ((((keepsAtc_winLeave s w).trans (keepsAtc_updRrec _ src m _)).trans (keepsAtc_rxFlush _ src m)).trans
    (keepsAtc_rxFinish _ src m)).trans (keepsAtc_rxFailFinal _ src m)

theorem keepsAtc_rxWriteFail (x : Rx) (w : Option Nat) (st : Status) : KeepsAtc s (s.rxWriteFail x w st) :=
  ((keepsAtc_updRrec s _ _ _).trans (keepsAtc_winLeave _ w)).trans (keepsAtc_rxFail _ x st)

theorem keepsAtc_placed (x : Rx) (failed : Bool) (n : Nat) : KeepsAtc s (s.placed x failed n) := by
  unfold State.placed
  dsimp only; split
  · exact keepsAtc_rxWriteFail s _ _ _
  · split
    · exact keepsAtc_rxWriteDone s _ _ _
    · exact (keepsAtc_updRrec s _ _ _).trans (keepsAtc_rxFlush _ _ _)

theorem keepsAtc_xlatFail (x : Rx) : KeepsAtc s (s.xlatFail x) := keepsAtc_rxWriteFail (s.bump _) x _ _

theorem keepsAtc_placeWrite (x : Rx) (t : Target) : KeepsAtc s (s.placeWrite x t) := by
  unfold State.placeWrite
  dsimp only
  refine KeepsAtc.trans ?_ (keepsAtc_placed _ _ _ _)
  refine KeepsAtc.trans (accesses_storeRuns s t.inst t.clu t.space
    (.rx x.pkt.src x.pkt.msg x.pkt.idx (winOf x.pkt)) t.runs x.pkt.payload).keepsAtc (.of_eq ?_)
  split
  · rfl
  · split <;> rfl

end Windows

/-! ## Updates of windows -/

section Updates

theorem keepsAtc_residue (a n per : Nat) (checked : Bool) (upset : Mismatch) :
    KeepsAtc s (s.residue a n per checked upset).2 := by
  have hspent (hit : Option (Nat × Bool)) : KeepsAtc s (if hit.isSome then { s with armed := none } else s) := by
    split
    · exact .of_eq rfl
    · exact .refl s
  unfold State.residue
  dsimp only; split
  · exact hspent _
  · split
    · exact hspent _
    · exact hspent _

theorem keepsAtc_accPasses (a per k n : Nat) (upset : Mismatch) : KeepsAtc s (s.accPasses a per k n upset).2 := by
  induction k generalizing s n upset with
  | zero => exact .refl s
  | succ k ih =>
    have hpass := keepsAtc_residue s a (min per n) per true upset
    rw [State.accPasses]
    split
    · exact .refl s
    · dsimp only; split
      · exact hpass
      · exact hpass.trans (ih _ _ _)

theorem keepsAtc_moveJob (j : Job) : KeepsAtc s (s.moveJob j) := by
  unfold State.moveJob
  dsimp only; split
  · exact KeepsAtc.trans (.of_eq rfl) (runs_failSeg { s with jobs := s.jobs.erase j } _ _ _).keepsAtc
  · exact .of_eq rfl

theorem keepsAtc_logFence (a lane : Nat) (tag : BitVec 24) (inst : BitVec 8) : KeepsAtc s (s.logFence a lane tag inst) := by
  unfold State.logFence
  split
  · exact .refl s
  · exact .of_eq (setReg_atc s _ _)

theorem keepsAtc_fenceLane (a lane : Nat) (tag : BitVec 24) (inst : BitVec 8) : KeepsAtc s (s.fenceLane a lane tag inst) := by
  have hlog := keepsAtc_logFence s a lane tag inst
  unfold State.fenceLane
  dsimp only; split
  · have hmoved (t : State) (l : List Job) : KeepsAtc t (l.foldl State.moveJob t) :=
      .foldl id State.moveJob l t fun t j => keepsAtc_moveJob t j
    exact hlog.trans (hmoved (State.setFld _ _ _ _ _) _)
  · exact hlog

theorem keepsAtc_accRun (p : Packet) (upset : Mismatch) (old : List Byte) : KeepsAtc s (s.accRun p upset old).2 := by
  unfold State.accRun
  dsimp only; split
  · rename_i a f g _ _ _
    have hpasses := keepsAtc_accPasses s a (perPass (max (classBits f) (classBits g))) (accCount f p.payload.length + 1)
      (accCount f p.payload.length) upset
    split
    · dsimp only; split
      · exact hpasses.trans (keepsAtc_fenceLane _ _ _ _ _)
      · exact hpasses
    · exact hpasses
  · exact .refl s

theorem keepsAtc_readRuns (i : BitVec 8) (clu space : Nat) (rs : List (Word × Nat)) :
    KeepsAtc s (s.readRuns i clu space rs).2.2 := by
  unfold State.readRuns
  refine .foldl (fun acc : List Byte × Bool × State => acc.2.2) _ _ ([], false, s) fun acc r => ?_
  dsimp only
  cases acc.2.2.locOf i clu space r.1 with
  | mem a => exact (accesses_readMem _ i a r.2).keepsAtc
  | tmem a => exact .refl _
  | nbuf a => exact .refl _

theorem keepsAtc_writeRuns (i : BitVec 8) (clu space : Nat) (rs : List (Word × Nat)) (bs : List Byte) :
    KeepsAtc s (s.writeRuns i clu space rs bs).2 := by
  unfold State.writeRuns
  refine .foldl (fun acc : Bool × List Byte × State => acc.2.2) _ _ (false, bs, s) fun acc r => ?_
  exact (accesses_writeLoc _ _ _ _).keepsAtc

theorem keepsAtc_accInside (x : Rx) (t : Target) (upset : Mismatch) : KeepsAtc s (s.accInside x t upset) := by
  have hread := keepsAtc_readRuns s t.inst t.clu t.space t.runs
  unfold State.accInside
  dsimp only; split
  · exact hread.trans (keepsAtc_rxWriteFail _ _ _ _)
  · have hrun := hread.trans (keepsAtc_accRun (s.readRuns t.inst t.clu t.space t.runs).2.2 x.pkt upset
      (s.readRuns t.inst t.clu t.space t.runs).1)
    split
    · exact hrun.trans (keepsAtc_rxWriteFail _ _ _ _)
    · rename_i bs _
      refine KeepsAtc.trans ?_ (keepsAtc_placed _ _ _ _)
      have hwrite := hrun.trans (keepsAtc_writeRuns _ t.inst t.clu t.space t.runs bs)
      split
      · exact hwrite
      · exact hwrite

theorem keepsAtc_accNext : KeepsAtc s s.accNext := by
  unfold State.accNext
  split
  · exact .refl s
  · split
    · exact .refl s
    · split
      · exact .of_eq rfl
      · exact .refl s

theorem keepsAtc_placeAcc (x : Rx) (t : Target) (upset : Mismatch) (keys : List XKey) :
    KeepsAtc s (s.placeAcc x t upset keys) := by
  unfold State.placeAcc
  dsimp only; split
  · exact keepsAtc_placed (s.bump _) x false 0
  · split
    · exact KeepsAtc.trans (.of_eq rfl) (keepsAtc_accNext _)
    · split
      · exact keepsAtc_accInside s x t upset
      · exact KeepsAtc.trans (.of_eq rfl) (records_askLines _ _).keepsAtc

theorem keepsAtc_place (x : Rx) (upset : Mismatch) (keys : List XKey) : KeepsAtc s (s.place x upset keys) := by
  unfold State.place
  split
  · exact keepsAtc_rxWriteDone s _ _ _
  · split
    · exact keepsAtc_placeAcc s x _ upset keys
    · exact keepsAtc_placeWrite s x _

end Updates

/-! ## Reads of windows -/

section Reads

theorem keepsAtc_readStart (x : Rx) (keys : List XKey) : KeepsAtc s (s.readStart x keys) := by
  unfold State.readStart
  dsimp only; split
  · exact keepsAtc_winLeave s _
  · refine KeepsAtc.trans (t := { s with fresh := s.fresh + 1 }) (.of_eq rfl) ?_
    refine .foldl id _ _ _ fun t i => ?_
    dsimp only [id]
    split
    · exact .of_eq rfl
    · exact .of_eq rfl

theorem keepsAtc_readFail (x : Rx) (st : Status) : KeepsAtc s (s.readFail x st) :=
  (keepsAtc_nack s x st).trans (keepsAtc_winLeave _ _)

theorem keepsAtc_readGo (x : Rx) : KeepsAtc s (s.readGo x) := by
  unfold State.readGo
  dsimp only; split
  · exact keepsAtc_readFail (s.bump _) x _
  · have hlook := (records_segLookup s (s.targetKeys (s.readTarget x.pkt) false true)).keepsAtc
    split
    · exact hlook.trans (keepsAtc_readFail (State.bump _ _) x _)
    · split
      · exact hlook.trans (keepsAtc_readStart _ _ _)
      · exact hlook

end Reads

/-! ## Packets that wait for a translation -/

section Parked

theorem keepsAtc_parkedGo (q : Parked) : KeepsAtc s (s.parkedGo q) := by
  unfold State.parkedGo
  dsimp only; split
  · exact keepsAtc_readGo s _
  · split
    · exact keepsAtc_rxWriteDone s _ _ _
    · split
      · exact keepsAtc_rxWriteDone s _ _ _
      · split
        · exact keepsAtc_xlatFail s _
        · exact keepsAtc_place s _ _ _

theorem keepsAtc_parkedFail (q : Parked) : KeepsAtc s (s.parkedFail q) := by
  unfold State.parkedFail
  split
  · exact keepsAtc_readFail (s.bump _) _ _
  · exact keepsAtc_xlatFail s _

theorem keepsAtc_parkedTranslated (k : XKey) (ok : Bool) : KeepsAtc s (s.parkedTranslated k ok) := by
  unfold State.parkedTranslated
  refine .foldl id _ _ s fun t q => ?_
  have hout : KeepsAtc t { t with parked := t.parked.erase q } := .of_eq rfl
  dsimp only [id]
  split
  · split
    · exact .refl t
    · split
      · exact hout.trans (keepsAtc_parkedFail _ q)
      · split
        · exact hout.trans (keepsAtc_parkedGo _ q)
        · exact .of_eq rfl
  · exact .refl t

theorem keepsAtc_enginesAbsent (k : XKey) : KeepsAtc s (s.enginesAbsent k) := by
  have hring (t : State) (r : Nat) : KeepsAtc t (t.ringAbsent k r) := by
    unfold State.ringAbsent State.ringError
    dsimp only; split
    · split
      · exact .refl t
      · exact KeepsAtc.trans (.of_eq rfl) (records_record _ _).keepsAtc
    · exact .refl t
  have hqueue (t : State) (q : Nat) : KeepsAtc t (t.fqAbsent k q) := by
    unfold State.fqAbsent
    split
    · exact .of_eq rfl
    · exact .refl t
  exact (KeepsAtc.foldl id (fun t r => t.ringAbsent k r) _ s hring).trans
    (KeepsAtc.foldl id (fun t q => t.fqAbsent k q) _ _ hqueue)

end Parked

end Sys2Proof.Proofs
end

section
/-!
PROOF. Answers to page requests and translation requests, and invalidations (R60, R65, R323 to R325).
-/

namespace Sys2Proof.Proofs

open Sys2Proof.Machine Sys2Proof.Laws Sys2Proof.Claims

/-! ## Page responses (R64, R65, R325) -/

section Pages

variable {s : State}

theorem sendPage_cnt (s : State) (id : Nat) : (s.sendPage id).reg (Reg.XLT_CNT 4) = s.reg (Reg.XLT_CNT 4) := by
  unfold State.sendPage
  split
  · rfl
  · split
    · rw [reg_bump, if_neg (by decide)]; rfl
    · rfl

/-- Requests that are sent are no failures: they count elsewhere (R325). -/
theorem flushPages_cnt (s : State) : s.flushPages.reg (Reg.XLT_CNT 4) = s.reg (Reg.XLT_CNT 4) :=
  List.foldlRecOn (motive := fun t : State => t.reg (Reg.XLT_CNT 4) = s.reg (Reg.XLT_CNT 4)) _ State.sendPage rfl
    fun t h id _ => (sendPage_cnt t id).trans h

theorem flushPages_op? (s : State) (op : Nat) : s.flushPages.op? op = s.op? op :=
  congrArg (List.find? _) (congrArg State.ops (accesses_flushPages s).frame :)

theorem flushPages_priStop (s : State) : s.flushPages.priStop = s.priStop :=
  (congrArg State.priStop (accesses_flushPages s).frame :)

/-- The operation `op` under a change of operation `op'` that keeps handles. -/
theorem op?_updOp_map {op' : Nat} {f : Op → Op} (hf : ∀ o, (f o).id = o.id) (op : Nat) :
    (s.updOp op' f).op? op = (s.op? op).map (fun o => if o.id = op' then f o else o) := by
  have hid (o : Op) : (if o.id = op' then f o else o).id = o.id := by
    split
    · exact hf o
    · rfl
  rw [State.op?, State.updOp, List.find?_map]
  simp only [Function.comp_def, hid]
  rfl

/-- The operation after its page request was refused. -/
def refusedOp (o : Op) : Op := if o.held then { o.failed St.translationFault with held := false } else o

theorem refusedOp_id (o : Op) : (refusedOp o).id = o.id := by
  unfold refusedOp
  split <;> rfl

/-- A held operation without a failure ends with TRANSLATION_FAULT. -/
def EndedFault (s : State) (op : Nat) : Prop :=
  ∃ o, s.op? op = some o ∧ o.status = St.translationFault ∧ o.held = false

theorem endedFault_refused {op : Nat} {o : Op} (ho : s.op? op = some o) (hheld : o.held = true) (hst : o.status = 0) :
    EndedFault (s.refused op) op := by
  refine ⟨refusedOp o, ?_, ?_, ?_⟩
  · exact op?_updOp ho refusedOp refusedOp_id
  · rw [refusedOp, if_pos hheld]
    exact if_pos hst
  · rw [refusedOp, if_pos hheld]

/-- What has ended stays so when other requests are refused. -/
theorem EndedFault.refused {op : Nat} (h : EndedFault s op) (op' : Nat) : EndedFault (s.refused op') op := by
  obtain ⟨o, ho, hst, hheld⟩ := h
  have hsame : (if o.id = op' then refusedOp o else o) = o := by
    rw [refusedOp, hheld, if_neg Bool.false_ne_true, ite_self]
  refine ⟨o, ?_, hst, hheld⟩
  have hmap : (s.refused op').op? op = (s.op? op).map (fun o => if o.id = op' then refusedOp o else o) :=
    op?_updOp_map refusedOp_id op
  rw [hmap, ho, Option.map_some, hsame]

theorem EndedFault.flushPages {op : Nat} (h : EndedFault s op) : EndedFault s.flushPages op := by
  rw [EndedFault, flushPages_op?]
  exact h

theorem refused_foldl_regs (l : List Nat) (s : State) : (l.foldl State.refused s).regs = s.regs :=
  List.foldlRecOn (motive := fun t : State => t.regs = s.regs) l State.refused rfl fun _ h _ _ => h

theorem refused_foldl_ended (l : List Nat) {op : Nat} (h : EndedFault s op) : EndedFault (l.foldl State.refused s) op :=
  List.foldlRecOn (motive := fun t : State => EndedFault t op) l State.refused h fun _ h op' _ => EndedFault.refused h op'

theorem runs_refused (s : State) (op : Nat) : Runs s (s.refused op) :=
  runs_updOp s op fun o => by dsimp only; split <;> rfl

theorem runs_reissue (s : State) (op : Nat) : Runs s (s.reissue op) := by
  unfold State.reissue
  split
  · exact .refl s
  · split
    · exact .refl s
    · refine Changes.trans (runs_updOp s op ?_) (runs_startSegs _ op)
      exact fun _ => rfl

/-- The request that is answered. -/
def answered (s : State) (id : Nat) : State := { s with pages := s.pages.filter (fun x => x.id ≠ id) }

/-- A request that was answered is gone, and no new one takes its handle. -/
theorem Changes.gone {except : State → State} {t : State} {id : Nat} (h : Changes except (answered s id) t)
    (hid : id < s.fresh) : ∀ q ∈ t.pages, q.id ≠ id := by
  intro q hq
  obtain hnew | ⟨p, hp, hpq⟩ := h.pages q hq
  · have hfresh : s.fresh ≤ q.id := hnew
    omega
  · rw [← hpq]
    exact of_decide_eq_true (List.mem_filter.mp hp).2

variable {port : Port} {id : Nat} {r : PageReq}

theorem pageResponse_success (h : s.pages.find? (fun q => q.id = id ∧ q.sent ∧ q.key.port = port) = some r) :
    s.pageResponse port id .success = ((answered s id).reissue r.op).flushPages := by
  simp only [State.pageResponse, h]
  rfl

theorem pageResponse_invalid (h : s.pages.find? (fun q => q.id = id ∧ q.sent ∧ q.key.port = port) = some r) :
    s.pageResponse port id .invalid = (((answered s id).bump (Reg.XLT_CNT 4)).refused r.op).flushPages := by
  simp only [State.pageResponse, h]
  rfl

/-- A function that requests no pages any more: those of its requests that were not sent are gone. -/
def stopFn (s : State) (port : Port) (fn : BitVec 8) : State :=
  { s with
    pages := s.pages.filter (fun x => !(x.key.port == port && x.key.fn == fn) || x.sent)
    priStop := if s.priStop.contains (port, fn) then s.priStop else s.priStop ++ [(port, fn)] }

theorem mem_stopFn (s : State) (port : Port) (fn : BitVec 8) : (port, fn) ∈ (stopFn s port fn).priStop := by
  unfold stopFn
  dsimp only; split
  · exact List.contains_iff_mem.mp ‹_›
  · exact List.mem_append_right _ (List.mem_singleton_self _)

/-- A failure refuses the request's operation and those of every other request of the function, and stops the function's
requests. -/
theorem pageResponse_failure (h : s.pages.find? (fun q => q.id = id ∧ q.sent ∧ q.key.port = port) = some r) :
    ∃ l : List Nat, s.pageResponse port id .failure =
      (stopFn (l.foldl State.refused (((answered s id).bump (Reg.XLT_CNT 4)).refused r.op)) port r.key.fn).flushPages := by
  refine ⟨((answered s id).pages.filter (fun x => x.key.port == port && x.key.fn == r.key.fn)).map (·.op), ?_⟩
  simp only [State.pageResponse, h, List.foldl_cons]
  rfl

end Pages

/-! ## Translation responses (R322, R323) -/

section Translations

theorem runs_segTranslated (s : State) (op g : Nat) (k : XKey) : Runs s (s.segTranslated op g k) := by
  unfold State.segTranslated
  split
  · exact .refl s
  · split
    · exact .refl s
    · dsimp only; split
      · exact runs_pageFault s _ _ _
      · split
        · exact (runs_updSeg s _ _ _).trans (runs_goSeg _ _ _)
        · exact runs_updSeg s _ _ _

theorem runs_segsTranslated (s : State) (k : XKey) : Runs s (s.segsTranslated k) :=
  .foldl id _ _ s fun _ _ => runs_segTranslated _ _ _ k

variable {s : State} {k : XKey}

/-- A page that is present enters the cache. -/
theorem atsAnswer_present (hk : k ∈ s.xlating) {n : Nat} (hlow : 12 ≤ n) (hhigh : n ≤ 30) (rd wr : Bool) (phys : Word) :
    (⟨k, n, rd, wr, phys⟩ : Atc) ∈ (s.atsAnswer k (.present n rd wr phys)).atc := by
  have hasked : ¬ (!s.xlating.contains k) = true := by simpa using hk
  have hsize : ¬ (n < 12 ∨ 30 < n) := by omega
  rw [State.atsAnswer, if_neg hasked]
  dsimp only
  rw [if_neg hsize]
  refine ((runs_segsTranslated _ k).keepsAtc.trans (keepsAtc_parkedTranslated _ k true) _).mpr ?_
  rw [State.fillAtc]
  exact List.mem_append_right _ (List.mem_singleton_self _)

/-- A refusal adds nothing to the cache. -/
theorem atsAnswer_absent (hk : k ∈ s.xlating) (e : Atc) : e ∈ (s.atsAnswer k .absent).atc ↔ e ∈ s.atc := by
  have hasked : ¬ (!s.xlating.contains k) = true := by simpa using hk
  have hended : KeepsAtc s { s with xlating := s.xlating.filter (· ≠ k) } := .of_eq rfl
  rw [State.atsAnswer, if_neg hasked]
  exact (((hended.trans (runs_segsTranslated _ k).keepsAtc).trans (keepsAtc_parkedTranslated _ k false)).trans
    (keepsAtc_enginesAbsent _ k)) e

end Translations

theorem translationAnswers : TranslationAnswers := by
  intro s hs
  refine ⟨fun port id r hr hfresh => ?_, fun port fn pasid page hk => ⟨fun n rd wr phys hlow hhigh => ?_, ?_⟩⟩
  · have hexec (code : PageCode) : exec (.pageResponse port id code) s = .next (s.pageResponse port id code) := by
      change execPageResponse port id code s = _
      rw [execPageResponse, if_pos hs]
    have hid : id < s.fresh := by
      obtain ⟨hrid, -⟩ : r.id = id ∧ _ := by simpa using List.find?_some hr
      exact hrid ▸ hfresh r (List.mem_of_find?_eq_some hr)
    have hended {o : Op} (ho : s.op? r.op = some o) (hheld : o.held = true) (hst : o.status = 0) :
        EndedFault (((answered s id).bump (Reg.XLT_CNT 4)).refused r.op) r.op := endedFault_refused ho hheld hst
    have hcount (t : State) (ht : t.regs = ((answered s id).bump (Reg.XLT_CNT 4)).regs) :
        Counts s t.flushPages (Reg.XLT_CNT 4) 1 := by
      have hreg : t.reg (Reg.XLT_CNT 4) = ((answered s id).bump (Reg.XLT_CNT 4)).reg (Reg.XLT_CNT 4) := by
        rw [State.reg, State.reg, ht]
      rw [Counts, flushPages_cnt, hreg, reg_bump, if_pos rfl]
      rfl
    refine ⟨⟨_, hexec .success, ?_⟩, ⟨_, hexec .invalid, ?_⟩, ⟨_, hexec .failure, ?_⟩⟩
    · rw [pageResponse_success hr]
      exact ((runs_reissue _ r.op).trans (accesses_flushPages _).runs).gone hid
    · rw [pageResponse_invalid hr]
      refine ⟨?_, hcount _ rfl, fun o ho hheld hst => EndedFault.flushPages (hended ho hheld hst)⟩
      have hcounted : Runs (answered s id) ((answered s id).bump (Reg.XLT_CNT 4)) :=
        (records_bump _ (by unfold NebulaReg Reg.XLT_CNT; omega)).accesses.runs
      exact ((hcounted.trans (runs_refused _ r.op)).trans (accesses_flushPages _).runs).gone hid
    · obtain ⟨l, heq⟩ := pageResponse_failure hr
      rw [heq]
      refine ⟨?_, hcount _ (refused_foldl_regs l _), fun o ho hheld hst => EndedFault.flushPages ?_⟩
      · rw [flushPages_priStop]; exact mem_stopFn _ _ _
      · exact refused_foldl_ended l (hended ho hheld hst)
  all_goals
    have hexec (ans : AtsAnswer) : exec (.atsTranslationResponse port fn pasid page ans) s
        = .next (s.atsAnswer ⟨port, fn, pasid, page⟩ ans) := by
      change execAtsTranslationResponse port fn pasid page ans s = _
      rw [execAtsTranslationResponse, if_pos hs]
  · exact ⟨_, hexec _, atsAnswer_present hk hlow hhigh rd wr phys⟩
  · exact ⟨_, hexec _, fun e he => (atsAnswer_absent hk e).mp he⟩

/-! ## Invalidations (R60, R324) -/

theorem invalidations : Invalidations := by
  intro s hs
  refine ⟨fun port fn pasid base size hroom => ?_, fun port fn pasid base size hfull => ?_,
    fun id v hv => ⟨fun hidle => ?_, fun hbusy => ?_⟩⟩
  · have hexec : exec (.atsInvalidation port fn pasid base size) s = .next (s.invalidate port fn pasid base size) := by
      change execAtsInvalidation port fn pasid base size s = _
      rw [execAtsInvalidation, hs, hroom, Bool.and_self, if_pos rfl]
    have hreg (a : Nat) : (s.invalidate port fn pasid base size).reg a = (s.bump (Reg.XLT_CNT 2)).reg a := rfl
    refine ⟨_, hexec, fun e => ?_, ?_, fun a ha => ?_, ⟨_, rfl, rfl, rfl, rfl⟩, rfl⟩
    · rw [State.invalidate, List.mem_filter, Bool.not_eq_true']
    · rw [Counts, hreg, reg_bump, if_pos rfl]; rfl
    · rw [hreg, reg_bump, if_neg (by simpa using ha)]
  · change execAtsInvalidation port fn pasid base size s = _
    rw [execAtsInvalidation, hfull, Bool.and_false, if_neg Bool.false_ne_true]
  all_goals
    have hexec : exec (.invalidationComplete id) s = .next (s.invalDone id) := by
      change execInvalidationComplete id s = _
      rw [execInvalidationComplete, if_pos hs]
    rw [hexec]
    simp only [State.invalDone, hv]
  · rw [hidle, if_neg Bool.false_ne_true]
    exact ⟨_, rfl, fun x => by rw [emit_invals, List.mem_filter, decide_eq_true_eq], rfl, rfl⟩
  · rw [hbusy, if_pos rfl]

/-- Settles O15, from what answers and invalidations do to the requests and to the cache. -/
theorem translationEvents : Obligations.TranslationEvents := ⟨translationAnswers, invalidations⟩

end Sys2Proof.Proofs
end

section
/-!
PROOF. Instructions that work on the registers of their slot alone (R77 to R80, R100): what a write of a register leaves alone,
what an instruction that retires leaves in its slot, and what each instruction writes.
-/

namespace Sys2Proof.Proofs

open Sys2Proof.Machine Sys2Proof.Laws Sys2Proof.Claims

/-! ## Writes of a slot's registers (R30) -/

section Registers

variable (x : Slot)

theorem setSlotS_frame (n : Nat) (v : Word) : { setSlotS x n v with sregs := [] } = { x with sregs := [] } := by
  unfold setSlotS
  split <;> rfl

theorem setSlotP_frame (n : Nat) (b : Bool) : { setSlotP x n b with preds := 0 } = { x with preds := 0 } := by
  unfold setSlotP
  split <;> rfl

/-- A scalar register reads as written, but for s0; every other one as before. -/
theorem slotS_setSlotS (n m : Nat) (v : Word) :
    slotS (setSlotS x n v) m = if m = n then (if n = 0 then 0 else v) else slotS x m := by
  unfold setSlotS slotS
  by_cases hm : m = 0 <;> by_cases hn : n = 0 <;> simp [hm, hn, tget_tset, Ne.symm]

/-- The register that a field names, after a write to it. -/
theorem slotS_setSlotS_field (a : BitVec 8) (v : Word) : slotS (setSlotS x a.toNat v) a.toNat = if a = 0 then 0 else v := by
  rw [slotS_setSlotS, if_pos rfl]
  simp only [← BitVec.toNat_inj, BitVec.toNat_ofNat, Nat.zero_mod, BitVec.ofNat_eq_ofNat]

theorem preds_setSlotP {n : Nat} (hn : n < 8) (h0 : n ≠ 0) (m : Nat) (b : Bool) :
    (setSlotP x n b).preds.getLsbD m = if m = n then b else x.preds.getLsbD m := by
  have hbit : (BitVec.ofNat 8 (2 ^ n)).getLsbD m = decide (m = n) := by
    rw [BitVec.getLsbD_ofNat, Nat.testBit_two_pow, Bool.eq_iff_iff, Bool.and_eq_true, decide_eq_true_eq, decide_eq_true_eq,
      decide_eq_true_eq]
    omega
  have hkeep : (x.preds.getLsbD m && decide (m < 8)) = x.preds.getLsbD m := by
    rw [Bool.and_eq_left_iff_imp, decide_eq_true_eq]
    exact fun h => BitVec.lt_of_getLsbD h
  rw [setSlotP, if_neg h0]
  cases b with
  | false =>
    change (x.preds &&& ~~~(BitVec.ofNat 8 (2 ^ n))).getLsbD m = _
    rw [BitVec.getLsbD_and, BitVec.getLsbD_not, hbit, ← Bool.and_assoc, hkeep]
    by_cases hm : m = n <;> simp [hm]
  | true =>
    change (x.preds ||| BitVec.ofNat 8 (2 ^ n)).getLsbD m = _
    rw [BitVec.getLsbD_or, hbit]
    by_cases hm : m = n <;> simp [hm]

/-- A predicate reads as written, but for p0; every other one as before. -/
theorem slotP_setSlotP {n : Nat} (hn : n < 8) (m : Nat) (b : Bool) :
    slotP (setSlotP x n b) m = if m = n then (n = 0 || b) else slotP x m := by
  by_cases h0 : n = 0
  · rw [setSlotP, if_pos h0]
    by_cases hm : m = n <;> simp [hm, h0, slotP]
  · rw [slotP, preds_setSlotP x hn h0]
    by_cases hm : m = n <;> simp [hm, h0, slotP]

theorem valT_setT_self (a : BitVec 8) (d : TDesc) : valT (setT x a d) a = d := tget_tset_self ..

theorem valT_setT_ne {a b : BitVec 8} (ha : isT a = true) (hb : isT b = true) (hne : b ≠ a) (d : TDesc) :
    valT (setT x a d) b = valT x b := by
  refine tget_tset_ne _ _ _ _ _ fun h => hne (BitVec.eq_of_toNat_eq ?_)
  simp only [isT, Bool.and_eq_true, decide_eq_true_eq] at ha hb
  omega

end Registers

/-! ## Retirement with a change of the slot -/

section Retired

variable {s : State} {sl : Fin 32} {op : BitVec 8} {w : JWord} {enc : Slot → Bool} {f : Slot → Slot}

theorem slot_retireTo_updSlot (pc : Nat) : ((s.updSlot sl f).retireTo sl pc).slot sl =
    { f (s.slot sl) with pc := pc, wait := none, progress := s.ps, ahead := (f (s.slot sl)).ahead.tail } := by
  rw [slot_retireTo, slot_updSlot_self]; rfl

theorem slotS_retireTo_updSlot (pc n : Nat) :
    slotS (((s.updSlot sl f).retireTo sl pc).slot sl) n = slotS (f (s.slot sl)) n := by
  rw [slot_retireTo_updSlot]; rfl

/-- A change of the slot that keeps the entries of its issue queue retires with the instruction. -/
theorem retires_updSlot (hahead : (f (s.slot sl)).ahead = (s.slot sl).ahead) (pc : Nat) :
    Retires s ((s.updSlot sl f).retireTo sl pc) sl pc := by
  obtain ⟨hpc, hwait, htail, hothers, hcount, hregs, hframe⟩ := retires_retireTo (s.updSlot sl f) sl pc
  refine ⟨hpc, hwait, ?_, fun i hi => ?_, hcount, hregs, hframe⟩
  · rw [htail, slot_updSlot_self, hahead]
  · rw [hothers i hi, slot_updSlot, if_neg hi]

theorem goesTo_retireTo (s : State) (sl : Fin 32) (pc : Nat) : GoesTo s sl pc (.next (s.retireTo sl pc)) :=
  ⟨_, rfl, retires_retireTo s sl pc, by rw [slot_retireTo]; rfl⟩

theorem issueReg_ready (h : Ready s sl op w) (henc : enc (s.slot sl) = true) (hpc : (f (s.slot sl)).pc = (s.slot sl).pc) :
    s.issueReg op sl w enc f = (s.updSlot sl f).retireTo sl ((s.slot sl).pc + 1) := by
  rw [State.issueReg, issue_ready h henc, State.retire, slot_updSlot_self, hpc]

theorem writesS_issueReg {a : BitVec 8} {v : Word} (h : Ready s sl op w) (henc : enc (s.slot sl) = true)
    (hf : f (s.slot sl) = setSlotS (s.slot sl) a.toNat v) : WritesS s sl a v (.next (s.issueReg op sl w enc f)) := by
  have hframe := setSlotS_frame (s.slot sl) a.toNat v
  rw [← hf] at hframe
  refine ⟨_, congrArg _ (issueReg_ready h henc (congrArg Slot.pc hframe :)), retires_updSlot (congrArg Slot.ahead hframe :) _,
    ?_, fun n hn => ?_, ?_⟩
  · rw [slotS_retireTo_updSlot, hf, slotS_setSlotS_field]
  · rw [slotS_retireTo_updSlot, hf, slotS_setSlotS, if_neg hn]
  · rw [slot_retireTo_updSlot]
    exact (congrArg butS hframe :)

theorem writesP_issueReg {a : BitVec 8} {v : Bool} (h : Ready s sl op w) (henc : enc (s.slot sl) = true) (ha : isP a = true)
    (hf : f (s.slot sl) = setSlotP (s.slot sl) (a.toNat - 0x30) v) : WritesP s sl a v (.next (s.issueReg op sl w enc f)) := by
  simp only [isP, Bool.and_eq_true, decide_eq_true_eq] at ha
  have hframe := setSlotP_frame (s.slot sl) (a.toNat - 0x30) v
  have hread (b : BitVec 8) : valP (((s.updSlot sl f).retireTo sl ((s.slot sl).pc + 1)).slot sl) b =
      slotP (setSlotP (s.slot sl) (a.toNat - 0x30) v) (b.toNat - 0x30) := by
    rw [slot_retireTo_updSlot, ← hf]; rfl
  rw [← hf] at hframe
  refine ⟨_, congrArg _ (issueReg_ready h henc (congrArg Slot.pc hframe :)), retires_updSlot (congrArg Slot.ahead hframe :) _,
    ?_, fun b hb hne => ?_, ?_⟩
  · have hzero : a.toNat - 0x30 = 0 ↔ a = 0x30 := by
      rw [← BitVec.toNat_inj, show (0x30 : BitVec 8).toNat = 0x30 from rfl]; omega
    rw [hread, slotP_setSlotP _ (by omega), if_pos rfl, decide_eq_decide.mpr hzero]
  · simp only [isP, Bool.and_eq_true, decide_eq_true_eq] at hb
    rw [hread, slotP_setSlotP _ (by omega), if_neg fun h => hne (BitVec.eq_of_toNat_eq (by omega))]
    rfl
  · rw [slot_retireTo_updSlot]
    exact (congrArg butP hframe :)

theorem writesT_issueReg {a : BitVec 8} {d : TDesc} (h : Ready s sl op w) (henc : enc (s.slot sl) = true) (ha : isT a = true)
    (hf : f (s.slot sl) = setT (s.slot sl) a d) : WritesT s sl a d (.next (s.issueReg op sl w enc f)) := by
  have hread (b : BitVec 8) : valT (((s.updSlot sl f).retireTo sl ((s.slot sl).pc + 1)).slot sl) b =
      valT (setT (s.slot sl) a d) b := by
    rw [slot_retireTo_updSlot, ← hf]; rfl
  refine ⟨_, congrArg _ (issueReg_ready h henc (by rw [hf]; rfl)), retires_updSlot (by rw [hf]; rfl) _,
    ?_, fun b hb hne => ?_, ?_⟩
  · rw [hread, valT_setT_self]
  · rw [hread, valT_setT_ne _ ha hb hne]
  · rw [slot_retireTo_updSlot, hf]; rfl

end Retired

/-! ## ALU instructions (R77) -/

section Alu

variable (b c : Word)

theorem alu_add : alu .add b c = BitVec.ofNat 64 (b.toNat + c.toNat) := by
  simp [alu, BitVec.ofNat_add]

theorem alu_sub : alu .sub b c = BitVec.ofInt 64 ((b.toNat : Int) - c.toNat) := by
  apply BitVec.eq_of_toNat_eq
  rw [alu, BitVec.toNat_sub, BitVec.toNat_ofInt]
  have hb := b.isLt
  have hc := c.isLt
  omega

theorem alu_mul : alu .mul b c = BitVec.ofNat 64 (b.toNat * c.toNat) := by
  simp [alu, BitVec.ofNat_mul]

theorem alu_shl : alu .shl b c = BitVec.ofNat 64 (b.toNat * 2 ^ (c.toNat % 64)) := by
  apply BitVec.eq_of_toNat_eq
  rw [alu, BitVec.toNat_shiftLeft, BitVec.toNat_ofNat, Nat.shiftLeft_eq]

theorem alu_shr : alu .shr b c = BitVec.ofNat 64 (b.toNat / 2 ^ (c.toNat % 64)) := by
  apply BitVec.eq_of_toNat_eq
  rw [alu, BitVec.toNat_ushiftRight, BitVec.toNat_ofNat, Nat.shiftRight_eq_div_pow,
    Nat.mod_eq_of_lt (Nat.lt_of_le_of_lt (Nat.div_le_self ..) b.isLt)]

theorem alu_sra : alu .sra b c = BitVec.ofInt 64 (b.toInt / 2 ^ (c.toNat % 64)) := by
  have h : (alu .sra b c).toInt = b.toInt / 2 ^ (c.toNat % 64) := by
    rw [alu, BitVec.toInt_sshiftRight, Int.shiftRight_eq_div_pow]; norm_cast
  rw [← h, BitVec.ofInt_toInt]

theorem alu_minu : alu .minu b c = BitVec.ofNat 64 (min b.toNat c.toNat) := by
  rw [alu, Nat.min_def, apply_ite (BitVec.ofNat 64), BitVec.ofNat_toNat, BitVec.ofNat_toNat, BitVec.setWidth_eq, BitVec.setWidth_eq]

theorem alu_maxu : alu .maxu b c = BitVec.ofNat 64 (max b.toNat c.toNat) := by
  rw [alu, Nat.max_def, apply_ite (BitVec.ofNat 64), BitVec.ofNat_toNat, BitVec.ofNat_toNat, BitVec.setWidth_eq, BitVec.setWidth_eq]

end Alu

theorem writesS_aluInstr {s : State} {sl : Fin 32} {w : JWord} {o : AluOp} {v : Word} (h : Ready s sl (aluCode o) w)
    (ha : isS w.opa = true) (hb : isX w.opb = true) (hc : w.flags.getLsbD 0 = true ∨ isX w.opc = true)
    (hv : alu o (valX (s.slot sl) w.opb) (aluC (s.slot sl) w) = v) :
    WritesS s sl w.opa v (.next (s.aluInstr o sl w)) := by
  have henc : aluEnc w (s.slot sl) = true := by
    rw [aluEnc, ha, hb, Bool.true_and, Bool.true_and, Bool.or_eq_true]
    exact hc
  exact writesS_issueReg h henc (congrArg (setSlotS (s.slot sl) w.opa.toNat) hv)

/-- Settles O1: each ALU opcode is one register write, whose value is that of the integers. -/
theorem aluResults : Obligations.AluResults := by
  unfold Obligations.AluResults
  intro s sl w ha
  refine ⟨fun h => writesS_issueReg h ha rfl, fun hb hc => ?_⟩
  intro b c
  exact ⟨fun h => writesS_aluInstr (o := .add) h ha hb hc (alu_add b c), fun h => writesS_aluInstr (o := .sub) h ha hb hc (alu_sub b c),
    fun h => writesS_aluInstr (o := .mul) h ha hb hc (alu_mul b c), fun h => writesS_aluInstr (o := .and) h ha hb hc rfl,
    fun h => writesS_aluInstr (o := .or) h ha hb hc rfl, fun h => writesS_aluInstr (o := .xor) h ha hb hc rfl,
    fun h => writesS_aluInstr (o := .shl) h ha hb hc (alu_shl b c), fun h => writesS_aluInstr (o := .shr) h ha hb hc (alu_shr b c),
    fun h => writesS_aluInstr (o := .sra) h ha hb hc (alu_sra b c), fun h => writesS_aluInstr (o := .minu) h ha hb hc (alu_minu b c),
    fun h => writesS_aluInstr (o := .maxu) h ha hb hc (alu_maxu b c)⟩

/-! ## Comparisons and logic (R78, R79) -/

theorem cmpRel_isSome {code : Nat} {b c : Word} {v : Bool} (h : cmpRel code b c = some v) : code < 6 := by
  unfold cmpRel at h
  split at h
  case h_7 => cases h
  all_goals decide

theorem writesP_cmp {s : State} {sl : Fin 32} {w : JWord} {v : Bool} (h : Ready s sl 0x1C w) (ha : isP w.opa = true)
    (hb : isX w.opb = true) (hc : isX w.opc = true)
    (hv : cmpRel (bits w.imm 0 3) (valX (s.slot sl) w.opb) (valX (s.slot sl) w.opc) = some v) :
    WritesP s sl w.opa v (exec (.cmp sl w) s) := by
  refine writesP_issueReg h ?_ ha (by rw [Slot.cmp, hv])
  rw [ha, hb, hc, decide_eq_true (cmpRel_isSome hv)]; rfl

theorem compareResults : CompareResults := by
  intro s sl w ha hb hc h b c
  have hsel {code : Nat} {v : Bool} (hv : cmpRel code b c = some v) (hcode : bits w.imm 0 3 = code) :
      WritesP s sl w.opa v (exec (.cmp sl w) s) := writesP_cmp h ha hb hc (hcode ▸ hv)
  have heq : (b == c) = decide (b = c) := rfl
  have hne : (b != c) = decide (b ≠ c) := by rw [bne, heq, decide_not]
  refine ⟨hsel (congrArg some heq), hsel (congrArg some hne), hsel rfl, hsel rfl, hsel rfl, hsel rfl, fun hcode => ?_⟩
  refine encodingFaults s sl 0x1C w h.1 ?_
  change (isP w.opa && isX w.opb && isX w.opc && decide (bits w.imm 0 3 < 6)) = false
  rw [decide_eq_false (by omega), Bool.and_false]

theorem predicateLogic : PredicateLogic := by
  intro s sl w ha hb hc h b c
  have hsel {code : Nat} (hcode : bits w.imm 0 2 = code) : WritesP s sl w.opa (plogFn code b c) (exec (.plog sl w) s) := by
    refine writesP_issueReg h ?_ ha (by rw [Slot.plog, hcode])
    rw [ha, hb, hc]; rfl
  have hxor : plogFn 2 b c = (b ^^ c) := congrFun₂ Bool.bne_eq_xor b c
  exact ⟨hsel, hsel, fun hcode => hxor ▸ hsel hcode, hsel⟩

/-- Settles O2, from the one predicate that CMP and PLOG write. -/
theorem predicateResults : Obligations.PredicateResults := ⟨compareResults, predicateLogic⟩

/-! ## Values and marks (R80, R100) -/

theorem getsValues : GetsValues := by
  intro s sl w ha h x
  have hsel {code : Nat} {v : Word} (hcode : bits w.imm 0 4 = code) (hlt : code < 6) (hv : s.getsValue sl x code = v) :
      WritesS s sl w.opa v (exec (.gets sl w) s) := by
    refine writesS_issueReg h ?_ (by rw [hcode, hv])
    rw [ha, hcode, decide_eq_true hlt]; rfl
  have hme : s.getsValue sl x 0 = BitVec.ofNat 64 (s.fld Reg.FAB_ID 0 16) :=
    congrArg (BitVec.ofNat 64) (Nat.mod_eq_of_lt (Nat.mod_lt _ (by decide)))
  refine ⟨fun hc => hsel hc (by decide) hme, fun hc => hsel hc (by decide) rfl, fun hc => hsel hc (by decide) (BitVec.ofNat_toNat ..),
    fun hc => hsel hc (by decide) (BitVec.ofNat_toNat ..), fun hc => hsel hc (by decide) (BitVec.ofNat_toNat ..),
    fun hc => hsel hc (by decide) rfl, fun hc => ?_⟩
  refine encodingFaults s sl 0x1E w h.1 ?_
  change (isS w.opa && decide (bits w.imm 0 4 < 6)) = false
  rw [decide_eq_false (by omega), Bool.and_false]

/-- A bit field read as a bit vector. -/
theorem ofNat_bits (v : Word) (lo n : Nat) : BitVec.ofNat n (bits v lo n) = v.extractLsb' lo n := by
  apply BitVec.eq_of_toNat_eq
  rw [BitVec.toNat_ofNat, bits, Nat.mod_mod, BitVec.extractLsb'_toNat]

theorem traceMark_frame (s : State) (sl : Nat) : { s.traceMark sl with regs := [], comet := State.reset.comet } =
    { s with regs := [], comet := State.reset.comet } := by
  unfold State.traceMark State.stage
  split
  · split <;> rfl
  · rfl

theorem slot_traceMark (s : State) (sl i : Nat) : (s.traceMark sl).slot i = s.slot i :=
  congrArg (tget Slot.init · i) (congrArg State.slots (traceMark_frame s sl) :)

/-- The state after a MARK. -/
def marked (s : State) (sl : Nat) (w : JWord) : State := ((s.updSlot sl (·.mark w)).traceMark sl).retire sl

theorem marked_frame (s : State) (sl : Nat) (w : JWord) :
    { marked s sl w with slots := [], regs := [], comet := State.reset.comet } =
      { s with slots := [], regs := [], comet := State.reset.comet } := by
  have hret := congrArg (fun t : State => { t with comet := State.reset.comet })
    (retireTo_frame ((s.updSlot sl (·.mark w)).traceMark sl) sl ((((s.updSlot sl (·.mark w)).traceMark sl).slot sl).pc + 1))
  exact hret.trans (congrArg (fun t : State => { t with slots := [] }) (traceMark_frame (s.updSlot sl (·.mark w)) sl))

theorem slot_marked (s : State) (sl : Nat) (w : JWord) : ∃ p, (marked s sl w).slot sl =
    { (s.slot sl).mark w with pc := (s.slot sl).pc + 1, wait := none, progress := p, ahead := (s.slot sl).ahead.tail } := by
  refine ⟨((s.updSlot sl (·.mark w)).traceMark sl).ps, ?_⟩
  rw [marked, State.retire, slot_retireTo, slot_traceMark, slot_updSlot_self]; rfl

theorem slot_marked_ne (s : State) {sl i : Nat} (hi : i ≠ sl) (w : JWord) : (marked s sl w).slot i = s.slot i := by
  rw [marked, State.retire, slot_retireTo_ne _ _ _ _ hi, slot_traceMark, slot_updSlot, if_neg hi]

theorem markSetsIds : MarkSetsIds := by
  intro s sl w h
  have hexec : exec (.mark sl w) s = .next (marked s sl w) := congrArg Host.Outcome.next (issue_ready h rfl)
  have hframe := marked_frame s sl w
  obtain ⟨p, hslot⟩ := slot_marked s sl w
  refine ⟨_, hexec, ?_, ?_, ?_, ?_, fun i hi => slot_marked_ne s hi w, (congrArg State.mem hframe :),
    (congrArg State.tmem hframe :), (congrArg State.nbuf hframe :), (congrArg State.sems hframe :), (congrArg State.ops hframe :)⟩
  · rw [hslot]
  · rw [hslot, ← ofNat_bits]; rfl
  · rw [hslot, ← ofNat_bits]; rfl
  · rw [hslot]; rfl

/-- Settles O3, from the one register that GETS writes and the marks that MARK leaves in its slot. -/
theorem valuesAndMarks : Obligations.ValuesAndMarks := ⟨getsValues, markSetsIds⟩

end Sys2Proof.Proofs
end

section
/-!
PROOF. Descriptor instructions (R81, R82), with the offset of a window reference (R235), and the control flow (R75).
-/

namespace Sys2Proof.Proofs

open Sys2Proof.Machine Sys2Proof.Laws Sys2Proof.Claims

/-! ## Descriptor instructions (R81, R82, R235) -/

theorem bits_eq_div (v : Word) (lo n : Nat) : bits v lo n = v.toNat / 2 ^ lo % 2 ^ n := by
  rw [bits, Nat.shiftRight_eq_div_pow]

/-- Bits put at the bottom of a word leave the rest of it. -/
theorem putBits_zero (v : Word) (n k : Nat) :
    putBits v 0 n k = BitVec.ofNat 64 (v.toNat / 2 ^ n * 2 ^ n + k % 2 ^ n) := by
  apply BitVec.eq_of_getLsbD_eq
  intro i hi
  have hsum : v.toNat / 2 ^ n * 2 ^ n + k % 2 ^ n = 2 ^ n * (v.toNat / 2 ^ n) + k % 2 ^ n := by rw [Nat.mul_comm]
  rw [putBits, hsum]
  simp only [Nat.shiftLeft_zero, BitVec.getLsbD_or, BitVec.getLsbD_and, BitVec.getLsbD_not, BitVec.getLsbD_ofNat, hi, decide_true,
    Bool.true_and, Nat.testBit_two_pow_sub_one, Nat.testBit_two_pow_mul_add _ (Nat.mod_lt k (Nat.two_pow_pos n)), Nat.testBit_mod_two_pow]
  by_cases hlow : i < n
  · simp [hlow]
  · have hbit : (v.toNat / 2 ^ n).testBit (i - n) = v.getLsbD i := by
      rw [Nat.testBit_div_two_pow, Nat.sub_add_cancel (by omega)]; rfl
    simp [hlow, hbit]

/-- The descriptor whose window reference has the byte offset `off` (R235). -/
theorem withOffset_window {d : TDesc} (h : d.space = 8) (off : Word) : d.withOffset off =
    { d with base := BitVec.ofNat 64 (d.base.toNat / 2 ^ 20 * 2 ^ 20 + off.toNat / 2 ^ 8 % 2 ^ 20) } := by
  rw [TDesc.withOffset, if_pos h, putBits_zero, bits_eq_div, Nat.mod_mod]

theorem withOffset_plain {d : TDesc} (h : d.space ≠ 8) (off : Word) : d.withOffset off = { d with base := off } :=
  if_neg h

theorem offset_window {d : TDesc} (h : d.space = 8) : d.offset = BitVec.ofNat 64 (d.base.toNat % 2 ^ 20 * 2 ^ 8) := by
  rw [TDesc.offset, if_pos h, bits_eq_div, pow_zero, Nat.div_one]; rfl

theorem offset_plain {d : TDesc} (h : d.space ≠ 8) : d.offset = d.base := if_neg h

section Descriptors

variable {s : State} {sl : Fin 32} {w : JWord} {d : TDesc}

theorem writesT_tbase (h : Ready s sl 0x21 w) (ha : isT w.opa = true) (hb : isX w.opb = true)
    (hd : (valT (s.slot sl) w.opa).withOffset (valX (s.slot sl) w.opb + w.imm) = d) :
    WritesT s sl w.opa d (exec (.tbase sl w) s) :=
  writesT_issueReg h (by rw [ha, hb]; rfl) ha (by rw [Slot.tbase, hd])

theorem writesT_tadd (h : Ready s sl 0x22 w) (ha : isT w.opa = true) (hb : isX w.opb = true)
    (hd : (valT (s.slot sl) w.opa).withOffset ((valT (s.slot sl) w.opa).offset + valX (s.slot sl) w.opb * w.imm) = d) :
    WritesT s sl w.opa d (exec (.tadd sl w) s) :=
  writesT_issueReg h (by rw [ha, hb]; rfl) ha (by rw [Slot.tadd, hd])

theorem writesT_text {k : Nat} (ha : isT w.opa = true) (hb : isX w.opb = true) (hk : k < 5)
    (hd : (valT (s.slot sl) w.opa).setExtent k ((valX (s.slot sl) w.opb).setWidth 32) = d) (h : Ready s sl 0x23 w)
    (hsel : bits w.imm 0 3 = k) : WritesT s sl w.opa d (exec (.text sl w) s) :=
  writesT_issueReg h (by rw [ha, hb, hsel, decide_eq_true hk]; rfl) ha (by rw [Slot.text, hsel, hd])

theorem writesT_tstr {k : Nat} (ha : isT w.opa = true) (hb : isX w.opb = true) (hk : 1 ≤ k ∧ k < 5)
    (hd : (valT (s.slot sl) w.opa).setStride k (valX (s.slot sl) w.opb) = d) (h : Ready s sl 0x24 w)
    (hsel : bits w.imm 0 3 = k) : WritesT s sl w.opa d (exec (.tstr sl w) s) := by
  obtain ⟨hpos, hlt⟩ := hk
  exact writesT_issueReg h (by rw [ha, hb, hsel, decide_eq_true hpos, decide_eq_true hlt]; rfl) ha
    (by rw [Slot.tstr, hsel, hd])

end Descriptors

/-- Settles O4: each instruction is one descriptor write, whose encoding refuses the extents and strides that do not exist. -/
theorem descriptorResults : Obligations.DescriptorResults := by
  unfold Obligations.DescriptorResults
  intro s sl w ha x d v i refAt
  refine ⟨fun hb h => writesT_issueReg h (by rw [ha, hb]; rfl) ha rfl, fun h => writesT_issueReg h ha ha rfl, fun hb => ?_⟩
  refine ⟨fun h hd => writesT_tbase h ha hb (withOffset_plain hd _), fun h hd => writesT_tbase h ha hb (withOffset_window hd _),
    fun h hd => writesT_tadd h ha hb ?_, fun h hd => writesT_tadd h ha hb ?_,
    writesT_text ha hb (by decide) rfl, writesT_text ha hb (by decide) rfl, writesT_text ha hb (by decide) rfl,
    writesT_text ha hb (by decide) rfl, writesT_text ha hb (by decide) rfl, fun h hi => encodingFaults s sl 0x23 w h.1 ?_,
    writesT_tstr ha hb (by decide) rfl, writesT_tstr ha hb (by decide) rfl, writesT_tstr ha hb (by decide) rfl,
    writesT_tstr ha hb (by decide) rfl, fun h hi => encodingFaults s sl 0x24 w h.1 ?_⟩
  · rw [withOffset_plain hd, offset_plain hd]
  · rw [withOffset_window hd, offset_window hd]
  · change (isT w.opa && isX w.opb && decide (i < 5)) = false
    rw [decide_eq_false (by omega), Bool.and_false]
  · change (isT w.opa && isX w.opb && decide (1 ≤ i) && decide (i < 5)) = false
    rw [Bool.and_assoc, ← Bool.decide_and, decide_eq_false (by omega), Bool.and_false]

/-! ## Control flow (R75) -/

/-- LOOP counts down to zero and no further. -/
theorem loopCount_toNat (x : Slot) (w : JWord) : (loopCount x w).toNat = (slotS x w.opa.toNat).toNat - 1 := by
  unfold loopCount
  split
  case isTrue h => rw [h]; rfl
  case isFalse h =>
    have hpos : 0 < (slotS x w.opa.toNat).toNat := Nat.pos_of_ne_zero fun h0 => h (BitVec.eq_of_toNat_eq h0)
    exact BitVec.toNat_sub_of_le (BitVec.le_def.mpr hpos)

theorem exec_loop {s : State} {sl : Fin 32} {w : JWord} (h : Ready s sl 0x03 w) (ha : isS w.opa = true) (h0 : w.opa ≠ 0)
    (htarget : bits w.imm 0 14 < (s.slot sl).imemLen) :
    exec (.loop sl w) s = .next ((s.updSlot sl (fun x => setSlotS x w.opa.toNat (loopCount (s.slot sl) w))).retireTo sl
      (if (slotS (s.slot sl) w.opa.toNat).toNat ≤ 1 then (s.slot sl).pc + 1 else bits w.imm 0 14)) := by
  have hframe := setSlotS_frame (s.slot sl) w.opa.toNat (loopCount (s.slot sl) w)
  have hzero : loopCount (s.slot sl) w = 0 ↔ (slotS (s.slot sl) w.opa.toNat).toNat ≤ 1 := by
    rw [← BitVec.toNat_inj, loopCount_toNat, show (0 : Word).toNat = 0 from rfl]; omega
  have henc : (isS w.opa && w.opa != 0 && targetOk w (s.slot sl)) = true := by
    rw [ha, targetOk, jumpTarget, decide_eq_true htarget, bne_iff_ne.mpr h0]; rfl
  refine congrArg Host.Outcome.next ((issue_ready h henc).trans ?_)
  dsimp only
  simp only [hzero]
  split
  · rw [State.retire, slot_updSlot_self]
    rw [(congrArg Slot.pc hframe :)]
  · rfl

/-- Settles O5, by what each instruction does to its slot; the faults are those of the encoding. -/
theorem controlFlow : Obligations.ControlFlow := by
  unfold Obligations.ControlFlow
  intro s sl w x target
  refine ⟨fun h => ?nop, fun h => ?endProg, fun h htarget => ?jmp, fun h htarget => encodingFaults s sl 0x02 w h ?jmpFault,
    fun ha => ⟨fun h h0 htarget => ?loop, fun h hbad => encodingFaults s sl 0x03 w h ?loopFault⟩⟩
  case nop =>
    have hexec : exec (.nop 0 sl w) s = .next (s.retire sl) := by
      change execNop 0 sl w s = _
      rw [execNop, if_pos (.inl rfl), issue_ready h rfl]
    exact hexec ▸ goesTo_retire s sl
  case endProg =>
    obtain ⟨hpc, hwait, htail, hothers, hcount, hregs, hframe⟩ := retires_retireTo s sl ((s.slot sl).pc + 1)
    have hslot : ((s.retire sl).updSlot sl (fun x => { x with phase := .draining })).slot sl =
        { (s.retire sl).slot sl with phase := .draining } := slot_updSlot_self ..
    refine ⟨_, congrArg Host.Outcome.next (issue_ready h rfl), ⟨?_, ?_, ?_, fun i hi => ?_, hcount, hregs, hframe⟩, ?_, ?_, ?_⟩
    · rw [hslot]; exact hpc
    · rw [hslot]; exact hwait
    · rw [hslot]; exact htail
    · rw [slot_updSlot, if_neg hi]; exact hothers i hi
    · rw [hslot]
    · rw [State.canIssue, hslot]; simp
    · rw [hslot, State.retire, slot_retireTo]; rfl
  case jmp =>
    have hexec : exec (.jmp sl w) s = .next (s.retireTo sl target) :=
      congrArg Host.Outcome.next (issue_ready h (decide_eq_true htarget))
    exact hexec ▸ goesTo_retireTo s sl target
  case jmpFault => exact decide_eq_false (Nat.not_lt.mpr htarget)
  case loop =>
    have hframe := setSlotS_frame (s.slot sl) w.opa.toNat (loopCount (s.slot sl) w)
    refine ⟨_, exec_loop h ha h0 htarget, retires_updSlot (congrArg Slot.ahead hframe :) _, ?_, fun n hn => ?_, ?_⟩
    · have hne : w.opa.toNat ≠ 0 := fun h => h0 (BitVec.eq_of_toNat_eq h)
      rw [slotS_retireTo_updSlot, slotS_setSlotS, if_pos rfl, if_neg hne, loopCount_toNat]
    · rw [slotS_retireTo_updSlot, slotS_setSlotS, if_neg hn]
    · rw [slot_retireTo_updSlot]
      exact (congrArg butS hframe :)
  case loopFault =>
    change (isS w.opa && w.opa != 0 && decide (target < x.imemLen)) = false
    obtain h0 | htarget := hbad
    · rw [h0]; simp
    · rw [decide_eq_false (by omega), Bool.and_false]

end Sys2Proof.Proofs
end

section
/-!
PROOF. Fences and waits (R96 to R99), and the operations of programs on the semaphores of this adapter (R95, R165, R170, R173).
-/

namespace Sys2Proof.Proofs

open Sys2Proof.Machine Sys2Proof.Laws Sys2Proof.Claims

/-! ## What retirements leave alone -/

/-- A state without its slots, registers and semaphores. -/
def exceptSems (s : State) : State := { s with slots := [], regs := [], sems := [] }

theorem stores_of_exceptSems {s t : State} (h : exceptSems t = exceptSems s) :
    t.mem = s.mem ∧ t.tmem = s.tmem ∧ t.nbuf = s.nbuf ∧ t.ops = s.ops :=
  ⟨(congrArg State.mem h :), (congrArg State.tmem h :), (congrArg State.nbuf h :), (congrArg State.ops h :)⟩

theorem exceptSems_retireTo (s : State) (sl pc : Nat) : exceptSems (s.retireTo sl pc) = exceptSems s :=
  congrArg (fun t : State => { t with sems := [] }) (retireTo_frame s sl pc)

theorem sems_retireTo (s : State) (sl pc : Nat) : (s.retireTo sl pc).sems = s.sems :=
  (congrArg State.sems (retireTo_frame s sl pc) :)

theorem exceptSems_retire (s : State) (sl : Nat) : exceptSems (s.retire sl) = exceptSems s := exceptSems_retireTo s sl _

/-! ## Fences and waits (R96 to R99) -/

theorem holdsAt_updSlot (s : State) (sl : Fin 32) (wt : Waiting) :
    HoldsAt s sl wt (.next (s.updSlot sl (fun x => { x with wait := some wt }))) :=
  ⟨_, rfl, slot_updSlot_self .., fun i hi => by rw [slot_updSlot, if_neg hi], rfl⟩

section Waits

variable {s : State} {sl : Fin 32} {w : JWord}

theorem exec_fence (h : Ready s sl 0x80 w) : exec (.fence sl w) s = .next (if s.fenceOk sl (w.flags.setWidth 3) then s.retire sl
    else s.updSlot sl (fun x => { x with wait := some (.fence (w.flags.setWidth 3)) })) :=
  congrArg Host.Outcome.next (issue_ready h rfl)

theorem exec_wait (h : Ready s sl 0x81 w) (hf : fieldsOk 0x81 w (s.slot sl).imemLen = true) : exec (.wait sl w) s =
    .next (s.waitGo sl w ((semRef (s.slot sl) w).extractLsb' 0 16) (valX (s.slot sl) w.opb)) := by
  rw [← ofNat_bits]
  exact congrArg Host.Outcome.next (issue_ready h hf)

theorem exec_twait (h : Ready s sl 0x82 w) (hb : isX w.opb = true) : exec (.twait sl w) s =
    .next (if (valX (s.slot sl) w.opb).toNat ≤ s.nowNs then (s.bump (Reg.DBG_CNT (sl / 4) 3)).retire sl
      else s.updSlot sl (fun x => { x with wait := some (.until_ (valX (s.slot sl) w.opb)) })) :=
  congrArg Host.Outcome.next (issue_ready h hb)

theorem exec_tilewait_gone (h : Ready s sl 0x83 w) (hb : isX w.opb = true)
    (hnone : s.tagged sl (w.imm.extractLsb' 0 24) = none) : exec (.tilewait sl w) s = .next (s.retire sl) := by
  refine congrArg Host.Outcome.next ((issue_ready h hb).trans ?_)
  dsimp only
  rw [ofNat_bits, hnone]

theorem exec_tilewait (h : Ready s sl 0x83 w) (hb : isX w.opb = true) {o : Op}
    (ho : s.tagged sl (w.imm.extractLsb' 0 24) = some o) : exec (.tilewait sl w) s =
    .next (if s.tileOk o.id (valX (s.slot sl) w.opb) then s.retire sl
      else s.updSlot sl (fun x => { x with wait := some (.tile o.id (valX (s.slot sl) w.opb)) })) := by
  refine congrArg Host.Outcome.next ((issue_ready h hb).trans ?_)
  dsimp only
  rw [ofNat_bits, ho]

variable {id : BitVec 16} {thr : Word}

theorem waitGo_denied (h : s.semProg (s.slot sl).inst id = false) : s.waitGo sl w id thr = s.issueFault sl St.accessDenied w.tag := by
  rw [State.waitGo, h]; rfl

theorem waitGo_satisfied (hprog : s.semProg (s.slot sl).inst id = true)
    (h : thr = 0 ∨ (s.semZeroing id = false ∧ s.semPoisoned id = false ∧ thr.toNat ≤ (s.semValue id).toNat)) :
    s.waitGo sl w id thr = s.retire sl := by
  obtain rfl | ⟨hzeroing, hpoison, hle⟩ := h
  · rw [State.waitGo, hprog, if_pos rfl]; rfl
  · simp only [State.waitGo, hprog, hzeroing, hpoison, decide_eq_true hle, Bool.not_true, Bool.not_false, Bool.and_self,
      Bool.false_eq_true, if_false, if_true, ite_self]

theorem waitGo_waits (hprog : s.semProg (s.slot sl).inst id = true) (hthr : thr ≠ 0) (hzeroing : s.semZeroing id = false)
    (h : s.semPoisoned id = true ∨ (s.semValue id).toNat < thr.toNat) : s.waitGo sl w id thr =
    s.updSlot sl (fun x => { x with wait := some (.sem id thr s.ps (s.waitUnits w) w.tag s.ck) }) := by
  have hunmet : (!s.semPoisoned id && decide (thr.toNat ≤ (s.semValue id).toNat)) = false := by
    obtain h | h := h
    · rw [h]; rfl
    · rw [decide_eq_false (by omega), Bool.and_false]
  simp only [State.waitGo, hprog, hthr, hzeroing, hunmet, Bool.not_true, Bool.false_eq_true, if_false]

/-- A time wait whose target has passed retires and is counted as late (R98). -/
theorem twait_late (s : State) (sl : Fin 32) {t : State} (ht : (s.bump (Reg.DBG_CNT (sl / 4) 3)).retire sl = t) :
    (t.slot sl).pc = (s.slot sl).pc + 1 ∧ butPc (t.slot sl) = butPc (s.slot sl)
      ∧ t.reg (Reg.DBG_CNT (sl.val / 4) 3) = s.reg (Reg.DBG_CNT (sl.val / 4) 3) + 1 ∧ t.mem = s.mem ∧ t.sems = s.sems := by
  have hne : Reg.DBG_CNT (sl.val / 4) 3 ≠ Reg.DBG_CNT (sl.val / 4) 1 := by unfold Reg.DBG_CNT; omega
  subst ht
  obtain ⟨hmem, -, -, -⟩ := stores_of_exceptSems (exceptSems_retire (s.bump (Reg.DBG_CNT (sl / 4) 3)) sl)
  refine ⟨?_, ?_, ?_, hmem, sems_retireTo _ _ _⟩
  · rw [State.retire, slot_retireTo, slot_bump]
  · rw [State.retire, slot_retireTo, slot_bump]; rfl
  · rw [State.retire, reg_retireTo, if_neg hne, reg_bump, if_pos rfl]

end Waits

/-- Settles O11: each wait retires or holds by its one condition. -/
theorem waitsHoldOrRetire : Obligations.WaitsHoldOrRetire := by
  unfold Obligations.WaitsHoldOrRetire
  intro s sl w x v id scope
  have hwait (h : Ready s sl 0x81 w) (hf : fieldsOk 0x81 w x.imemLen = true) :
      exec (.wait sl w) s = .next (s.waitGo sl w id v) := exec_wait h hf
  refine ⟨fun h hmet => ?fenceMet, fun h hunmet => ?fenceHeld, fun h hf hprog => ⟨fun hmet => ?waitMet, fun hv hzeroing hunmet => ?waitHeld⟩,
    fun h hf hprog => ?waitDenied, fun h hb hbefore => ?twaitHeld, fun h hb hreached => ?twaitLate,
    fun h hb => ⟨fun hgone => ?tileGone, fun o ho => ⟨fun hmet => ?tileMet, fun hunmet => ?tileHeld⟩⟩⟩
  case fenceMet => rw [exec_fence h, if_pos hmet]; exact goesTo_retire s sl
  case fenceHeld => rw [exec_fence h, if_neg (Bool.eq_false_iff.mp hunmet)]; exact holdsAt_updSlot s sl _
  case waitMet => rw [hwait h hf, waitGo_satisfied hprog hmet]; exact goesTo_retire s sl
  case waitHeld => rw [hwait h hf, waitGo_waits hprog hv hzeroing hunmet]; exact holdsAt_updSlot s sl _
  case waitDenied => rw [hwait h hf, waitGo_denied hprog]; exact faultsAt_issueFault s sl _ _
  case twaitHeld => rw [exec_twait h hb, if_neg (Nat.not_le.mpr hbefore)]; exact holdsAt_updSlot s sl _
  case twaitLate => rw [exec_twait h hb, if_pos hreached]; exact ⟨_, rfl, twait_late s sl rfl⟩
  case tileGone => rw [exec_tilewait_gone h hb hgone]; exact goesTo_retire s sl
  case tileMet => rw [exec_tilewait h hb ho, if_pos hmet]; exact goesTo_retire s sl
  case tileHeld => rw [exec_tilewait h hb ho, if_neg (Bool.eq_false_iff.mp hunmet)]; exact holdsAt_updSlot s sl _

/-! ## What an operation leaves in a plain semaphore (R170) -/

theorem satAdd_toNat_eq_min (x v : Word) : (satAdd x v).1.toNat = min (x.toNat + v.toNat) (2 ^ 64 - 1) := by
  unfold satAdd
  split
  · rw [BitVec.toNat_add]; omega
  · rw [BitVec.toNat_allOnes]; omega

theorem satSub_toNat (x v : Word) : (satSub x v).1.toNat = x.toNat - v.toNat := by
  unfold satSub
  split
  case isTrue h => exact BitVec.toNat_sub_of_le (BitVec.le_def.mpr h)
  case isFalse h => exact (Nat.sub_eq_zero_of_le (by omega)).symm

/-- The value that an operation leaves where it finds `x`. -/
def semResult (x : Word) : SemAct → Word
  | .add v => (satAdd x v).1
  | .sub v => (satSub x v).1
  | .set v => v
  | .read => x
  | .wait => x

section Plain

variable {s : State} {id : BitVec 16}

theorem putSat_frame (s : State) (id : BitVec 16) (r : Word × Bool) :
    ({ s.putSat id r with regs := [], sems := [] } : State) = { s with regs := [], sems := [] } := by
  unfold State.putSat
  split <;> rfl

theorem semEffect_frame (hbar : s.isBar id = false) (a : SemAct) :
    ({ s.semEffect id a with regs := [], sems := [] } : State) = { s with regs := [], sems := [] } := by
  cases a with
  | add v => simp only [State.semEffect, hbar, Bool.false_eq_true, if_false]; exact putSat_frame s id _
  | sub v => simp only [State.semEffect, hbar, Bool.false_eq_true, if_false]; exact putSat_frame s id _
  | set v => simp only [State.semEffect, hbar, Bool.false_eq_true, if_false]; rfl
  | read => rfl
  | wait => rfl

theorem sems_semEffect (hbar : s.isBar id = false) (a : SemAct) (j : Nat) : tget 0 (s.semEffect id a).sems j =
    if j = id.toNat then semResult (tget 0 s.sems id.toNat) a else tget 0 s.sems j := by
  have hvalue : s.semValue id = tget 0 s.sems id.toNat := by rw [State.semValue, hbar]; rfl
  have hsame (a : SemAct) (ha : s.semEffect id a = s) : tget 0 (s.semEffect id a).sems j =
      if j = id.toNat then tget 0 s.sems id.toNat else tget 0 s.sems j := by
    rw [ha]
    split
    case isTrue h => rw [h]
    case isFalse => rfl
  cases a with
  | add v =>
    simp only [State.semEffect, hbar, hvalue, Bool.false_eq_true, if_false]
    exact sems_putSat s id _ j
  | sub v =>
    simp only [State.semEffect, hbar, hvalue, Bool.false_eq_true, if_false]
    exact sems_putSat s id _ j
  | set v =>
    simp only [State.semEffect, hbar, Bool.false_eq_true, if_false]
    exact sems_putSem s id j v
  | read => exact hsame .read rfl
  | wait => exact hsame .wait rfl

/-- A slot that waits for nothing stays as it is when waiters are woken. -/
theorem slot_semWake {i : Nat} (hwait : (s.slot i).wait = none) (id : BitVec 16) : (s.semWake id).slot i = s.slot i := by
  unfold State.semWake
  generalize allSlots = slots
  refine List.foldlRecOn (motive := fun t : State => t.slot i = s.slot i) slots _ rfl fun t ht sl _ => ?_
  split
  case h_1 thr hthr =>
    have hne : i ≠ sl := by
      rintro rfl
      rw [State.waitsOn, ht, hwait] at hthr
      cases hthr
    split
    · rw [State.retire, slot_retireTo_ne _ _ _ _ hne, ht]
    · exact ht
  case h_2 => exact ht

theorem exceptSems_semWake (s : State) (id : BitVec 16) : exceptSems (s.semWake id) = exceptSems s :=
  semWake_induction (P := fun t => exceptSems t = exceptSems s) rfl (fun t sl h => (exceptSems_retire t sl).trans h) id

theorem isBar_counted (hbar : s.isBar id = false) : (s.bump Reg.SEM_CNT_OPS).isBar id = false :=
  (isBar_bump s (by decide) (by decide) id).trans hbar

theorem semApply_eq (hpoison : s.semPoisoned id = false) (a : SemAct) :
    (s.semApply id a).2.2 = ((s.bump Reg.SEM_CNT_OPS).semEffect id a).semWake id := by
  simp only [State.semApply, hpoison, Bool.false_eq_true, if_false]

theorem sems_semApply (hbar : s.isBar id = false) (hpoison : s.semPoisoned id = false) (a : SemAct) (j : Nat) :
    tget 0 (s.semApply id a).2.2.sems j =
      if j = id.toNat then semResult (tget 0 s.sems id.toNat) a else tget 0 s.sems j := by
  rw [semApply_eq hpoison, (runs_semWake _ id).sems, sems_semEffect (isBar_counted hbar)]
  rfl

theorem exceptSems_semApply (hbar : s.isBar id = false) (hpoison : s.semPoisoned id = false) (a : SemAct) :
    exceptSems (s.semApply id a).2.2 = exceptSems s := by
  rw [semApply_eq hpoison, exceptSems_semWake]
  exact congrArg (fun t : State => { t with slots := [] }) (semEffect_frame (isBar_counted hbar) a)

theorem slot_semApply (hbar : s.isBar id = false) (hpoison : s.semPoisoned id = false) {i : Nat}
    (hwait : (s.slot i).wait = none) (a : SemAct) : (s.semApply id a).2.2.slot i = s.slot i := by
  have heffect : ((s.bump Reg.SEM_CNT_OPS).semEffect id a).slot i = s.slot i :=
    congrArg (tget Slot.init · i) (congrArg State.slots (semEffect_frame (isBar_counted hbar) a) :)
  rw [semApply_eq hpoison, slot_semWake (heffect ▸ hwait), heffect]

end Plain

/-! ## Semaphore instructions of programs (R95, R165) -/

theorem wait_of_canIssue {s : State} {sl : Nat} (h : s.canIssue sl = true) : (s.slot sl).wait = none := by
  simp only [State.canIssue, Bool.and_eq_true, Option.isNone_iff_eq_none] at h
  obtain ⟨⟨⟨-, hwait⟩, -⟩, -⟩ := h
  exact hwait

/-- The outcome retires the instruction with `n` in semaphore `id`; every other semaphore and the stores are unchanged. -/
def AppliesSem (s : State) (sl : Fin 32) (id : BitVec 16) (n : Nat) (o : Out) : Prop :=
  ∃ t, o = .next t ∧ (tget 0 t.sems id.toNat).toNat = n
    ∧ (∀ j : BitVec 16, j ≠ id → tget 0 t.sems j.toNat = tget 0 s.sems j.toNat)
    ∧ (t.slot sl).pc = (s.slot sl).pc + 1 ∧ butPc (t.slot sl) = butPc (s.slot sl)
    ∧ t.mem = s.mem ∧ t.tmem = s.tmem ∧ t.nbuf = s.nbuf ∧ t.ops = s.ops

/-- The semaphore that an instruction names is one of this adapter's that its program may use now (R165, R185). -/
structure LocalSem (s : State) (sl : Fin 32) (ref : Word) : Prop where
  here : bit ref 32 = false
  barriers : s.barriers = false
  zeroing : s.semZeroing (ref.extractLsb' 0 16) = false
  behind : s.semBehind sl = false
  allowed : s.semProg (s.slot sl).inst (ref.extractLsb' 0 16) = true

section Local

variable {s : State} {sl : Fin 32} {w : JWord} {ref : Word}

theorem LocalSem.isBar (h : LocalSem s sl ref) (id : BitVec 16) : s.isBar id = false := by
  rw [State.isBar, h.barriers]; rfl

/-- A local instruction that writes is one local operation (R95). -/
theorem semInstr_local (h : LocalSem s sl ref) (code : Nat) (v : Word) :
    s.semInstr sl w code ref v = s.semLocal sl (ref.extractLsb' 0 16) (actOf code v) w.tag := by
  have hbar := h.isBar (ref.extractLsb' 0 16)
  obtain ⟨hhere, -, -, hbehind, hallowed⟩ := h
  simp only [State.semInstr, ofNat_bits, hhere, hbehind, hallowed, hbar, Bool.not_false, Bool.not_true, Bool.true_or,
    Bool.false_and, Bool.and_false, Bool.false_eq_true, false_and, if_true, if_false]

theorem semInstr_poisoned (h : LocalSem s sl ref) (hpoison : s.semPoisoned (ref.extractLsb' 0 16) = true) (code : Nat) (v : Word) :
    s.semInstr sl w code ref v = s.issueFault sl St.uncorrectable w.tag := by
  rw [semInstr_local h]
  simp only [State.semLocal, State.semApply, h.zeroing, hpoison, Bool.false_eq_true, if_true, if_false]

theorem semInstr_applied (h : LocalSem s sl ref) (hpoison : s.semPoisoned (ref.extractLsb' 0 16) = false) (code : Nat) (v : Word) :
    s.semInstr sl w code ref v = (s.semApply (ref.extractLsb' 0 16) (actOf code v)).2.2.retire sl := by
  rw [semInstr_local h]
  simp only [State.semLocal, State.semApply, h.zeroing, hpoison, Bool.false_eq_true, if_false]

theorem semRead_poisoned (h : LocalSem s sl ref) (hpoison : s.semPoisoned (ref.extractLsb' 0 16) = true) :
    s.semRead sl w ref = s.issueFault sl St.uncorrectable w.tag := by
  obtain ⟨hhere, -, hzeroing, hbehind, hallowed⟩ := h
  simp only [State.semRead, State.semApply, ofNat_bits, hhere, hzeroing, hbehind, hallowed, hpoison, Bool.not_true,
    Bool.false_eq_true, if_true, if_false]

theorem semRead_applied (h : LocalSem s sl ref) (hpoison : s.semPoisoned (ref.extractLsb' 0 16) = false) :
    s.semRead sl w ref = (s.semApply (ref.extractLsb' 0 16) .read).2.2.sreadGo sl w.opa.toNat
      (tget 0 s.sems (ref.extractLsb' 0 16).toNat) := by
  have hbar := h.isBar (ref.extractLsb' 0 16)
  have hvalue : s.semValue (ref.extractLsb' 0 16) = tget 0 s.sems (ref.extractLsb' 0 16).toNat := by
    rw [State.semValue, hbar]; rfl
  obtain ⟨hhere, -, hzeroing, hbehind, hallowed⟩ := h
  simp only [State.semRead, State.semApply, ofNat_bits, hhere, hzeroing, hbehind, hallowed, hpoison, hvalue, Bool.not_true,
    Bool.false_eq_true, if_false]

end Local

/-- What the retirement after an operation on a semaphore leaves. -/
theorem appliesSem_retire {s : State} {sl : Fin 32} {id : BitVec 16} (hbar : s.isBar id = false)
    (hpoison : s.semPoisoned id = false) (hwait : (s.slot sl).wait = none) (a : SemAct) :
    AppliesSem s sl id (semResult (tget 0 s.sems id.toNat) a).toNat (.next ((s.semApply id a).2.2.retire sl)) := by
  have hsems : ((s.semApply id a).2.2.retire sl).sems = (s.semApply id a).2.2.sems := sems_retireTo _ _ _
  have hslot := slot_semApply hbar hpoison hwait a
  have hframe := (exceptSems_retire (s.semApply id a).2.2 sl).trans (exceptSems_semApply hbar hpoison a)
  refine ⟨_, rfl, ?_, fun j hj => ?_, ?_, ?_, stores_of_exceptSems hframe⟩
  · rw [hsems, sems_semApply hbar hpoison, if_pos rfl]
  · rw [hsems, sems_semApply hbar hpoison, if_neg fun h => hj (BitVec.eq_of_toNat_eq h)]
  · rw [State.retire, slot_retireTo, hslot]
  · rw [State.retire, slot_retireTo, hslot]; rfl

section Instructions

variable {s : State} {sl : Fin 32} {w : JWord}

theorem issueSem_ready {op : BitVec 8} (h : Ready s sl op w) (hf : (isX w.opb && refEnc w) = true) (code : Nat) :
    s.issueSem op sl w code = s.semInstr sl w code (semRef (s.slot sl) w) (valX (s.slot sl) w.opb) := issue_ready h hf

theorem exec_sread (h : Ready s sl 0x73 w) (hf : fieldsOk 0x73 w (s.slot sl).imemLen = true) :
    exec (.sread sl w) s = .next (s.semRead sl w (semRef (s.slot sl) w)) :=
  congrArg Host.Outcome.next (issue_ready h hf)

/-- An SREAD that has its value writes it to its register, and leaves every semaphore and store (R95). -/
theorem sread_reads {id : BitVec 16} {a : BitVec 8} {t : State} (hbar : s.isBar id = false) (hpoison : s.semPoisoned id = false)
    (hwait : (s.slot sl).wait = none) (v : Word) (ht : (s.semApply id .read).2.2.sreadGo sl a.toNat v = t) :
    t.sems = s.sems ∧ (t.slot sl).pc = (s.slot sl).pc + 1 ∧ slotS (t.slot sl) a.toNat = (if a = 0 then 0 else v)
      ∧ (∀ n, n ≠ a.toNat → slotS (t.slot sl) n = slotS (s.slot sl) n) ∧ butS (t.slot sl) = butS (s.slot sl)
      ∧ t.mem = s.mem ∧ t.tmem = s.tmem ∧ t.nbuf = s.nbuf ∧ t.ops = s.ops := by
  have hslot := slot_semApply hbar hpoison hwait .read
  have hread : (s.semApply id .read).2.2.sems = s.sems := by
    rw [semApply_eq hpoison, (runs_semWake _ id).sems]; rfl
  have hframe := exceptSems_semApply hbar hpoison .read
  have hkeep := setSlotS_frame (s.slot sl) a.toNat v
  generalize (s.semApply id .read).2.2 = u at *
  have hgo : u.sreadGo sl a.toNat v = (u.updSlot sl (fun x => setSlotS x a.toNat v)).retireTo sl ((s.slot sl).pc + 1) := by
    rw [State.sreadGo, State.retire, slot_updSlot_self, hslot, (congrArg Slot.pc hkeep :)]
  have hretire := exceptSems_retireTo (u.updSlot sl (fun x => setSlotS x a.toNat v)) sl ((s.slot sl).pc + 1)
  subst ht
  rw [hgo]
  refine ⟨(sems_retireTo _ _ _).trans hread, ?_, ?_, fun n hn => ?_, ?_, stores_of_exceptSems (hretire.trans hframe)⟩
  · rw [slot_retireTo]
  · rw [slotS_retireTo_updSlot, slotS_setSlotS_field]
  · rw [slotS_retireTo_updSlot, slotS_setSlotS, if_neg hn, hslot]
  · rw [slot_retireTo_updSlot, hslot]
    exact (congrArg butS hkeep :)

end Instructions

/-- Settles O12, from what one operation leaves in its semaphore. -/
theorem semaphoreInstructions : Obligations.SemaphoreInstructions := by
  unfold Obligations.SemaphoreInstructions
  intro s sl w x v ref id old ok done
  have hlocal {op : BitVec 8} (h : ok op) : LocalSem s sl (semRef (s.slot sl) w) := by
    obtain ⟨-, -, hhere, hbarriers, hzeroing, hbehind, hallowed⟩ := h
    exact ⟨hhere, hbarriers, hzeroing, hbehind, hallowed⟩
  have hwait {op : BitVec 8} (h : ok op) : (s.slot sl).wait = none := by
    obtain ⟨⟨⟨hcan, -⟩, -⟩, -⟩ := h
    exact wait_of_canIssue hcan
  refine ⟨fun hpoison => ?plain, fun hpoison => ?poisoned⟩
  case plain =>
    have hwrite {op : BitVec 8} (h : ok op) (hf : (isX w.opb && refEnc w) = true) (code : Nat) :
        done (.next (s.issueSem op sl w code)) (semResult (tget 0 s.sems id.toNat) (actOf code v)).toNat := by
      rw [issueSem_ready h.1 hf, semInstr_applied (hlocal h) hpoison]
      exact appliesSem_retire ((hlocal h).isBar id) hpoison (hwait h) _
    refine ⟨fun h => ?_, fun h => ?_, fun h => hwrite h h.2.1 3, fun h => ?_⟩
    · rw [← satAdd_toNat_eq_min]; exact hwrite h h.2.1 1
    · rw [← satSub_toNat]; exact hwrite h h.2.1 2
    · rw [exec_sread h.1 h.2.1, semRead_applied (hlocal h) hpoison, BitVec.ofNat_toNat, BitVec.setWidth_eq]
      exact ⟨_, rfl, sread_reads ((hlocal h).isBar id) hpoison (hwait h) _ rfl⟩
  case poisoned =>
    have hwrite {op : BitVec 8} (h : ok op) (hf : (isX w.opb && refEnc w) = true) (code : Nat) :
        FaultsAt s sl St.uncorrectable (.next (s.issueSem op sl w code)) := by
      rw [issueSem_ready h.1 hf, semInstr_poisoned (hlocal h) hpoison]
      exact faultsAt_issueFault s sl _ _
    refine ⟨fun h => hwrite h h.2.1 1, fun h => hwrite h h.2.1 2, fun h => hwrite h h.2.1 3, fun h => ?_⟩
    rw [exec_sread h.1 h.2.1, semRead_poisoned (hlocal h) hpoison]
    exact faultsAt_issueFault s sl _ _

end Sys2Proof.Proofs
end

section
/-!
PROOF. The message instructions (R89 to R93): what each issues once its operands pass the checks, and the buffers that a RECV
posts (R255).
-/

namespace Sys2Proof.Proofs

open Sys2Proof.Machine Sys2Proof.Laws Sys2Proof.Claims

section Messages

variable {s : State} {sl : Fin 32} {w : JWord}

/-! ## Message instructions that are ready -/

theorem exec_get (h : Ready s sl 0x61 w) (hf : fieldsOk 0x61 w (s.slot sl).imemLen = true) :
    exec (.get sl w) s = .next (s.issueWin sl w .get) :=
  congrArg Host.Outcome.next (issue_ready h (by rw [sigEnc_eq]; exact hf))

theorem exec_mput (h : Ready s sl 0x64 w) (hf : fieldsOk 0x64 w (s.slot sl).imemLen = true) :
    exec (.mput sl w) s = .next (s.issueWin sl w .mput) :=
  congrArg Host.Outcome.next (issue_ready h (by rw [sigEnc_eq]; exact hf))

theorem exec_putacc (h : Ready s sl 0x65 w) (hf : fieldsOk 0x65 w (s.slot sl).imemLen = true) :
    exec (.putacc sl w) s = .next (s.issueWin sl w .putacc) :=
  congrArg Host.Outcome.next (issue_ready h (by rw [sigEnc_eq]; exact hf))

/-- The operation of a SEND. -/
def sendOp (s : State) (sl : Nat) (w : JWord) : Op :=
  s.msgOp sl w .send TDesc.zero (valT (s.slot sl) w.opa) (slotS (s.slot sl) w.opb.toNat) [] (valT (s.slot sl) w.opa)

theorem exec_send (h : Ready s sl 0x62 w) (hf : fieldsOk 0x62 w (s.slot sl).imemLen = true) : exec (.send sl w) s =
    .next ((s.issueMsg sl w (sendOp s sl w) [] (valT (s.slot sl) w.opa)).startSegs (sendOp s sl w).id) :=
  congrArg Host.Outcome.next (issue_ready h (by rw [sigEnc_eq]; exact hf))

/-- The operation of a RECV. -/
def recvOp (s : State) (sl : Nat) (w : JWord) : Op :=
  s.msgOp sl w .recv (valT (s.slot sl) w.opa) TDesc.zero 0 [] (valT (s.slot sl) w.opa)

/-- A RECV whose buffer is not posted waits, which is counted (R255). -/
def recvCounted (s : State) (op : Nat) : State :=
  if (s.op? op).isSome ∧ !s.posted.any (fun b => b.op == op) then s.bump (Reg.WIN_CNT 11) else s

theorem exec_recv (h : Ready s sl 0x63 w) (hf : fieldsOk 0x63 w (s.slot sl).imemLen = true) : exec (.recv sl w) s =
    .next (recvCounted (s.issueMsg sl w (recvOp s sl w) [] (valT (s.slot sl) w.opa)).postWaiting (recvOp s sl w).id) :=
  congrArg Host.Outcome.next (issue_ready h (by rw [sigEnc_eq]; exact hf))

/-! ## Operands that pass the checks (R50, R89, R237) -/

theorem outside_of_reachable {i : BitVec 8} {ds : List TDesc} (h : TensorsReachable s i ds) : s.outside i ds = false := by
  rw [State.outside, List.any_eq_false]
  intro d hd
  obtain h | ⟨h, -⟩ := h d hd <;> simp [h]

theorem protected_of_reachable {i : BitVec 8} {ds : List TDesc} (h : TensorsReachable s i ds) : s.protected_ i ds = false := by
  rw [State.protected_, List.any_eq_false]
  intro d hd
  obtain h | ⟨-, h⟩ := h d hd <;> simp [h]

/-- A message instruction whose operands pass the checks adds its operation. -/
theorem issueMsg_accepted {o : Op} {win : List TDesc} {data : TDesc} (hcan : s.canOp sl = true)
    (hok : MessageOk s (s.slot sl).inst o.ctxv w win data (o.kind == .putacc))
    (hsegs : ((o.kind == .send || o.kind == .recv) || segsOk data o.group) = true)
    (hlen : data.denseBytes (o.part 0).1 (o.part 0).2 ≤ 2 ^ 28)
    (hgroup : o.kind = .mput → s.groupOk (s.slot sl).inst o.ctxv = true) : s.issueMsg sl w o win data = s.addOp o := by
  obtain ⟨hwin, hchecks, hspace, hhost, hreach, hctx, hsig⟩ := hok
  have hwins : win.all (fun d => winArgOk d data (o.kind == .putacc)) = true := List.all_eq_true.mpr hwin
  have hdata : dataArgOk o data (o.kind == .send || o.kind == .recv) = true := by
    have hside : (data.isEmpty || data.space != 8) = true := by rw [Bool.or_eq_true, bne_iff_ne]; exact hspace
    simp only [dataArgOk, hchecks, hside, hhost, hsegs, decide_eq_true hlen, Bool.and_self]
  have hden : s.sigDenied (s.slot sl).inst w = false := hsig
  have hmember : ¬ (o.kind = .mput ∧ (!s.groupOk (s.slot sl).inst o.ctxv) = true) := by
    rintro ⟨hkind, hno⟩
    rw [hgroup hkind] at hno
    cases hno
  simp only [State.issueMsg, hcan, hwins, hdata, outside_of_reachable hreach, protected_of_reachable hreach, hctx, hden, hmember,
    Bool.not_true, Bool.false_eq_true, or_self, if_false]

theorem isS_opc_of_fieldsOk {op : BitVec 8} {n : Nat} (hop : op ∈ [0x60, 0x61, 0x62, 0x63, 0x64, 0x65])
    (h : fieldsOk op w n = true) : isS w.opc = true := by
  simp only [List.mem_cons, List.not_mem_nil, or_false] at hop
  rcases hop with rfl | rfl | rfl | rfl | rfl | rfl <;> simp_all [fieldsOk]

/-- The operation takes its values from its instruction and its slot. -/
theorem takesValues_msgOp (kind : OpKind) (dst a : TDesc) (dest : Word) (win : List TDesc) (data : TDesc) :
    TakesValues s sl w (s.msgOp sl w kind dst a dest win data) :=
  ⟨rfl, rfl, rfl, rfl, rfl, rfl, rfl, ofNat_bits .., ofNat_bits .., rfl, rfl, rfl⟩

theorem ctxv_msgOp (hc : isS w.opc = true) (kind : OpKind) (dst a : TDesc) (dest : Word) (win : List TDesc) (data : TDesc) :
    (s.msgOp sl w kind dst a dest win data).ctxv = slotS (s.slot sl) w.opc.toNat := by
  have hlt : w.opc.toNat < 32 := of_decide_eq_true hc
  exact congrArg (slotS (s.slot sl)) (Nat.mod_eq_of_lt hlt)

/-- The operation of an instruction with a window and a tensor. -/
def winOp (s : State) (sl : Nat) (w : JWord) (kind : OpKind) (win data : TDesc) : Op :=
  s.msgOp sl w kind (valT (s.slot sl) w.opa) (valT (s.slot sl) w.opb) 0 [win] data

/-- An instruction with a window issues its operation, whose segments are those of the data operand (R51, R89). -/
theorem issueWin_issues {kind : OpKind} {win data : TDesc} (hkind : kind ≠ .send ∧ kind ≠ .recv)
    (hissue : s.issueWin sl w kind =
      (s.issueMsg sl w (winOp s sl w kind win data) [win] data).startSegs (winOp s sl w kind win data).id)
    (hsrc : (winOp s sl w kind win data).segSrc = data) (hc : isS w.opc = true) (hcan : s.canOp sl = true)
    (hok : MessageOk s (s.slot sl).inst (slotS (s.slot sl) w.opc.toNat) w [win] data (kind == .putacc))
    (hsegs : segsOk data (groupAll [win, data]) = true)
    (hlen : data.denseBytes (data.segment (groupAll [win, data]) 0).1 (data.segment (groupAll [win, data]) 0).2 ≤ 2 ^ 28)
    (hgroup : kind = .mput → s.groupOk (s.slot sl).inst (slotS (s.slot sl) w.opc.toNat) = true) :
    ∃ o u, Issues s sl (.next (s.issueWin sl w kind)) o u ∧ TakesValues s sl w o ∧ o.kind = kind
      ∧ o.dst = valT (s.slot sl) w.opa ∧ o.a = valT (s.slot sl) w.opb ∧ o.ctxv = slotS (s.slot sl) w.opc.toNat := by
  obtain ⟨hsend, hrecv⟩ := hkind
  have hctx : (winOp s sl w kind win data).ctxv = slotS (s.slot sl) w.opc.toNat := ctxv_msgOp hc ..
  have hpart : (winOp s sl w kind win data).part 0 = data.segment (groupAll [win, data]) 0 := by
    have hnot : ¬ ((winOp s sl w kind win data).kind = .send ∨ (winOp s sl w kind win data).kind = .recv) :=
      not_or.mpr ⟨hsend, hrecv⟩
    rw [Op.part, if_neg hnot, hsrc]; rfl
  rw [hissue, issueMsg_accepted hcan (by rw [hctx]; exact hok) (by rw [Bool.or_eq_true]; exact .inr hsegs)
    (by rw [hpart]; exact hlen) (by rw [hctx]; exact hgroup)]
  exact ⟨_, _, issues_addOp rfl rfl rfl, takesValues_msgOp .., rfl, rfl, rfl, hctx⟩

/-- The one operand of a SEND or a RECV is its one segment (R91). -/
theorem issueMsg_one {o : Op} {data : TDesc} (hone : o.kind = .send ∨ o.kind = .recv) (hsrc : o.segSrc = data)
    (hcan : s.canOp sl = true) (hok : MessageOk s (s.slot sl).inst o.ctxv w [] data false)
    (hlen : data.denseBytes 0 data.count ≤ 2 ^ 28) : s.issueMsg sl w o [] data = s.addOp o := by
  have hpart : o.part 0 = (0, data.count) := by rw [Op.part, if_pos hone, hsrc]
  have hacc : (o.kind == .putacc) = false ∧ (o.kind == .send || o.kind == .recv) = true ∧ o.kind ≠ .mput := by
    obtain h | h := hone <;> rw [h] <;> decide
  obtain ⟨hnacc, hany, hnmput⟩ := hacc
  exact issueMsg_accepted hcan (by rw [hnacc]; exact hok) (by rw [hany, Bool.true_or]) (by rw [hpart]; exact hlen)
    (fun h => absurd h hnmput)

end Messages

theorem windowInstructionsIssue : MessageInstructionsIssue := by
  intro s sl w x d a c g short ok
  have hopc {op : BitVec 8} (hop : op ∈ [0x60, 0x61, 0x62, 0x63, 0x64, 0x65]) (h : ok op) : isS w.opc = true :=
    isS_opc_of_fieldsOk hop h.2.1
  refine ⟨fun h hok hshort => ?put, fun h hok hshort => ?get, fun h hok hshort hgroup => ?mput, fun h hok hshort => ?putacc⟩ <;>
    have hc := hopc (by decide) h <;> obtain ⟨hready, hf, hcan⟩ := h <;> obtain ⟨hsegs, hlen⟩ := hshort
  case put =>
    rw [exec_put hready hf]
    exact issueWin_issues (by decide) rfl rfl hc hcan hok hsegs hlen nofun
  case get =>
    rw [exec_get hready hf]
    exact issueWin_issues (by decide) rfl rfl hc hcan hok hsegs hlen nofun
  case mput =>
    rw [exec_mput hready hf]
    exact issueWin_issues (by decide) rfl rfl hc hcan hok hsegs hlen fun _ => hgroup
  case putacc =>
    rw [exec_putacc hready hf]
    exact issueWin_issues (by decide) rfl rfl hc hcan hok hsegs hlen nofun

/-! ## Buffers that RECVs post (R255) -/

section Posting

variable {s : State}

/-- A RECV that has not been posted. -/
def WaitsToPost (s : State) (o : Op) : Prop := o.kind = .recv ∧ o.done = false ∧ ∀ b ∈ s.posted, b.op ≠ o.id

/-- The buffer of a RECV, once more than those posted. -/
def posting (s : State) (o : Op) : State :=
  { s with posted := s.posted ++ [⟨o.id, o.ctxv.setWidth 20, o.match_, o.dst.denseBytes 0 o.dst.count, none⟩] }

/-- What posting waiting RECVs does for one operation. -/
def postOne (s : State) (o : Op) : State :=
  if o.kind = .recv ∧ !o.done ∧ !s.posted.any (fun b => b.op == o.id) ∧ s.posted.length < 16384 then posting s o else s

theorem postWaiting_eq (s : State) : s.postWaiting = s.ops.foldl postOne s := rfl

theorem waitsToPost_iff (s : State) (o : Op) : WaitsToPost s o ↔
    o.kind = .recv ∧ (!o.done) = true ∧ (!s.posted.any (fun b => b.op == o.id)) = true := by
  simp [WaitsToPost]

theorem postOne_waits {o : Op} (h : WaitsToPost s o) (hroom : s.posted.length < 16384) : postOne s o = posting s o := by
  obtain ⟨hkind, hdone, hfree⟩ := (waitsToPost_iff s o).mp h
  exact if_pos ⟨hkind, hdone, hfree, hroom⟩

theorem postOne_stays {o : Op} (h : ¬ WaitsToPost s o ∨ 16384 ≤ s.posted.length) : postOne s o = s := by
  refine if_neg ?_
  rintro ⟨hkind, hdone, hfree, hroom⟩
  obtain h | h := h
  · exact h ((waitsToPost_iff s o).mpr ⟨hkind, hdone, hfree⟩)
  · omega

theorem foldl_postOne_stays {l : List Op} (h : ∀ o ∈ l, ¬ WaitsToPost s o ∨ 16384 ≤ s.posted.length) :
    l.foldl postOne s = s :=
  List.foldlRecOn (motive := fun t => t = s) l postOne rfl fun t ht o ho => by rw [ht]; exact postOne_stays (h o ho)

/-- Where no earlier RECV waits and the table has room, the last operation posts its buffer. -/
theorem postWaiting_last {l : List Op} {o : Op} (hops : s.ops = l ++ [o]) (hroom : s.posted.length < 16384)
    (hearlier : ∀ y ∈ l, ¬ WaitsToPost s y) (ho : WaitsToPost s o) : s.postWaiting = posting s o := by
  rw [postWaiting_eq, hops, List.foldl_append, foldl_postOne_stays fun y hy => .inl (hearlier y hy)]
  exact postOne_waits ho hroom

theorem postWaiting_full (h : 16384 ≤ s.posted.length) : s.postWaiting = s := foldl_postOne_stays fun _ _ => .inr h

/-- Issue counts in the registers of the debug block alone. -/
theorem reg_addOp (s : State) (o : Op) {a : Nat} (ha : a < 0x1C0000) : (s.addOp o).reg a = s.reg a := by
  have hcount {b : Nat} (hb : 0x1C0000 ≤ b) (t : State) (n : Nat) : (t.count b n).reg a = t.reg a := by
    rw [reg_count, if_neg (by omega)]
  have htrace (t : State) : (t.traceOp o 0 0 0).reg a = t.reg a := by
    unfold State.traceOp State.stage
    split
    · split
      · rfl
      · exact hcount (by decide) _ _
    · rfl
  have hretire : a ≠ Reg.DBG_CNT (o.sl / 4) 1 := by unfold Reg.DBG_CNT; omega
  rw [addOp_eq, State.retire, reg_retireTo, if_neg hretire, counted, htrace]
  refine tagCount_induction (P := fun t : State => t.reg a = s.reg a) ?_ (fun t i ht => (hcount ?_ t _).trans ht) _
  · exact hcount (by unfold Reg.DBG_CNT; omega) _ _
  · unfold Reg.DBG_TAG_CNT; omega

/-- What becomes of an issued RECV changes the posted buffers and the count of waiting ones alone. -/
theorem recvCounted_frame (s : State) (op : Nat) : ({ recvCounted s.postWaiting op with regs := [], posted := [] } : State) =
    { s with regs := [], posted := [] } := by
  have hpost := congrArg (fun t : State => { t with regs := [] }) (postWaiting_frame s)
  unfold recvCounted
  split
  · exact hpost
  · exact hpost

/-- What becomes of an issued RECV leaves the operations, the slots and the stores. -/
theorem recvCounted_keeps (s : State) (op : Nat) : (recvCounted s.postWaiting op).ops = s.ops
    ∧ (∀ i, (recvCounted s.postWaiting op).slot i = s.slot i) ∧ SameStores s (recvCounted s.postWaiting op) := by
  have hframe := recvCounted_frame s op
  generalize recvCounted s.postWaiting op = t at *
  exact ⟨(congrArg State.ops hframe :), fun i => congrArg (tget Slot.init · i) (congrArg State.slots hframe :),
    (congrArg State.mem hframe :), (congrArg State.tmem hframe :), (congrArg State.nbuf hframe :),
    (congrArg State.pio hframe :), (congrArg State.sems hframe :)⟩

/-- The last operation, a RECV, posts its buffer where it may, and is not counted. -/
theorem recvCounted_posts {l : List Op} {o : Op} (hops : s.ops = l ++ [o]) (hroom : s.posted.length < 16384)
    (hearlier : ∀ y ∈ l, ¬ WaitsToPost s y) (ho : WaitsToPost s o) : recvCounted s.postWaiting o.id = posting s o := by
  rw [postWaiting_last hops hroom hearlier ho]
  refine if_neg ?_
  rintro ⟨-, hfree⟩
  simp [posting] at hfree

/-- Where the table is full, a RECV whose buffer is not posted is counted. -/
theorem recvCounted_full {o : Op} (ho : o ∈ s.ops) (hfree : ∀ b ∈ s.posted, b.op ≠ o.id) (hfull : 16384 ≤ s.posted.length) :
    recvCounted s.postWaiting o.id = s.bump (Reg.WIN_CNT 11) := by
  rw [postWaiting_full hfull]
  refine if_pos ⟨?_, ?_⟩
  · rw [State.op?, List.find?_isSome]
    exact ⟨o, ho, decide_eq_true rfl⟩
  · simpa using hfree

theorem sameStores_addOp (s : State) (o : Op) : SameStores s (s.addOp o) := by
  have hframe := addOp_frame s o
  generalize s.addOp o = t at *
  exact ⟨(congrArg State.mem hframe :), (congrArg State.tmem hframe :), (congrArg State.nbuf hframe :),
    (congrArg State.pio hframe :), (congrArg State.sems hframe :)⟩

theorem sameStores_trans {t u : State} (h : SameStores s t) (k : SameStores t u) : SameStores s u := by
  obtain ⟨hmem, htmem, hnbuf, hpio, hsems⟩ := h
  obtain ⟨kmem, ktmem, knbuf, kpio, ksems⟩ := k
  exact ⟨kmem.trans hmem, ktmem.trans htmem, knbuf.trans hnbuf, kpio.trans hpio, ksems.trans hsems⟩

end Posting

theorem sendAndReceiveIssue : SendAndReceiveIssue := by
  intro s sl w x d c ok waits
  refine ⟨fun h => ?send, fun h hposted _ => ?recv⟩ <;>
    obtain ⟨hready, hf, hcan, hok, hlen⟩ := h <;> have hc := isS_opc_of_fieldsOk (by decide) hf
  case send =>
    have hctx : (sendOp s sl w).ctxv = c := ctxv_msgOp hc ..
    have hissue : s.issueMsg sl w (sendOp s sl w) [] d = s.addOp (sendOp s sl w) :=
      issueMsg_one (.inl rfl) rfl hcan (hctx.symm ▸ hok) hlen
    rw [exec_send hready hf, hissue]
    exact ⟨_, _, issues_addOp rfl rfl rfl, takesValues_msgOp .., rfl, rfl, rfl, hctx⟩
  case recv =>
    have hctx : (recvOp s sl w).ctxv = c := ctxv_msgOp hc ..
    have hissue : s.issueMsg sl w (recvOp s sl w) [] d = s.addOp (recvOp s sl w) :=
      issueMsg_one (.inr rfl) rfl hcan (hctx.symm ▸ hok) hlen
    have hexec : exec (.recv sl w) s = .next (recvCounted (s.addOp (recvOp s sl w)).postWaiting (recvOp s sl w).id) := by
      rw [exec_recv hready hf, hissue]
    obtain ⟨-, hops, hid, -, -, hpc, hregs, -, -, -, -, -, -, hbufs⟩ :=
      issues_addOp (s := s) (sl := sl) (o := recvOp s sl w) rfl rfl rfl
    have hstores := sameStores_addOp s (recvOp s sl w)
    have hcnt : (s.addOp (recvOp s sl w)).reg (Reg.WIN_CNT 11) = s.reg (Reg.WIN_CNT 11) := reg_addOp s _ (by decide)
    obtain ⟨hops', hslot, hstores'⟩ := recvCounted_keeps (s.addOp (recvOp s sl w)) (recvOp s sl w).id
    refine ⟨_, recvOp s sl w, hexec, hops'.trans hops, takesValues_msgOp .., rfl, rfl, hctx, by rw [hslot, hpc],
      by rw [hslot]; exact hregs, sameStores_trans hstores hstores', ?_⟩
    have hfree : ∀ b ∈ (s.addOp (recvOp s sl w)).posted, b.op ≠ (recvOp s sl w).id := by rw [hbufs, hid]; exact hposted
    have hwaits (y : Op) : WaitsToPost (s.addOp (recvOp s sl w)) y ↔ waits y := by rw [WaitsToPost, hbufs]
    refine ⟨fun hroom hearlier => ?_, fun hfull => ?_⟩
    · have hmatch : (recvOp s sl w).match_ = w.imm.extractLsb' 40 24 := ofNat_bits ..
      rw [recvCounted_posts hops (hbufs ▸ hroom) (fun y hy h => hearlier y hy ((hwaits y).mp h)) ⟨rfl, rfl, hfree⟩, posting,
        hbufs, hctx, hmatch]
      exact ⟨rfl, hcnt.trans (BitVec.add_zero _).symm⟩
    · rw [recvCounted_full (by rw [hops]; simp) hfree (hbufs ▸ hfull), Counts, reg_bump, if_pos rfl, hcnt]
      exact ⟨hbufs, rfl⟩

/-- Settles O10: each message instruction adds one operation, and a RECV then posts its buffer or is counted. -/
theorem messageInstructionsIssue : Obligations.MessageInstructionsIssue := ⟨windowInstructionsIssue, sendAndReceiveIssue⟩

end Sys2Proof.Proofs
end

section
/-!
PROOF. The fields of a word after one of them was written, the bytes that a word spells, and the entries of a table after a
filter of its indices.
-/

namespace Sys2Proof.Proofs

open Sys2Proof.Machine Sys2Proof.Laws Sys2Proof.Claims

/-! ## Fields of words -/

theorem getLsbD_putBits (v : Word) (lo w x i : Nat) : (putBits v lo w x).getLsbD i =
    if lo ≤ i ∧ i < lo + w then decide (i < 64) && x.testBit (i - lo) else v.getLsbD i := by
  by_cases hi : i < 64
  · simp only [putBits, BitVec.getLsbD_or, BitVec.getLsbD_and, BitVec.getLsbD_not, BitVec.getLsbD_ofNat, hi, decide_true,
      Bool.true_and, Nat.testBit_shiftLeft, Nat.testBit_two_pow_sub_one, Nat.testBit_mod_two_pow, ge_iff_le]
    by_cases hlo : lo ≤ i
    · by_cases hw : i < lo + w
      · simp [hlo, hw, show i - lo < w by omega]
      · simp [hw, show ¬ i - lo < w by omega]
    · simp [hlo]
  · simp [BitVec.getLsbD_of_ge _ i (Nat.le_of_not_lt hi), hi]

theorem testBit_bits (v : Word) (lo w i : Nat) : (bits v lo w).testBit i = (decide (i < w) && v.getLsbD (lo + i)) := by
  rw [bits, Nat.testBit_mod_two_pow, Nat.testBit_shiftRight]; rfl

theorem bits_putBits_self {lo w : Nat} (h : lo + w ≤ 64) (v : Word) (x : Nat) : bits (putBits v lo w x) lo w = x % 2 ^ w := by
  refine Nat.eq_of_testBit_eq fun i => ?_
  rw [testBit_bits, getLsbD_putBits, Nat.testBit_mod_two_pow]
  by_cases hi : i < w
  · rw [if_pos (by omega), decide_eq_true (show lo + i < 64 by omega), Bool.true_and, Nat.add_sub_cancel_left]
  · simp only [hi, decide_false, Bool.false_and]

theorem bits_putBits_disjoint {lo w lo' w' : Nat} (h : lo + w ≤ lo' ∨ lo' + w' ≤ lo) (v : Word) (x : Nat) :
    bits (putBits v lo w x) lo' w' = bits v lo' w' := by
  refine Nat.eq_of_testBit_eq fun i => ?_
  rw [testBit_bits, testBit_bits, getLsbD_putBits]
  by_cases hi : i < w'
  · rw [if_neg (by omega)]
  · simp only [hi, decide_false, Bool.false_and]

theorem fld_setFld_self (s : State) (a : Nat) {lo w : Nat} (h : lo + w ≤ 64) (x : Nat) :
    (s.setFld a lo w x).fld a lo w = x % 2 ^ w := by
  rw [State.fld, State.setFld, reg_setReg_self, bits_putBits_self h]

theorem fld_setFld_disjoint (s : State) (a : Nat) {lo w lo' w' : Nat} (h : lo + w ≤ lo' ∨ lo' + w' ≤ lo) (x : Nat) :
    (s.setFld a lo w x).fld a lo' w' = s.fld a lo' w' := by
  rw [State.fld, State.setFld, reg_setReg_self, bits_putBits_disjoint h, State.fld]

theorem reg_setFld_ne (s : State) {a b : Nat} (h : b ≠ a) (lo w x : Nat) : (s.setFld a lo w x).reg b = s.reg b := by
  rw [State.setFld, reg_setReg, if_neg h]

/-! ## Bytes of words -/

theorem ofLe_leBytes (n k : Nat) : ofLe (leBytes n k) = n % 256 ^ k := by
  induction k generalizing n with
  | zero => rw [pow_zero, Nat.mod_one]; rfl
  | succ k ih =>
    rw [leBytes, ofLe, ih, BitVec.toNat_ofNat, pow_succ' 256 k]
    exact Nat.mod_mul.symm

/-- With every byte enabled a read gives the whole word (R167). -/
theorem maskBytes_full (v : Word) : maskBytes v 0xFF = v := by
  have hall : (leBytes v.toNat 8).zipIdx.map (fun p => if (0xFF : BitVec 8).getLsbD p.2 then p.1 else 0) = leBytes v.toNat 8 := by
    refine (List.map_congr_left fun p hp => if_pos ?_).trans (List.zipIdx_map_fst 0 (leBytes v.toNat 8))
    have hlt : p.2 < 8 := by simpa [length_leBytes] using List.snd_lt_of_mem_zipIdx hp
    exact (by decide : ∀ i < 8, (0xFF : BitVec 8).getLsbD i = true) p.2 hlt
  have hlt : v.toNat < 256 ^ 8 := v.isLt
  rw [maskBytes, hall, ofLe_leBytes, Nat.mod_eq_of_lt hlt, BitVec.ofNat_toNat, BitVec.setWidth_eq]

/-! ## Entries of tables -/

/-- A filter of the indices keeps what lies at those that pass it. -/
theorem tget_filter_index {α : Type} (d : α) (t : Tab α) (keep : Nat → Bool) (i : Nat) :
    tget d (t.filter fun e => keep e.1) i = if keep i = true then tget d t i else d := by
  induction t with
  | nil => exact (ite_self d).symm
  | cons e t ih =>
    obtain ⟨k, v⟩ := e
    rw [List.filter_cons]
    by_cases hkeep : keep k = true
    · rw [if_pos hkeep, tget, tget, ih]
      by_cases hk : k = i
      · rw [if_pos hk, if_pos hk, if_pos (hk ▸ hkeep)]
      · rw [if_neg hk, if_neg hk]
    · rw [if_neg hkeep, ih, tget]
      by_cases hk : k = i
      · rw [if_neg (hk ▸ hkeep), if_neg (hk ▸ hkeep)]
      · rw [if_neg hk]

end Sys2Proof.Proofs
end

section
/-!
PROOF. Semaphore cells (R165 to R168, R170, R173), the zeroing of a page and the write of a barrier (R184, R185).
-/

namespace Sys2Proof.Proofs

open Sys2Proof.Machine Sys2Proof.Laws Sys2Proof.Claims

/-! ## What the waiters of a semaphore leave alone -/

/-- A state without its slots and registers. -/
def exceptRetired (s : State) : State := { s with slots := [], regs := [] }

theorem exceptRetired_semWake (s : State) (id : BitVec 16) : exceptRetired (s.semWake id) = exceptRetired s :=
  semWake_induction (P := fun t => exceptRetired t = exceptRetired s) rfl (fun t sl h => (retireTo_frame t sl _).trans h) id

theorem reg_semWake (s : State) {a : Nat} (h : a < 0x1C0000) (id : BitVec 16) : (s.semWake id).reg a = s.reg a := by
  refine semWake_induction (P := fun t => t.reg a = s.reg a) rfl (fun t sl ht => ?_) id
  rw [State.retire, reg_retireTo, if_neg (by unfold Reg.DBG_CNT; omega), ht]

section Plain

variable {s : State} {id : BitVec 16}

theorem reg_putSat (s : State) (id : BitVec 16) (r : Word × Bool) {a : Nat} (h : a ≠ Reg.SEM_CNT_SAT) :
    (s.putSat id r).reg a = s.reg a := by
  unfold State.putSat
  split
  · rw [reg_bump, if_neg h]; rfl
  · rfl

theorem reg_semEffect (hbar : s.isBar id = false) (act : SemAct) {a : Nat} (h : a ≠ Reg.SEM_CNT_SAT) :
    (s.semEffect id act).reg a = s.reg a := by
  cases act with
  | add v => simp only [State.semEffect, hbar, Bool.false_eq_true, if_false]; exact reg_putSat s id _ h
  | sub v => simp only [State.semEffect, hbar, Bool.false_eq_true, if_false]; exact reg_putSat s id _ h
  | set v => simp only [State.semEffect, hbar, Bool.false_eq_true, if_false]; rfl
  | read => rfl
  | wait => rfl

/-- An operation on a semaphore that is not poisoned is counted once (R186). -/
theorem counts_semApply (hbar : s.isBar id = false) (hpoison : s.semPoisoned id = false) (act : SemAct) :
    Counts s (s.semApply id act).2.2 Reg.SEM_CNT_OPS 1 := by
  rw [Counts, semApply_eq hpoison, reg_semWake _ (by decide), reg_semEffect (isBar_counted hbar) act (by decide), reg_bump,
    if_pos rfl]
  rfl

theorem sems_semApply_read (hpoison : s.semPoisoned id = false) : (s.semApply id .read).2.2.sems = s.sems := by
  rw [semApply_eq hpoison, (runs_semWake _ id).sems]; rfl

end Plain

/-! ## Accesses to cells (R165 to R168) -/

section Cells

variable {s : State} {p : Path} {sem : BitVec 16}

theorem exec_cellSet (h : s.cellPath p = true) (v : Word) (be : BitVec 8) :
    exec (.cellSet p sem v be) s = .next ((s.tlp p 8).cellWord p sem 0 v be) := if_pos h

theorem exec_cellAdd (h : s.cellPath p = true) (v : Word) (be : BitVec 8) :
    exec (.cellAdd p sem v be) s = .next ((s.tlp p 8).cellWord p sem 1 v be) := if_pos h

theorem exec_cellSubtract (h : s.cellPath p = true) (v : Word) (be : BitVec 8) :
    exec (.cellSubtract p sem v be) s = .next ((s.tlp p 8).cellWord p sem 2 v be) := if_pos h

theorem exec_cellRead (h : s.cellPath p = true) (k : Fin 8) (be : BitVec 8) :
    exec (.cellRead p ⟨sem, k⟩ be) s = .next ((s.tlp p 8).cellRead p sem k be) := if_pos h

/-- What a write to a word of a cell does to its semaphore (R167). -/
def cellAct (word : Nat) (v : Word) : SemAct := if word = 0 then .set v else if word = 1 then .add v else .sub v

theorem cellWord_plain (hcell : s.semCell p sem = true) (hplain : PlainSem s sem) {word : Nat} (hword : word < 3) (v : Word) :
    s.cellWord p sem word v 0xFF = (s.semApply sem (cellAct word v)).2.2 := by
  obtain ⟨hbar, -, hzeroing⟩ := hplain
  have hpass : ¬ ((0xFF : BitVec 8) ≠ 0xFF ∨ 3 ≤ word ∨ (!s.semCell p sem) = true) := by
    simp only [hcell, ne_eq, not_true_eq_false, Bool.not_true, Bool.false_eq_true, false_or, or_false]; omega
  simp only [State.cellWord, if_neg hpass, hbar, hzeroing, Bool.false_eq_true, false_and, if_false,
    if_neg (by decide : (0xFF : BitVec 8) ≠ 0)]
  rfl

/-- A write without full byte enables, or by a path to which the page gives no access, is counted and changes nothing else. -/
theorem cellWord_refused {be : BitVec 8} (hbe : be ≠ 0) (h : s.semCell p sem = false ∨ be ≠ 0xFF) (word : Nat) (v : Word) :
    s.cellWord p sem word v be = s.bump Reg.SEM_CNT_REFUSED := by
  have hrefused : be ≠ 0xFF ∨ 3 ≤ word ∨ (!s.semCell p sem) = true := by
    obtain h | h := h
    · exact .inr (.inr (by rw [h]; rfl))
    · exact .inl h
  simp only [State.cellWord, if_neg hbe, if_pos hrefused]

/-- Data for a read of a cell is a message on its path that Tally does not count. -/
theorem emit_data (s : State) (p : Path) (v : Word) : s.emit (.data p v) = { s with out := s.out ++ [.data p v] } :=
  emit_unmetered s _ rfl

theorem cellRead_denied (h : s.semCell p sem = false) (word : Nat) (be : BitVec 8) :
    s.cellRead p sem word be = (s.bump Reg.SEM_CNT_REFUSED).emit (.data p 0) := by
  simp only [State.cellRead, h, Bool.not_false, if_true]

theorem cellRead_other {word : Nat} (h : s.semCell p sem = true) (hword : word ≠ 0) (be : BitVec 8) :
    s.cellRead p sem word be = s.emit (.data p 0) := by
  simp only [State.cellRead, h, hword, Bool.not_true, Bool.false_eq_true, ne_eq, not_false_eq_true, if_true, if_false]

theorem cellRead_plain (h : s.semCell p sem = true) (hplain : PlainSem s sem) (be : BitVec 8) : s.cellRead p sem 0 be =
    (s.semApply sem .read).2.2.emit (.data p (maskBytes (tget 0 s.sems sem.toNat) be)) := by
  obtain ⟨hbar, hpoison, hzeroing⟩ := hplain
  have hvalue : s.semValue sem = tget 0 s.sems sem.toNat := by rw [State.semValue, hbar]; rfl
  simp only [State.cellRead, State.cellAnswer, State.semApply, h, hzeroing, hpoison, hvalue, Bool.not_true, Bool.false_eq_true,
    ne_eq, not_true_eq_false, if_false]

/-- The outcome leaves `n` in semaphore `sem` and counts the operation; every other semaphore and the stores are unchanged. -/
def AppliesCell (s : State) (sem : BitVec 16) (n : Nat) (o : Out) : Prop :=
  ∃ t, o = .next t ∧ (tget 0 t.sems sem.toNat).toNat = n
    ∧ (∀ j : BitVec 16, j ≠ sem → tget 0 t.sems j.toNat = tget 0 s.sems j.toNat)
    ∧ Counts s t Reg.SEM_CNT_OPS 1 ∧ t.mem = s.mem ∧ t.tmem = s.tmem ∧ t.nbuf = s.nbuf ∧ t.ops = s.ops

theorem appliesCell_cellWord (hcell : s.semCell p sem = true) (hplain : PlainSem s sem) {word : Nat} (hword : word < 3)
    (v : Word) : AppliesCell s sem (semResult (tget 0 s.sems sem.toNat) (cellAct word v)).toNat
      (.next (s.cellWord p sem word v 0xFF)) := by
  rw [cellWord_plain hcell hplain hword]
  obtain ⟨hbar, hpoison, -⟩ := hplain
  refine ⟨_, rfl, ?_, fun j hj => ?_, counts_semApply hbar hpoison _,
    stores_of_exceptSems (exceptSems_semApply hbar hpoison _)⟩
  · rw [sems_semApply hbar hpoison, if_pos rfl]
  · rw [sems_semApply hbar hpoison, if_neg fun h => hj (BitVec.eq_of_toNat_eq h)]

/-- The outcome counts a refused access and changes no other register and nothing but registers. -/
def RefusesCell (s : State) (o : Out) : Prop :=
  ∃ t, o = .next t ∧ Counts s t Reg.SEM_CNT_REFUSED 1 ∧ RegsBut s t [Reg.SEM_CNT_REFUSED] ∧ OnlyRegs s t

theorem counts_bump (s : State) (a : Nat) : Counts s (s.bump a) a 1 := by rw [Counts, reg_bump, if_pos rfl]; rfl

theorem regsBut_bump (s : State) (a : Nat) : RegsBut s (s.bump a) [a] := fun b hb => by
  rw [reg_bump, if_neg (by simpa using hb)]

theorem refusesCell_cellWord {be : BitVec 8} (hbe : be ≠ 0) (h : s.semCell p sem = false ∨ be ≠ 0xFF) (word : Nat) (v : Word)
    (tally : Tally) : RefusesCell s (.next (({ s with tally := tally } : State).cellWord p sem word v be)) := by
  rw [cellWord_refused (s := { s with tally := tally }) hbe h]
  exact ⟨_, rfl, counts_bump _ _, regsBut_bump _ _, rfl⟩

/-- A read of the value of a plain semaphore answers with its enabled bytes, and is counted. -/
theorem cellRead_answers (h : s.semCell p sem = true) (hplain : PlainSem s sem) (be : BitVec 8) :
    let t := s.cellRead p sem 0 be
    t.out = s.out ++ [.data p (maskBytes (tget 0 s.sems sem.toNat) be)] ∧ t.sems = s.sems ∧ Counts s t Reg.SEM_CNT_OPS 1 := by
  rw [cellRead_plain h hplain, emit_data]
  obtain ⟨hbar, hpoison, -⟩ := hplain
  have hout : (s.semApply sem .read).2.2.out = s.out := (congrArg State.out (exceptSems_semApply hbar hpoison .read) :)
  exact ⟨by dsimp only; rw [hout], sems_semApply_read hpoison, counts_semApply hbar hpoison .read⟩

end Cells

theorem cellAccesses : CellAccesses := by
  intro s p sem v be hpath old done refused
  obtain ⟨tally, htlp⟩ := tlp_eq s p 8
  simp only [exec_cellSet hpath, exec_cellAdd hpath, exec_cellSubtract hpath, exec_cellRead hpath, htlp]
  refine ⟨fun hcell hplain => ⟨fun hbe => ?write, ?read⟩, fun hbe h => ?refused, fun k hk hcell => ?other,
    fun k hdenied => ?denied⟩
  case write =>
    subst hbe
    have happly (word : Nat) (hword : word < 3) :
        done (.next (({ s with tally := tally } : State).cellWord p sem word v 0xFF))
          (semResult (tget 0 s.sems sem.toNat) (cellAct word v)).toNat :=
      appliesCell_cellWord (s := { s with tally := tally }) hcell hplain hword v
    refine ⟨happly 0 (by decide), ?_, ?_⟩
    · rw [← satAdd_toNat_eq_min]; exact happly 1 (by decide)
    · rw [← satSub_toNat]; exact happly 2 (by decide)
  case read =>
    obtain ⟨hout, hsems, hcount⟩ := cellRead_answers (s := { s with tally := tally }) hcell hplain be
    exact ⟨_, _, rfl, hout, fun hfull => by rw [hfull, maskBytes_full], hsems, hcount⟩
  case refused =>
    exact ⟨refusesCell_cellWord hbe h 0 v tally, refusesCell_cellWord hbe h 1 v tally, refusesCell_cellWord hbe h 2 v tally⟩
  case other =>
    have hword : k.val ≠ 0 := fun h => hk (Fin.ext h)
    rw [cellRead_other (s := { s with tally := tally }) hcell hword, emit_data]
    exact ⟨_, rfl, rfl, rfl⟩
  case denied =>
    rw [cellRead_denied (s := { s with tally := tally }) hdenied, emit_data]
    exact ⟨_, rfl, rfl, counts_bump _ _, rfl, rfl, rfl, rfl, rfl⟩

/-! ## The zeroing of a page (R185) -/

/-- The state once page `n` reads zero and none of its words is poisoned, before its barriers start over. -/
def clearedPage (s : State) (n : Nat) : State :=
  { s with
    zeroing := none
    sems := s.sems.filter (fun e => e.1 / 256 ≠ n)
    poison := s.poison.filter (fun e => e.1 / 64 ≠ n) }

theorem exceptRetired_zeroPage (s : State) (n : Nat) : exceptRetired (s.zeroPage n) = exceptRetired (clearedPage s n) := by
  unfold State.zeroPage
  dsimp only
  split
  · exact List.foldlRecOn (motive := fun t => exceptRetired t = exceptRetired (clearedPage s n)) _ _ rfl fun t ht b _ => ht
  · rfl

theorem applyAll_none {s : State} (h : s.semHeld = []) (n : Nat) : s.applyAll n = s := by
  cases n with
  | zero => rfl
  | succ n => rw [State.applyAll, h]

/-- Where no operation is held, the end of zeroing clears the page; all else that changes is slots and registers. -/
theorem exceptRetired_pageZeroed {s : State} {n : Nat} (hzeroing : s.zeroing = some n) (hheld : s.semHeld = []) :
    exceptRetired s.pageZeroed = exceptRetired (clearedPage s n) := by
  have happly (t : State) (ht : exceptRetired t = exceptRetired (clearedPage s n)) :
      exceptRetired (t.applyAll t.semHeld.length) = exceptRetired (clearedPage s n) := by
    have hnone : t.semHeld = [] := (congrArg State.semHeld ht :).trans hheld
    rw [applyAll_none hnone, ht]
  unfold State.pageZeroed
  rw [hzeroing]
  refine happly _ (List.foldlRecOn (motive := fun t => exceptRetired t = exceptRetired (clearedPage s n)) _ _
    (exceptRetired_zeroPage s n) fun t ht sl _ => ?_)
  split
  · split
    · exact (exceptRetired_semWake t _).trans ht
    · exact ht
  · exact ht

theorem exec_pageZeroComplete {s : State} (h : s.alive = true) : exec .pageZeroComplete s = .next s.pageZeroed := if_pos h

theorem pageZeroed_clears {s : State} {n : Nat} (hzeroing : s.zeroing = some n) (hheld : s.semHeld = []) :
    let t := s.pageZeroed
    t.zeroing = none
      ∧ (∀ j, j / 256 = n → tget 0 t.sems j = 0) ∧ (∀ j, j / 256 ≠ n → tget 0 t.sems j = tget 0 s.sems j)
      ∧ (∀ k, k / 64 = n → tget false t.poison k = false) ∧ (∀ k, k / 64 ≠ n → tget false t.poison k = tget false s.poison k)
      ∧ t.mem = s.mem ∧ t.tmem = s.tmem ∧ t.nbuf = s.nbuf ∧ t.ops = s.ops := by
  have hframe := exceptRetired_pageZeroed hzeroing hheld
  have hsems : s.pageZeroed.sems = s.sems.filter fun e => e.1 / 256 ≠ n := (congrArg State.sems hframe :)
  have hpoison : s.pageZeroed.poison = s.poison.filter fun e => e.1 / 64 ≠ n := (congrArg State.poison hframe :)
  have hsem (j : Nat) := tget_filter_index (0 : Word) s.sems (fun i => i / 256 ≠ n) j
  have hword (k : Nat) := tget_filter_index false s.poison (fun i => i / 64 ≠ n) k
  dsimp only
  rw [hsems, hpoison]
  refine ⟨(congrArg State.zeroing hframe :), fun j hj => ?_, fun j hj => ?_, fun k hk => ?_, fun k hk => ?_,
    (congrArg State.mem hframe :), (congrArg State.tmem hframe :), (congrArg State.nbuf hframe :),
    (congrArg State.ops hframe :)⟩
  · rw [hsem, if_neg (by simpa using hj)]
  · rw [hsem, if_pos (by simpa using hj)]
  · rw [hword, if_neg (by simpa using hk)]
  · rw [hword, if_pos (by simpa using hk)]

/-! ## Writes of SEM_ZERO and SEM_BAR (R184, R185) -/

theorem exec_semZero {s : State} {p : Path} (h : Accepted s p Reg.SEM_ZERO) (v : Word) :
    exec (.semZero p v) s = .next ((s.tlp p 8).semZeroWrite v) :=
  congrArg Host.Outcome.next (mapWrite_accepted h _)

theorem exec_semBarWrite {s : State} {p : Path} {b : BitVec 8} (h : Accepted s p (Reg.SEM_BAR b.toNat)) (v : Word) :
    exec (.semBarWrite p b v) s = .next ((s.tlp p 8).semBarSet b.toNat v) :=
  congrArg Host.Outcome.next (mapWrite_accepted h _)

theorem semZeroWrite_eq (s : State) (v : Word) : s.semZeroWrite v =
    { s with zeroing := if bit v 8 = true ∧ s.zeroing = none then some (bits v 0 8) else s.zeroing } := by
  unfold State.semZeroWrite
  split <;> rfl

/-- A write of a barrier takes the participant count, clears the arrival count and keeps the generation. -/
theorem semBarSet_takes {s : State} {b : Nat} (hbarriers : s.barriers = true) (hzeroing : s.zeroing ≠ some 255) (v : Word) :
    let t := s.semBarSet b v
    t.fld (Reg.SEM_BAR b) 0 12 = bits v 0 12 ∧ t.fld (Reg.SEM_BAR b) 12 12 = 0
      ∧ t.fld (Reg.SEM_BAR b) 32 32 = s.fld (Reg.SEM_BAR b) 32 32
      ∧ RegsBut s t [Reg.SEM_BAR b] ∧ { t with regs := [] } = { s with regs := [] } := by
  rw [State.semBarSet, if_pos ⟨hbarriers, hzeroing⟩]
  refine ⟨?_, ?_, ?_, fun a ha => ?_, rfl⟩
  · rw [fld_setFld_disjoint _ _ (by decide), fld_setFld_self _ _ (by decide), bits_eq_div, Nat.mod_mod]
  · rw [fld_setFld_self _ _ (by decide), Nat.zero_mod]
  · rw [fld_setFld_disjoint _ _ (by decide), fld_setFld_disjoint _ _ (by decide)]
  · have hne : a ≠ Reg.SEM_BAR b := by simpa using ha
    rw [reg_setFld_ne _ hne, reg_setFld_ne _ hne]

theorem pageZeroing : PageZeroing := by
  intro s p v
  obtain ⟨tally, htlp⟩ := tlp_eq s p 8
  refine ⟨fun hacc => ?zero, fun n halive hzeroing hheld => ?complete, fun b hacc hbarriers hzeroing => ?barrier⟩
  case zero =>
    rw [exec_semZero hacc, htlp, semZeroWrite_eq]
    exact ⟨_, rfl, rfl, rfl⟩
  case complete =>
    rw [exec_pageZeroComplete halive]
    exact ⟨_, rfl, pageZeroed_clears hzeroing hheld⟩
  case barrier =>
    rw [exec_semBarWrite hacc, htlp]
    obtain ⟨hcount, harrived, hgen, hregs, hframe⟩ :=
      semBarSet_takes (s := { s with tally := tally }) (b := b.toNat) hbarriers hzeroing v
    exact ⟨_, rfl, hcount, harrived, hgen, hregs,
      (congrArg (fun t : State => { t with shadow := [], tally := s.tally }) hframe :)⟩

/-- Settles O17: an access to a cell is one operation on its semaphore or one refusal, and the end of zeroing clears its page. -/
theorem semaphoreCells : Obligations.SemaphoreCells := ⟨cellAccesses, pageZeroing⟩

end Sys2Proof.Proofs
end

section
/-!
PROOF. The Ephemeris schedule: commits, the swap of its banks and the copy (R200 to R202), the pulse (R203) and missed
slots (R198).
-/

namespace Sys2Proof.Proofs

open Sys2Proof.Machine Sys2Proof.Laws Sys2Proof.Claims

/-! ## Outcomes that leave fields out of account -/

/-- What Tally had counted before a command does not matter to what changes but registers. -/
theorem onlyRegs_of_tally {s t : State} {tally : Tally} (h : OnlyRegs { s with tally := tally } t) : OnlyRegs s t :=
  (congrArg (fun u : State => { u with tally := s.tally }) h :)

theorem flag_setFld_self (s : State) (a : Nat) {lo : Nat} (h : lo < 64) (x : Nat) :
    (s.setFld a lo 1 x).flag a lo = x.testBit 0 := by
  rw [State.flag, State.setFld, reg_setReg_self, bit, getLsbD_putBits, if_pos ⟨le_rfl, by omega⟩, decide_eq_true h,
    Bool.true_and, Nat.sub_self]

/-! ## Commits and swaps (R201) -/

section Commits

variable {s t : State}

/-- The shadow values of group `g` come into force. -/
def groupTaken (s : State) (g : Nat) : State :=
  (s.setReg (Reg.TIME_EPH_GRP_BASE g) (s.sh (Reg.TIME_EPH_GRP_BASE g))).setReg (Reg.TIME_EPH_GRP_CYCLE g)
    (s.sh (Reg.TIME_EPH_GRP_CYCLE g))

theorem reg_groupTaken (s : State) (g a : Nat) : (groupTaken s g).reg a =
    if a = Reg.TIME_EPH_GRP_BASE g ∨ a = Reg.TIME_EPH_GRP_CYCLE g then s.sh a else s.reg a := by
  rw [groupTaken, reg_setReg, reg_setReg]
  by_cases hcycle : a = Reg.TIME_EPH_GRP_CYCLE g
  · rw [if_pos hcycle, if_pos (.inr hcycle), hcycle]
  · by_cases hbase : a = Reg.TIME_EPH_GRP_BASE g
    · rw [if_neg hcycle, if_pos hbase, if_pos (.inl hbase), hbase]
    · rw [if_neg hcycle, if_neg hbase, if_neg (not_or.mpr ⟨hbase, hcycle⟩)]

/-- After several groups are taken, their registers hold the shadow values and every other register its own. -/
theorem reg_groupsTaken (s : State) (l : List Nat) (a : Nat) : (l.foldl groupTaken s).reg a =
    if ∃ g ∈ l, a = Reg.TIME_EPH_GRP_BASE g ∨ a = Reg.TIME_EPH_GRP_CYCLE g then s.sh a else s.reg a := by
  induction l generalizing s with
  | nil => simp
  | cons g l ih =>
    have hsh : (groupTaken s g).sh a = s.sh a := rfl
    rw [List.foldl_cons, ih, reg_groupTaken, hsh]
    simp only [List.exists_mem_cons_iff, ← ite_or, or_comm]

theorem groupsTaken_frame (s : State) (l : List Nat) :
    ({ l.foldl groupTaken s with regs := [] } : State) = { s with regs := [] } :=
  List.foldlRecOn (motive := fun t : State => ({ t with regs := [] } : State) = { s with regs := [] }) l groupTaken rfl
    fun _ ht _ _ => ht

theorem ephSwap_eq (s : State) : s.ephSwap = ({ (List.range 16).foldl groupTaken s with ephLive := [], ephCopyAt := s.ck }
    : State).setReg Reg.TIME_EPH_STATUS (BitVec.ofNat 64 (2 + 4 * (1 - s.fld Reg.TIME_EPH_STATUS 2 1))) := by
  unfold State.ephSwap groupTaken; rfl

/-- A swap changes registers, notes its time and forgets the openings that were noted, and does nothing else. -/
theorem ephSwap_frame (s : State) :
    ({ s.ephSwap with regs := [] } : State) = { s with regs := [], ephLive := [], ephCopyAt := s.ck } := by
  have hframe := groupsTaken_frame s (List.range 16)
  rw [ephSwap_eq]
  generalize (List.range 16).foldl groupTaken s = u at hframe ⊢
  exact (congrArg (fun v : State => { v with ephLive := [], ephCopyAt := s.ck }) hframe :)

theorem reg_ephSwap (s : State) {a : Nat} (h : a ≠ Reg.TIME_EPH_STATUS) : s.ephSwap.reg a =
    ((List.range 16).foldl groupTaken s).reg a := by
  rw [ephSwap_eq, reg_setReg, if_neg h]
  generalize (List.range 16).foldl groupTaken s = u
  rfl

theorem groups_ephSwap (s : State) {g : Nat} (hg : g < 16) :
    s.ephSwap.reg (Reg.TIME_EPH_GRP_BASE g) = s.sh (Reg.TIME_EPH_GRP_BASE g)
      ∧ s.ephSwap.reg (Reg.TIME_EPH_GRP_CYCLE g) = s.sh (Reg.TIME_EPH_GRP_CYCLE g) := by
  have hmem := List.mem_range.mpr hg
  refine ⟨?base, ?cycle⟩
  case base =>
    rw [reg_ephSwap s (by unfold Reg.TIME_EPH_GRP_BASE Reg.TIME_EPH_STATUS; omega), reg_groupsTaken,
      if_pos ⟨g, hmem, .inl rfl⟩]
  case cycle =>
    rw [reg_ephSwap s (by unfold Reg.TIME_EPH_GRP_CYCLE Reg.TIME_EPH_STATUS; omega), reg_groupsTaken,
      if_pos ⟨g, hmem, .inr rfl⟩]

theorem reg_ephSwap_late (s : State) : s.ephSwap.reg Reg.TIME_EPH_LATE = s.reg Reg.TIME_EPH_LATE := by
  rw [reg_ephSwap s (by decide), reg_groupsTaken, if_neg]
  rintro ⟨g, -, h⟩
  unfold Reg.TIME_EPH_GRP_BASE Reg.TIME_EPH_GRP_CYCLE Reg.TIME_EPH_LATE at h
  omega

/-- TIME_EPH_STATUS after a swap from bank `b`: the other bank is in force, the copy runs and no commit is armed. -/
theorem swapStatus_fields : ∀ b < 2, bits (BitVec.ofNat 64 (2 + 4 * (1 - b))) 2 1 = 1 - b
    ∧ bit (BitVec.ofNat 64 (2 + 4 * (1 - b))) 0 = false ∧ bit (BitVec.ofNat 64 (2 + 4 * (1 - b))) 1 = true := by decide

/-- The swap of the banks has the outcome of R201 and R202. -/
theorem swapped_ephSwap (s : State) : Swapped s s.ephSwap := by
  have hstatus : s.ephSwap.reg Reg.TIME_EPH_STATUS = BitVec.ofNat 64 (2 + 4 * (1 - s.fld Reg.TIME_EPH_STATUS 2 1)) := by
    rw [ephSwap_eq, reg_setReg_self]
  obtain ⟨hbank, hpending, hbusy⟩ := swapStatus_fields (s.fld Reg.TIME_EPH_STATUS 2 1) (Nat.mod_lt _ (by decide))
  have hgroups (g : Nat) (hg : g < 16) := groups_ephSwap s hg
  have hframe := ephSwap_frame s
  generalize s.ephSwap = t at hstatus hgroups hframe ⊢
  refine ⟨hgroups, ?_, ?_, ?_,
    (congrArg State.ephRows hframe :), (congrArg State.ephLive hframe :), (congrArg State.ephCopyAt hframe :),
    (congrArg (fun u : State => { u with shadow := [], tally := s.tally, ephLive := s.ephLive, ephCopyAt := s.ephCopyAt })
      hframe :)⟩
  · rw [State.fld, hstatus, hbank]
  · rw [State.flag, hstatus, hpending]
  · rw [State.flag, hstatus, hbusy]

/-- The count of late commits is none of the registers of which `Swapped` speaks. -/
theorem swapped_bump_late (h : Swapped s t) : Swapped s (t.bump Reg.TIME_EPH_LATE) := by
  have hreg {a : Nat} (ha : a ≠ Reg.TIME_EPH_LATE) : (t.bump Reg.TIME_EPH_LATE).reg a = t.reg a := by
    rw [reg_bump, if_neg ha]
  have hstatus := hreg (a := Reg.TIME_EPH_STATUS) (by decide)
  obtain ⟨hgroups, hbank, hpending, hbusy, hrows, hlive, hcopy, honly⟩ := h
  refine ⟨fun g hg => ?_, ?_, ?_, ?_, hrows, hlive, hcopy, honly⟩
  · rw [hreg (by unfold Reg.TIME_EPH_GRP_BASE Reg.TIME_EPH_LATE; omega),
      hreg (by unfold Reg.TIME_EPH_GRP_CYCLE Reg.TIME_EPH_LATE; omega)]
    exact hgroups g hg
  · rw [State.fld, hstatus]; exact hbank
  · rw [State.flag, hstatus]; exact hpending
  · rw [State.flag, hstatus]; exact hbusy

theorem swapped_of_tally {tally : Tally} (h : Swapped { s with tally := tally } t) : Swapped s t := by
  obtain ⟨hgroups, hbank, hpending, hbusy, hrows, hlive, hcopy, honly⟩ := h
  exact ⟨hgroups, hbank, hpending, hbusy, hrows, hlive, hcopy, onlyRegs_of_tally honly⟩

theorem counts_late_ephSwap (s : State) : Counts s s.ephSwap Reg.TIME_EPH_LATE 0 := by
  rw [Counts, reg_ephSwap_late, BitVec.add_zero]

theorem counts_late_ephSwap_bump (s : State) : Counts s (s.ephSwap.bump Reg.TIME_EPH_LATE) Reg.TIME_EPH_LATE 1 := by
  rw [Counts, reg_bump, if_pos rfl, reg_ephSwap_late]; rfl

/-! A write of TIME_EPH_COMMIT is discarded, takes effect at once, or arms a commit; EPHEMERIS_ACTIVATE carries the armed
one out. -/

theorem ephCommit_discarded {v : Word} (h : bit v 0 = false ∨ s.fld Reg.TIME_EPH_STATUS 0 2 ≠ 0) : s.ephCommit v = s := by
  refine if_pos ?_
  obtain h | h := h
  · simp [h]
  · simp [State.ephClosed, h]

theorem ephCommit_late {v : Word} (hgo : bit v 0 = true) (hopen : s.fld Reg.TIME_EPH_STATUS 0 2 = 0)
    (htime : s.reg Reg.TIME_EPH_ACT ≤ s.now) : s.ephCommit v = s.ephSwap.bump Reg.TIME_EPH_LATE :=
  (if_neg (by simp [State.ephClosed, hgo, hopen])).trans (if_pos htime)

theorem ephCommit_ahead {v : Word} (hgo : bit v 0 = true) (hopen : s.fld Reg.TIME_EPH_STATUS 0 2 = 0)
    (htime : s.now < s.reg Reg.TIME_EPH_ACT) : s.ephCommit v = s.setFld Reg.TIME_EPH_STATUS 0 1 1 :=
  (if_neg (by simp [State.ephClosed, hgo, hopen])).trans (if_neg (BitVec.not_le.mpr htime))

theorem exec_ephemerisCommit {p : Path} (h : Accepted s p Reg.TIME_EPH_COMMIT) (v : Word) :
    exec (.ephemerisCommit p v) s = .next ((s.tlp p 8).ephCommit v) :=
  congrArg Host.Outcome.next (mapWrite_accepted h _)

/-- A commit arms only where its time is still to come: commit_pending is set, and no other register changes. -/
theorem arms_setFld (s : State) : let t := s.setFld Reg.TIME_EPH_STATUS 0 1 1
    t.flag Reg.TIME_EPH_STATUS 0 = true ∧ RegsBut s t [Reg.TIME_EPH_STATUS] ∧ OnlyRegs s t :=
  ⟨flag_setFld_self s _ (by decide) 1, fun _ ha => reg_setFld_ne s (by simpa using ha) 0 1 1, rfl⟩

theorem exec_ephemerisActivate (hon : s.timeOn = true) (hpending : s.flag Reg.TIME_EPH_STATUS 0 = true)
    (htime : s.reg Reg.TIME_EPH_ACT ≤ s.now) : exec .ephemerisActivate s = .next s.ephSwap := if_pos ⟨hon, hpending, htime⟩

theorem exec_ephemerisActivate_waits (h : s.flag Reg.TIME_EPH_STATUS 0 = false ∨ s.now < s.reg Reg.TIME_EPH_ACT) :
    exec .ephemerisActivate s = .next s := by
  refine if_neg fun ⟨_, hpending, htime⟩ => ?_
  obtain h | h := h
  · exact absurd (h.symm.trans hpending) (by decide)
  · exact BitVec.not_le.mpr h htime

end Commits

/-! ## The copy of the active bank (R202) -/

section Copies

variable {α : Type}

/-- Of two tables one after the other, the second is read where the first lists nothing. -/
theorem tget_append_of_none (d : α) (t u : Tab α) (i : Nat) (h : ∀ e ∈ t, e.1 ≠ i) : tget d (t ++ u) i = tget d u i := by
  induction t with
  | nil => rfl
  | cons e t ih =>
    obtain ⟨hne, h⟩ := List.forall_mem_cons.mp h
    rw [List.cons_append, tget, if_neg hne, ih h]

/-- Where the second of two tables lists nothing, they read as the first alone. -/
theorem tget_append_of_none_right (d : α) (t u : Tab α) (i : Nat) (h : ∀ e ∈ u, e.1 ≠ i) : tget d (t ++ u) i = tget d t i := by
  induction t with
  | nil => exact (congrArg (tget d · i) (List.append_nil u).symm).trans (tget_append_of_none d u [] i h)
  | cons e t ih => rw [List.cons_append, tget, tget, ih]

/-- A table whose indices are renamed reads at a new index as it did at the only old one that takes that name. -/
theorem tget_map_index (d : α) (t : Tab α) (f : Nat → Nat) (i j : Nat) (h : ∀ e ∈ t, f e.1 = j ↔ e.1 = i) :
    tget d (t.map fun e => (f e.1, e.2)) j = tget d t i := by
  induction t with
  | nil => rfl
  | cons e t ih =>
    obtain ⟨hiff, h⟩ := List.forall_mem_cons.mp h
    rw [List.map_cons, tget, tget, ih h]
    simp only [hiff]

variable {s : State}

/-- The rows of bank `b`, listed at their numbers. -/
def bankRows (t : Tab EphRow) (b : Nat) : Tab EphRow :=
  (t.filter (fun (e : Nat × EphRow) => e.1 / 4096 = b)).map (fun (e : Nat × EphRow) => (e.1 % 4096, e.2))

theorem ephCopy_eq (s : State) : s.ephCopy =
    ({ s with ephRows := bankRows s.ephRows (s.fld Reg.TIME_EPH_STATUS 2 1)
        ++ (bankRows s.ephRows (s.fld Reg.TIME_EPH_STATUS 2 1)).map (fun (e : Nat × EphRow) => (4096 + e.1, e.2)) }
      : State).setFld Reg.TIME_EPH_STATUS 1 1 0 := rfl

theorem lt_of_mem_bankRows {t : Tab EphRow} {b : Nat} {e : Nat × EphRow} (h : e ∈ bankRows t b) : e.1 < 4096 := by
  obtain ⟨x, -, rfl⟩ := List.mem_map.mp h
  exact Nat.mod_lt _ (by decide)

theorem tget_bankRows (t : Tab EphRow) (b : Nat) {i : Nat} (hi : i < 4096) :
    tget (⟨0, 0⟩ : EphRow) (bankRows t b) i = tget ⟨0, 0⟩ t (4096 * b + i) := by
  have hin : decide ((4096 * b + i) / 4096 = b) = true := decide_eq_true (by omega)
  rw [bankRows, tget_map_index _ _ (· % 4096) (4096 * b + i), tget_filter_index _ t (fun k => k / 4096 = b), if_pos hin]
  intro e he
  have hbank : e.1 / 4096 = b := of_decide_eq_true (List.mem_filter.mp he).2
  omega

/-- After the copy each row of both banks is that of the bank in force. -/
theorem ephRows_ephCopy (s : State) {i : Nat} (hi : i < 4096) :
    let row := tget (⟨0, 0⟩ : EphRow) s.ephRows (4096 * s.fld Reg.TIME_EPH_STATUS 2 1 + i)
    tget (⟨0, 0⟩ : EphRow) s.ephCopy.ephRows i = row ∧ tget (⟨0, 0⟩ : EphRow) s.ephCopy.ephRows (4096 + i) = row := by
  have hrow := tget_bankRows s.ephRows (s.fld Reg.TIME_EPH_STATUS 2 1) hi
  rw [ephCopy_eq, setFld_ephRows]
  refine ⟨?lower, ?upper⟩
  case lower =>
    rw [tget_append_of_none_right, hrow]
    intro e he
    obtain ⟨x, -, rfl⟩ := List.mem_map.mp he
    dsimp only
    omega
  case upper =>
    rw [tget_append_of_none _ _ _ _ fun e he => by have := lt_of_mem_bankRows he; omega,
      tget_map_index _ _ (4096 + ·) i _ fun e _ => Nat.add_left_cancel_iff, hrow]

theorem flag_busy_ephCopy (s : State) : s.ephCopy.flag Reg.TIME_EPH_STATUS 1 = false := by
  rw [ephCopy_eq, flag_setFld_self _ _ (by decide)]; rfl

theorem regsBut_ephCopy (s : State) : RegsBut s s.ephCopy [Reg.TIME_EPH_STATUS] := fun _ ha => by
  rw [ephCopy_eq, reg_setFld_ne _ (by simpa using ha)]; rfl

theorem exec_bankCopyComplete (hon : s.timeOn = true) (hbusy : s.flag Reg.TIME_EPH_STATUS 1 = true)
    (htime : s.ephCopyAt + 4096000000 ≤ s.ck) : exec .bankCopyComplete s = .next s.ephCopy := if_pos ⟨hon, hbusy, htime⟩

theorem exec_bankCopyComplete_waits (h : s.flag Reg.TIME_EPH_STATUS 1 = false ∨ s.ck < s.ephCopyAt + 4096000000) :
    exec .bankCopyComplete s = .next s := by
  refine if_neg fun ⟨_, hbusy, htime⟩ => ?_
  obtain h | h := h
  · exact absurd (h.symm.trans hbusy) (by decide)
  · exact Nat.not_le.mpr h htime

end Copies

/-! ## The pulse and missed slots (R203, R198) -/

section Pulses

variable {s : State}

theorem exec_ppsOutPulse (hon : s.timeOn = true) (hen : s.flag Reg.TIME_CTRL 7 = true)
    (hsecond : (s.nowNs + s.fld Reg.TIME_PPS 16 16) % 1000000000 = 0) :
    exec .ppsOutPulse s = .next { s with out := s.out ++ [.pps (s.fld Reg.TIME_PPS 0 16)] } :=
  (if_pos ⟨hon, hen, hsecond⟩).trans (congrArg Host.Outcome.next (emit_unmetered s _ rfl))

theorem exec_ppsOutPulse_between (h : (s.nowNs + s.fld Reg.TIME_PPS 16 16) % 1000000000 ≠ 0) :
    exec .ppsOutPulse s = .next s := if_neg fun ⟨_, _, hsecond⟩ => h hsecond

theorem exec_slotMiss (halive : s.alive = true) (g : Fin 16) (i : BitVec 12) :
    exec (.slotMiss g i) s = .next (s.slotMiss g i.toNat) := if_pos halive

theorem slotMiss_counted {g n : Nat} (hgroup : bits (s.ephRow n).r1 32 4 = g) (hlive : tget 0 s.ephLive n ≠ 0)
    (hclosed : s.rowOpen g (s.ephRow n) = false) (hwaits : s.slotWaits g (s.ephRow n) (tget 0 s.ephLive n) = true) :
    s.slotMiss g n = ({ s with ephLive := tset 0 s.ephLive n 0 } : State).bump (Reg.TIME_EPH_GRP_MISS g) :=
  if_pos ⟨hgroup, hlive, by rw [hclosed]; rfl, hwaits⟩

theorem slotMiss_none {g n : Nat} (h : tget 0 s.ephLive n = 0 ∨ s.rowOpen g (s.ephRow n) = true
    ∨ s.slotWaits g (s.ephRow n) (tget 0 s.ephLive n) = false) : s.slotMiss g n = s := by
  refine if_neg fun ⟨_, hlive, hclosed, hwaits⟩ => ?_
  obtain h | h | h := h
  · exact hlive h
  · rw [h] at hclosed; exact absurd hclosed (by decide)
  · exact absurd (h.symm.trans hwaits) (by decide)

end Pulses

/-- Settles O52, clause by clause from what a commit, a swap, a copy, a pulse and a missed slot do. -/
theorem ephemerisSchedule : Obligations.EphemerisSchedule := by
  intro s
  refine ⟨fun p v hacc => ?commits, fun hon => ⟨fun hpending htime => ?activate, exec_ephemerisActivate_waits,
    fun hbusy htime => ?copies, exec_bankCopyComplete_waits, exec_ppsOutPulse hon, exec_ppsOutPulse_between⟩,
    fun halive g i => ⟨fun hgroup hlive hclosed hwaits => ?missed, fun h => ?unmissed⟩⟩
  case commits =>
    obtain ⟨tally, htlp⟩ := tlp_eq s p 8
    rw [exec_ephemerisCommit hacc, htlp]
    refine ⟨fun h => ⟨_, rfl, ?_⟩, fun hgo hopen => ⟨fun hpassed => ?_, fun hahead => ?_⟩⟩
    · rw [ephCommit_discarded (s := { s with tally := tally }) h]
    · rw [ephCommit_late (s := { s with tally := tally }) hgo hopen hpassed]
      exact ⟨_, rfl, swapped_of_tally (swapped_bump_late (swapped_ephSwap _)), counts_late_ephSwap_bump _⟩
    · rw [ephCommit_ahead (s := { s with tally := tally }) hgo hopen hahead]
      obtain ⟨hflag, hregs, honly⟩ := arms_setFld { s with tally := tally }
      exact ⟨_, rfl, hflag, hregs, onlyRegs_of_tally honly⟩
  case activate => exact ⟨_, exec_ephemerisActivate hon hpending htime, swapped_ephSwap s, counts_late_ephSwap s⟩
  case copies =>
    exact ⟨_, exec_bankCopyComplete hon hbusy htime, flag_busy_ephCopy s, fun i hi => ephRows_ephCopy s hi, regsBut_ephCopy s⟩
  case missed =>
    rw [exec_slotMiss halive, slotMiss_counted hgroup hlive hclosed hwaits]
    exact ⟨_, rfl, counts_bump _ _, regsBut_bump _ _, tget_tset_self 0 0 s.ephLive i.toNat, rfl⟩
  case unmissed => rw [exec_slotMiss halive, slotMiss_none h]

end Sys2Proof.Proofs
end

section
/-!
PROOF. The invariant that every step keeps (R185, R210, R325, R385, R399), part 1 of 5: what `Kept` says, and that the operations on which the commands are built keep it: registers, memory,
translation, ports, frames and links.
-/

namespace Sys2Proof.Proofs

open Sys2Proof.Machine Sys2Proof.Laws Sys2Proof.Claims

variable {s : State}

/-- The stores are canonical and the numbers are in their bounds. -/
def Kept (s : State) : Prop := StoresKept s ∧ BoundsKept s

/-- The outcome, if it is a next state, is one that is kept. -/
def KeptOut (o : Out) : Prop := ∀ t, o = .next t → Kept t

/-- A change of fields that are neither stores nor bounded leaves a kept state kept. -/
theorem Kept.changed (h : Kept s) {x0 x1 x2 x3 x4 x5 x6 x7 x8 x9 x10 x11 x12 x13 x14 x15 x16 x17 x18 x19 x20 x21 x22 x23 x24
    x25 x26 x27 x28 x29 x30 x31 x32 x33 x34 x35 x36 x37 x38 x39 x40 x41 x42 x43 x44 x45 x46 x47 x48 x49 x50 x51 x52 x53 x54
    x55 x56 x57 x58 x59 x60 x61 x62 x63 x64 x65 x66 x67 x68 x69 x70 : _} :
    Kept { s with
      pending := x0, free := x1, out := x2, ps := x3, ck := x4, regs := x5, shadow := x6, ownRes := x7,
      leaseAt := x8, slots := x9, images := x10, ops := x11, jobs := x12, arrSeq := x13, armed := x14,
      laneMap := x15, reads := x16, writes := x17, atc := x18, xlating := x19, priStop := x20, invals := x21,
      semHeld := x22, rings := x23, sched := x24, fqs := x25, ctxs := x26, txq := x27, srecs := x28, rrecs := x29,
      trackers := x30, parked := x31, loop := x32, msgCount := x33, debt := x34, debtAt := x35, lifeOld := x36,
      posted := x37, wins := x38, insts := x39, fns := x40, vfEn := x41, numVfs := x42, priAlloc := x43,
      cxlMem := x44, msixTab := x45, msixPend := x46, filter := x47, freeing := x48, mcs := x49, split := x50,
      subs := x51, ingress := x52, fwdWrr := x53, time := x54, ephRows := x55, ephLive := x56, ephCopyAt := x57,
      keys := x58, cores := x59, cipherQ := x60, wraps := x61, saved := x62, wakeHeld := x63, tripped := x64,
      capOk := x65, scrub := x66, tally := x67, comet := x68, night := x69, jtag := x70 } := h

/-- What `Kept` speaks of. -/
abbrev held (s : State) :=
  (s.mem, s.raw, s.tmem, s.nbuf, s.pio, s.sems, s.poison, s.nextMsg, s.boot.target, s.zeroing, s.fuses.minSvn, s.pages, s.fresh)

/-- A state in which all that `Kept` speaks of is the same is kept. -/
theorem Kept.same {t : State} (h : Kept s) (e : held t = held s) : Kept t := by
  obtain ⟨hstores, hbounds⟩ := h
  simp only [Prod.mk.injEq] at e
  obtain ⟨hmem, hraw, htmem, hnbuf, hpio, hsems, hpoison, hmsg, htarget, hzero, hsvn, hpages, hfresh⟩ := e
  unfold Kept StoresKept BoundsKept
  rw [hmem, hraw, htmem, hnbuf, hpio, hsems, hpoison, hmsg, htarget, hzero, hsvn, hpages, hfresh]
  exact ⟨hstores, hbounds⟩

/-! ### Each store and each bounded number by itself -/

theorem Kept.withMem (h : Kept s) {m : Tab Byte} (hm : Memory.wf m = true) : Kept { s with mem := m } := by
  obtain ⟨⟨-, hstores⟩, hbounds⟩ := h
  exact ⟨⟨hm, hstores⟩, hbounds⟩

theorem Kept.withTmem (h : Kept s) {m : Tab Byte} (hm : Memory.wf m = true) : Kept { s with tmem := m } := by
  obtain ⟨⟨hmem, -, hstores⟩, hbounds⟩ := h
  exact ⟨⟨hmem, hm, hstores⟩, hbounds⟩

theorem Kept.withNbuf (h : Kept s) {m : Tab Byte} (hm : Memory.wf m = true) : Kept { s with nbuf := m } := by
  obtain ⟨⟨hmem, htmem, -, hstores⟩, hbounds⟩ := h
  exact ⟨⟨hmem, htmem, hm, hstores⟩, hbounds⟩

theorem Kept.withPio (h : Kept s) {m : Tab Byte} (hm : Memory.wf m = true) : Kept { s with pio := m } := by
  obtain ⟨⟨hmem, htmem, hnbuf, -, hstores⟩, hbounds⟩ := h
  exact ⟨⟨hmem, htmem, hnbuf, hm, hstores⟩, hbounds⟩

theorem Kept.withSems (h : Kept s) {m : Tab Word} (hm : twf 0 m = true) : Kept { s with sems := m } := by
  obtain ⟨⟨hmem, htmem, hnbuf, hpio, -, hstores⟩, hbounds⟩ := h
  exact ⟨⟨hmem, htmem, hnbuf, hpio, hm, hstores⟩, hbounds⟩

theorem Kept.withPoison (h : Kept s) {m : Tab Bool} (hm : twf false m = true) : Kept { s with poison := m } := by
  obtain ⟨⟨hmem, htmem, hnbuf, hpio, hsems, -, hraw⟩, hbounds⟩ := h
  exact ⟨⟨hmem, htmem, hnbuf, hpio, hsems, hm, hraw⟩, hbounds⟩

theorem Kept.withRaw (h : Kept s) {m : Tab (Option RawWord)} (hm : twf none m = true) : Kept { s with raw := m } := by
  obtain ⟨⟨hmem, htmem, hnbuf, hpio, hsems, hpoison, -⟩, hbounds⟩ := h
  exact ⟨⟨hmem, htmem, hnbuf, hpio, hsems, hpoison, hm⟩, hbounds⟩

theorem Kept.withMsg (h : Kept s) {m : MsgId} (hm : m ≠ 0) : Kept { s with nextMsg := m } := by
  obtain ⟨hstores, -, hbounds⟩ := h
  exact ⟨hstores, hm, hbounds⟩

theorem Kept.withTarget (h : Kept s) {b : Boot} (hb : b.target < 4) : Kept { s with boot := b } := by
  obtain ⟨hstores, hmsg, -, hbounds⟩ := h
  exact ⟨hstores, hmsg, hb, hbounds⟩

theorem Kept.withZeroing (h : Kept s) {z : Option Nat} (hz : ∀ p, z = some p → p < 256) : Kept { s with zeroing := z } := by
  obtain ⟨hstores, hmsg, htarget, -, hbounds⟩ := h
  exact ⟨hstores, hmsg, htarget, hz, hbounds⟩

theorem Kept.withFuses (h : Kept s) {f : Fuses} (hf : f.minSvn ≤ 64) : Kept { s with fuses := f } := by
  obtain ⟨hstores, hmsg, htarget, hzero, -, hpages⟩ := h
  exact ⟨hstores, hmsg, htarget, hzero, hf, hpages⟩

/-- Every page request keeps a handle that was given out. -/
theorem Kept.withPages (h : Kept s) {l : List PageReq} (hl : ∀ x ∈ l, x.id < s.fresh) : Kept { s with pages := l } := by
  obtain ⟨hstores, hmsg, htarget, hzero, hsvn, -⟩ := h
  exact ⟨hstores, hmsg, htarget, hzero, hsvn, hl⟩

theorem Kept.filterPages (h : Kept s) (p : PageReq → Bool) : Kept { s with pages := s.pages.filter p } := by
  obtain ⟨-, -, -, -, -, hpages⟩ := id h
  exact h.withPages fun x hx => hpages x (List.mem_of_mem_filter hx)

/-- Handing out a handle keeps the handles of page requests below the next one. -/
theorem Kept.handed (h : Kept s) : Kept { s with fresh := s.fresh + 1 } := by
  obtain ⟨hstores, hmsg, htarget, hzero, hsvn, hpages⟩ := h
  exact ⟨hstores, hmsg, htarget, hzero, hsvn, fun x hx => Nat.lt_succ_of_lt (hpages x hx)⟩

theorem Kept.ite {c : Prop} [Decidable c] {t : State} (hs : Kept s) (ht : Kept t) : Kept (if c then s else t) := by
  split <;> assumption

/-- A loop whose every round keeps its state keeps it. -/
theorem Kept.foldlOf {α β : Type} (st : β → State) {f : β → α → β} {l : List α} {b : β}
    (hf : ∀ b x, Kept (st b) → Kept (st (f b x))) (hb : Kept (st b)) : Kept (st (l.foldl f b)) :=
  List.foldlRecOn (motive := fun b => Kept (st b)) l f hb fun b h x _ => hf b x h

theorem Kept.foldl {α : Type} {f : State → α → State} {l : List α} (hf : ∀ t x, Kept t → Kept (f t x)) (h : Kept s) :
    Kept (l.foldl f s) := .foldlOf id hf h

theorem Kept.out (h : Kept s) : KeptOut (.next s) := fun _ e => Host.Outcome.next.inj e ▸ h

theorem KeptOut.ite {c : Prop} [Decidable c] {o p : Out} (ho : KeptOut o) (hp : KeptOut p) : KeptOut (if c then o else p) := by
  split <;> assumption

theorem KeptOut.fault (r : Fault) : KeptOut (.fault r) := fun _ e => nomatch e

theorem KeptOut.refused (r : Refusal) : KeptOut (.refused r) := fun _ e => nomatch e

theorem Kept.ite_snd {α : Type} {c : Prop} [Decidable c] {a b : α × State} (ha : Kept a.2) (hb : Kept b.2) :
    Kept (if c then a else b).2 := by
  split <;> assumption

/-! ## Operations that every part of the model uses -/

theorem Kept.meter (h : Kept s) (b : Nat) (m : Meter) (n : Nat) : Kept (s.meter b m n) := h.changed

theorem Kept.takeFree (h : Kept s) : Kept s.takeFree.2 := h.changed

theorem Kept.takeBit (h : Kept s) : Kept s.takeBit.2 := h.changed

theorem Kept.setReg (h : Kept s) (a : Nat) (v : Word) : Kept (s.setReg a v) := h.changed

theorem Kept.setFld (h : Kept s) (a lo w x : Nat) : Kept (s.setFld a lo w x) := h.setReg _ _

theorem Kept.count (h : Kept s) (a n : Nat) : Kept (s.count a n) := h.setReg _ _

theorem Kept.bump (h : Kept s) (a : Nat) : Kept (s.bump a) := h.count _ _

theorem Kept.setSh (h : Kept s) (a : Nat) (v : Word) : Kept (s.setSh a v) := h.changed

theorem Kept.setFn (h : Kept s) (i : Nat) (f : Fn) : Kept (s.setFn i f) := h.changed

theorem Kept.tlp (h : Kept s) (p : Path) (n : Nat) : Kept (s.tlp p n) := by
  unfold State.tlp
  split
  · exact h.meter _ _ _
  · exact h.meter _ _ _
  · exact h.meter _ _ _
  · exact h

theorem Kept.mapWrite (h : Kept s) (p : Path) (off : Nat) (k : State → State) (hk : ∀ t, Kept t → Kept (k t)) :
    Kept (s.mapWrite p off k) := by
  unfold State.mapWrite
  refine .ite ?_ ?_
  · exact h
  · extract_lets s1
    have hs1 : Kept s1 := h.tlp _ _
    exact .ite hs1 (.ite hs1 (.ite hs1 (.ite hs1 (.ite (hk _ hs1) (hs1.bump _)))))

theorem Kept.viewWrite (h : Kept s) (p : Path) (off : Nat) (k : State → State) (hk : ∀ t, Kept t → Kept (k t)) :
    Kept (s.viewWrite p off k) := by
  unfold State.viewWrite
  split
  · exact .ite (hk _ (h.tlp _ _)) h
  · exact h.mapWrite _ _ _ (fun _ ht => hk _ ht)

theorem Kept.touch (h : Kept s) (k : XKey) : Kept (s.touch k) := by
  unfold State.touch
  split
  · exact h
  · exact h.changed

theorem Kept.emit (h : Kept s) (e : Emission) : Kept (s.emit e) := h.changed

theorem Kept.emits (h : Kept s) (es : List Emission) : Kept (s.emits es) := .foldl (fun _ _ ht => ht.emit _) h

theorem Kept.askAts (h : Kept s) (k : XKey) : Kept (s.askAts k) := .ite h (h.changed.emit _)

theorem Kept.lookupCount (h : Kept s) (k : XKey) (write : Bool) : Kept (s.lookupCount k write).2 := by
  unfold State.lookupCount
  split
  · exact (h.bump _).askAts _
  · exact (h.bump _).touch _

theorem Kept.engineReach (h : Kept s) (p : Port) (i : BitVec 8) (va : Word) (n : Nat) (write : Bool) :
    Kept (s.engineReach p i va n write).2 := by
  unfold State.engineReach
  split
  · exact h
  · exact .foldlOf Prod.snd (fun _ _ hb => hb.lookupCount _ _) h

theorem Kept.msix (h : Kept s) (fn : BitVec 8) (v : Nat) : Kept (s.msix fn v) := .ite h (.ite h.changed (h.emit _))

theorem Kept.msixFlush (h : Kept s) (fn : BitVec 8) (v : Nat) : Kept (s.msixFlush fn v) := .ite (h.changed.msix _ _) h

theorem Kept.msixFlushAll (h : Kept s) (fn : BitVec 8) : Kept (s.msixFlushAll fn) := .foldl (fun _ _ ht => ht.msixFlush _ _) h

theorem Kept.setFq (h : Kept s) (q : Nat) (f : FaultQ) : Kept (s.setFq q f) := h.changed

theorem Kept.fqIrq (h : Kept s) (q : Nat) : Kept (s.fqIrq q) := .ite h (.ite ((h.setFq _ _).msix _ _) (h.setFq _ _))

theorem Kept.fqPut (h : Kept s) (q : Nat) (r : FaultRec) : Kept (s.fqPut q r) := (((h.emit _).setFld _ _ _ _).bump _).fqIrq _

theorem Kept.fqLose (h : Kept s) (q cls : Nat) : Kept (s.fqLose q cls) := ((h.setFld _ _ _ _).setFq _ _).bump _

theorem Kept.fqReach (h : Kept s) (q : Nat) : Kept (s.fqReach q).2 := h.engineReach _ _ _ _ _

theorem Kept.fqFlush (h : Kept s) (q : Nat) : Kept (s.fqFlush q) :=
    .ite (.ite (((h.fqReach _).fqPut _ _).setFq _ _) ((h.fqReach _).setFld _ _ _ _)) h

theorem Kept.fault (h : Kept s) (q : Nat) (r : FaultRec) : Kept (s.fault q r) :=
    .ite (h.fqLose _ _) (.ite ((h.fqReach _).fqPut _ _) (((h.fqReach _).setFld _ _ _ _).fqLose _ _))

theorem Kept.setSlot (h : Kept s) (i : Nat) (x : Slot) : Kept (s.setSlot i x) := h.changed

theorem Kept.updSlot (h : Kept s) (i : Nat) (f : Slot → Slot) : Kept (s.updSlot i f) := h.setSlot _ _

theorem Kept.updOp (h : Kept s) (id : Nat) (f : Op → Op) : Kept (s.updOp id f) := h.changed

theorem Kept.progressed (h : Kept s) (sl : Nat) : Kept (s.progressed sl) := h.updSlot _ _

theorem Kept.stage (h : Kept s) (t : Trace) : Kept (s.stage t) := .ite h.changed (h.changed.bump _)

theorem Kept.traceOp (h : Kept s) (o : Op) (event : Nat) (st : Status) (w3 : Nat) : Kept (s.traceOp o event st w3) :=
    .ite (h.stage _) h

theorem Kept.tagCount (h : Kept s) (filters : BitVec 8) (k n : Nat) : Kept (s.tagCount filters k n) :=
    .foldl (fun _ _ ht => .ite (ht.count _ _) ht) h

theorem Kept.record (h : Kept s) (r : FaultRec) : Kept (s.record r) := (h.fault _ _).tagCount _ _ _

theorem Kept.slotFault (h : Kept s) (sl : Nat) (r : FaultRec) : Kept (s.slotFault sl r) := h.updSlot _ _

theorem Kept.stopSlot (h : Kept s) (sl : Nat) : Kept (s.stopSlot sl) := (h.updSlot _ _).changed

theorem Kept.issueFault (h : Kept s) (sl : Nat) (st : Status) (tag : BitVec 24) : Kept (s.issueFault sl st tag) :=
    (h.slotFault _ _).stopSlot _

theorem Kept.retireTo (h : Kept s) (sl pc : Nat) : Kept (s.retireTo sl pc) := ((h.updSlot _ _).progressed _).bump _

theorem Kept.retire (h : Kept s) (sl : Nat) : Kept (s.retire sl) := h.retireTo _ _

/-! ## Adapter memory -/

theorem Kept.putBytes (h : Kept s) (a : Nat) (bs : List Byte) : Kept (s.putBytes a bs) := by
  obtain ⟨⟨hmem, -⟩, -⟩ := id h
  exact h.withMem (wf_putBytes s a bs hmem)

theorem Kept.putWord (h : Kept s) (w : Nat) (bs : List Byte) : Kept (s.putWord w bs) := by
  obtain ⟨⟨-, -, -, -, -, -, hraw⟩, -⟩ := id h
  exact (h.putBytes _ bs).withRaw (twf_tset none none s.raw w hraw)

theorem Kept.logUncorr (h : Kept s) (w : Nat) (inst : BitVec 8) (scrub : Bool) : Kept (s.logUncorr w inst scrub) :=
    .ite h ((h.setReg _ _).setReg _ _)

theorem Kept.countCorr (h : Kept s) (w : Nat) : Kept (s.countCorr w) := (h.bump _).bump _

theorem Kept.poisonWord (h : Kept s) (w : Nat) (d : BitVec 256) : Kept (s.poisonWord w d) := by
  obtain ⟨⟨-, -, -, -, -, -, hraw⟩, -⟩ := id h
  exact (h.putBytes _ (dataBytes d)).withRaw (twf_tset none (some ⟨d, poisonCheck d⟩) s.raw w hraw)

theorem Kept.readWord (h : Kept s) (w : Nat) (inst : BitVec 8) (wb : Bool) : Kept (s.readWord w inst wb).2.2 := by
  unfold State.readWord
  split
  · exact h
  · exact .ite ((h.countCorr _).putWord _ _) (h.countCorr _)
  · exact (h.bump _).bump _
  · exact .ite (((h.bump _).logUncorr _ _ _).poisonWord _ _) ((h.bump _).logUncorr _ _ _)

theorem Kept.readMem (h : Kept s) (inst : BitVec 8) (off len : Nat) : Kept (s.readMem inst off len).2.2 := by
  unfold State.readMem
  split
  · exact h
  · exact .foldlOf (fun b : _ × _ × State => b.2.2) (fun _ _ hb => hb.readWord _ _ _) h

theorem Kept.writeWord (h : Kept s) (w : Nat) (inst : BitVec 8) (f : Nat → Option Byte) : Kept (s.writeWord w inst f).2 := by
  unfold State.writeWord
  split
  · exact h.putWord _ _
  · dsimp only
    split
    · exact ((h.bump _).readWord _ _ _).bump _
    · exact ((h.bump _).readWord _ _ _).putWord _ _

theorem Kept.writeMemBe (h : Kept s) (inst : BitVec 8) (off : Nat) (bs : List (Option Byte)) :
    Kept (s.writeMemBe inst off bs).2 := by
  unfold State.writeMemBe
  split
  · exact h
  · refine .foldlOf Prod.snd (fun _ _ hb => ?_) h
    dsimp only
    split
    · exact hb
    · exact hb.writeWord _ _ _

theorem Kept.writeMem (h : Kept s) (inst : BitVec 8) (off : Nat) (bs : List Byte) : Kept (s.writeMem inst off bs).2 :=
    h.writeMemBe _ _ _

theorem Kept.askLines (h : Kept s) (ls : List (Nat × Nat)) : Kept (s.askLines ls) := (h.count _ _).emits _

theorem Kept.storeMemBe (h : Kept s) (inst : BitVec 8) (k : WriteKind) (a : Nat) (bs : List (Option Byte)) (skip : Option Nat) :
    Kept (s.storeMemBe inst k a bs skip).2.2 := by
  unfold State.storeMemBe
  dsimp only
  split
  · exact h.writeMemBe _ _ _
  · exact h.handed.changed.askLines _

theorem Kept.storeMem (h : Kept s) (inst : BitVec 8) (k : WriteKind) (a : Nat) (bs : List Byte) (skip : Option Nat) :
    Kept (s.storeMem inst k a bs skip).2.2 := h.storeMemBe _ _ _ _ _

theorem Kept.ownStore (h : Kept s) (a : Nat) (bs : List Byte) : Kept (s.ownStore a bs) := h.storeMem _ _ _ _ _

theorem Kept.openBytes (h : Kept s) (n : Nat) : Kept (s.openBytes n).2 := h.changed

theorem Kept.sramRmw (h : Kept s) (a : Nat) (bs : List (Option Byte)) : Kept (s.sramRmw a bs) := h.count _ _

/-! ## Routes and planes -/

theorem Kept.setSub (h : Kept s) (n k : Nat) (x : Sub) : Kept (s.setSub n k x) := h.changed

theorem Kept.updSub (h : Kept s) (n k : Nat) (f : Sub → Sub) : Kept (s.updSub n k f) := h.setSub _ _ _

theorem Kept.enqueue (h : Kept s) (i : Nat) (f : EgFrame) : Kept (s.enqueue i f) := h.updSub _ _ _

theorem Kept.toPlane (h : Kept s) (plane : Option Nat) (tc : Nat) (p : Packet) : Kept (s.toPlane plane tc p) := by
  unfold State.toPlane
  split
  · exact h.changed
  · exact (h.emit _).enqueue _ _

theorem Kept.sendCtl (h : Kept s) (ctx : BitVec 20) (tc : Nat) (p : Packet) : Kept (s.sendCtl ctx tc p) := by
  unfold State.sendCtl
  refine .ite ?_ ?_
  · exact h.toPlane _ _ _
  · dsimp only
    split
    · exact h
    · exact (Kept.ite h.changed h).toPlane _ _ _

/-! ## Contexts -/

theorem Kept.setCtx (h : Kept s) (c : BitVec 20) (x : Ctx) : Kept (s.setCtx c x) := h.changed

theorem Kept.updCtx (h : Kept s) (c : BitVec 20) (f : Ctx → Ctx) : Kept (s.updCtx c f) := h.setCtx _ _

theorem Kept.ctxBack (h : Kept s) (c : Nat) : Kept (s.ctxBack c) := (h.openBytes _).ownStore _ _

theorem Kept.fetchCtx (h : Kept s) (c : BitVec 20) : Kept (s.fetchCtx c) := by
  unfold State.fetchCtx
  refine .ite ?_ ?_
  · exact h
  · refine .ite ?_ ?_
    · exact (h.setCtx _ _).bump _
    · split
      · exact h
      · exact ((((h.ctxBack _).updCtx _ _).bump _).updCtx _ _).bump _

theorem Kept.useCtx (h : Kept s) (c : BitVec 20) : Kept (s.useCtx c) :=
    .ite (h.updCtx c fun x => { x with used := s.fresh }).handed h

theorem Kept.pumpFetch (h : Kept s) : Kept s.pumpFetch :=
    .foldl (fun _ _ ht => ht.fetchCtx _) (.foldl (fun _ _ ht => .ite (ht.fetchCtx _) ht) h)

theorem Kept.spend (h : Kept s) (c : BitVec 20) (len : Nat) : Kept (s.spend c len) := h.updCtx _ _

theorem Kept.setRate (h : Kept s) (c : BitVec 20) (r : Nat) : Kept (s.setRate c r) := h.updCtx _ _

theorem Kept.rateDown (h : Kept s) (c : BitVec 20) : Kept (s.rateDown c) := .ite h (((h.takeBit.setRate _ _).updCtx _ _).bump _)

theorem Kept.lifeChanged (h : Kept s) (old : Nat) : Kept (s.lifeChanged old) := .ite h.changed.changed h.changed

/-! ## Ingress buffers -/

theorem Kept.sendPfc (h : Kept s) (n k prio quanta : Nat) : Kept (s.sendPfc n k prio quanta) := (h.emit _).bump _

theorem Kept.pfcRaise (h : Kept s) (n k prio : Nat) : Kept (s.pfcRaise n k prio) := .ite ((h.setSub _ _ _).sendPfc _ _ _ _) h

theorem Kept.pfcFall (h : Kept s) (n k prio : Nat) : Kept (s.pfcFall n k prio) :=
    .ite (.ite ((h.setSub _ _ _).sendPfc _ _ _ _) (h.setSub _ _ _)) h

theorem Kept.inPut (h : Kept s) (f : InFrame) : Kept (s.inPut f) := h.changed.pfcRaise _ _ _

theorem Kept.creditBack (h : Kept s) (n k vc len : Nat) : Kept (s.creditBack n k vc len) := h.updSub _ _ _

theorem Kept.inTake (h : Kept s) (f : InFrame) : Kept (s.inTake f) :=
    .ite (h.changed.creditBack _ _ _ _) (h.changed.pfcFall _ _ _)

theorem Kept.takeIngress (h : Kept s) (rx : Rx) : Kept (s.takeIngress rx) := by
  unfold State.takeIngress
  split
  · exact h.inTake _
  · exact h.changed

/-! ## Stores of tensors -/

theorem Kept.readLoc (h : Kept s) (i : BitVec 8) (l : Loc) (n : Nat) : Kept (s.readLoc i l n).2.2 := by
  unfold State.readLoc
  split
  · exact h.readMem _ _ _
  · exact h
  · exact h

theorem Kept.writeLoc (h : Kept s) (i : BitVec 8) (l : Loc) (bs : List Byte) : Kept (s.writeLoc i l bs).2 := by
  obtain ⟨⟨-, htmem, hnbuf, -⟩, -⟩ := id h
  cases l with
  | mem a => exact h.writeMem i a bs
  | tmem a => exact (h.sramRmw a (bs.map some)).withTmem (wf_writeTab s.tmem a bs htmem)
  | nbuf a => exact (h.sramRmw a (bs.map some)).withNbuf (wf_writeTab s.nbuf a bs hnbuf)

theorem Kept.readRuns (h : Kept s) (i : BitVec 8) (clu space : Nat) (rs : List (Word × Nat)) :
    Kept (s.readRuns i clu space rs).2.2 := .foldlOf (fun b : _ × _ × State => b.2.2) (fun _ _ hb => hb.readLoc _ _ _) h

theorem Kept.writeRuns (h : Kept s) (i : BitVec 8) (clu space : Nat) (rs : List (Word × Nat)) (bs : List Byte) :
    Kept (s.writeRuns i clu space rs bs).2 := .foldlOf (fun b : _ × _ × State => b.2.2) (fun _ _ hb => hb.writeLoc _ _ _) h

/-! ## Translation -/

theorem Kept.fillAtc (h : Kept s) (e : Atc) : Kept (s.fillAtc e) := h.changed

theorem Kept.sendPage (h : Kept s) (id : Nat) : Kept (s.sendPage id) := by
  unfold State.sendPage
  split
  · exact h
  · refine .ite (((h.withPages fun x hx => ?_).emit _).bump _) h
    obtain ⟨y, hy, rfl⟩ := List.mem_map.mp hx
    obtain ⟨-, -, -, -, -, hpages⟩ := h
    split <;> exact hpages y hy

theorem Kept.flushPages (h : Kept s) : Kept s.flushPages := .foldl (fun _ _ ht => ht.sendPage _) h

/-! ## Ports -/

theorem Kept.mac (h : Kept s) (n k j c : Nat) : Kept (s.mac n k j c) := h.count _ _

theorem Kept.macTx (h : Kept s) (n k len : Nat) : Kept (s.macTx n k len) := (h.mac _ _ _ _).mac _ _ _ _

theorem Kept.fecSeen (h : Kept s) (n k : Nat) (c : Fec) : Kept (s.fecSeen n k c) :=
    .ite (((h.mac _ _ _ _).mac _ _ _ _).mac _ _ _ _) ((((h.mac _ _ _ _).mac _ _ _ _).mac _ _ _ _).updSub _ _ _)

theorem Kept.tqNext (h : Kept s) (n : Nat) : Kept (s.tqNext n) :=
    .ite h (.ite (h.engineReach _ _ _ _ _) ((h.engineReach _ _ _ _ _).handed.changed.emit _))

theorem Kept.tqDone (h : Kept s) (n : Nat) (sent : Bool) : Kept (s.tqDone n sent) :=
    (Kept.ite ((h.setFld _ _ _ _).msix _ _) (h.setFld _ _ _ _)).tqNext _

theorem Kept.tqStamp (h : Kept s) (n : Nat) (w0 ts : Word) : Kept (s.tqStamp n w0 ts) :=
    .ite (.ite ((h.engineReach _ _ _ _ _).emit _) (h.engineReach _ _ _ _ _)) h

theorem Kept.tqSkip (h : Kept s) (n : Nat) (w0 : Word) : Kept (s.tqSkip n w0) :=
    .ite ((h.takeFree.tqStamp _ _ _).tqDone _ _) (h.tqDone _ _)

theorem Kept.rawReturn (h : Kept s) (id n : Nat) (ext : List Byte) (err : Bool) : Kept (s.rawReturn id n ext err) := by
  unfold State.rawReturn
  extract_lets w0 len k s1 bs
  have hs1 : Kept s1 := h.changed
  exact .ite (hs1.tqDone _ _) (.ite h (.ite ((hs1.mac _ _ _ _).tqSkip _ _) (.ite (hs1.tqSkip _ _) (.ite h (hs1.enqueue _ _)))))

theorem Kept.rqPut (h : Kept s) (n k q flt : Nat) (f : Frame) : Kept (s.rqPut n k q flt f) := by
  unfold State.rqPut
  refine .ite ?_ ?_
  · exact h.mac _ _ _ _
  · extract_lets r h1 s1
    have hr : Kept r.2 := h.engineReach _ _ _ _ _
    have hs1 : Kept s1 := (hr.emit _).setFld _ _ _ _
    exact .ite (hr.mac _ _ _ _) (.ite (hs1.msix _ _) hs1)

theorem Kept.putWire (h : Kept s) (n k : Nat) (f : EgFrame) : Kept (s.putWire n k f) := (h.macTx _ _ _).emit _

theorem Kept.sendLink (h : Kept s) (n k ltype : Nat) (seq : BitVec 16) : Kept (s.sendLink n k ltype seq) :=
    ((h.updSub _ _ _).macTx _ _ _).emit _

theorem Kept.ecnMark (h : Kept s) (ip : IpHdr) (q : Nat) : Kept (s.ecnMark ip q).2 :=
    .ite_snd h (.ite_snd (h.bump _) (.ite_snd h (.ite_snd (h.takeBit.bump _) h.takeBit)))

/-- A frame that is forwarded leaves a kept state. -/
theorem Kept.forward {t : State} (h : Kept s) (prio len : Nat) (ip : IpHdr) (x : Rx) (ht : s.forward prio len ip x = some t) :
    Kept t := by
  unfold State.forward at ht
  split at ht
  · cases ht
  · split at ht
    · cases ht
      exact ((h.ecnMark _ _).changed.enqueue _ _).bump _
    · cases ht

theorem Kept.pumpForward (h : Kept s) : Kept s.pumpForward := by
  unfold State.pumpForward
  refine .foldl (fun _ _ ht => ?_) h
  split
  next u hu =>
    obtain ⟨ip, -, hforward⟩ := Option.bind_eq_some_iff.mp hu
    exact (ht.forward _ _ _ _ hforward).inTake _
  next => exact ht

theorem Kept.transportIn (h : Kept s) (f : InFrame) (ip : IpHdr) : Kept (s.transportIn f ip) := by
  unfold State.transportIn
  refine .ite (h.inPut _) (.ite (.ite (h.inPut _) (((h.inPut _).inTake _).bump _)) (.ite ?_ (((h.inPut _).inTake _).bump _)))
  split
  next t ht => exact ((h.forward _ _ _ _ ht).inPut _).inTake _
  next => exact h.inPut _

/-! ## Frames -/

theorem Kept.rxFilter (h : Kept s) (n k : Nat) (f : Frame) : Kept (s.rxFilter n k f) := by
  unfold State.rxFilter
  split
  · exact (h.mac _ _ _ _).meter _ _ _
  · exact .ite ((h.mac _ _ _ _).meter _ _ _) ((h.rqPut _ _ _ _ _).meter _ _ _)

theorem Kept.rxDrop (h : Kept s) (f : Frame) : Kept (s.rxDrop f) := (h.bump _).meter _ _ _

theorem Kept.rxClass (h : Kept s) (n k : Nat) (f : Frame) : Kept (s.rxClass n k f) := by
  unfold State.rxClass
  split
  · exact .ite h (h.rxFilter _ _ _)
  · exact .ite (h.meter _ _ _) ((h.mac _ _ _ _).meter _ _ _)
  · exact .ite (((h.mac _ _ _ _).meter _ _ _).emit _) ((h.mac _ _ _ _).rxFilter _ _ _)
  · exact .ite ((h.transportIn _ _).meter _ _ _) (h.rxFilter _ _ _)
  · exact h.rxFilter _ _ _

theorem Kept.rxFrom2 (h : Kept s) (n k : Nat) (f : Frame) : Kept (s.rxFrom2 n k f) := by
  unfold State.rxFrom2
  refine .ite ?_ ?_
  · exact h.rxDrop _
  · refine .ite ?_ ?_
    · exact (h.mac _ _ _ _).rxDrop _
    · split
      · exact (h.mac _ _ _ _).meter _ _ _
      · exact h.meter _ _ _
      · exact .ite (h.rxDrop _) (h.rxClass _ _ _)

theorem Kept.frameReceive (h : Kept s) (n k : Nat) (f : Frame) : Kept (s.frameReceive n k f) := by
  unfold State.frameReceive
  refine .ite ?_ ?_
  · split
    · exact h.bump _
    · exact h
  · refine .ite ?_ ?_
    · exact h
    · extract_lets s1
      have hs1 : Kept s1 := h.fecSeen _ _ _
      exact .ite (hs1.mac _ _ _ _) (.ite (hs1.mac _ _ _ _)
        (.ite (hs1.mac _ _ _ _) (((hs1.mac _ _ _ _).mac _ _ _ _).rxFrom2 _ _ _)))

theorem Kept.countStalls (h : Kept s) (n k : Nat) : Kept (s.countStalls n k) := (h.setSub _ _ _).count _ _

theorem Kept.asData (h : Kept s) (n k : Nat) (f : EgFrame) : Kept (s.asData n k f).2 := by
  unfold State.asData
  split
  · exact h.setSub _ _ _
  · exact h

theorem Kept.rawSent (h : Kept s) (n k : Nat) (f : EgFrame) : Kept (s.rawSent n k f) := by
  unfold State.rawSent
  split
  · exact ((Kept.ite (h.mac _ _ _ _) h).tqStamp _ _ _).tqDone _ _
  · exact h

theorem Kept.sendFrame (h : Kept s) (n k : Nat) (f : EgFrame) (deficit : List Nat) (turn : Nat) :
    Kept (s.sendFrame n k f deficit turn) := ((((h.updSub _ _ _).asData _ _ _).putWire _ _ _).rawSent _ _ _).pumpForward

theorem Kept.frameTransmit (h : Kept s) (n k : Nat) : Kept (s.frameTransmit n k) := by
  unfold State.frameTransmit
  refine .ite ?_ ?_
  · exact h
  · dsimp only
    split
    · exact h.countStalls _ _
    · exact (h.countStalls _ _).sendFrame _ _ _ _ _

theorem Kept.pfcFrame (h : Kept s) (n k : Nat) (mask : BitVec 8) (quanta : List Nat) :
    Kept (s.pfcFrame n k mask quanta) := .ite h ((h.setSub _ _ _).bump _)

theorem Kept.pfcExpiry (h : Kept s) (n k p : Nat) : Kept (s.pfcExpiry n k p) := h.updSub _ _ _

theorem Kept.pfcRefresh (h : Kept s) (n k p : Nat) : Kept (s.pfcRefresh n k p) := .ite ((h.setSub _ _ _).sendPfc _ _ _ _) h

theorem Kept.linkHead (h : Kept s) (n k : Nat) (f : LinkFrame) : Kept (s.linkHead n k f) := h.setSub _ _ _

theorem Kept.askReplay (h : Kept s) (n k : Nat) : Kept (s.askReplay n k) := .ite (((h.setSub _ _ _).sendLink _ _ _ _).bump _) h

theorem Kept.dataFrame (h : Kept s) (n k : Nat) (f : LinkFrame) : Kept (s.dataFrame n k f) := by
  unfold State.dataFrame
  refine .ite ?_ ?_
  · exact h.bump _
  · refine .ite ?_ ?_
    · exact h
    · refine .ite ?_ ?_
      · exact h.askReplay _ _
      · extract_lets s1 s2
        have hs1 : Kept s1 := h.linkHead _ _ _
        have hs2 : Kept s2 := hs1.updSub _ _ _
        refine .ite ?_ ?_
        · exact (hs1.meter _ _ _).askReplay _ _
        · split
          · exact (hs2.creditBack _ _ _ _).meter _ _ _
          · exact (hs2.transportIn _ _).meter _ _ _

theorem Kept.ctrlFrame (h : Kept s) (n k : Nat) (f : LinkFrame) : Kept (s.ctrlFrame n k f) :=
    .ite ((h.linkHead _ _ _).meter _ _ _) h

theorem Kept.replay (h : Kept s) (n k : Nat) : Kept (s.replay n k) :=
    (Kept.foldl (fun _ _ ht => (ht.putWire _ _ _).bump _) h).updSub _ _ _

theorem Kept.replayFrame (h : Kept s) (n k : Nat) (f : LinkFrame) : Kept (s.replayFrame n k f) :=
    .ite (((h.linkHead _ _ _).meter _ _ _).replay _ _) h

theorem Kept.initFrame (h : Kept s) (n k : Nat) (f : LinkFrame) : Kept (s.initFrame n k f) :=
    .ite ((h.setSub _ _ _).meter _ _ _) h

theorem Kept.ctrlTimer (h : Kept s) (n k : Nat) : Kept (s.ctrlTimer n k) := by
  unfold State.ctrlTimer
  split
  · exact .ite (h.sendLink _ _ _ _) h
  · exact h

theorem Kept.replayTimer (h : Kept s) (n k : Nat) : Kept (s.replayTimer n k) := by
  unfold State.replayTimer
  split
  · exact .ite (h.replay _ _) h
  · exact h

/-! ## Links -/

theorem Kept.dropQueues (h : Kept s) (n k : Nat) : Kept (s.dropQueues n k) :=
    .ite ((h.setSub _ _ _).tqDone _ _) (h.setSub _ _ _)

theorem Kept.subDown (h : Kept s) (n k : Nat) (ph : LinkPhase) : Kept (s.subDown n k ph) := (h.dropQueues _ _).updSub _ _ _

theorem Kept.portDown (h : Kept s) (n : Nat) : Kept (s.portDown n) := .foldl (fun _ _ ht => ht.subDown _ _ _) h

theorem Kept.subTrain (h : Kept s) (n k : Nat) : Kept (s.subTrain n k) := (h.updSub _ _ _).emit _

theorem Kept.portTrain (h : Kept s) (n : Nat) : Kept (s.portTrain n) :=
    .ite (.foldl (fun _ _ ht => .ite ((ht.subDown _ _ _).subTrain _ _) (ht.subDown _ _ _)) h.changed) h

theorem Kept.ptpMove (h : Kept s) : Kept s.ptpMove := by
  unfold State.ptpMove
  refine .ite ?_ ?_
  · split
    · exact (h.setFld _ _ _ _).bump _
    · exact h
  · exact h

theorem Kept.subTrained (h : Kept s) (n k lanes : Nat) : Kept (s.subTrained n k lanes) :=
    .ite ((h.updSub _ _ _).sendLink _ _ _ _) (.foldl (fun _ _ ht => ht.pfcRaise _ _ _) (h.updSub _ _ _))

theorem Kept.fabTrained (h : Kept s) (n : Nat) (m : BitVec 8) : Kept (s.fabTrained n m) :=
    (Kept.foldl (fun _ _ ht => .ite (ht.subTrained _ _ _) ht) (h.same (by rfl))).ptpMove

theorem Kept.linkDown (h : Kept s) (n k : Nat) (cause : DownCause) : Kept (s.linkDown n k cause) :=
    .ite (((h.subDown _ _ _).updSub _ _ _).bump _).ptpMove h

theorem Kept.portRetry (h : Kept s) (n : Nat) : Kept (s.portRetry n) := by
  unfold State.portRetry
  refine .ite ?_ ?_
  · exact h
  · refine .foldl (fun _ _ ht => ?_) h
    split
    · exact .ite (ht.subTrain _ _) ht
    · exact ht

theorem Kept.macCtrl (h : Kept s) (n : Nat) (v : Word) : Kept (s.macCtrl n v) :=
    .ite ((h.setReg _ _).portTrain _) (.ite ((h.setReg _ _).portDown _).ptpMove (h.setReg _ _))

theorem Kept.fabCommit (h : Kept s) : Kept s.fabCommit :=
    .ite (h.setFld _ _ _ _) (Kept.foldl (fun _ _ ht => .ite ((ht.setReg _ _).portDown _)
      (.ite ((ht.setReg _ _).portTrain _) (ht.setReg _ _))) (h.setReg _ _)).ptpMove

theorem Kept.fabCommitWrite (h : Kept s) (v : Word) : Kept (s.fabCommitWrite v) :=
    .ite (Kept.ite (h.setFld _ _ _ _) h).fabCommit (.ite (h.setFld _ _ _ _) h)

theorem Kept.mcWrite (h : Kept s) : Kept s.mcWrite := h.changed

theorem Kept.mcLoad (h : Kept s) : Kept s.mcLoad := (h.setSh _ _).setSh _ _

theorem Kept.tqProdWrite (h : Kept s) (n : Nat) (v : Word) : Kept (s.tqProdWrite n v) := .ite h ((h.setReg _ _).tqNext _)

theorem Kept.statRead (h : Kept s) (p : Path) (n k j : Nat) : Kept (s.statRead p n k j) :=
    .ite (h.emit _) ((h.emit _).setReg _ _)

theorem Kept.lockChange (h : Kept s) (n k : Nat) (lock : Bool) : Kept (s.lockChange n k lock) := h.updSub _ _ _

theorem Kept.attachDown (h : Kept s) (q : Nat) : Kept (s.attachDown q) := h.same (by rfl)

/-! ## Operands of instructions -/

theorem Kept.issue (h : Kept s) (op : BitVec 8) (sl : Nat) (w : JWord) (enc : Slot → Bool) (run : State → State)
  (hk : ∀ t, Kept t → Kept (run t)) :
    Kept (s.issue op sl w enc run) :=
    .ite h (.ite (h.issueFault _ _ _) (.ite h (.ite (h.issueFault _ _ _) (.ite (h.retire _) (hk _ h)))))

theorem Kept.issueReg (h : Kept s) (op : BitVec 8) (sl : Nat) (w : JWord) (enc : Slot → Bool) (f : Slot → Slot) :
    Kept (s.issueReg op sl w enc f) := h.issue _ _ _ _ _ (fun _ ht => (ht.updSlot _ _).retire _)

end Sys2Proof.Proofs
end

section
/-!
PROOF. The invariant that every step keeps (R185, R210, R325, R385, R399), part 2 of 5: semaphores, memory accesses, resets, contexts, windows, the cipher, instances and segments.
-/

namespace Sys2Proof.Proofs

open Sys2Proof.Machine Sys2Proof.Laws Sys2Proof.Claims

variable {s : State}

/-! ## Semaphores -/

theorem Kept.poisonSem (h : Kept s) (k : Nat) : Kept (s.poisonSem k) := by
  unfold State.poisonSem
  obtain ⟨⟨-, -, -, -, -, hpoison, -⟩, -⟩ := id h
  exact .ite h ((h.withPoison (twf_tset false true s.poison k hpoison)).bump _)

theorem Kept.semWake (h : Kept s) (id : BitVec 16) : Kept (s.semWake id) := by
  unfold State.semWake
  refine .foldl (fun _ _ ht => ?_) h
  split
  · exact .ite (ht.retire _) ht
  · exact ht

theorem Kept.barArrive (h : Kept s) (id : BitVec 16) : Kept (s.barArrive id) :=
    .ite ((h.setFld _ _ _ _).setFld _ _ _ _) (h.setFld _ _ _ _)

theorem Kept.putSem (h : Kept s) (i : BitVec 16) (v : Word) : Kept (s.putSem i v) := by
  obtain ⟨⟨-, -, -, -, hsems, -⟩, -⟩ := id h
  exact h.withSems (twf_tset 0 v s.sems i.toNat hsems)

theorem Kept.putSat (h : Kept s) (id : BitVec 16) (r : Word × Bool) : Kept (s.putSat id r) :=
    .ite ((h.putSem _ _).bump _) (h.putSem _ _)

theorem Kept.semEffect (h : Kept s) (id : BitVec 16) (a : SemAct) : Kept (s.semEffect id a) := by
  unfold State.semEffect
  split
  · exact .ite (.ite h (h.barArrive _)) (h.putSat _ _)
  · exact .ite h (h.putSat _ _)
  · exact .ite h (h.putSem _ _)
  · exact h
  · exact h

theorem Kept.semApply (h : Kept s) (i : BitVec 16) (a : SemAct) : Kept (s.semApply i a).2.2 := by
  unfold State.semApply
  by_cases hpoison : s.semPoisoned i
  · rw [if_pos hpoison]
    exact h
  · rw [if_neg hpoison]
    dsimp only
    exact ((h.bump _).semEffect _ _).semWake _

theorem Kept.holdSem (h : Kept s) (id : BitVec 16) (a : SemAct) (src : SemSrc) : Kept (s.holdSem id a src) := h.changed

theorem Kept.semSignal (h : Kept s) (inst : BitVec 8) (id : BitVec 16) : Kept (s.semSignal inst id).2 := by
  unfold State.semSignal
  split
  · exact h.holdSem _ _ _
  · exact h.semApply _ _

theorem Kept.cellWord (h : Kept s) (p : Path) (id : BitVec 16) (word : Nat) (v : Word) (be : BitVec 8) :
    Kept (s.cellWord p id word v be) := .ite h (.ite (h.bump _) (.ite (h.bump _) (.ite (h.holdSem _ _ _) (h.semApply _ _))))

theorem Kept.cellAnswer (h : Kept s) (p : Path) (id : BitVec 16) (be : BitVec 8) : Kept (s.cellAnswer p id be) :=
    .ite ((h.semApply _ _).emit _) ((h.semApply _ _).emit _)

theorem Kept.cellRead (h : Kept s) (p : Path) (id : BitVec 16) (word : Nat) (be : BitVec 8) :
    Kept (s.cellRead p id word be) := .ite ((h.bump _).emit _) (.ite (h.emit _) (.ite (h.holdSem _ _ _) (h.cellAnswer _ _ _)))

/-! ## The word code and its accesses -/

theorem Kept.memCommitGo (h : Kept s) : Kept s.memCommitGo := by
  unfold State.memCommitGo
  refine .ite ?_ ?_
  · exact h.setFld _ _ _ _
  · extract_lets old s1
    have hs1 : Kept s1 := .foldl (fun _ _ ht => ht.setReg _ _) h
    exact .ite hs1 ((hs1.setReg _ _).setFld _ _ _ _)

theorem Kept.memCommitWrite (h : Kept s) (v : Word) : Kept (s.memCommitWrite v) :=
    .ite (Kept.ite (h.setFld _ _ _ _) h).memCommitGo (.ite (h.setFld _ _ _ _) h)

theorem Kept.testStatus (h : Kept s) (st : Status) : Kept (s.testStatus st) := h.setFld _ _ _ _

theorem Kept.testCmd (h : Kept s) (k : Nat → State → State) (hk : ∀ n t, Kept t → Kept (k n t)) : Kept (s.testCmd k) :=
    .ite (h.testStatus _) (.ite (h.testStatus _) (hk _ _ h))

theorem Kept.setTestData (h : Kept s) (d : BitVec 256) : Kept (s.setTestData d) := .foldl (fun _ _ ht => ht.setReg _ _) h

theorem Kept.putRaw (h : Kept s) (w : Nat) (d : BitVec 256) (c : BitVec 64) : Kept (s.putRaw w d c) := by
  unfold State.putRaw
  obtain ⟨⟨-, -, -, -, -, -, hraw⟩, -⟩ := id h
  exact .ite (h.putWord _ _) (h.withRaw (twf_tset none (some ⟨d, c⟩) s.raw w hraw))

theorem Kept.rawWriteOp (h : Kept s) : Kept s.rawWriteOp := h.testCmd _ (fun _ _ ht => (ht.putRaw _ _ _).testStatus _)

theorem Kept.rawReadOp (h : Kept s) : Kept s.rawReadOp :=
    h.testCmd _ (fun _ _ ht => ((ht.setTestData _).setReg _ _).testStatus _)

theorem Kept.testFound (h : Kept s) (fixed : Nat) (poison : Bool) : Kept (s.testFound fixed poison) :=
    (h.setFld _ _ _ _).setFld _ _ _ _

theorem Kept.decodedReadOp (h : Kept s) : Kept s.decodedReadOp := by
  unfold State.decodedReadOp
  refine Kept.testCmd h _ (fun _ _ ht => ?_)
  split
  · exact (((Kept.ite ht (ht.countCorr _)).setTestData _).testFound _ _).testStatus _
  · exact ((((ht.bump _).bump _).setTestData _).testFound _ _).testStatus _
  · exact ((((ht.bump _).logUncorr _ _ _).setTestData _).testFound _ _).testStatus _

theorem Kept.scrubWord (h : Kept s) (w : Nat) : Kept (s.scrubWord w) := by
  unfold State.scrubWord
  split
  · exact h
  · exact ((h.countCorr _).bump _).putWord _ _
  · exact (h.bump _).bump _
  · exact .ite ((((h.bump _).bump _).logUncorr _ _ _).poisonWord _ _) (((h.bump _).bump _).logUncorr _ _ _)

theorem Kept.sramDecoded (h : Kept s) (loc : SramLoc) (o : SramOutcome) : Kept (s.sramDecoded loc o) := by
  unfold State.sramDecoded
  split
  · exact h
  · exact h.bump _
  · dsimp only
    split
    · exact (h.bump _).poisonSem _
    · exact h.bump _

/-! ## Resets and start-up -/

theorem Kept.fuseStatus (h : Kept s) : Kept s.fuseStatus := ((h.setFld _ _ _ _).setFld _ _ _ _).setFld _ _ _ _

/-- What a reset clears is kept, and so are the fuses, which it leaves. -/
theorem Kept.cleared (h : Kept s) (keep : Nat → Bool) : Kept (s.cleared keep) := by
  obtain ⟨-, -, -, -, hsvn, -⟩ := h
  exact ⟨⟨rfl, rfl, rfl, rfl, rfl, rfl, rfl⟩, (by decide : (1 : MsgId) ≠ 0), (by decide : 0 < 4), nofun, hsvn, nofun⟩

theorem Kept.bootGo (h : Kept s) (st : Nat) (status : Status) : Kept (s.bootGo st status) := h.setReg _ _

theorem Kept.startTraining (h : Kept s) : Kept s.startTraining :=
    (Kept.foldl (fun _ _ ht => (ht.setReg _ _).portTrain _) ((h.same (by rfl)).setFld _ _ _ _)).bootGo _ _

theorem Kept.cold (h : Kept s) (sel smb : BitVec 2) (eeprom : List Byte) : Kept (s.cold sel smb eeprom) := by
  have hs1 : Kept { s.cleared tlyReg with
      boot := ({ Boot.init with target := sel.toNat, smb := smb } : Boot).readRecs eeprom } :=
    (h.cleared tlyReg).withTarget sel.isLt
  unfold State.cold
  extract_lets s1 b s2
  have hs2 : Kept s2 := hs1.changed
  exact (hs2.setFld _ _ _ _).fuseStatus

theorem target_readAgain (b : Boot) (eeprom : Option (List Byte)) : (b.readAgain eeprom).target = b.target := by
  cases eeprom <;> rfl

/-- The profile that a warm reset selects is one of four. -/
theorem warmTarget_lt (h : s.boot.target < 4) : s.warmTarget < 4 := by
  unfold State.warmTarget
  split
  · exact Nat.mod_lt _ (by decide)
  · split
    · exact Nat.mod_lt _ (by decide)
    · exact h

theorem Kept.warm (h : Kept s) (cause : Nat) (eeprom : Option (List Byte)) : Kept (s.warm cause eeprom) := by
  obtain ⟨⟨hmem, -, -, -, -, -, hraw⟩, -, htarget, -⟩ := id h
  have hkept {b : Boot} (hb : b.target = s.warmTarget) : Kept
    { s.cleared (warmKeeps s.warmFast) with mem := s.mem, raw := s.raw, boot := b } :=
    (((h.cleared _).withMem hmem).withRaw hraw).withTarget (hb ▸ warmTarget_lt htarget)
  unfold State.warm
  extract_lets fast s1 b s2 s3 s4
  have hs2 : Kept s2 := (hkept (target_readAgain _ eeprom)).changed
  have hs4 : Kept s4 := ((hs2.setFld _ _ _ _).setReg _ _).fuseStatus
  exact .ite hs4.startTraining hs4

theorem Kept.resetWrite (h : Kept s) (v : Word) (eeprom : Option (List Byte)) : Kept (s.resetWrite v eeprom) := by
  unfold State.resetWrite
  extract_lets s1
  have hs1 : Kept s1 := h.setFld _ _ _ _
  exact .ite hs1 (.ite (hs1.setFld _ _ _ _) ((hs1.setFld _ _ _ _).warm _ _))

theorem Kept.testDone (h : Kept s) (t : TestReport) : Kept (s.testDone t) := ((h.same (by rfl)).setReg _ _).startTraining

theorem Kept.linkUp (h : Kept s) (r : TrainResult) : Kept (s.linkUp r) := by
  unfold State.linkUp
  split
  · exact .ite (h.fabTrained _ _) h
  · exact .ite (h.same (by rfl)) h
  · exact .ite ((h.same (by rfl)).count _ _) h
  · exact h

theorem Kept.awake (h : Kept s) : Kept s.awake := .ite (h.setFld _ _ _ _) h

theorem Kept.closeWindow (h : Kept s) : Kept s.closeWindow := by
  unfold State.closeWindow
  exact (Kept.foldl (fun _ _ ht => .ite (ht.subTrained _ _ _) ht) (h.same (by rfl))).ptpMove

theorem Kept.pick (h : Kept s) (l : List Nat) : Kept (s.pick l).2 := by
  unfold State.pick
  split
  · exact h
  · exact h
  · exact h.takeFree

theorem Kept.writeMap (h : Kept s) : Kept s.writeMap := by
  unfold State.writeMap
  extract_lets u clu neb spareC spareN lanesOff sliceOff excluded extended s1 s2 s3 s4
  have hspareC : Kept spareC.2 := h.pick _
  have hspareN : Kept spareN.2 := hspareC.pick _
  have hs1 : Kept s1 := hspareN.setReg _ _
  have hs2 : Kept s2 := hs1.setReg _ _
  have hs3 : Kept s3 := hs2.setReg _ _
  have hs4 : Kept s4 := .foldl (fun _ _ ht => (ht.setReg _ _).setFld _ _ _ _) hs3
  exact hs4.setReg _ _

theorem Kept.mapIo (h : Kept s) (mem att : List Nat) : Kept (s.mapIo mem att) := h.takeFree.setReg _ _

theorem Kept.setRole (h : Kept s) (n r : Nat) : Kept (s.setRole n r) := (h.setFld _ _ _ _).setSh _ _

theorem Kept.judge (h : Kept s) (p : Nat) : Kept (s.judge p) := .ite h (.foldl (fun _ _ ht => ht.updSub _ _ _) h)

theorem Kept.report (h : Kept s) (active lay cap : Nat) (fbU fbM lost : Bool) (mem att : List Nat) :
    Kept (s.report active lay cap fbU fbM lost mem att) :=
    ((((Kept.foldl (fun _ _ ht => ht.setReg _ _) (.foldl (fun _ _ ht => ht.setReg _ _)
      h)).setReg _ _).setReg _ _).setReg _ _).mapIo _ _

theorem Kept.settled (h : Kept s) (p : Nat) (fbU fbM : Bool) (cl ar ci : Nat) : Kept (s.settled p fbU fbM cl ar ci) := by
  unfold State.settled
  extract_lets lay mem att set lost ports s1 s2 s3 s4 s5 s6 __src s7
  have hs1 : Kept s1 := h.report _ _ _ _ _ _ _ _
  have hs2 : Kept s2 := .ite hs1.writeMap hs1
  have hs3 : Kept s3 := hs2.setReg _ _
  have hs4 : Kept s4 := hs3.setReg _ _
  have hs5 : Kept s5 := hs4.setReg _ _
  have hs6 : Kept s6 := .foldl (fun _ _ ht => .ite ((ht.setRole _ _).portDown _) (ht.setRole _ _)) hs5
  have hs7 : Kept s7 := hs6.same (by rfl)
  exact hs7.ptpMove.bootGo _ _

theorem Kept.startFailed (h : Kept s) (fbU fbM : Bool) : Kept (s.startFailed fbU fbM) := by
  unfold State.startFailed
  extract_lets f att s1 s2 b
  have hs2 : Kept s2 := .foldl (fun _ _ ht => ht.portDown _) (h.takeFree.report _ _ _ _ _ _ _ _)
  clear_value s2
  exact (hs2.same (by rfl)).bootGo _ _

theorem Kept.decide_ (h : Kept s) : Kept s.decide_ := .ite ((h.judge _).settled _ _ _ _ _ _) (h.startFailed _ _)

theorem Kept.debtFull (h : Kept s) : Kept s.debtFull := h.changed

theorem Kept.memReady (h : Kept s) : Kept s.memReady := by
  unfold State.memReady
  extract_lets init s1 v s2 b s3
  have hs1 : Kept s1 := .ite ((h.withMem (m := []) rfl).withRaw (m := []) rfl).changed h
  have hs2 : Kept s2 := .ite ((hs1.setReg _ _).setSh _ _) hs1
  clear_value s2
  have hs3 : Kept s3 := hs2.same rfl
  exact (hs3.setFld _ _ _ _).debtFull.bootGo _ _

/-! ## Results of commands -/

theorem Kept.setV (h : Kept s) (p : Path) (a : Nat) (v : Word) : Kept (s.setV p a v) := h.setReg _ _

theorem Kept.setVBoth (h : Kept s) (p : Path) (a : Nat) (v : Word) : Kept (s.setVBoth p a v) := (h.setV _ _ _).setSh _ _

theorem Kept.commitV (h : Kept s) (p : Path) (a : Nat) : Kept (s.commitV p a) := h.setV _ _ _

theorem Kept.result (h : Kept s) (p : Path) (a : Nat) (st : Status) : Kept (s.result p a st) :=
    (h.setFld _ _ _ _).setFld _ _ _ _

/-! ## Commands of contexts -/

theorem Kept.ctxCreate (h : Kept s) (c : BitVec 20) (d : Word) : Kept (s.ctxCreate c d).2 := by
  unfold State.ctxCreate
  dsimp only
  split
  · exact h
  · split
    · exact h
    · split
      · exact h
      · exact h.setCtx _ _

theorem Kept.ctxModify (h : Kept s) (c : BitVec 20) (d : Word) : Kept (s.ctxModify c d).2 := by
  unfold State.ctxModify
  dsimp only
  split
  · exact h
  · split
    · exact h
    · exact ((h.updCtx _ _).setRate _ _).pumpFetch

theorem Kept.ctxDestroy (h : Kept s) (c : BitVec 20) : Kept (s.ctxDestroy c).2 := by
  unfold State.ctxDestroy
  split
  · exact h
  · split
    · exact h
    · exact (h.setCtx _ _).pumpFetch

theorem Kept.ctxRead (h : Kept s) (p : Path) (c : BitVec 20) : Kept (s.ctxRead p c).2 := by
  unfold State.ctxRead
  dsimp only
  split
  · exact h
  · exact (h.setV _ _ _).setV _ _ _

theorem Kept.ctxDo (h : Kept s) (p : Path) (k : State → BitVec 20 → Status × State) (hk : ∀ t x, Kept t → Kept (k t x).2) :
    Kept (s.ctxDo p k) := (Kept.ite_snd h (hk _ _ h)).result _ _ _

theorem Kept.ctxCmd (h : Kept s) (p : Path) (k : State → BitVec 20 → Status × State) (hk : ∀ t x, Kept t → Kept (k t x).2) :
    Kept (s.ctxCmd p k) := h.viewWrite _ _ _ (fun _ ht => ht.ctxDo _ _ (fun _ _ ht1 => hk _ _ ht1))

theorem Kept.xptCommit (h : Kept s) (fill : Bool) : Kept (s.xptCommit fill) :=
    .foldl (fun _ _ ht => .ite (ht.setCtx _ _) ht) (.foldl (fun _ _ ht => ht.setReg _ _) h)

/-! ## Windows -/

theorem Kept.setWin (h : Kept s) (w : Nat) (x : Win) : Kept (s.setWin w x) := h.changed

theorem Kept.updWin (h : Kept s) (w : Nat) (f : Win → Win) : Kept (s.updWin w f) := h.setWin _ _

theorem Kept.winBack (h : Kept s) (w : Nat) : Kept (s.winBack w) := (h.openBytes _).ownStore _ _

theorem Kept.fetchWin (h : Kept s) (w : Nat) : Kept (s.fetchWin w) := by
  unfold State.fetchWin
  refine .ite ?_ ?_
  · exact h
  · refine .ite ?_ ?_
    · exact (h.setWin _ _).bump _
    · split
      · exact h
      · exact (((h.winBack _).updWin _ _).updWin _ _).bump _

theorem Kept.useWin (h : Kept s) (w : Nat) : Kept (s.useWin w) :=
  (h.updWin w fun x => { x with used := s.fresh }).handed

theorem Kept.revokeDone (h : Kept s) (w : Nat) : Kept (s.revokeDone w) := by
  unfold State.revokeDone
  extract_lets x y s1 s2
  have hs1 : Kept s1 := (h.setWin _ _).bump _
  have hs2 : Kept s2 := by
    dsimp only [s2]
    split
    · exact .ite (hs1.semSignal _ _) hs1
    · exact hs1
  refine .ite h ?_
  split
  · exact hs2
  · exact hs2.changed

theorem Kept.winLeave (h : Kept s) (w : Option Nat) : Kept (s.winLeave w) := by
  unfold State.winLeave
  split
  · exact h
  · exact (h.updWin _ _).revokeDone _

theorem Kept.countRefusal (h : Kept s) (st : Status) : Kept (s.countRefusal st) := .ite (h.bump _) (.ite (h.bump _) h)

/-! ## The cipher -/

theorem Kept.setKey (h : Kept s) (k : Nat) (x : KeySlot) : Kept (s.setKey k x) := h.changed

theorem Kept.setCore (h : Kept s) (i : Nat) (x : Core) : Kept (s.setCore i x) := h.changed

theorem Kept.suspend (h : Kept s) (i : Nat) : Kept (s.suspend i) := by
  unfold State.suspend
  split
  · exact h
  · exact h.takeFree.setCore _ _

theorem Kept.startCore (h : Kept s) (i : Nat) (j : CJob) : Kept (s.startCore i j) := h.setCore _ _

theorem Kept.cipherPut (h : Kept s) (j : CJob) : Kept (s.cipherPut j) := by
  unfold State.cipherPut
  dsimp only
  split
  · exact h.startCore _ _
  · split
    · exact ((h.suspend _).bump _).startCore _ _
    · exact h.changed

theorem Kept.coreNext (h : Kept s) (i : Nat) : Kept (s.coreNext i) := by
  unfold State.coreNext
  refine .ite ?_ ?_
  · exact h
  · split
    · exact h.setCore _ _
    · split
      · exact h.changed.startCore _ _
      · exact h

theorem Kept.cipherFlush (h : Kept s) : Kept s.cipherFlush := .foldl (fun _ _ ht => .ite (ht.changed.toPlane _ _ _) ht) h

theorem Kept.send (h : Kept s) (plane : Option Nat) (tc : BitVec 3) (slot : Option Nat) (p : Packet) :
    Kept (s.send plane tc slot p) := by
  unfold State.send
  split
  · exact h.toPlane _ _ _
  · exact h.cipherPut _

theorem Kept.egressDone (h : Kept s) (j : CJob) : Kept (s.egressDone j) := ((Kept.ite h.changed h).bump _).changed.cipherFlush

/-! ## Instances -/

theorem Kept.instCreate (h : Kept s) (i : Nat) : Kept (s.instCreate i).2 := by
  unfold State.instCreate
  dsimp only
  split
  · exact h
  · split
    · exact h
    · exact h.changed

theorem Kept.clearKeys (h : Kept s) (first count : Nat) : Kept (s.clearKeys first count) := h.changed

theorem Kept.instGone (h : Kept s) (i : BitVec 8) : Kept (s.instGone i) :=
    (((Kept.foldl (fun _ _ ht => .ite (ht.setFld _ _ _ _) ht) h.changed).clearKeys _ _).setFld _ _ _ _).changed

theorem Kept.instDestroy (h : Kept s) (i : Nat) : Kept (s.instDestroy i).2.2 := by
  unfold State.instDestroy
  split
  · exact h
  · dsimp only
    split
    · exact h
    · exact h.instGone _

theorem Kept.loadInst (h : Kept s) (c : Inst) : Kept (s.loadInst c) := .foldl (fun _ _ ht => (ht.setReg _ _).setSh _ _) h

theorem Kept.instRead (h : Kept s) (i : Nat) : Kept (s.instRead i).2 := by
  unfold State.instRead
  split
  · exact h.loadInst _
  · split
    · exact h.loadInst _
    · exact h

theorem Kept.instResult (h : Kept s) (i h' : Nat) (st : Status) : Kept (s.instResult i h' st) := h.setReg _ _

theorem Kept.instCreateOp (h : Kept s) : Kept s.instCreateOp := (h.instCreate _).instResult _ _ _

theorem Kept.instDestroyOp (h : Kept s) : Kept s.instDestroyOp := (h.instDestroy _).instResult _ _ _

theorem Kept.instReadOp (h : Kept s) : Kept s.instReadOp := (h.instRead _).instResult _ _ _

theorem Kept.instQueryOp (h : Kept s) : Kept s.instQueryOp := .ite (h.instResult _ _ _) (h.instResult _ _ _)

/-! ## Segments -/

theorem Kept.updSeg (h : Kept s) (op g : Nat) (f : Seg → Seg) : Kept (s.updSeg op g f) := h.updOp _ _

theorem Kept.dropSegs (h : Kept s) (op : Nat) (p : Seg → Bool) : Kept (s.dropSegs op p) := by
  unfold State.dropSegs
  split
  · exact h
  · exact (h.updOp _ _).changed

theorem Kept.settle (h : Kept s) : Kept s.settle := by
  unfold State.settle
  refine .foldl (fun _ _ ht => ?_) h
  split
  · exact .ite (ht.retire _) ht
  · exact .ite (ht.retire _) ht
  · exact ht

theorem Kept.txAsk (h : Kept s) (src : MsgSrc) (sl : Nat) (inst : BitVec 8) (srcCtx : BitVec 20) (dst : AdapterId)
  (dstCtx : BitVec 20) (tc : BitVec 3) (urgent : Bool) (data : List Byte) (trig : List Word) :
    Kept (s.txAsk src sl inst srcCtx dst dstCtx tc urgent data trig) := h.handed.changed

theorem Kept.askSignal (h : Kept s) (o : Op) (k : Nat) : Kept (s.askSignal o k) :=
    .ite ((h.updOp _ _).txAsk _ _ _ _ _ _ _ _ _ _) (h.updOp _ _)

theorem Kept.lastSignal (h : Kept s) (o : Op) : Kept (s.lastSignal o) := .ite (h.askSignal _ _) h

theorem Kept.askSeg (h : Kept s) (o : Op) (x : Seg) (data : List Byte) : Kept (s.askSeg o x data) := h.txAsk _ _ _ _ _ _ _ _ _ _

theorem Kept.storeRun (h : Kept s) (inst : BitVec 8) (clu space : Nat) (k : WriteKind) (a : Word) (bs : List Byte) :
    Kept (s.storeRun inst clu space k a bs).2.2 := by
  unfold State.storeRun
  split
  · exact h.storeMem _ _ _ _ _
  · exact h.writeLoc _ _ _

theorem Kept.storeRuns (h : Kept s) (inst : BitVec 8) (clu space : Nat) (k : WriteKind) (rs : List (Word × Nat))
  (bs : List Byte) :
    Kept (s.storeRuns inst clu space k rs bs).2.2 := by
  unfold State.storeRuns
  split
  · exact h
  · split
    · exact h.handed.changed.emits _
    · exact .foldlOf (fun b : _ × _ × _ × State => b.2.2.2) (fun _ _ hb => hb.storeRun _ _ _ _ _ _) h

theorem Kept.countRead (h : Kept s) (o : Op) (n : Nat) : Kept (s.countRead o n) := h.count _ _

theorem Kept.countWrite (h : Kept s) (o : Op) (n : Nat) : Kept (s.countWrite o n) := ((h.count _ _).tagCount _ _ _).updOp _ _

theorem Kept.failSeg (h : Kept s) (op g : Nat) (st : Status) : Kept (s.failSeg op g st) := by
  unfold State.failSeg
  split
  · exact h.updOp _ _
  · exact (h.updOp _ _).dropSegs _ _

theorem Kept.partialNow (h : Kept s) (op : Nat) : Kept (s.partialNow op) := by
  unfold State.partialNow
  split
  · exact h
  next o ho =>
    extract_lets port key s1 s2
    have hs1 : Kept s1 := by
      refine h.handed.withPages fun x hx => ?_
      obtain ⟨-, -, -, -, -, hpages⟩ := h
      obtain hx | rfl := List.mem_append.mp hx |>.imp_right List.mem_singleton.mp
      · exact Nat.lt_succ_of_lt (hpages x hx)
      · exact Nat.lt_succ_self _
    exact .ite h (((hs1.record _).updSlot _ _).sendPage _)

theorem Kept.segDone (h : Kept s) (o : Op) (g : Nat) : Kept (s.segDone o g) := by
  unfold State.segDone
  split
  · exact h
  · extract_lets s1
    have hs1 : Kept s1 := (h.countWrite _ _).updSeg _ _ _
    exact .ite hs1 (.ite ((hs1.dropSegs _ _).partialNow _) (hs1.partialNow _))

theorem Kept.writeSeg (h : Kept s) (o : Op) (x : Seg) (bss : List (List Byte)) : Kept (s.writeSeg o x bss) := by
  unfold State.writeSeg
  extract_lets p r
  have hr : Kept r.2.2 := .foldlOf (fun b : _ × _ × State => b.2.2) (fun _ _ hb => hb.storeRuns _ _ _ _ _ _) h
  exact .ite (hr.failSeg _ _ _) (.ite (hr.segDone _ _) (hr.updSeg _ _ _))

theorem Kept.queueSeg (h : Kept s) (o : Op) (x : Seg) : Kept (s.queueSeg o x) := by
  unfold State.queueSeg
  split
  · exact h.failSeg _ _ _
  · exact (h.updSeg _ _ _).changed

theorem Kept.afterReads (h : Kept s) (o : Op) (x : Seg) : Kept (s.afterReads o x) :=
    .ite ((h.dropSegs _ _).partialNow _) (.ite ((h.updSeg _ _ _).askSeg _ _ _)
      (.ite (h.queueSeg _ _) (.ite (h.writeSeg _ _ _) (h.writeSeg _ _ _))))

theorem Kept.askRead (h : Kept s) (o : Op) (x : Seg) (which : Nat) (d : TDesc) : Kept (s.askRead o x which d) :=
    .ite (h.handed.changed.emits _) h.handed.changed

theorem Kept.goSeg (h : Kept s) (o : Op) (x : Seg) : Kept (s.goSeg o x) := by
  unfold State.goSeg
  refine .ite ?_ ?_
  · exact (h.updSeg _ _ _).askSeg _ _ _
  · extract_lets n s1
    have hs1 : Kept s1 := h.updSeg _ _ _
    exact .ite ((hs1.updSeg _ _ _).afterReads _ _) (.foldl (fun _ _ ht => ht.askRead _ _ _ _) hs1)

theorem Kept.pageFault (h : Kept s) (op k : Nat) (key : XKey) : Kept (s.pageFault op k key) := by
  unfold State.pageFault
  split
  · exact h
  · exact ((h.dropSegs _ _).updOp _ _).partialNow _

theorem Kept.segLookup (h : Kept s) (ks : List (XKey × Bool)) : Kept (s.segLookup ks).2.2.2 := by
  unfold State.segLookup
  refine .foldlOf (fun b : _ × _ × _ × State => b.2.2.2) (fun _ _ hb => ?_) h
  dsimp only
  split
  · exact hb.lookupCount _ _
  · exact hb.lookupCount _ _
  · exact hb.lookupCount _ _

theorem Kept.startSeg (h : Kept s) (op : Nat) : Kept (s.startSeg op) := by
  unfold State.startSeg
  split
  · exact h
  · extract_lets k x s0 key l y s1
    have hs0 : Kept s0 := h.handed
    have hs1 : Kept s1 := (hs0.segLookup _).updOp _ _
    refine .ite h (.ite (hs0.updOp _ _) (.ite (h.updOp _ _) ?_))
    split
    · exact hs1.pageFault _ _ _
    · exact .ite (hs1.goSeg _ _) hs1

theorem Kept.startSegs (h : Kept s) (op : Nat) : Kept (s.startSegs op) := (((h.startSeg _).startSeg _).startSeg _).startSeg _

/-! ## Issue -/

theorem Kept.addOp (h : Kept s) (o : Op) : Kept (s.addOp o) :=
    (((h.handed.changed.bump _).tagCount _ _ _).traceOp _ _ _ _).retire _

theorem Kept.issueTensor (h : Kept s) (sl : Nat) (w : JWord) (kind : OpKind) (dst a b : TDesc) (val : Word) (ds : List TDesc)
  (ok : Bool) :
    Kept (s.issueTensor sl w kind dst a b val ds ok) :=
    .ite h (.ite (h.issueFault _ _ _) (.ite (h.issueFault _ _ _)
      (.ite ((h.bump _).issueFault _ _ _) (.ite (h.issueFault _ _ _) ((h.addOp _).startSegs _)))))

/-! ## Completion -/

theorem Kept.opSignal (h : Kept s) (o : Op) : Kept (s.opSignal o).2 := by
  unfold State.opSignal
  split
  · exact h.semSignal _ _
  · exact h

theorem Kept.postWaiting (h : Kept s) : Kept s.postWaiting := .foldl (fun _ _ ht => .ite ht.changed ht) h

theorem Kept.operationComplete (h : Kept s) (op : Nat) : Kept (s.operationComplete op) := by
  unfold State.operationComplete
  split
  · exact h
  next o ho =>
    extract_lets r src s1 s2
    have hr : Kept r.2 := h.opSignal o
    clear_value r
    have hs1 : Kept s1 := (hr.filterPages fun x => x.sent || x.op != op).changed
    have hs2 : Kept s2 := (hs1.traceOp _ _ _ _).progressed _
    exact .ite h (Kept.ite hs2 ((hs2.slotFault _ _).stopSlot _)).settle.postWaiting

end Sys2Proof.Proofs
end

section
/-!
PROOF. The invariant that every step keeps (R185, R210, R325, R385, R399), part 3 of 5: the arrays, messages that are sent, packets that arrive, and operations.
-/

namespace Sys2Proof.Proofs

open Sys2Proof.Machine Sys2Proof.Laws Sys2Proof.Claims

variable {s : State}

/-! ## Nebula -/

theorem Kept.residue (h : Kept s) (a n per : Nat) (checked : Bool) (upset : Mismatch) :
    Kept (s.residue a n per checked upset).2 := by
  unfold State.residue
  dsimp only
  split
  · exact .ite h.changed h
  · split
    · exact (Kept.ite h.changed h).bump _
    · exact (Kept.ite h.changed h).bump _

theorem Kept.logFence (h : Kept s) (a lane : Nat) (tag : BitVec 24) (inst : BitVec 8) :
    Kept (s.logFence a lane tag inst) := .ite h (h.setReg _ _)

theorem Kept.moveJob (h : Kept s) (j : Job) : Kept (s.moveJob j) := by
  unfold State.moveJob
  dsimp only
  split
  · exact h.changed.failSeg _ _ _
  · exact h.changed.changed

theorem Kept.fenceLane (h : Kept s) (a lane : Nat) (tag : BitVec 24) (inst : BitVec 8) :
    Kept (s.fenceLane a lane tag inst) := by
  unfold State.fenceLane
  extract_lets s1 n s2 k __src
  have hs1 : Kept s1 := h.logFence _ _ _ _
  have hs2 : Kept s2 := hs1.setFld _ _ _ _
  have h__src : Kept __src := hs1.setFld _ _ _ _
  exact .ite (.foldl (fun _ _ ht => ht.moveJob _) hs2) h__src.changed

theorem Kept.countOps (h : Kept s) (j : Job) : Kept (s.countOps j) := .foldl (fun _ _ ht => ht.count _ _) h

theorem Kept.finishJob (h : Kept s) (j : Job) (o : Op) (x : Seg) : Kept (s.finishJob j o x) :=
    (((h.countOps _).count _ _).count _ _).writeSeg _ _ _

theorem Kept.putJob (h : Kept s) (j k : Job) : Kept (s.putJob j k) := h.changed

theorem Kept.beginJob (h : Kept s) (j : Job) : Kept (s.beginJob j) := .ite h (h.updSeg _ _ _).changed

theorem Kept.passFailed (h : Kept s) (j : Job) (o : Op) (lane : Nat) : Kept (s.passFailed j o lane) :=
    .ite ((h.failSeg _ _ _).fenceLane _ _ _ _) (h.failSeg _ _ _)

theorem Kept.nebulaPass (h : Kept s) (a : Nat) (upset : Mismatch) : Kept (s.nebulaPass a upset) := by
  unfold State.nebulaPass
  split
  · exact h
  · extract_lets n b k
    have hb : Kept b := h.beginJob _
    split
    · exact h
    · extract_lets r __src
      have hr : Kept r.2 := hb.residue _ _ _ _ _
      have h__src : Kept __src := hr
      split
      · exact (hr.passFailed _ _ _).settle
      · refine .ite ?_ ?_
        · exact hr.putJob _ _
        · split
          · exact h
          · exact (h__src.changed.finishJob _ _ _).settle

theorem Kept.injectWrite (h : Kept s) (v : Word) : Kept (s.injectWrite v) := .ite h.changed h

/-! ## Messages that are sent -/

theorem Kept.updSrec (h : Kept s) (m : MsgId) (f : SRec → SRec) : Kept (s.updSrec m f) := h.changed

theorem Kept.restartTimer (h : Kept s) (m : MsgId) : Kept (s.restartTimer m) := h.updSrec _ _

theorem Kept.freeTracker (h : Kept s) (r : SRec) : Kept (s.freeTracker r) := .ite h h.changed

theorem Kept.msgEnded (h : Kept s) (src : MsgSrc) (inst : BitVec 8) (trig : List Word) (st : Status) :
    Kept (s.msgEnded src inst trig st) := by
  unfold State.msgEnded
  split
  · split
    · exact h
    · exact .ite ((Kept.ite (h.countRead _ _) h).segDone _ _).settle (h.failSeg _ _ _).settle
  · exact (h.updOp _ _).settle
  · exact (h.updOp _ _).settle
  · exact .ite (h.fault _ _) (.ite (h.semSignal _ _) h)

theorem Kept.endMsg (h : Kept s) (r : SRec) (st : Status) : Kept (s.endMsg r st) :=
    ((h.changed.freeTracker _).msgEnded _ _ _ _).pumpFetch

theorem Kept.endReq (h : Kept s) (r : TxReq) (st : Status) : Kept (s.endReq r st) := h.changed.msgEnded _ _ _ _

theorem nextMsgId_ne_zero (m : MsgId) : nextMsgId m ≠ 0 := by
  unfold nextMsgId
  split <;> simp_all

theorem Kept.newRecord (h : Kept s) (r : TxReq) (f : MsgForm) (key : Option Nat) : Kept (s.newRecord r f key) := by
  unfold State.newRecord
  extract_lets c m x ts s1 s2
  have hs1 : Kept s1 := (h.withMsg (nextMsgId_ne_zero m)).changed
  have hs2 : Kept s2 := hs1.useCtx _
  exact .ite (hs2.endMsg _ _) hs2

theorem Kept.markWait (h : Kept s) (r : TxReq) (already : Bool) (reg : Nat) (f : TxReq → TxReq) :
    Kept (s.markWait r already reg f) := .ite h (h.changed.bump _)

theorem Kept.messageCreate (h : Kept s) (id : Nat) : Kept (s.messageCreate id) := by
  unfold State.messageCreate
  split
  · exact h
  · refine .ite ?_ ?_
    · exact h
    · split
      · exact h.changed
      · refine .ite ?_ ?_
        · exact h.endReq _ _
        · refine .ite ?_ ?_
          · exact h.fetchCtx _
          · split
            · exact (Kept.ite (h.bump _) h).endReq _ _
            · exact .ite (h.markWait _ _ _ _) (.ite (h.markWait _ _ _ _) (h.newRecord _ _ _))

theorem Kept.countBypass (h : Kept s) (r : SRec) (dst : AdapterId) : Kept (s.countBypass r dst) := by
  unfold State.countBypass
  split
  · exact .ite h (h.bump _)
  · exact h

theorem Kept.countSent (h : Kept s) (e : Option Resend) : Kept (s.countSent e) := by
  unfold State.countSent
  dsimp only
  split
  · split
    · exact (h.bump _).bump _
    · exact (h.bump _).bump _
    · exact h.bump _
  · exact h.bump _

theorem Kept.releaseOn (h : Kept s) (r : SRec) (idx : Nat) (e : Option Resend) (p : Packet) (planes : List (Option Nat)) :
    Kept (s.releaseOn r idx e p planes) := by
  unfold State.releaseOn
  extract_lets s1 s2
  have hs1 : Kept s1 := (h.countSent _).updSrec _ _
  have hs2 : Kept s2 := .ite (hs1.restartTimer _) hs1
  exact .foldl (fun _ _ ht => ht.send _ _ _ _) hs2

theorem Kept.packetRelease (h : Kept s) (m : MsgId) (idx : Nat) : Kept (s.packetRelease m idx) := by
  unfold State.packetRelease
  split
  · exact h
  · split
    · exact h
    · refine .ite ?_ ?_
      · exact h
      · refine .ite ?_ ?_
        · exact h.endMsg _ _
        · refine .ite ?_ ?_
          · exact h.releaseOn _ _ _ _ _
          · refine .ite ?_ ?_
            · exact h
            · split
              · exact h
              · exact .ite h ((((h.spend _ _).updCtx _ _).countBypass _ _).releaseOn _ _ _ _ _)

theorem Kept.ackMark (h : Kept s) (r : SRec) (p : Packet) : Kept (s.ackMark r p) :=
    .ite ((h.updSrec _ _).restartTimer _) (h.updSrec _ _)

theorem Kept.ackMember (h : Kept s) (r : SRec) (p : Packet) : Kept (s.ackMember r p) :=
    .ite (h.endMsg _ _) (.ite (h.endMsg _ _) (h.updSrec _ _))

theorem Kept.onAck (h : Kept s) (r : SRec) (p : Packet) : Kept (s.onAck r p) := by
  unfold State.onAck
  extract_lets s1
  have hs1 : Kept s1 := .ite ((h.bump _).rateDown _) h
  exact .ite (.ite (hs1.ackMember _ _) hs1) (.ite (hs1.endMsg _ _) (.ite hs1 (hs1.ackMark _ _)))

theorem Kept.onNack (h : Kept s) (r : SRec) (p : Packet) : Kept (s.onNack r p) :=
    .ite ((h.bump _).updSrec _ _) (.ite ((h.bump _).endMsg _ _) ((h.bump _).updSrec _ _))

theorem Kept.retxExpiry (h : Kept s) (m : MsgId) : Kept (s.retxExpiry m) := by
  unfold State.retxExpiry
  split
  · exact h
  · split
    · exact h
    · exact .ite h (.ite (h.updSrec _ _) ((h.updSrec _ _).restartTimer _))

theorem Kept.lifeExpiry (h : Kept s) (m : MsgId) : Kept (s.lifeExpiry m) := by
  unfold State.lifeExpiry
  split
  · exact h
  · exact .ite h (.ite ((h.bump _).endMsg _ _) (h.endMsg _ _))

theorem Kept.busyResend (h : Kept s) (m : MsgId) (idx : Nat) : Kept (s.busyResend m idx) := by
  unfold State.busyResend
  split
  · exact h
  · split
    · exact h
    · exact h.updSrec _ _

theorem Kept.rateUp (h : Kept s) (c : BitVec 20) : Kept (s.rateUp c) := .ite h ((h.setRate _ _).updCtx _ _)

/-! ## Packets that arrive -/

theorem Kept.updRrec (h : Kept s) (src : AdapterId) (m : MsgId) (f : RRec → RRec) : Kept (s.updRrec src m f) := h.changed

theorem Kept.nack (h : Kept s) (x : Rx) (st : Status) : Kept (s.nack x st) := .ite h ((h.bump _).sendCtl _ _ _)

theorem Kept.refuse (h : Kept s) (x : Rx) (st : Status) : Kept (s.refuse x st) := (h.nack _ _).sendCtl _ _ _

theorem Kept.sendAck (h : Kept s) (src : AdapterId) (m : MsgId) (fin : Bool) : Kept (s.sendAck src m fin) := by
  unfold State.sendAck
  split
  · exact h
  · exact .ite (h.updRrec _ _ _) ((h.updRrec _ _ _).sendCtl _ _ _)

theorem Kept.delivered (h : Kept s) (op : Nat) (st : Status) (bytes : Nat) : Kept (s.delivered op st bytes) := by
  unfold State.delivered
  extract_lets s1
  have hs1 : Kept s1 := h.changed
  split
  · exact hs1.postWaiting
  next o ho =>
    extract_lets s2
    have hs2 : Kept s2 := (hs1.countWrite _ _).updOp _ _
    exact ((Kept.ite ((hs2.traceOp _ _ _ _).lastSignal _) hs2).postWaiting.settle).operationComplete _

theorem Kept.deliverBound (h : Kept s) (r : RRec) (st : Status) : Kept (s.deliverBound r st) := by
  unfold State.deliverBound
  split
  · exact h.delivered _ _ _
  · exact h

theorem Kept.sigAdd (h : Kept s) (r : RRec) : Kept (s.sigAdd r).2 := by
  unfold State.sigAdd
  split
  · exact h
  · split
    · exact h.bump _
    · exact h.semApply _ _

theorem Kept.publishAs (h : Kept s) (r : RRec) (st : Status) : Kept (s.publishAs r st) :=
    ((Kept.ite (h.updRrec _ _ _) ((h.updRrec _ _ _).nack _ _)).deliverBound _ _).sendAck _ _ _

theorem Kept.publish (h : Kept s) (r : RRec) : Kept (s.publish r) :=
    .ite ((h.updRrec _ _ _).holdSem _ _ _) ((h.sigAdd _).publishAs _ _)

theorem Kept.release (h : Kept s) (src : AdapterId) (m : MsgId) (x : Nat) : Kept (s.release src m x) := by
  induction x generalizing s m with
  | zero => exact h
  | succ n ih =>
    unfold State.release
    split
    · exact h
    · dsimp only
      split
      · exact .ite (ih (h.publish _) _) (h.publish _)
      · exact h.publish _

theorem Kept.rxFinish (h : Kept s) (src : AdapterId) (m : MsgId) : Kept (s.rxFinish src m) := by
  unfold State.rxFinish
  split
  · exact h
  · exact .ite h (.ite (.ite ((h.publish _).release _ _ _) (h.publish _)) ((h.updRrec _ _ _).bump _))

theorem Kept.rxFlush (h : Kept s) (src : AdapterId) (m : MsgId) : Kept (s.rxFlush src m) := by
  unfold State.rxFlush
  split
  · exact .ite ((h.updRrec _ _ _).emit _) h
  · exact h

theorem Kept.rxFailFinal (h : Kept s) (src : AdapterId) (m : MsgId) : Kept (s.rxFailFinal src m) := by
  unfold State.rxFailFinal
  split
  · exact h
  · exact .ite h (((h.updRrec _ _ _).sendAck _ _ _).deliverBound _ _)

theorem Kept.rxFail (h : Kept s) (x : Rx) (st : Status) : Kept (s.rxFail x st) := by
  unfold State.rxFail
  extract_lets p s1 s2
  have hs1 : Kept s1 := h.nack _ _
  have hs2 : Kept s2 := (hs1.updRrec _ _ _).rxFlush _ _
  split
  · exact hs1
  · exact .ite hs1 (.ite (hs1.rxFailFinal _ _) ((hs2.release _ _ _).rxFailFinal _ _))

theorem Kept.rxWriteDone (h : Kept s) (src : AdapterId) (m : MsgId) (w : Option Nat) : Kept (s.rxWriteDone src m w) :=
    ((((h.winLeave _).updRrec _ _ _).rxFlush _ _).rxFinish _ _).rxFailFinal _ _

theorem Kept.rxWriteFail (h : Kept s) (x : Rx) (w : Option Nat) (st : Status) : Kept (s.rxWriteFail x w st) :=
    ((h.updRrec _ _ _).winLeave _).rxFail _ _

theorem Kept.rxLate (h : Kept s) (src : AdapterId) (m : MsgId) (idx : BitVec 16) (w : Option Nat) :
    Kept (s.rxLate src m idx w) := by
  unfold State.rxLate
  split
  · exact h.winLeave _
  · exact h.rxWriteFail _ _ _

theorem Kept.accept (h : Kept s) (x : Rx) (w : Option Nat) : Kept (s.accept x w) := by
  unfold State.accept
  extract_lets p every s1 s2
  have hs1 : Kept s1 := h.updRrec _ _ _
  have hs2 : Kept s2 := by
    dsimp only [s2]
    split
    · exact (hs1.updWin _ _).useWin _
    · exact hs1
  split
  · exact .ite (hs2.sendAck _ _ _) hs2
  · exact hs2

theorem Kept.placed (h : Kept s) (x : Rx) (failed : Bool) (n : Nat) : Kept (s.placed x failed n) :=
    .ite (h.rxWriteFail _ _ _) (.ite (h.rxWriteDone _ _ _) ((h.updRrec _ _ _).rxFlush _ _))

theorem Kept.placeWrite (h : Kept s) (x : Rx) (t : Target) : Kept (s.placeWrite x t) := by
  unfold State.placeWrite
  extract_lets p r s1
  have hr : Kept r.2.2 := h.storeRuns _ _ _ _ _ _
  have hs1 : Kept s1 := .ite hr ((Kept.ite (hr.bump _) hr).updRrec _ _ _)
  exact hs1.placed _ _ _

theorem Kept.accPasses (h : Kept s) (a per x n : Nat) (upset : Mismatch) : Kept (s.accPasses a per x n upset).2 := by
  induction x generalizing s n upset with
  | zero => exact h
  | succ k ih =>
    unfold State.accPasses
    refine .ite_snd h ?_
    dsimp only
    split
    · exact h.residue _ _ _ _ _
    · exact ih (h.residue _ _ _ _ _) _ _

theorem Kept.accRun (h : Kept s) (p : Packet) (upset : Mismatch) (old : List Byte) : Kept (s.accRun p upset old).2 := by
  unfold State.accRun
  extract_lets e ctrl
  split
  · extract_lets n r
    have hr : Kept r.2 := h.accPasses _ _ _ _ _
    split
    · exact .ite (hr.fenceLane _ _ _ _) hr
    · exact ((hr.count _ _).count _ _).count _ _
  · exact h

theorem Kept.accInside (h : Kept s) (x : Rx) (t : Target) (upset : Mismatch) : Kept (s.accInside x t upset) := by
  unfold State.accInside
  extract_lets p r a
  have hr : Kept r.2.2 := h.readRuns _ _ _ _
  have ha : Kept a.2 := hr.accRun _ _ _
  refine .ite ?_ ?_
  · exact hr.rxWriteFail _ _ _
  · split
    · exact ha.rxWriteFail _ _ _
    · exact (Kept.ite (ha.writeRuns _ _ _ _ _) (((ha.writeRuns _ _ _ _ _).bump _).updRrec _ _ _)).placed _ _ _

theorem Kept.accNext (h : Kept s) : Kept s.accNext := by
  unfold State.accNext
  refine .ite ?_ ?_
  · exact h
  · split
    · exact h
    · split
      · exact h.changed.emit _
      · exact h

theorem Kept.placeAcc (h : Kept s) (x : Rx) (t : Target) (upset : Mismatch) (keys : List XKey) :
    Kept (s.placeAcc x t upset keys) :=
    .ite ((h.bump _).placed _ _ _) (.ite h.handed.changed.accNext (.ite (h.accInside _ _ _) (h.handed.changed.askLines _)))

theorem Kept.place (h : Kept s) (x : Rx) (upset : Mismatch) (keys : List XKey) : Kept (s.place x upset keys) := by
  unfold State.place
  split
  · exact h.rxWriteDone _ _ _
  · exact .ite (h.placeAcc _ _ _ _) (h.placeWrite _ _)

theorem Kept.xlatFail (h : Kept s) (x : Rx) : Kept (s.xlatFail x) := (h.bump _).rxWriteFail _ _ _

theorem Kept.translate (h : Kept s) (x : Rx) (upset : Mismatch) : Kept (s.translate x upset) := by
  unfold State.translate
  split
  · exact h.rxWriteDone _ _ _
  · exact .ite (h.xlatFail _) (.ite ((h.segLookup _).xlatFail _) (.ite ((h.segLookup _).place _ _ _) (h.segLookup _).changed))

theorem Kept.parkWin (h : Kept s) (x : Rx) (upset : Mismatch) : Kept (s.parkWin x upset) := h.changed.fetchWin _

theorem Kept.authStart (h : Kept s) (x : Rx) (slot : Nat) (w : Option Nat) (upset : Mismatch) :
    Kept (s.authStart x slot w upset) := .ite (h.cipherPut _) ((h.bump _).winLeave _)

theorem Kept.winEnter (h : Kept s) (w : Nat) : Kept (s.winEnter w) := (h.updWin _ _).useWin _

theorem Kept.rxWindow (h : Kept s) (x : Rx) (upset : Mismatch) : Kept (s.rxWindow x upset) := by
  unfold State.rxWindow
  refine .ite ?_ ?_
  · exact (h.countRefusal _).rxFail _ _
  · refine .ite ?_ ?_
    · exact h.parkWin _ _
    · split
      · exact (h.countRefusal _).rxFail _ _
      · exact .ite ((h.bump _).rxFail _ _) (.ite ((h.winEnter _).authStart _ _ _ _) ((h.accept _ _).translate _ _))

theorem Kept.bindBuffer (h : Kept s) (x : Rx) (b : Posted) : Kept (s.bindBuffer x b) := (h.updRrec _ _ _).changed.bump _

theorem Kept.noBuffer (h : Kept s) (x : Rx) (small : Bool) : Kept (s.noBuffer x small) :=
    (Kept.ite ((h.bump _).bump _) (h.bump _)).rxFail _ _

theorem Kept.unbind (h : Kept s) (op : Nat) : Kept (s.unbind op) := by
  unfold State.unbind
  split
  · exact h
  · exact h.changed

theorem Kept.rxSend (h : Kept s) (x : Rx) (r : RRec) : Kept (s.rxSend x r) := by
  unfold State.rxSend
  refine .ite ?_ ?_
  · exact h.bump _
  · split
    · split
      · exact .ite (((h.unbind _).updRrec _ _ _).noBuffer _ _) ((h.accept _ _).translate _ _)
      · exact h
    · dsimp only
      split
      · exact ((h.bindBuffer _ _).accept _ _).translate _ _
      · exact h.noBuffer _ _

theorem Kept.rxSem (h : Kept s) (x : Rx) : Kept (s.rxSem x) :=
    .ite (h.bump _) (.ite ((h.bump _).rxFail _ _) (.ite ((h.accept _ _).holdSem _ _ _)
      (.ite ((h.semApply _ _).rxFail _ _) (((h.semApply _ _).accept _ _).rxWriteDone _ _ _))))

theorem Kept.readStart (h : Kept s) (x : Rx) (keys : List XKey) : Kept (s.readStart x keys) :=
    .ite (h.winLeave _) (.foldl (fun _ _ ht => .ite (ht.handed.changed.emit _) ht.handed.changed) h.handed.changed)

theorem Kept.readFail (h : Kept s) (x : Rx) (st : Status) : Kept (s.readFail x st) := (h.nack _ _).winLeave _

theorem Kept.readGo (h : Kept s) (x : Rx) : Kept (s.readGo x) :=
    .ite ((h.bump _).readFail _ _) (.ite (((h.segLookup _).bump _).readFail _ _)
      (.ite ((h.segLookup _).readStart _ _) (h.segLookup _).changed))

theorem Kept.rxRead (h : Kept s) (x : Rx) : Kept (s.rxRead x) := by
  unfold State.rxRead
  refine .ite ?_ ?_
  · exact (h.countRefusal _).nack _ _
  · refine .ite ?_ ?_
    · exact h.parkWin _ _
    · split
      · exact (h.countRefusal _).nack _ _
      · refine .ite ?_ ?_
        · exact (h.bump _).nack _ _
        · split
          · exact (Kept.ite (h.bump _) h).nack _ _
          · exact (h.winEnter _).readGo _

theorem Kept.readLeave (h : Kept s) (g w : Nat) : Kept (s.readLeave g w) := .ite h (h.winLeave _)

theorem Kept.respSend (h : Kept s) (p : Packet) (tc : BitVec 3) (w : Nat) (q : Packet) : Kept (s.respSend p tc w q) := by
  unfold State.respSend
  refine .ite ?_ ?_
  · exact ((h.bump _).bump _).send _ _ _ _
  · split
    · exact h.bump _
    · exact ((((h.bump _).bump _).spend _ _).updCtx _ _).send _ _ _ _

theorem Kept.respReturn (h : Kept s) (q : ReadReq) (g : Nat) (p : Packet) (tc : BitVec 3) (i w : Nat) (ext : List Byte)
    (err : Bool) : Kept (s.respReturn q g p tc i w ext err) := by
  unfold State.respReturn
  extract_lets e n r a
  have hr : Kept r.2.2 := by
    dsimp only [r]
    split
    · exact h
    · split
      · exact h.bump _
      · exact h.readRuns _ _ _ _
  clear_value r
  exact .ite h (.ite ((hr.changed.changed.nack _ _).readLeave _ _) ((hr.changed.respSend _ _ _ _).readLeave _ _))

theorem Kept.respDone (h : Kept s) (m : MsgId) (i : Nat) : Kept (s.respDone m i) := by
  unfold State.respDone
  split
  · exact h
  · exact .ite (((h.updSrec _ _).restartTimer _).endMsg _ _) ((h.updSrec _ _).restartTimer _)

theorem Kept.respFlush (h : Kept s) (m : MsgId) : Kept (s.respFlush m) := by
  unfold State.respFlush
  split
  · exact .ite (h.emit _) h
  · exact h

theorem Kept.respPlace (h : Kept s) (r : SRec) (p : Packet) : Kept (s.respPlace r p) := by
  unfold State.respPlace
  split
  · split
    · exact h.respDone _ _
    · extract_lets runs w
      have hw : Kept w.2.2 := h.storeRuns _ _ _ _ _ _
      exact .ite (hw.endMsg _ _) (.ite ((hw.respDone _ _).respFlush _) (hw.respFlush _))
  · exact h

theorem Kept.rxResp (h : Kept s) (x : Rx) (r : SRec) : Kept (s.rxResp x r) := by
  unfold State.rxResp
  refine .ite ?_ ?_
  · exact h.bump _
  · refine .ite ?_ ?_
    · exact h.respPlace _ _
    · split
      · exact h.authStart _ _ _ _
      · exact (h.bump _).bump _

theorem Kept.rxFrom8 (h : Kept s) (x : Rx) (upset : Mismatch) : Kept (s.rxFrom8 x upset) := by
  unfold State.rxFrom8
  dsimp only
  split
  · exact h
  · exact .ite ((h.bump _).sendAck _ _ _) (.ite (h.bump _) (.ite (h.rxSend _ _) (.ite (h.rxSem _) (h.rxWindow _ _))))

/-- The record that a packet gets leaves a kept state. -/
theorem Kept.withRecord {t : State} (h : Kept s) (x : Rx) (ht : s.withRecord x = some t) : Kept t := by
  unfold State.withRecord at ht
  extract_lets p hold extra at ht
  split at ht
  · split at ht
    · exact Option.some.inj ht ▸ h
    · split at ht
      · exact Option.some.inj ht ▸ (h.updRrec _ _ _).changed
      · cases ht
  · split at ht
    · exact Option.some.inj ht ▸ h.changed
    · cases ht

theorem Kept.rxFrom6 (h : Kept s) (x : Rx) (upset : Mismatch) : Kept (s.rxFrom6 x upset) := by
  unfold State.rxFrom6
  refine .ite (h.refuse _ _) (.ite ?_ (.ite (h.rxRead _) ?_))
  · split
    · exact h.rxResp _ _
    · exact h
  · split
    next => exact h.nack _ _
    next t ht => exact (h.withRecord x ht).rxFrom8 _ _

theorem Kept.rxFrom3 (h : Kept s) (x : Rx) (upset : Mismatch) : Kept (s.rxFrom3 x upset) :=
    .ite (h.bump _) (.ite (h.refuse _ _) (.ite ((h.useCtx _).rxFrom6 _ _) (.ite (h.changed.fetchCtx _) (h.nack _ _))))

theorem Kept.receive (h : Kept s) (x : Rx) (upset : Mismatch) : Kept (s.receive x upset) := by
  unfold State.receive
  extract_lets s1 p
  have hs1 : Kept s1 := (h.takeIngress _).bump _
  refine .ite ?_ ?_
  · exact hs1.bump _
  · refine .ite ?_ ?_
    · split
      · exact hs1.bump _
      · exact .ite (hs1.onAck _ _) (.ite (hs1.onNack _ _) (.ite (hs1.bump _) (hs1.rxFrom3 _ _)))
    · exact hs1.rxFrom3 _ _

theorem Kept.receiveTyped (h : Kept s) (x : Rx) (t : BitVec 4) (upset : Mismatch) : Kept (s.receiveTyped x t upset) :=
    .ite (h.receive _ _) h

theorem keptOut_execWritePacket (h : Kept s) (rx : Rx) : KeptOut (execWritePacket rx s) := (h.receiveTyped _ _ _).out

theorem keptOut_execWriteAccPacket (h : Kept s) (rx : Rx) (upset : Option (Fin 128 × Bool)) :
    KeptOut (execWriteAccPacket rx upset s) := (h.receiveTyped _ _ _).out

theorem keptOut_execSendPacket (h : Kept s) (rx : Rx) : KeptOut (execSendPacket rx s) := (h.receiveTyped _ _ _).out

theorem keptOut_execSemPacket (h : Kept s) (rx : Rx) : KeptOut (execSemPacket rx s) := (h.receiveTyped _ _ _).out

theorem keptOut_execAck (h : Kept s) (rx : Rx) : KeptOut (execAck rx s) := (h.receiveTyped _ _ _).out

theorem Kept.ingressDone (h : Kept s) (j : CJob) : Kept (s.ingressDone j) := by
  unfold State.ingressDone
  extract_lets x plain ok s1 __src y s2
  have hs1 : Kept s1 := .ite h.changed h
  have hs2 : Kept s2 := hs1.bump _
  refine .ite ?_ ?_
  · exact ((hs1.bump _).bump _).winLeave _
  · split
    · split
      · exact .ite (hs2.bump _) (hs2.respPlace _ _)
      · exact hs2.bump _
    · split
      · exact hs2.winLeave _
      · exact .ite (((hs2.bump _).sendAck _ _ _).winLeave _) ((hs2.accept _ _).translate _ _)

theorem keptOut_execCipherPacketDone (h : Kept s) (core : Fin 56) : KeptOut (execCipherPacketDone core s) := by
  unfold execCipherPacketDone
  dsimp only
  split
  · exact h.out
  · exact .ite h.out ((Kept.ite ((h.setCore _ _).ingressDone _) ((h.setCore _ _).egressDone _)).coreNext _).out

theorem Kept.ackDelay (h : Kept s) (src : AdapterId) (m : MsgId) : Kept (s.ackDelay src m) := by
  unfold State.ackDelay
  split
  · exact h
  · split
    · exact .ite (h.sendAck _ _ _) h
    · exact h

theorem Kept.retentionEnd (h : Kept s) (src : AdapterId) (m : MsgId) : Kept (s.retentionEnd src m) := by
  unfold State.retentionEnd
  split
  · exact h
  · exact .ite h ((Kept.ite (.ite (h.bump _) h) ((Kept.ite (h.bump _) h).deliverBound _ _)).changed.release _ _ _)

theorem keptOut_execRecordRetentionExpiry (h : Kept s) (src : AdapterId) (msg : MsgId) :
    KeptOut (execRecordRetentionExpiry src msg s) := .ite (h.retentionEnd _ _).out h.out

/-! ## Message instructions -/

theorem Kept.issueMsg (h : Kept s) (sl : Nat) (w : JWord) (o : Op) (win : List TDesc) (data : TDesc) :
    Kept (s.issueMsg sl w o win data) :=
    .ite h (.ite (h.issueFault _ _ _) (.ite (h.issueFault _ _ _)
      (.ite ((h.bump _).issueFault _ _ _) (.ite (h.issueFault _ _ _) (h.addOp _)))))

theorem Kept.issueWin (h : Kept s) (sl : Nat) (w : JWord) (kind : OpKind) : Kept (s.issueWin sl w kind) :=
    (h.issueMsg _ _ _ _ _).startSegs _

/-! ## Scalar instructions -/

theorem Kept.aluInstr (h : Kept s) (o : AluOp) (sl : Fin 32) (w : JWord) : Kept (s.aluInstr o sl w) := h.issueReg _ _ _ _ _

/-! ## Waits and semaphore instructions -/

theorem Kept.semLocal (h : Kept s) (sl : Nat) (id : BitVec 16) (a : SemAct) (tag : BitVec 24) :
    Kept (s.semLocal sl id a tag) :=
    .ite ((h.holdSem _ _ _).updSlot _ _) (.ite (h.issueFault _ _ _) ((h.semApply _ _).retire _))

theorem Kept.semSelf (h : Kept s) (sl : Nat) (w : JWord) (code : Nat) (id : BitVec 16) (v : Word) :
    Kept (s.semSelf sl w code id v) := .ite ((h.addOp _).holdSem _ _ _) (((h.addOp _).semApply _ _).updOp _ _)

theorem Kept.semFar (h : Kept s) (sl : Nat) (w : JWord) (code : Nat) (id : BitVec 16) (dst : AdapterId) (v : Word) :
    Kept (s.semFar sl w code id dst v) := (h.addOp _).txAsk _ _ _ _ _ _ _ _ _ _

theorem Kept.semInstr (h : Kept s) (sl : Nat) (w : JWord) (code : Nat) (ref v : Word) :
    Kept (s.semInstr sl w code ref v) :=
    .ite h (.ite h (.ite (.ite (h.issueFault _ _ _) (.ite (h.issueFault _ _ _)
      (.ite (h.semSelf _ _ _ _ _) (h.semLocal _ _ _ _)))) (.ite (h.issueFault _ _ _) (h.semFar _ _ _ _ _ _))))

theorem Kept.issueSem (h : Kept s) (op : BitVec 8) (sl : Nat) (w : JWord) (code : Nat) : Kept (s.issueSem op sl w code) :=
    h.issue _ _ _ _ _ (fun _ ht => ht.semInstr _ _ _ _ _)

theorem keptOut_execSadd (h : Kept s) (sl : Fin 32) (w : JWord) : KeptOut (execSadd sl w s) := (h.issueSem _ _ _ _).out

theorem keptOut_execSsub (h : Kept s) (sl : Fin 32) (w : JWord) : KeptOut (execSsub sl w s) := (h.issueSem _ _ _ _).out

theorem keptOut_execSset (h : Kept s) (sl : Fin 32) (w : JWord) : KeptOut (execSset sl w s) := (h.issueSem _ _ _ _).out

theorem Kept.sreadGo (h : Kept s) (sl reg : Nat) (v : Word) : Kept (s.sreadGo sl reg v) := (h.updSlot _ _).retire _

theorem Kept.semRead (h : Kept s) (sl : Nat) (w : JWord) (ref : Word) : Kept (s.semRead sl w ref) :=
    .ite (h.issueFault _ _ _) (.ite h (.ite (h.issueFault _ _ _)
      (.ite ((h.holdSem _ _ _).updSlot _ _) (.ite (h.issueFault _ _ _) ((h.semApply _ _).sreadGo _ _ _)))))

theorem Kept.waitGo (h : Kept s) (sl : Nat) (w : JWord) (id : BitVec 16) (thr : Word) : Kept (s.waitGo sl w id thr) :=
    .ite (h.issueFault _ _ _) (.ite (h.retire _) (.ite ((h.updSlot _ _).holdSem _ _ _) (.ite (h.retire _) (h.updSlot _ _))))

theorem keptOut_execTilewait (h : Kept s) (sl : Fin 32) (w : JWord) : KeptOut (execTilewait sl w s) := by
  unfold execTilewait
  refine Kept.out ?_
  refine Kept.issue h _ _ _ _ _ (fun _ ht => ?_)
  dsimp only
  split
  · exact ht.retire _
  · exact .ite (ht.retire _) (ht.updSlot _ _)

theorem Kept.traceMark (h : Kept s) (sl : Nat) : Kept (s.traceMark sl) := .ite (h.stage _) h

/-! ## Lookahead -/

theorem Kept.prefetch (h : Kept s) (sl : Nat) (e : Option (BitVec 8 × JWord × Slot)) : Kept (s.prefetch sl e) := by
  unfold State.prefetch
  split
  · exact h
  · exact .foldl (fun _ _ ht => ht.lookupCount _ _) h

theorem Kept.lookSlot (h : Kept s) (sl : Nat) : Kept (s.lookSlot sl) := by
  unfold State.lookSlot
  refine .ite ?_ ?_
  · exact h
  · extract_lets f r s1 s2
    have hf : Kept f.2 := h.takeFree
    have hs1 : Kept s1 := .foldl (fun _ _ ht => ht.prefetch _ _) hf
    have hs2 : Kept s2 := hs1.updSlot _ _
    exact .ite (hs2.bump _) hs2

theorem Kept.look (h : Kept s) : Kept s.look := .ite (.foldl (fun _ _ ht => ht.lookSlot _) h) h

/-! ## Operations of rings -/

theorem Kept.setRing (h : Kept s) (r : Nat) (x : Ring) : Kept (s.setRing r x) := h.changed

theorem Kept.updRing (h : Kept s) (r : Nat) (f : Ring → Ring) : Kept (s.updRing r f) := h.setRing _ _

theorem Kept.ringFault (h : Kept s) (r : Nat) (st : Status) (idx : BitVec 32) (w0 : Word) :
    Kept (s.ringFault r st idx w0) := h.record _

theorem Kept.ringError (h : Kept s) (r : Nat) (st : Status) (idx : BitVec 32) (w0 : Word) :
    Kept (s.ringError r st idx w0) := .ite h ((h.updRing _ _).ringFault _ _ _ _)

theorem Kept.setDesc (h : Kept s) (r : Nat) (idx : BitVec 32) (p : DPhase) : Kept (s.setDesc r idx p) := h.updRing _ _

theorem Kept.finishDesc (h : Kept s) (r : Nat) (idx : BitVec 32) (st : Status) : Kept (s.finishDesc r idx st) := by
  unfold State.finishDesc
  split
  · exact h
  · refine .ite ?_ ?_
    · exact h
    · extract_lets s1 s2
      have hs1 : Kept s1 := (h.setDesc _ _ _).updRing _ _
      have hs2 : Kept s2 := .ite (hs1.bump _) hs1
      exact .ite (hs2.ringFault _ _ _ _) hs2

theorem Kept.ringIrq (h : Kept s) (r : Nat) : Kept (s.ringIrq r) := .ite h (.ite ((h.updRing _ _).msix _ _) (h.updRing _ _))

/-! ## Operations, translations and page requests -/

theorem Kept.segSignal (h : Kept s) (o : Op) (k : Nat) : Kept (s.segSignal o k) :=
    .ite h (.ite (.ite ((h.semSignal _ _).updOp _ _) (h.semSignal _ _)) (.ite (h.askSignal _ _) h))

theorem Kept.segmentComplete (h : Kept s) (op : Nat) : Kept (s.segmentComplete op) := by
  unfold State.segmentComplete
  split
  · exact h
  · split
    · exact h
    · refine .ite ?_ ?_
      · exact h
      · extract_lets s1 s2 s3
        have hs1 : Kept s1 := h.updOp _ _
        have hs2 : Kept s2 := ((hs1.traceOp _ _ _ _).progressed _).segSignal _ _
        have hs3 : Kept s3 := .ite (hs2.lastSignal _) hs2
        exact ((hs3.startSegs _).partialNow _).settle

theorem keptOut_execSegmentComplete (h : Kept s) (op : Nat) : KeptOut (execSegmentComplete op s) :=
    .ite (h.segmentComplete _).out h.out

theorem keptOut_execOperationComplete (h : Kept s) (op : Nat) : KeptOut (execOperationComplete op s) :=
    .ite (h.operationComplete _).out h.out

theorem Kept.logTimeout (h : Kept s) (sl : Nat) (id : BitVec 16) (thr : Word) (tag : BitVec 24) :
    Kept (s.logTimeout sl id thr tag) := .ite h (((h.setReg _ _).setReg _ _).setReg _ _)

theorem Kept.waitTimeout (h : Kept s) (sl : Nat) : Kept (s.waitTimeout sl) := by
  unfold State.waitTimeout
  split
  · exact .ite h ((((h.bump _).logTimeout _ _ _ _).slotFault _ _).stopSlot _)
  · exact h

theorem Kept.twaitRelease (h : Kept s) (sl : Nat) : Kept (s.twaitRelease sl) := by
  unfold State.twaitRelease
  split
  · exact .ite (h.retire _) h
  · exact h

theorem Kept.programComplete (h : Kept s) (sl : Nat) : Kept (s.programComplete sl) :=
    .ite h ((((Kept.foldl (fun _ _ ht => ht.record _) (h.updSlot _ _)).finishDesc _ _ _).updSlot _ _).progressed _)

theorem Kept.slotStop (h : Kept s) (sl : Nat) : Kept (s.slotStop sl) := .ite h ((h.slotFault _ _).stopSlot _)

theorem Kept.imemFlush (h : Kept s) (clu : Nat) : Kept (s.imemFlush clu) := h.changed

theorem Kept.cluCtrl (h : Kept s) (clu : Nat) (v : Word) : Kept (s.cluCtrl clu v) :=
    .ite ((h.setFld _ _ _ _).imemFlush _) (h.setFld _ _ _ _)

theorem Kept.segTranslated (h : Kept s) (op g : Nat) (k : XKey) : Kept (s.segTranslated op g k) := by
  unfold State.segTranslated
  split
  · exact h
  · exact .ite h (.ite (h.pageFault _ _ _) (.ite ((h.updSeg _ _ _).goSeg _ _) (h.updSeg _ _ _)))

theorem Kept.segsTranslated (h : Kept s) (k : XKey) : Kept (s.segsTranslated k) :=
    .foldl (fun _ _ ht => ht.segTranslated _ _ _) h

theorem Kept.parkedGo (h : Kept s) (q : Parked) : Kept (s.parkedGo q) := by
  unfold State.parkedGo
  refine .ite ?_ ?_
  · exact h.readGo _
  · refine .ite ?_ ?_
    · exact h.rxWriteDone _ _ _
    · split
      · exact h.rxWriteDone _ _ _
      · exact .ite (h.xlatFail _) (h.place _ _ _)

theorem Kept.parkedFail (h : Kept s) (q : Parked) : Kept (s.parkedFail q) := .ite ((h.bump _).readFail _ _) (h.xlatFail _)

theorem Kept.parkedTranslated (h : Kept s) (k : XKey) (ok : Bool) : Kept (s.parkedTranslated k ok) := by
  unfold State.parkedTranslated
  refine .foldl (fun _ _ ht => ?_) h
  split
  · exact .ite ht (.ite (ht.changed.parkedFail _) (.ite (ht.changed.parkedGo _) ht.changed.changed))
  · exact ht

theorem Kept.ringAbsent (h : Kept s) (k : XKey) (r : Nat) : Kept (s.ringAbsent k r) := .ite (h.ringError _ _ _ _) h

theorem Kept.fqAbsent (h : Kept s) (k : XKey) (q : Nat) : Kept (s.fqAbsent k q) := .ite (h.setFld _ _ _ _) h

theorem Kept.enginesAbsent (h : Kept s) (k : XKey) : Kept (s.enginesAbsent k) :=
    .foldl (fun _ _ ht => ht.fqAbsent _ _) (.foldl (fun _ _ ht => ht.ringAbsent _ _) h)

theorem Kept.atsAnswer (h : Kept s) (k : XKey) (a : AtsAnswer) : Kept (s.atsAnswer k a) := by
  unfold State.atsAnswer
  refine .ite ?_ ?_
  · exact h
  · extract_lets s1
    have hs1 : Kept s1 := h.changed
    split
    · exact .ite h (((hs1.fillAtc _).segsTranslated _).parkedTranslated _ _)
    · exact ((hs1.segsTranslated _).parkedTranslated _ _).enginesAbsent _

theorem Kept.invalidate (h : Kept s) (port : Port) (fn : BitVec 8) (pasid : BitVec 20) (base : Word) (size : Nat) :
    Kept (s.invalidate port fn pasid base size) :=
  (h.bump (Reg.XLT_CNT 2)).handed.changed

theorem Kept.invalDone (h : Kept s) (id : Nat) : Kept (s.invalDone id) := by
  unfold State.invalDone
  split
  · exact h
  · exact .ite h (h.changed.emit _)

theorem Kept.reissue (h : Kept s) (op : Nat) : Kept (s.reissue op) := by
  unfold State.reissue
  split
  · exact h
  · exact .ite h ((h.updOp _ _).startSegs _)

theorem Kept.refused (h : Kept s) (op : Nat) : Kept (s.refused op) := h.updOp _ _

theorem Kept.pageResponse (h : Kept s) (port : Port) (id : Nat) (code : PageCode) : Kept (s.pageResponse port id code) := by
  unfold State.pageResponse
  split
  · exact h
  · extract_lets s1 same hit s2
    have hs1 : Kept s1 := h.filterPages _
    have hs2 : Kept s2 := .foldl (fun _ _ ht => ht.refused _) (hs1.bump _)
    split
    · exact (hs1.reissue _).flushPages
    · exact ((hs1.bump _).refused _).flushPages
    · have hs3 := hs2.filterPages fun x => !same x || x.sent
      exact hs3.changed.flushPages

theorem Kept.zeroPage (h : Kept s) (p : Nat) : Kept (s.zeroPage p) := by
  unfold State.zeroPage
  extract_lets s1
  obtain ⟨⟨-, -, -, -, hsems, hpoison, -⟩, -⟩ := id h
  have hs1 : Kept s1 :=
    ((h.withZeroing (z := none) nofun).withSems (twf_filter 0 _ _ hsems)).withPoison (twf_filter false _ _ hpoison)
  exact .ite (.foldl (fun _ _ ht => (ht.setFld _ _ _ _).setFld _ _ _ _) hs1) hs1

theorem Kept.applyHeld (h : Kept s) (h' : HeldSem) : Kept (s.applyHeld h') := by
  unfold State.applyHeld
  split
  · split
    · exact (h.semApply _ _).sreadGo _ _ _
    · exact (h.semApply _ _).retire _
    · exact h.semWake _
    · exact h
  · exact h.semApply _ _
  · split
    · exact h.cellAnswer _ _ _
    · exact h.semApply _ _
  · split
    · exact h.semApply _ _
    · extract_lets a st
      have ha : Kept a.2.2 := h.semApply _ _
      exact .ite ((ha.publishAs _ _).release _ _ _) (.ite (ha.rxLate _ _ _ _) (ha.rxWriteDone _ _ _))
  · exact ((h.semApply _ _).updOp _ _).settle
  · exact (h.semApply _ _).finishDesc _ _ _

theorem Kept.applyAll (h : Kept s) (x : Nat) : Kept (s.applyAll x) := by
  induction x generalizing s with
  | zero => exact h
  | succ n ih =>
    unfold State.applyAll
    split
    · exact h
    · exact ih (h.changed.applyHeld _)

theorem Kept.pageZeroed (h : Kept s) : Kept s.pageZeroed := by
  unfold State.pageZeroed
  split
  · exact h
  · refine Kept.applyAll (.foldl (fun _ _ ht => ?_) (h.zeroPage _)) _
    split
    · exact .ite (ht.semWake _) ht
    · exact ht

theorem keptOut_execPageZeroComplete (h : Kept s) : KeptOut (execPageZeroComplete s) := .ite h.pageZeroed.out h.out

/-! ## Commands of windows -/

theorem Kept.winCommit (h : Kept s) (p : Path) : Kept (s.winCommit p) := ((h.commitV _ _).commitV _ _).commitV _ _

theorem Kept.winOpen (h : Kept s) (p : Path) (w : Nat) : Kept (s.winOpen p w).2 := .ite (h.setWin _ _) h

theorem Kept.winRevoke (h : Kept s) (w : Nat) (sem : Option (BitVec 16)) (ring : Option (Nat × BitVec 32)) :
    Kept (s.winRevoke w sem ring).2 := by
  unfold State.winRevoke
  split
  · exact h
  · exact (h.updWin _ _).revokeDone _

theorem Kept.winRead (h : Kept s) (p : Path) (w : Nat) : Kept (s.winRead p w).2 := by
  unfold State.winRead
  dsimp only
  split
  · exact h
  · exact ((h.setVBoth _ _ _).setVBoth _ _ _).setVBoth _ _ _

theorem Kept.winDo (h : Kept s) (p : Path) (k : State → Nat → Status × State) (hk : ∀ t x, Kept t → Kept (k t x).2) :
    Kept (s.winDo p k) := by
  unfold State.winDo
  extract_lets s0 w r
  have hs0 : Kept s0 := h.winCommit _
  have hr : Kept r.2 := .ite_snd hs0 (hk _ _ hs0)
  exact (hr.result _ _ _).setFld _ _ _ _

theorem Kept.winCmd (h : Kept s) (p : Path) (k : State → Nat → Status × State) (hk : ∀ t x, Kept t → Kept (k t x).2) :
    Kept (s.winCmd p k) := h.viewWrite _ _ _ (fun _ ht => ht.winDo _ _ (fun _ _ ht1 => hk _ _ ht1))

theorem keptOut_execWindowRevokeCmd (h : Kept s) (p : Path) (v : Word) : KeptOut (execWindowRevokeCmd p v s) :=
    (h.winCmd _ _ (fun _ _ ht => ht.winRevoke _ _ _)).out

end Sys2Proof.Proofs
end

section
/-!
PROOF. The invariant that every step keeps (R185, R210, R325, R385, R399), part 4 of 5: rings, host ports, power, firmware, keys, time and debugging.
-/

namespace Sys2Proof.Proofs

open Sys2Proof.Machine Sys2Proof.Laws Sys2Proof.Claims

variable {s : State}

/-! ## Rings -/

theorem Kept.ringFetch (h : Kept s) (r : Nat) : Kept (s.ringFetch r) :=
    .ite h (.ite ((h.engineReach _ _ _ _ _).ringError _ _ _ _) (((h.engineReach _ _ _ _ _).updRing _ _).emit _))

theorem Kept.ringCtrl (h : Kept s) (v : Word) : Kept (s.ringCtrl v) :=
    .ite (.foldl (fun _ _ ht => ht.ringFetch _) (h.setFld _ _ _ _)) (h.setFld _ _ _ _)

theorem Kept.preXlate (h : Kept s) (i : BitVec 8) (space : Nat) (a : Word) : Kept (s.preXlate i space a) :=
    .ite (h.lookupCount _ _) h

theorem Kept.preArgs (h : Kept s) (i : BitVec 8) (d : Desc) : Kept (s.preArgs i d) :=
    .ite h (.foldl (fun _ _ ht => .ite (ht.preXlate _ _ _) ht) h)

theorem Kept.skipRefused (h : Kept s) (r : Nat) : Kept (s.skipRefused r) := h.updRing _ _

theorem Kept.acceptDesc (h : Kept s) (r : Nat) (d : Desc) : Kept (s.acceptDesc r d) :=
    .ite (((h.updRing _ _).preXlate _ _ _).preArgs _ _) (((h.updRing _ _).finishDesc _ _ _).skipRefused _)

theorem Kept.acceptAll (h : Kept s) (r : Nat) (x : List Desc) : Kept (s.acceptAll r x) := by
  induction x generalizing s with
  | nil => exact h
  | cons d ds ih =>
    unfold State.acceptAll
    exact .ite (ih (h.acceptDesc _ _)) (h.updRing _ _)

theorem Kept.fetchReturn (h : Kept s) (r : Nat) (ds : List Desc) (ok : Bool) : Kept (s.fetchReturn r ds ok) :=
    .ite h (.ite (h.ringError _ _ _ _) (((h.updRing _ _).acceptAll _ _).ringFetch _))

theorem Kept.ringStop (h : Kept s) (r : Nat) : Kept (s.ringStop r) := (h.updRing _ _).bump _

theorem Kept.reread (h : Kept s) (r : Nat) (d : Desc) (ok : Bool) : Kept (s.reread r d ok) := by
  unfold State.reread
  extract_lets g n a s1
  have ha : Kept a.2 := (h.bump _).engineReach _ _ _ _ _
  have hs1 : Kept s1 := ha.emit _
  clear_value s1
  split
  · exact h
  · exact .ite h (.ite (ha.ringError _ _ _ _) (.ite (hs1.ringError _ _ _ _)
      (.ite (((hs1.updRing _ _).acceptDesc _ _).ringFetch _) (.ite (hs1.ringStop _) (hs1.updRing _ _)))))

theorem Kept.repoll (h : Kept s) (r : Nat) : Kept (s.repoll r) := .ite h ((h.updRing _ _).ringFetch _)

theorem Kept.doorbell (h : Kept s) (p : Path) (r : Nat) (v : Word) (full : Bool) : Kept (s.doorbell p r v full) :=
    .ite (h.bump _) (((h.bump _).updRing _ _).ringFetch _)

theorem Kept.imageRead (h : Kept s) (i : BitVec 8) (off : Word) (o n : Nat) : Kept (s.imageRead i off o n).2.2 := by
  unfold State.imageRead
  split
  · exact h
  · split
    · exact h
    · split
      · exact h.bump _
      · exact h.readMem _ _ _

theorem Kept.schedTrim (h : Kept s) : Kept s.schedTrim := h.changed

theorem Kept.ringRevoke (h : Kept s) (r : Nat) (i : BitVec 8) (d : RDesc) : Kept (s.ringRevoke r i d) := by
  unfold State.ringRevoke
  extract_lets w a
  have ha : Kept a := h.setDesc _ _ _
  exact .ite (ha.finishDesc _ _ _) (.ite (ha.finishDesc _ _ _) (ha.winRevoke _ _ _))

theorem Kept.ringSem (h : Kept s) (r : Nat) (i : BitVec 8) (d : RDesc) : Kept (s.ringSem r i d) := by
  unfold State.ringSem
  extract_lets id act a x
  have ha : Kept a := h.setDesc _ _ _
  have hx : Kept x.2.2 := ha.semApply _ _
  exact .ite (ha.finishDesc _ _ _) (.ite (ha.holdSem _ _ _) (hx.finishDesc _ _ _))

theorem Kept.dispatchRing (h : Kept s) (r : Nat) : Kept (s.dispatchRing r) := by
  unfold State.dispatchRing
  split
  · exact h
  · extract_lets i s1 s2
    have hs1 : Kept s1 := (h.updRing _ _).bump _
    have hs2 : Kept s2 := by
      dsimp only [s2]
      split
      · exact hs1.finishDesc _ _ _
      · exact hs1.setDesc _ _ _
      · exact hs1.ringRevoke _ _ _
      · exact hs1.ringSem _ _ _
    exact (hs2.skipRefused _).ringFetch _

theorem Kept.dispatch (h : Kept s) : Kept s.dispatch := by
  unfold State.dispatch
  refine .ite ?_ ?_
  · exact h
  · dsimp only
    split
    · exact h.schedTrim
    · exact (h.schedTrim.changed.dispatchRing _).schedTrim

theorem keptOut_execDescriptorDispatch (h : Kept s) : KeptOut (execDescriptorDispatch s) := .ite h.dispatch.out h.out

theorem Kept.programLaunch (h : Kept s) (r : Nat) : Kept (s.programLaunch r) := by
  unfold State.programLaunch
  split
  · exact h
  · split
    · exact h
    · exact ((h.setDesc _ _ _).updSlot _ _).schedTrim

theorem Kept.launchFails (h : Kept s) (sl r : Nat) (idx : BitVec 32) (st : Status) : Kept (s.launchFails sl r idx st) :=
    .ite ((h.finishDesc _ _ _).updSlot _ _) (((h.finishDesc _ _ _).updSlot _ _).record _)

theorem Kept.launchBack (h : Kept s) (sl r : Nat) (idx : BitVec 32) : Kept (s.launchBack sl r idx) :=
    (h.setDesc _ _ _).updSlot _ _

/-- Making an image resident leaves a kept state. -/
theorem Kept.makeResident {t : State} {b : Nat} (h : Kept s) (clu a : Nat) (hd : Header) (ws : List (BitVec 128))
    (ht : s.makeResident clu a hd ws = some (b, t)) : Kept t := by
  unfold State.makeResident at ht
  split at ht
  · cases ht; exact h
  · split at ht
    · cases ht; exact h.handed.changed
    · split at ht
      · cases ht
      · cases ht; exact h.takeFree.handed.changed

theorem Kept.loadImage (h : Kept s) (sl r : Nat) (d : RDesc) (tc : BitVec 3) (a : Nat) (h' : Header) :
    Kept (s.loadImage sl r d tc a h') := by
  unfold State.loadImage
  extract_lets i new s0 ins tds
  have hs0 : Kept s0 := h.setSlot _ _
  have hins : Kept ins.2.2 := by
    dsimp only [ins]
    split
    · exact hs0.imageRead _ _ _ _
    · exact hs0
  have htds : Kept tds.2.2 := hins.imageRead _ _ _ _
  refine .ite (h.launchBack _ _ _) (.ite (hins.launchFails _ _ _ _) (.ite (htds.launchFails _ _ _ _) ?_))
  split
  next => exact h.launchBack _ _ _
  next b t ht => exact (htds.makeResident _ _ _ _ ht).updSlot _ _

theorem Kept.imageCheck (h : Kept s) (sl : Nat) : Kept (s.imageCheck sl) := by
  unfold State.imageCheck
  split
  · exact h
  · split
    · exact h
    · extract_lets i x
      have hx : Kept x.2.2 := h.imageRead _ _ _ _
      refine .ite ?_ ?_
      · exact hx.launchFails _ _ _ _
      · split
        · exact hx.loadImage _ _ _ _ _ _
        · exact hx.launchFails _ _ _ _

theorem Kept.abortDone (h : Kept s) (r : Nat) : Kept (s.abortDone r) :=
    .ite h (.foldl (fun _ _ ht => ht.result _ _ _) (h.updRing _ _))

theorem Kept.ringFlush (h : Kept s) (g : Ring) (va : Word) : Kept (s.ringFlush g va) := .ite (h.emit _) h

theorem Kept.headWrite (h : Kept s) (r irqs : Nat) (ok : Bool) : Kept (s.headWrite r irqs ok) := by
  unfold State.headWrite
  extract_lets g a s1
  have ha : Kept a.2 := (h.ringFlush _ _).engineReach _ _ _ _ _
  have hs1 : Kept s1 := ha.emit _
  exact .ite (ha.ringError _ _ _ _) (.ite (hs1.ringError _ _ _ _) (.foldl (fun _ _ ht => ht.ringIrq _) hs1))

theorem Kept.writeBack (h : Kept s) (r : Nat) (d : RDesc) (st : Status) (ok : Bool) : Kept (s.writeBack r d st ok) := by
  unfold State.writeBack
  extract_lets g va a s1 s2
  have ha : Kept a.2 := h.engineReach _ _ _ _ _
  have hs1 : Kept s1 := ha.emit _
  have hs2 : Kept s2 := hs1.ringFlush _ _
  refine .ite ?_ ?_
  · exact ha.ringError _ _ _ _
  · refine .ite ?_ ?_
    · exact hs1.ringError _ _ _ _
    · split
      · exact .ite (hs2.semSignal _ _) hs2
      · exact hs1

theorem Kept.publishDesc (h : Kept s) (r : Nat) (idx : BitVec 32) (wbOk headOk : Bool) :
    Kept (s.publishDesc r idx wbOk headOk) := by
  unfold State.publishDesc
  split
  · exact h
  · split
    · extract_lets s1 g a __src s2
      have hs1 : Kept s1 := (h.writeBack _ _ _ _).setDesc _ _ _
      have hs2 : Kept s2 := hs1.setRing _ _
      exact (Kept.ite hs2 (hs2.headWrite _ _ _)).abortDone _
    · exact h

theorem keptOut_execDescriptorPublish (h : Kept s) (ring : BitVec 14) (idx : BitVec 32) (wbOk headOk : Bool) :
    KeptOut (execDescriptorPublish ring idx wbOk headOk s) := .ite (h.publishDesc _ _ _ _).out h.out

theorem Kept.irqExpiry (h : Kept s) (src : IrqSrc) : Kept (s.irqExpiry src) := by
  unfold State.irqExpiry
  split
  · exact .ite (h.ringIrq _) h
  · exact .ite (h.fqIrq _) h

theorem Kept.ringDo (h : Kept s) (p : Path) (k : State → Nat → State) (hk : ∀ t x, Kept t → Kept (k t x)) :
    Kept (s.ringDo p k) := .ite h (.ite (h.result _ _ _) (hk _ _ h))

theorem Kept.ringCmd (h : Kept s) (p : Path) (k : State → Nat → State) (hk : ∀ t x, Kept t → Kept (k t x)) :
    Kept (s.ringCmd p k) := h.viewWrite _ _ _ (fun _ ht => ht.ringDo _ _ (fun _ _ ht1 => hk _ _ ht1))

theorem Kept.ringConfigure (h : Kept s) (p : Path) (r : Nat) : Kept (s.ringConfigure p r) :=
    .ite (h.result _ _ _)
      (.ite (h.result _ _ _)
        (((((((h.commitV _ _).commitV _ _).commitV _ _).commitV _ _).setRing _ _).ringFetch _).result _ _ _).schedTrim)

theorem Kept.ringRead (h : Kept s) (p : Path) (r : Nat) : Kept (s.ringRead p r) :=
    (((((((h.setVBoth _ _ _).setVBoth _ _ _).setVBoth _ _ _).setVBoth _ _ _).setV _ _ _).setV _ _ _).setV _ _ _).result _ _ _

theorem Kept.launchAborted (h : Kept s) (r sl : Nat) : Kept (s.launchAborted r sl) := by
  unfold State.launchAborted
  split
  · exact .ite ((h.finishDesc _ _ _).updSlot _ _) h
  · exact h

theorem Kept.ringAbort (h : Kept s) (p : Path) (r : Nat) : Kept (s.ringAbort p r) := by
  unfold State.ringAbort
  extract_lets g gone s1 s2 s3
  have hs1 : Kept s1 := h.updRing _ _
  have hs2 : Kept s2 := .foldl (fun _ _ ht => ht.finishDesc _ _ _) (hs1.setFld _ _ _ _)
  have hs3 : Kept s3 := .foldl (fun _ _ ht => ht.launchAborted _ _) hs2
  exact ((Kept.foldl (fun _ _ ht => ht.slotStop _) hs3).abortDone _).schedTrim

theorem Kept.ringReset (h : Kept s) (p : Path) (r : Nat) : Kept (s.ringReset p r) :=
    .ite (h.result _ _ _) ((h.setRing _ _).schedTrim.result _ _ _)

theorem Kept.consWrite (h : Kept s) (q : Nat) (v : Word) : Kept (s.consWrite q v) := .ite h ((h.setFld _ _ _ _).fqFlush _)

theorem Kept.fqControl (h : Kept s) (q : Nat) (v : Word) : Kept (s.fqControl q v) := (h.setReg _ _).fqFlush _

/-! ## Host ports -/

theorem Kept.failWaiting (h : Kept s) (p : XKey → Bool) : Kept (s.failWaiting p) :=
    .foldl (fun _ _ ht => (ht.updOp _ _).failSeg _ _ _) h

theorem Kept.refuseWaiting (h : Kept s) (p : XKey → Bool) : Kept (s.refuseWaiting p) := by
  unfold State.refuseWaiting
  refine .foldl (fun _ _ ht => ?_) h
  split
  · exact .ite (ht.changed.parkedFail _) ht
  · exact ht

theorem Kept.keysLost (h : Kept s) (p : XKey → Bool) : Kept (s.keysLost p) := by
  unfold State.keysLost
  extract_lets s1
  have hs1 : Kept s1 := (h.filterPages fun r => !p r.key).changed
  exact (((Kept.foldl (fun _ _ ht => ht.refused _) hs1).failWaiting _).refuseWaiting _).settle

theorem Kept.vectorsLost (h : Kept s) (p : Nat → Bool) : Kept (s.vectorsLost p) := h.changed

theorem Kept.hostReset (h : Kept s) : Kept s.hostReset := (h.changed.vectorsLost _).keysLost _

theorem Kept.vfReset (h : Kept s) (i : BitVec 8) : Kept (s.vfReset i) := (h.changed.vectorsLost _).keysLost _

theorem Kept.vfDisable (h : Kept s) : Kept s.vfDisable := (h.changed.vectorsLost _).keysLost _

theorem Kept.cfgFn (h : Kept s) (port : Port) (fn : BitVec 8) (f : Fn → Fn) : Kept (s.cfgFn port fn f) := h.setFn _ _

theorem Kept.cfgWrite (h : Kept s) (c : CfgWrite) : Kept (s.cfgWrite c) := by
  unfold State.cfgWrite
  split
  · exact h.cfgFn _ _ _
  · exact h.cfgFn _ _ _
  · exact h.cfgFn _ _ _
  · exact .ite (h.cfgFn _ _ _).changed.flushPages (h.cfgFn _ _ _)
  · exact h.changed.flushPages
  · exact .ite h h.changed
  · exact .ite h.changed h.vfDisable
  · exact h.setReg _ _
  · exact h.changed
  · exact (h.cfgFn _ _ _).msixFlushAll _

theorem Kept.setOwner (h : Kept s) (owner st : Nat) (epoch : BitVec 32) : Kept (s.setOwner owner st epoch) :=
    (h.setReg _ _).changed

theorem Kept.ownResult (h : Kept s) (p : Path) (st : Status) : Kept (s.ownResult p st) := h.changed

theorem Kept.ownWrite (h : Kept s) (p : Path) (k : State → State) (hk : ∀ t, Kept t → Kept (k t)) :
    Kept (s.ownWrite p k) := .ite h (hk _ (h.tlp _ _))

theorem Kept.claim (h : Kept s) (p : Path) (epoch : BitVec 32) : Kept (s.claim p epoch) :=
    .ite ((h.setOwner _ _ _).ownResult _ _) (h.ownResult _ _)

theorem Kept.renew (h : Kept s) (p : Path) : Kept (s.renew p) := .ite ((h.setOwner _ _ _).ownResult _ _) (h.ownResult _ _)

theorem Kept.release_ (h : Kept s) (p : Path) : Kept (s.release_ p) :=
    .ite ((h.setOwner _ _ _).changed.ownResult _ _) (h.ownResult _ _)

theorem Kept.handover (h : Kept s) (p : Path) (c : Nat) : Kept (s.handover p c) :=
    .ite (h.ownResult _ _) (.ite (h.ownResult _ _) (.ite (h.ownResult _ _) ((h.setOwner _ _ _).ownResult _ _)))

/-! ## Power -/

theorem Kept.stepApply (h : Kept s) : Kept s.stepApply := h.setFld _ _ _ _

theorem Kept.powerSeen (h : Kept s) (mw : List Nat) : Kept (s.powerSeen mw) :=
    (((Kept.foldl (fun _ _ ht => ht.setFld _ _ _ _) h).setFld _ _ _ _).count _ _).setFld _ _ _ _

theorem Kept.capMove (h : Kept s) (mw : List Nat) : Kept (s.capMove mw) :=
    .ite ((h.changed.setFld _ _ _ _).bump _) (.ite (h.changed.setFld _ _ _ _) h.changed)

theorem Kept.capTick (h : Kept s) (mw : List Nat) : Kept (s.capTick mw) :=
    (Kept.ite ((h.powerSeen _).capMove _) ((h.powerSeen _).changed.setFld _ _ _ _)).stepApply

theorem Kept.trip (h : Kept s) : Kept s.trip := ((h.cleared _).emit _).changed

theorem Kept.tempsSeen (h : Kept s) (ts : List (BitVec 16)) : Kept (s.tempsSeen ts) :=
    .foldl (fun _ _ ht => ht.setReg _ _) ((h.pick _).setReg _ _)

theorem Kept.thermTick (h : Kept s) (ts : List (BitVec 16)) : Kept (s.thermTick ts) := by
  unfold State.thermTick
  extract_lets s1 s2
  have hs1 : Kept s1 := h.tempsSeen _
  have hs2 : Kept s2 := .ite (hs1.setFld _ _ _ _) hs1
  exact (Kept.ite hs2 (hs2.bump _)).stepApply

/-! ## The register file -/

theorem Kept.writeByType (h : Kept s) (at_ : Nat) (fs : List FieldDef) (v : Word) : Kept (s.writeByType at_ fs v) :=
    .ite ((h.setReg _ _).setSh _ _) (h.setReg _ _)

/-! ## Firmware -/

theorem Kept.loadRefused (h : Kept s) : Kept s.loadRefused := .ite h (h.setFld _ _ _ _)

theorem Kept.loadImg (h : Kept s) (img : List Byte) (ok : Bool) : Kept (s.loadImg img ok) := by
  unfold State.loadImg
  refine .ite ?_ ?_
  · exact h.bootGo _ _
  · split
    · exact ((h.ownStore _ _).same (by rfl)).bootGo _ _
    · exact h.bootGo _ _

theorem Kept.fwLoad (h : Kept s) (img : List Byte) (ok : Bool) : Kept (s.fwLoad img ok) :=
    .ite h.loadRefused (.ite (.ite h.loadRefused ((h.same (by rfl)).loadImg _ _))
      (.ite ((h.emit _).loadImg _ _) (h.loadImg _ _)))

theorem Kept.beginStream (h : Kept s) : Kept s.beginStream := h.same (by rfl)

theorem Kept.streamWord (h : Kept s) (v : Word) : Kept (s.streamWord v) := .ite (h.same (by rfl)) h

theorem Kept.endStream (h : Kept s) : Kept s.endStream :=
    .ite (h.same (by rfl)).loadRefused ((h.same (by rfl)).loadImg _ _)

theorem Kept.attachDriver (h : Kept s) : Kept s.attachDriver :=
    .ite h (.ite ((h.setReg _ _).setFld _ _ _ _) ((h.setReg _ _).setFld _ _ _ _))

theorem Kept.setDigest (h : Kept s) (d : BitVec 512) : Kept (s.setDigest d) := .foldl (fun _ _ ht => ht.setReg _ _) h

theorem Kept.setAuth (h : Kept s) (img : List Byte) (k : Bool) : Kept (s.setAuth img k) :=
    ((h.setDigest _).setFld _ _ _ _).setFld _ _ _ _

theorem Kept.readImg (h : Kept s) : Kept s.readImg.2.2 := by
  unfold State.readImg
  split
  · exact h.readMem _ _ _
  · exact h

theorem Kept.firmwareRuns (h : Kept s) : Kept s.firmwareRuns := h.changed

theorem Kept.fwAuth (h : Kept s) : Kept s.fwAuth := by
  unfold State.fwAuth
  extract_lets r img s1
  have hr : Kept r.2.2 := h.readImg
  have hs1 : Kept s1 := (hr.setReg _ _).setReg _ _
  refine .ite ?_ ?_
  · exact hr.bootGo _ _
  · split
    · exact hs1.bootGo _ _
    · exact .ite ((hs1.setAuth _ _).bootGo _ _) ((((hs1.setAuth _ _).setReg _ _).setFld _ _ _ _).firmwareRuns.bootGo _ _)

/-! ## Fuses, keys and Tally -/

theorem Kept.fuseCmd (h : Kept s) (ok : Bool) (f : Fuses → Fuses) (hf : ∀ x : Fuses, x.minSvn ≤ 64 → (f x).minSvn ≤ 64) :
    Kept (s.fuseCmd ok f) := by
  obtain ⟨-, -, -, -, hsvn, -⟩ := id h
  unfold State.fuseCmd
  exact .ite ((h.withFuses (hf _ hsvn)).fuseStatus.result _ _ _) (h.result _ _ _)

theorem Kept.commitSvn (h : Kept s) : Kept s.commitSvn := h.fuseCmd _ _ fun _ hx => max_le hx (min_le_left _ _)

theorem Kept.revoke0 (h : Kept s) : Kept s.revoke0 := h.fuseCmd _ _ fun _ hx => hx

theorem Kept.revoke1 (h : Kept s) : Kept s.revoke1 := h.fuseCmd _ _ fun _ hx => hx

theorem Kept.keyEnd (h : Kept s) (st : Status) : Kept (s.keyEnd st) := by
  unfold State.keyEnd
  extract_lets s1
  have hs1 : Kept s1 := .foldl (fun _ _ ht => ht.setReg _ _) h
  exact (Kept.ite hs1 (hs1.bump _)).result _ _ _

theorem Kept.keyLoad (h : Kept s) (k : Nat) (usage : Bool) (key : List Byte) : Kept (s.keyLoad k usage key) := h.setKey _ _

theorem Kept.loadClear (h : Kept s) (usage : Bool) : Kept (s.loadClear usage) := .ite (h.keyEnd _) ((h.keyLoad _ _ _).keyEnd _)

theorem Kept.loadWrapped (h : Kept s) (usage : Bool) (kek : Nat) : Kept (s.loadWrapped usage kek) := by
  unfold State.loadWrapped
  refine .ite ?_ ?_
  · exact h.keyEnd _
  · refine .ite ?_ ?_
    · exact h.keyEnd _
    · split
      · exact h.keyEnd _
      · exact (h.keyLoad _ _ _).keyEnd _

theorem Kept.keyErase (h : Kept s) : Kept s.keyErase := .ite (h.keyEnd _) ((h.setKey _ _).keyEnd _)

theorem Kept.keyQuery (h : Kept s) : Kept s.keyQuery := (h.setReg _ _).keyEnd _

theorem Kept.emptyKeys (h : Kept s) : Kept s.emptyKeys := h.changed

theorem Kept.clearCtx (h : Kept s) (v : Word) : Kept (s.clearCtx v) :=
    .ite (.ite ((h.setFld _ _ _ _).setFld _ _ _ _) h) ((h.emptyKeys.setFld _ _ _ _).setFld _ _ _ _)

theorem Kept.ciphEnd (h : Kept s) (st : Status) : Kept (s.ciphEnd st) := h.result _ _ _

theorem Kept.holdCore (h : Kept s) : Kept s.holdCore := ((Kept.ite ((h.suspend _).bump _) h).setCore _ _).ciphEnd _

theorem Kept.setCiphData (h : Kept s) (bs : List Byte) : Kept (s.setCiphData bs) :=
    .foldl (fun _ _ ht => .ite (ht.setReg _ _) ht) h

theorem Kept.saveCore (h : Kept s) : Kept s.saveCore := by
  unfold State.saveCore
  refine .ite ?_ ?_
  · exact h.ciphEnd _
  · split
    · exact h.ciphEnd _
    · exact (h.setCiphData _).ciphEnd _

theorem Kept.restoreCore (h : Kept s) : Kept s.restoreCore := by
  unfold State.restoreCore
  refine .ite ?_ ?_
  · exact h.ciphEnd _
  · split
    · exact h.ciphEnd _
    · exact .ite (h.ciphEnd _) ((h.setCore _ _).ciphEnd _)

theorem Kept.releaseCore (h : Kept s) : Kept s.releaseCore := (((h.setCore _ _).coreNext _).coreNext _).ciphEnd _

theorem Kept.spdm (h : Kept s) (early : Bool) (a : SpdmAnswer) : Kept (s.spdm early a) := .ite h (.ite (h.emit _) (h.emit _))

/-! ## Time -/

theorem Kept.stepTo (h : Kept s) (t : BitVec 96) : Kept (s.stepTo t).2 := by
  unfold State.stepTo
  dsimp only
  split
  · exact h
  · split
    · exact h.bump _
    · exact (Kept.ite h.changed.changed h.changed).bump _

theorem Kept.timeGo (h : Kept s) (ph : TimePhase) : Kept (s.timeGo ph) :=
    .ite h (.ite ((h.changed.setFld _ _ _ _).changed.bump _) (h.changed.setFld _ _ _ _))

theorem Kept.samplePhase (h : Kept s) (e : Int) : Kept (s.samplePhase e) := by
  unfold State.samplePhase
  split
  · exact h.timeGo _
  · exact h.timeGo _
  · exact .ite (h.timeGo _) h
  · exact h

theorem Kept.sampleRun (h : Kept s) (e : Int) : Kept (s.sampleRun e) := .ite (h.changed.timeGo _) h.changed

theorem Kept.servo (h : Kept s) (e : Int) : Kept (s.servo e) := .ite (h.stepTo _).changed h.changed

theorem Kept.timeSample (h : Kept s) (e : Int) : Kept (s.timeSample e) := (((h.samplePhase _).servo _).sampleRun _).changed

theorem Kept.ppsOffset (h : Kept s) (t : Int) : Kept (s.ppsOffset t).2 := by
  unfold State.ppsOffset
  dsimp only
  split
  · exact h
  · split
    · exact h
    · split
      · exact h.takeBit
      · exact h.takeBit

theorem Kept.ppsEdge (h : Kept s) : Kept s.ppsEdge :=
    .ite (((h.changed.setReg _ _).ppsOffset _).timeSample _) (h.changed.setReg _ _)

theorem Kept.timeCtrl (h : Kept s) (v : Word) : Kept (s.timeCtrl v) := by
  unfold State.timeCtrl
  extract_lets old port s1 s2
  have hs1 : Kept s1 := h.setReg _ _
  have hs2 : Kept s2 := .ite (hs1.timeGo _) hs1
  exact (Kept.ite hs2 (hs2.setFld _ _ _ _)).ptpMove

theorem Kept.ephSwap (h : Kept s) : Kept s.ephSwap :=
    (Kept.foldl (fun _ _ ht => (ht.setReg _ _).setReg _ _) h).changed.setReg _ _

theorem Kept.ephCommit (h : Kept s) (v : Word) : Kept (s.ephCommit v) := .ite h (.ite (h.ephSwap.bump _) (h.setFld _ _ _ _))

theorem Kept.ephCopy (h : Kept s) : Kept s.ephCopy := h.changed.setFld _ _ _ _

theorem Kept.slotMiss (h : Kept s) (g n : Nat) : Kept (s.slotMiss g n) := .ite (h.changed.bump _) h

/-! ## Twilight -/

theorem Kept.portsLost (h : Kept s) : Kept s.portsLost :=
    (Kept.foldl (fun _ _ ht => ht.setReg _ _) (h.same (by rfl))).keysLost _

theorem Kept.twiEnter (h : Kept s) : Kept s.twiEnter :=
    (Kept.foldl (fun _ _ ht => ht.portDown _) h.changed.emptyKeys).ptpMove.portsLost.setReg _ _

theorem Kept.twiRequest (h : Kept s) : Kept s.twiRequest := .ite h (.ite (h.setFld _ _ _ _) h.twiEnter)

theorem Kept.gated (h : Kept s) : Kept s.gated :=
  ((((h.withTmem (m := []) rfl).withNbuf (m := []) rfl).withPio (m := []) rfl).withPages (l := []) nofun).changed

theorem Kept.wakeStart (h : Kept s) : Kept s.wakeStart := (h.same (by rfl)).setFld _ _ _ _

theorem Kept.twiDone (h : Kept s) : Kept s.twiDone := by
  unfold State.twiDone
  extract_lets s0 s1 s2
  have hs0 : Kept s0 := .ite h.pageZeroed h
  have hs1 : Kept s1 := ((hs0.gated.timeGo _).bump _).setFld _ _ _ _
  have hs2 : Kept s2 := hs1.changed
  exact .ite hs2.wakeStart hs2

theorem Kept.wake (h : Kept s) : Kept s.wake := .ite h.wakeStart (.ite h.changed h)

theorem Kept.restored (h : Kept s) : Kept s.restored := h.changed

theorem Kept.unrestored (h : Kept s) : Kept s.unrestored := h.changed

theorem Kept.retrain (h : Kept s) : Kept s.retrain := (Kept.foldl (fun _ _ ht => ht.portTrain _) (h.same (by rfl))).awake

theorem Kept.wakeAuth (h : Kept s) : Kept s.wakeAuth := by
  unfold State.wakeAuth
  extract_lets r
  have hr : Kept r.2.2 := h.readImg
  split
  · exact (hr.unrestored.bootGo _ _).retrain
  · exact ((hr.restored.stepApply.firmwareRuns.setAuth _ _).setFld _ _ _ _).fuseStatus.debtFull.retrain

/-! ## Reads of registers -/

theorem Kept.inFreq (h : Kept s) (a : Int) : Kept (s.inFreq a).2 := by
  unfold State.inFreq
  split
  · exact h
  · exact h.takeBit

theorem Kept.timeFreq (h : Kept s) : Kept s.timeFreq.2 := (h.inFreq _).inFreq _

theorem Kept.readReg (h : Kept s) (m a : Nat) : Kept (s.readReg m a).2 := by
  unfold State.readReg
  split
  · exact h
  · split
    · exact h
    · split
      · exact h.timeFreq
      · split
        · exact h
        · exact h

theorem Kept.readClear (h : Kept s) (m a : Nat) : Kept (s.readClear m a).2 := by
  unfold State.readClear
  split
  · split
    · exact h
    · exact h.setReg _ _
  · exact h.readReg _ _

/-! ## Debug -/

theorem Kept.histOne (h : Kept s) (u : Nat) : Kept (s.histOne u) := by
  unfold State.histOne
  split
  · exact (h.changed.bump _).bump _
  · exact h

theorem Kept.cometWrap (h : Kept s) : Kept s.cometWrap := ((h.setReg _ _).setFld _ _ _ _).bump _

theorem Kept.cometEnd (h : Kept s) : Kept s.cometEnd := .ite (h.setFld _ _ _ _) h.cometWrap

theorem Kept.tracePut (h : Kept s) (base len : Nat) (t : Trace) : Kept (s.tracePut base len t) := by
  unfold State.tracePut
  extract_lets s1 w s2 s3
  have hs1 : Kept s1 := .ite h.cometEnd h
  have hs2 : Kept s2 := hs1.ownStore _ _
  have hs3 : Kept s3 := hs2.setReg _ _
  exact .ite hs1 (.ite hs3.cometEnd hs3)

theorem Kept.syncPut (h : Kept s) (base len c : Nat) : Kept (s.syncPut base len c) := h.changed.tracePut _ _ _

theorem Kept.corePut (h : Kept s) (base len c : Nat) : Kept (s.corePut base len c) :=
    .ite ((h.changed.tracePut _ _ _).syncPut _ _ _) (h.changed.tracePut _ _ _)

theorem Kept.corePuts (h : Kept s) (base len room : Nat) : Kept (s.corePuts base len room).2 := by
  unfold State.corePuts
  dsimp only
  split
  · exact h
  · exact .foldl (fun _ _ ht => ht.takeFree.corePut _ _ _) h.takeFree

theorem Kept.drainStaged (h : Kept s) (base len x : Nat) (l : List Trace) : Kept (s.drainStaged base len x l).2 := by
  induction l generalizing s x with
  | nil => exact h.corePuts _ _ _
  | cons t ts ih => exact ih ((h.corePuts _ _ _).tracePut _ _ _) _

theorem Kept.coreLost (h : Kept s) (room : Nat) : Kept (s.coreLost room) := .ite (h.takeFree.count _ _).changed h

theorem Kept.lostPut (h : Kept s) (base len : Nat) : Kept (s.lostPut base len) :=
    .ite h (.foldl (fun _ _ ht => ht.syncPut _ _ _) (h.takeFree.changed.tracePut _ _ _))

theorem Kept.cometDrain (h : Kept s) (base len : Nat) : Kept (s.cometDrain base len) :=
    ((h.changed.drainStaged _ _ _ _).coreLost _).lostPut _ _

theorem keptOut_execCometStagingDrain (h : Kept s) : KeptOut (execCometStagingDrain s) := by
  unfold execCometStagingDrain
  split
  · exact .ite (h.cometDrain _ _).out h.out
  · exact h.out

end Sys2Proof.Proofs
end

section
/-!
PROOF. The invariant that every step keeps (R185, R210, R325, R385, R399), part 5 of 5: Nightwatch, the events of the transport, accesses, waits, writes of registers and the clock; then every
command and every step.
-/

namespace Sys2Proof.Proofs

open Sys2Proof.Machine Sys2Proof.Laws Sys2Proof.Claims

variable {s : State}

/-! ## Nightwatch -/

theorem Kept.declareHang (h : Kept s) (cause object : Nat) : Kept (s.declareHang cause object) := (h.setReg _ _).changed

theorem keptOut_execHangDetect (h : Kept s) (w : Watched) : KeptOut (execHangDetect w s) := by
  unfold execHangDetect
  refine .ite ?_ ?_
  · exact h.out
  · split
    · exact .ite (h.declareHang _ _).out h.out
    · exact .ite (h.declareHang _ _).out h.out
    · exact .ite (h.declareHang _ _).out h.out

theorem Kept.nwStatus (h : Kept s) (st : Status) : Kept (s.nwStatus st) := h.setFld _ _ _ _

theorem Kept.nwDeclare (h : Kept s) : Kept s.nwDeclare := .ite ((h.declareHang _ _).nwStatus _) h

theorem Kept.dumpPut (h : Kept s) (base off : Nat) (bs : List Byte) : Kept (s.dumpPut base off bs) := h.ownStore _ _

theorem Kept.dumpWords (h : Kept s) (base off : Nat) (ws : List Word) : Kept (s.dumpWords base off ws) := h.dumpPut _ _ _

theorem Kept.dumpOpen (h : Kept s) (base id : Nat) : Kept (s.dumpOpen base id) := (h.dumpPut _ _ _).changed

theorem Kept.dumpHeader (h : Kept s) (base : Nat) (ids : List Nat) : Kept (s.dumpHeader base ids) := h.dumpWords _ _ _

theorem Kept.dumpRegs (h : Kept s) (base : Nat) : Kept (s.dumpRegs base) := by
  unfold State.dumpRegs
  refine .foldl (fun _ _ ht => ?_) h
  refine Kept.dumpWords ?_ _ _ _
  split
  · exact ht
  · exact ht.readReg _ _

theorem Kept.dumpSems (h : Kept s) (base : Nat) : Kept (s.dumpSems base) := (h.dumpOpen _ _).dumpWords _ _ _

theorem Kept.dumpImem (h : Kept s) (base : Nat) : Kept (s.dumpImem base) :=
    .foldl (fun _ _ ht => ht.dumpPut _ _ _) (h.dumpOpen _ _)

theorem Kept.dumpChains (h : Kept s) (base : Nat) : Kept (s.dumpChains base) := by
  unfold State.dumpChains
  refine .foldl (fun _ _ ht => ?_) (h.dumpOpen _ _)
  split
  · exact ht.dumpPut _ _ _
  · exact ht

theorem Kept.dumpAll (h : Kept s) (base : Nat) : Kept (s.dumpAll base) :=
    (((((((((((((h.dumpHeader _ _).dumpRegs _).dumpOpen _ _).dumpOpen _ _).dumpOpen _ _).dumpOpen _ _).dumpOpen _ _).dumpSems _).dumpImem _).dumpPut _ _ _).dumpPut _ _ _).dumpChains _).dumpOpen _ _).dumpWords _ _ _

theorem Kept.dumpOwn (h : Kept s) (base : Nat) : Kept (s.dumpOwn base) := ((h.dumpHeader _ _).dumpRegs _).dumpOpen _ _

theorem Kept.mgmtVia (h : Kept s) (i : Nat) (dst : AdapterId) (q : Option MgmtQuery) (nodes : List PeerNode) :
    Kept (s.mgmtVia i dst q nodes) := .ite h.takeFree (h.takeFree.enqueue _ _)

theorem Kept.mgmtTo (h : Kept s) (dst : AdapterId) (q : MgmtQuery) : Kept (s.mgmtTo dst q) :=
    .ite h (h.takeFree.mgmtVia _ _ _ _)

theorem Kept.askPeer (h : Kept s) (peer : AdapterId) (sem : Option (BitVec 16)) : Kept (s.askPeer peer sem) :=
    .ite (h.changed.mgmtTo _ _) (.ite h.changed (h.changed.mgmtTo _ _))

theorem Kept.askAll (h : Kept s) (g : Graph) : Kept (s.askAll g) :=
    .foldl (fun _ _ ht => ht.askPeer _ _) (.foldl (fun _ _ ht => .foldl (fun _ _ ht1 => ht1.askPeer _ _) ht) h)

theorem Kept.graphStart (h : Kept s) : Kept s.graphStart := (h.askAll _).changed

theorem Kept.nwGo (h : Kept s) (st : Nat) : Kept (s.nwGo st) := h.setFld _ _ _ _

theorem Kept.dumped (h : Kept s) : Kept s.dumped := by
  unfold State.dumped
  extract_lets st cause s1 r s2 s3
  have hs1 : Kept s1 := by
    dsimp only [s1]
    split
    · exact .ite ((h.nwGo _).dumpOwn _) ((h.nwGo _).dumpAll _)
    · exact h
  have hs2 : Kept s2 := (hs1.nwGo _).fault _ _
  have hs3 : Kept s3 := .ite (hs2.msix _ _) hs2
  clear_value s3
  exact .ite hs3 hs3.graphStart

theorem Kept.graphDone (h : Kept s) : Kept s.graphDone := by
  unfold State.graphDone
  split
  · exact ((h.dumpPut _ _ _).dumpWords _ _ _).nwGo _
  · exact h

theorem Kept.unhalt (h : Kept s) : Kept s.unhalt := ((h.nwGo _).nwStatus _).changed

theorem Kept.nwResume (h : Kept s) : Kept s.nwResume := .ite h.unhalt (h.nwStatus _)

theorem Kept.nwAbort (h : Kept s) : Kept s.nwAbort := .ite (.foldl (fun _ _ ht => ht.slotStop _) h.unhalt) (h.nwStatus _)

theorem Kept.mgmtQuery (h : Kept s) (i : Nat) (src : AdapterId) (x3 : MgmtQuery) : Kept (s.mgmtQuery i src x3) := by
  unfold State.mgmtQuery
  split
  · exact h.mgmtVia _ _ _ _
  · exact h.mgmtVia _ _ _ _
  · exact .ite (h.changed.mgmtTo _ _) h

theorem Kept.relayBack (h : Kept s) (peer : AdapterId) (sem : Option (BitVec 16)) (nodes : List PeerNode) :
    Kept (s.relayBack peer sem nodes) := .foldl (fun _ _ ht => ht.mgmtVia _ _ _ _) h.changed

theorem Kept.takeAnswer (h : Kept s) (peer : AdapterId) (sem : Option (BitVec 16)) (nodes : List PeerNode) :
    Kept (s.takeAnswer peer sem nodes) := .ite h.changed h

theorem Kept.unresponsive (h : Kept s) (peer : AdapterId) : Kept (s.unresponsive peer) := h.changed

/-! ## Events of the transport -/

theorem Kept.unparkCtx (h : Kept s) (c : BitVec 20) (ok : Bool) : Kept (s.unparkCtx c ok) :=
    .foldl (fun _ _ ht => .ite ((ht.changed.useCtx _).rxFrom6 _ _) (.ite ht.changed (ht.changed.refuse _ _))) h

theorem Kept.hwFetch (h : Kept s) (a n : Nat) (ok : Bool) : Kept (s.hwFetch a n ok).2 := by
  unfold State.hwFetch
  split
  · exact h.bump _
  · exact h.readMem _ _ _

theorem Kept.ctxFetched (h : Kept s) (c : BitVec 20) (ok : Bool) : Kept (s.ctxFetched c ok) := by
  unfold State.ctxFetched
  refine .ite ?_ ?_
  · exact h
  · extract_lets f s1 s2 s3
    have hf : Kept f.2 := h.hwFetch _ _ _
    have hs1 : Kept s1 := (hf.updCtx _ _).useCtx _
    have hs2 : Kept s2 := hs1.unparkCtx _ _
    have hs3 : Kept s3 := .ite (.foldl (fun _ _ ht => ht.endReq _ _) hs2) hs2
    exact hs3.pumpFetch

theorem Kept.pumpWins (h : Kept s) : Kept s.pumpWins := by
  unfold State.pumpWins
  refine .foldl (fun _ _ ht => ?_) h
  split
  · exact ht.fetchWin _
  · exact ht

theorem Kept.unparkWin (h : Kept s) (w : Nat) (ok : Bool) : Kept (s.unparkWin w ok) := by
  unfold State.unparkWin
  refine .foldl (fun _ _ ht => ?_) h
  extract_lets s1
  have hs1 : Kept s1 := ht.changed
  exact .ite (.ite (hs1.rxRead _) (hs1.rxFrom8 _ _)) (.ite (hs1.nack _ _) (hs1.rxFail _ _))

theorem Kept.winFetched (h : Kept s) (w : Nat) (ok : Bool) : Kept (s.winFetched w ok) :=
    .ite h ((((h.hwFetch _ _ _).updWin _ _).useWin _).unparkWin _ _).pumpWins

theorem Kept.writeEnded (h : Kept s) (k : WriteKind) (ok : Bool) : Kept (s.writeEnded k ok) := by
  unfold State.writeEnded
  split
  · split
    · exact h.settle
    · exact .ite (h.failSeg _ _ _).settle (.ite (h.segDone _ _).settle (h.updSeg _ _ _))
  · exact .ite (h.rxWriteDone _ _ _) (h.rxLate _ _ _ _)
  · exact (Kept.ite (h.rxWriteDone _ _ _) (h.rxLate _ _ _ _)).accNext
  · exact h
  · refine .ite ?_ ?_
    · exact h.respDone _ _
    · split
      · exact h.endMsg _ _
      · exact h
  · exact h
  · exact h

theorem Kept.writeAcked (h : Kept s) (id : Nat) (ok : Bool) : Kept (s.writeAcked id ok) := by
  unfold State.writeAcked
  split
  · exact h
  · exact .ite h (h.changed.writeEnded _ _)

theorem keptOut_execWriteAcknowledged (h : Kept s) (id : Nat) (ok : Bool) : KeptOut (execWriteAcknowledged id ok s) :=
    .ite (h.writeAcked _ _).out h.out

theorem Kept.commitNow (h : Kept s) (w : WriteReq) : Kept (s.commitNow w) := by
  unfold State.commitNow
  dsimp only
  split
  · split
    · exact h.changed.accInside _ _ _
    · exact h.changed
  · exact (h.changed.writeMemBe _ _ _).writeEnded _ _

theorem Kept.commitWrite (h : Kept s) (w : WriteReq) : Kept (s.commitWrite w) := .ite (h.commitNow _) (h.changed.askLines _)

theorem Kept.lineBack (h : Kept s) (q line : Nat) : Kept (s.lineBack q line) := by
  unfold State.lineBack
  refine .ite ?_ ?_
  · exact h
  · refine .foldl (fun _ _ ht => ?_) h.changed
    split
    · exact .ite (ht.commitWrite _) ht
    · exact ht

/-! ## The PIO space -/

theorem Kept.bar2Word (h : Kept s) (p : Path) (a : Nat) (v : Word) (be : BitVec 8) : Kept (s.bar2Word p a v be) :=
    .ite (.ite (h.doorbell _ _ _ _) h) (.ite (h.cellWord _ _ _ _ _) h)

theorem Kept.pioGo (h : Kept s) (i : BitVec 8) (slot : Nat) : Kept (s.pioGo i slot) :=
    .ite ((h.fault _ _).bump _) ((h.bump _).txAsk _ _ _ _ _ _ _ _ _ _)

theorem Kept.pioStore (h : Kept s) (slot off : Nat) (bs : List (Option Byte)) : Kept (s.pioStore slot off bs) := by
  obtain ⟨⟨-, -, -, hpio, -⟩, -⟩ := id h
  exact (h.sramRmw off (bs.take (0x1040 - off))).withPio (wf_pioStore s slot off bs hpio)

theorem Kept.pioWrite (h : Kept s) (p : Path) (slot off : Nat) (bs : List (Option Byte)) :
    Kept (s.pioWrite p slot off bs) := by
  unfold State.pioWrite
  refine .ite ?_ ?_
  · exact h
  · split
    · exact h.bump _
    · exact .ite (h.bump _) (.ite ((h.pioStore _ _ _).pioGo _ _) (h.pioStore _ _ _))

theorem Kept.filterLine (h : Kept s) (q line : Nat) : Kept (s.filterLine q line) := by
  unfold State.filterLine
  refine .ite ?_ ?_
  · exact h
  · refine Kept.changed ?_
    split
    · exact .ite h ((h.changed.askLines _).bump _)
    · exact h

theorem Kept.apertureRead (h : Kept s) (q a n : Nat) (cacheable : Bool) : Kept (s.apertureRead q a n cacheable) :=
    .ite ((h.bump _).emit _) (.ite (h.emit _) ((Kept.ite (.foldl (fun _ _ ht => ht.filterLine _ _) (h.readMem _ _ _))
      (h.readMem _ _ _)).emit _))

theorem Kept.apertureWrite (h : Kept s) (q a : Nat) (bs : List (Option Byte)) : Kept (s.apertureWrite q a bs) :=
    .ite (h.bump _) (.ite h (h.storeMemBe _ _ _ _ _))

theorem Kept.hdmWrite (h : Kept s) (q : Fin 4) (off : Nat) (bs : List (Option Byte)) : Kept (s.hdmWrite q off bs) := by
  unfold State.hdmWrite
  extract_lets s1
  have hs1 : Kept s1 := h.meter _ _ _
  split
  · exact hs1.apertureWrite _ _ _
  · exact .ite (.foldl (fun _ _ ht => ht.bar2Word _ _ _ _) hs1) (.ite (hs1.pioWrite _ _ _ _) hs1)

theorem Kept.bar2Read (h : Kept s) (p : Path) (a : Nat) (be : BitVec 8) : Kept (s.bar2Read p a be) :=
    .ite (h.cellRead _ _ _ _) (h.emit _)

theorem Kept.hdmRead (h : Kept s) (q : Fin 4) (off n : Nat) (cacheable : Bool) : Kept (s.hdmRead q off n cacheable) := by
  unfold State.hdmRead
  split
  · exact h.apertureRead _ _ _ _
  · exact .ite (.foldl (fun _ _ ht => ht.bar2Read _ _ _) h) (h.emit _)

theorem keptOut_execApertureAccess (h : Kept s) (q : Fin 4) (a : HdmAccess) : KeptOut (execApertureAccess q a s) := by
  unfold execApertureAccess
  refine .ite ?_ ?_
  · exact h.out
  · split
    · exact (h.hdmRead _ _ _ _).out
    · exact (h.hdmWrite _ _ _).out

/-! ## Cells of semaphores -/

theorem keptOut_execCellSet (h : Kept s) (p : Path) (sem : BitVec 16) (v : Word) (be : BitVec 8) :
    KeptOut (execCellSet p sem v be s) := .ite ((h.tlp _ _).cellWord _ _ _ _ _).out h.out

theorem keptOut_execCellAdd (h : Kept s) (p : Path) (sem : BitVec 16) (v : Word) (be : BitVec 8) :
    KeptOut (execCellAdd p sem v be s) := .ite ((h.tlp _ _).cellWord _ _ _ _ _).out h.out

theorem keptOut_execCellSubtract (h : Kept s) (p : Path) (sem : BitVec 16) (v : Word) (be : BitVec 8) :
    KeptOut (execCellSubtract p sem v be s) := .ite ((h.tlp _ _).cellWord _ _ _ _ _).out h.out

theorem Kept.semZeroWrite (h : Kept s) (v : Word) : Kept (s.semZeroWrite v) := by
  unfold State.semZeroWrite
  refine .ite (h.withZeroing fun p hp => ?_) h
  cases hp
  exact Nat.mod_lt _ (by decide)

theorem Kept.semBarSet (h : Kept s) (b : Nat) (v : Word) : Kept (s.semBarSet b v) := .ite ((h.setFld _ _ _ _).setFld _ _ _ _) h

/-! ## Returns of accesses -/

theorem Kept.segReturn (h : Kept s) (q : ReadReq) (op g which : Nat) (ext : List Byte) (err : Bool) :
    Kept (s.segReturn q op g which ext err) := by
  unfold State.segReturn
  extract_lets gone
  have hgone : Kept gone := h.changed
  split
  · exact hgone.settle
  · extract_lets d p r y s1
    have hr : Kept r.2.2 := by
      dsimp only [r]
      split
      · exact hgone
      · split
        · exact hgone.bump _
        · exact hgone.readRuns _ _ _ _
    have hs1 : Kept s1 := (hr.countRead _ _).updSeg _ _ _
    exact .ite h (.ite (hr.failSeg _ _ _).settle (Kept.ite (hs1.afterReads _ _) hs1).settle)

theorem Kept.accReturn (h : Kept s) (q : ReadReq) (p : Packet) (w : Nat) (upset : Mismatch) (ext : List Byte) (err : Bool) :
    Kept (s.accReturn q p w upset ext err) := by
  unfold State.accReturn
  refine .ite ?_ ?_
  · exact h
  · extract_lets s1 x a
    have hs1 : Kept s1 := h.changed
    have ha : Kept a.2 := hs1.accRun _ _ _
    split
    · exact (hs1.rxWriteDone _ _ _).accNext
    · refine .ite ?_ ?_
      · exact (hs1.rxWriteDone _ _ _).accNext
      · refine .ite ?_ ?_
        · exact (hs1.rxWriteFail _ _ _).accNext
        · split
          · exact (ha.rxWriteFail _ _ _).accNext
          · exact ((((ha.storeRuns _ _ _ _ _ _).bump _).updRrec _ _ _).placed _ _ _).accNext

theorem Kept.readReturn (h : Kept s) (id : Nat) (ext : List Byte) (err : Bool) : Kept (s.readReturn id ext err) := by
  unfold State.readReturn
  split
  · exact h
  · refine .ite ?_ ?_
    · exact h
    · split
      · exact h.segReturn _ _ _ _ _ _
      · exact h.respReturn _ _ _ _ _ _ _ _
      · exact h.accReturn _ _ _ _ _ _
      · exact h.rawReturn _ _ _ _

theorem keptOut_execMemoryReadReturn (h : Kept s) (r : ReadReturn) : KeptOut (execMemoryReadReturn r s) := by
  unfold execMemoryReadReturn
  refine .ite ?_ ?_
  · exact h.out
  · split
    · exact (h.readReturn _ _ _).out
    · exact (h.sramDecoded _ _).out

/-! ## Ends of waits -/

/-- A command that a stop lets end first leaves a kept state, or the state before it. -/
theorem Kept.orElse (h : Kept s) {o : Out} (ho : KeptOut o) : Kept (o.orElse s) := by
  unfold Out.orElse
  split
  · exact ho _ rfl
  · exact h

theorem Kept.stopRaises (h : Kept s) (c : Instr) : Kept (s.stopRaises c) := by
  unfold State.stopRaises
  refine h.orElse ?_
  split
  · exact keptOut_execSadd h _ _
  · exact keptOut_execSsub h _ _
  · exact keptOut_execSset h _ _
  · exact keptOut_execSegmentComplete h _
  · exact keptOut_execOperationComplete h _
  · exact keptOut_execCellSet h _ _ _ _
  · exact keptOut_execCellAdd h _ _ _ _
  · exact keptOut_execCellSubtract h _ _ _ _
  · exact keptOut_execPageZeroComplete h
  · exact keptOut_execDescriptorDispatch h
  · exact keptOut_execDescriptorPublish h _ _ _ _
  · exact keptOut_execWritePacket h _
  · exact keptOut_execWriteAccPacket h _ _
  · exact keptOut_execSendPacket h _
  · exact keptOut_execSemPacket h _
  · exact keptOut_execAck h _
  · exact keptOut_execRecordRetentionExpiry h _ _
  · exact keptOut_execWriteAcknowledged h _ _
  · exact keptOut_execMemoryReadReturn h _
  · exact keptOut_execWindowRevokeCmd h _ _
  · exact keptOut_execApertureAccess h _ _
  · exact h.out

theorem Kept.timeoutNow (h : Kept s) (sl : Nat) : Kept (s.timeoutNow sl) := .ite h (h.waitTimeout _)

theorem Kept.writtenStop (h : Kept s) (sl : Nat) : Kept (s.writtenStop sl) := .ite ((h.retire _).slotStop _) (h.slotStop _)

/-! ## Writes of registers -/

theorem Kept.badOp (h : Kept s) (p : Path) (a : Nat) : Kept (s.badOp p a) := h.result _ _ _

theorem Kept.ctxOp (h : Kept s) (p : Path) (op : Nat) : Kept (s.ctxOp p op) := by
  unfold State.ctxOp
  split
  · exact h.ctxDo _ _ (fun _ _ ht => ht.ctxCreate _ _)
  · exact h.ctxDo _ _ (fun _ _ ht => ht.ctxModify _ _)
  · exact h.ctxDo _ _ (fun _ _ ht => ht.ctxDestroy _)
  · exact h.ctxDo _ _ (fun _ _ ht => ht.ctxRead _ _)
  · exact h.badOp _ _

theorem Kept.winOp (h : Kept s) (p : Path) (v : Word) : Kept (s.winOp p v) := by
  unfold State.winOp
  split
  · exact h.winDo _ _ (fun _ _ ht => ht.winOpen _ _)
  · exact h.winDo _ _ (fun _ _ ht => ht.winRevoke _ _ _)
  · exact h.winDo _ _ (fun _ _ ht => ht.winRead _ _)
  · exact (h.winCommit _).badOp _ _

theorem Kept.ringOp (h : Kept s) (p : Path) (op : Nat) : Kept (s.ringOp p op) := by
  unfold State.ringOp
  split
  · exact h.ringDo _ _ (fun _ _ ht => ht.ringConfigure _ _)
  · exact h.ringDo _ _ (fun _ _ ht => ht.ringRead _ _)
  · exact h.ringDo _ _ (fun _ _ ht => ht.ringAbort _ _)
  · exact h.ringDo _ _ (fun _ _ ht => ht.ringReset _ _)
  · exact .ite h (h.badOp _ _)

theorem Kept.instOp (h : Kept s) (op : Nat) : Kept (s.instOp op) := by
  unfold State.instOp
  split
  · exact h.instCreateOp
  · exact h.instDestroyOp
  · exact h.instReadOp
  · exact h.instQueryOp
  · exact h.badOp _ _

theorem Kept.bootOp (h : Kept s) (op : Nat) : Kept (s.bootOp op) := by
  unfold State.bootOp
  split
  · exact .ite (h.fwLoad _ _) h
  · exact h.beginStream
  · exact h.endStream
  · exact h.attachDriver
  · exact h

theorem Kept.testOp (h : Kept s) (op : Nat) : Kept (s.testOp op) := by
  unfold State.testOp
  split
  · exact h.rawWriteOp
  · exact h.rawReadOp
  · exact h.decodedReadOp
  · exact h.badOp _ _

theorem Kept.fuseOp (h : Kept s) (op : Nat) : Kept (s.fuseOp op) := by
  unfold State.fuseOp
  split
  · exact h.commitSvn
  · exact h.revoke0
  · exact h.revoke1
  · exact h.badOp _ _

theorem Kept.keyOp (h : Kept s) (v : Word) : Kept (s.keyOp v) := by
  unfold State.keyOp
  split
  · exact h.loadClear _
  · exact h.loadWrapped _ _
  · exact h.keyErase
  · exact h.keyQuery
  · exact h.keyEnd _

theorem Kept.ciphOp (h : Kept s) (op : Nat) : Kept (s.ciphOp op) := by
  unfold State.ciphOp
  split
  · exact h.holdCore
  · exact h.saveCore
  · exact h.restoreCore
  · exact h.releaseCore
  · exact h.badOp _ _

theorem Kept.twiOp (h : Kept s) (p : Path) (op : Nat) : Kept (s.twiOp p op) := by
  unfold State.twiOp
  split
  · exact h.twiRequest
  · exact .ite h.wake h
  · exact h

theorem Kept.nwOp (h : Kept s) (op : Nat) : Kept (s.nwOp op) := by
  unfold State.nwOp
  split
  · exact h.nwDeclare
  · exact h.nwResume
  · exact h.nwAbort
  · exact h.nwStatus _

theorem Kept.mcOp (h : Kept s) (op : Nat) : Kept (s.mcOp op) := by
  unfold State.mcOp
  split
  · exact h.mcWrite
  · exact h.mcLoad
  · exact h

theorem Kept.ownOp (h : Kept s) (p : Path) (v : Word) : Kept (s.ownOp p v) := by
  unfold State.ownOp
  split
  · exact h.claim _ _
  · exact h.renew _
  · exact h.release_ _
  · exact h.handover _ _
  · exact h.ownResult _ _

theorem Kept.plainWrite (h : Kept s) (p : Path) (a : Nat) (v : Word) : Kept (s.plainWrite p a v) := by
  unfold State.plainWrite
  split
  · exact h.writeByType _ _ _
  · exact h

theorem Kept.queueCfg (h : Kept s) (p : Path) (a : Nat) (v : Word) : Kept (s.queueCfg p a v) := h.plainWrite _ _ _

theorem Kept.macWrite (h : Kept s) (p : Path) (n o : Nat) (v : Word) : Kept (s.macWrite p n o v) :=
    .ite (h.macCtrl _ _) (.ite (.ite h (h.plainWrite _ _ _))
      (.ite ((h.queueCfg _ _ _).tqNext _) (.ite (h.tqProdWrite _ _)
        (.ite (.ite h (h.plainWrite _ _ _)) (.ite (h.queueCfg _ _ _) (h.plainWrite _ _ _))))))

theorem Kept.fqWrite (h : Kept s) (p : Path) (q o : Nat) (v : Word) : Kept (s.fqWrite p q o v) := by
  unfold State.fqWrite
  split
  · exact .ite h (h.plainWrite _ _ _)
  · exact h.fqControl _ _
  · exact h.consWrite _ _
  · exact h

theorem Kept.ephRowWrite (h : Kept s) (second : Bool) (v : Word) : Kept (s.ephRowWrite second v) := h.changed

theorem Kept.timeWrite (h : Kept s) (p : Path) (a : Nat) (v : Word) : Kept (s.timeWrite p a v) :=
    .ite (h.timeCtrl _) (.ite (h.stepTo _) (.ite (h.stepTo _)
      (.ite (.ite (h.timeSample _) h) (.ite (h.ephCommit _)
        (.ite h (.ite (h.ephRowWrite _ _) (.ite (h.ephRowWrite _ _) (h.plainWrite _ _ _))))))))

theorem Kept.pwrCtrl (h : Kept s) (p : Path) (v : Word) : Kept (s.pwrCtrl p v) :=
    (Kept.ite (h.plainWrite _ _ _) ((h.plainWrite _ _ _).changed.setFld _ _ _ _)).stepApply

theorem Kept.lifetimeWrite (h : Kept s) (p : Path) (v : Word) : Kept (s.lifetimeWrite p v) := (h.plainWrite _ _ _).lifeChanged _

theorem Kept.heldWrite (h : Kept s) (p : Path) (a : Nat) (v : Word) (held : Bool) : Kept (s.heldWrite p a v held) :=
    .ite h (h.plainWrite _ _ _)

theorem Kept.regWrite (h : Kept s) (p : Path) (a : Nat) (v : Word) : Kept (s.regWrite p a v) :=
    .ite (h.resetWrite _ _) (.ite (h.bootOp _) (.ite (h.streamWord _)
      (.ite (h.ringCtrl _) (.ite (h.ringOp _ _) (.ite (h.heldWrite _ _ _ _)
        (.ite (h.fqWrite _ _ _ _) (.ite (h.instOp _) (.ite (h.heldWrite _ _ _ _)
          (.ite (h.cluCtrl _ _) (.ite (.ite (h.writtenStop _) h)
            (.ite (h.injectWrite _) (.ite (h.lifetimeWrite _ _)
              (.ite (.ite (h.xptCommit _) h) (.ite (h.heldWrite _ _ _ _)
                (.ite (h.ctxOp _ _) (.ite (h.heldWrite _ _ _ _)
                  (.ite (h.winOp _ _) (.ite (h.semZeroWrite _)
                    (.ite (h.semBarSet _ _) (.ite (h.plainWrite _ _ _)
                      (.ite (h.heldWrite _ _ _ _) (.ite (h.heldWrite _ _ _ _)
                        (.ite (h.fabCommitWrite _) (.ite (h.mcOp _)
                          (.ite (h.macWrite _ _ _ _) (.ite (h.timeWrite _ _ _)
                            (.ite (h.memCommitWrite _) (.ite (h.testOp _)
                              (.ite (h.clearCtx _) (.ite (h.fuseOp _)
                                (.ite (h.setReg _ _) (.ite (h.keyOp _)
                                  (.ite (h.ciphOp _) (.ite (h.pwrCtrl _ _)
                                    (.ite (h.twiOp _ _) (.ite (h.nwOp _)
                                      (h.plainWrite _ _ _)))))))))))))))))))))))))))))))))))))

theorem Kept.bar0Write (h : Kept s) (p : Path) (off size : Nat) (v : Word) : Kept (s.bar0Write p off size v) := by
  unfold State.bar0Write
  refine .ite ?_ ?_
  · exact .ite (h.tlp _ _) h
  · split
    · refine Kept.viewWrite h _ _ _ (fun _ ht => ?_)
      split
      · exact ht.regWrite _ _ _
      · exact ht
    · exact .ite (h.ownWrite _ _ (fun _ ht => ht.ownOp _ _)) (h.mapWrite _ _ _ (fun _ ht => ht.regWrite _ _ _))

theorem Kept.msixWrite (h : Kept s) (p : Path) (o : Nat) (v : Word) (be : BitVec 8) : Kept (s.msixWrite p o v be) :=
    .ite h (h.changed.msixFlush _ _)

theorem Kept.bar2Write (h : Kept s) (p : Path) (off size : Nat) (v : Word) : Kept (s.bar2Write p off size v) := by
  unfold State.bar2Write
  refine .foldl (fun _ _ ht => ?_) h
  refine .ite ?_ ?_
  · split
    · exact ht.msixWrite _ _ _ _
    · exact ht.msixWrite _ _ _ _
    · exact ht
  · exact ht.bar2Word _ _ _ _

theorem Kept.pioSpace (h : Kept s) (p : Path) (off size : Nat) (v : Word) : Kept (s.pioSpace p off size v) :=
    .ite ((h.pioWrite _ _ _ _).pioWrite _ _ _ _) (h.pioWrite _ _ _ _)

theorem keptOut_execRegisterWrite (h : Kept s) (p : Path) (sp : WrSpace) (off size : Nat) (v : Word) :
    KeptOut (execRegisterWrite p sp off size v s) := by
  unfold execRegisterWrite
  split
  · exact (h.bar0Write _ _ _ _).out
  · exact .ite ((h.tlp _ _).bar2Write _ _ _ _).out h.out
  · exact .ite ((h.tlp _ _).pioSpace _ _ _ _).out h.out

theorem Kept.mctpGet (h : Kept s) (a : Nat) : Kept (s.mctpGet a).2 := by
  unfold State.mctpGet
  split
  · exact h
  · split
    · exact h
    · split
      · exact h
      · exact h.readClear _ _

/-! ## The clock -/

theorem Kept.countCk (h : Kept s) (n : Nat) : Kept (s.countCk n) :=
    .foldl (fun _ _ ht => .ite (ht.count _ _) ht) (.foldl (fun _ _ ht => .ite ((Kept.ite (ht.count _ _) ht).count _ _)
      (.ite (ht.count _ _) ht)) h)

theorem Kept.tickTime (h : Kept s) : Kept s.tickTime := h.takeBit.changed

theorem Kept.tickCk (h : Kept s) : Kept s.tickCk := .ite h (h.countCk _).changed

theorem Kept.ephSee (h : Kept s) : Kept s.ephSee := .ite h h.changed

theorem Kept.loopGo (h : Kept s) : Kept s.loopGo := .ite (.foldl (fun _ _ ht => .ite (ht.receive _ _) ht) h) h

theorem Kept.tick (h : Kept s) : Kept s.tick := .ite h.changed h.changed.tickCk.tickTime.ephSee.look.loopGo

/-! ## Every command -/

/-- Every command leaves a kept state. -/
theorem Kept.exec (h : Kept s) (c : Instr) : KeptOut (exec c s) := by
  cases c with
  | nop => exact .ite (h.issue _ _ _ _ _ (fun _ ht => ht.retire _)).out h.out
  | endProg => exact (h.issue _ _ _ _ _ (fun _ ht => (ht.retire _).updSlot _ _)).out
  | jmp => exact (h.issue _ _ _ _ _ (fun _ ht => ht.retireTo _ _)).out
  | loop => exact (h.issue _ _ _ _ _ (fun _ ht => .ite ((ht.updSlot _ _).retire _) ((ht.updSlot _ _).retireTo _ _))).out
  | add => exact (h.aluInstr _ _ _).out
  | sub => exact (h.aluInstr _ _ _).out
  | mul => exact (h.aluInstr _ _ _).out
  | and => exact (h.aluInstr _ _ _).out
  | or => exact (h.aluInstr _ _ _).out
  | xor => exact (h.aluInstr _ _ _).out
  | shl => exact (h.aluInstr _ _ _).out
  | shr => exact (h.aluInstr _ _ _).out
  | sra => exact (h.aluInstr _ _ _).out
  | minu => exact (h.aluInstr _ _ _).out
  | maxu => exact (h.aluInstr _ _ _).out
  | li => exact (h.issueReg _ _ _ _ _).out
  | cmp => exact (h.issueReg _ _ _ _ _).out
  | plog => exact (h.issueReg _ _ _ _ _).out
  | gets => exact (h.issueReg _ _ _ _ _).out
  | tcopy => exact (h.issueReg _ _ _ _ _).out
  | tbase => exact (h.issueReg _ _ _ _ _).out
  | tadd => exact (h.issueReg _ _ _ _ _).out
  | text => exact (h.issueReg _ _ _ _ _).out
  | tstr => exact (h.issueReg _ _ _ _ _).out
  | tattr => exact (h.issueReg _ _ _ _ _).out
  | copy => exact (h.issue _ _ _ _ _ (fun _ ht => ht.issueTensor _ _ _ _ _ _ _ _ _)).out
  | convert => exact (h.issue _ _ _ _ _ (fun _ ht => ht.issueTensor _ _ _ _ _ _ _ _ _)).out
  | fill => exact (h.issue _ _ _ _ _ (fun _ ht => ht.issueTensor _ _ _ _ _ _ _ _ _)).out
  | red => exact (h.issue _ _ _ _ _ (fun _ ht => ht.issueTensor _ _ _ _ _ _ _ _ _)).out
  | scale => exact (h.issue _ _ _ _ _ (fun _ ht => ht.issueTensor _ _ _ _ _ _ _ _ _)).out
  | quant => exact (h.issue _ _ _ _ _ (fun _ ht => .ite (ht.issueTensor _ _ _ _ _ _ _ _ _)
    (ht.issueTensor _ _ _ _ _ _ _ _ _))).out
  | put => exact (h.issue _ _ _ _ _ (fun _ ht => ht.issueWin _ _ _)).out
  | get => exact (h.issue _ _ _ _ _ (fun _ ht => ht.issueWin _ _ _)).out
  | send => exact (h.issue _ _ _ _ _ (fun _ ht => (ht.issueMsg _ _ _ _ _).startSegs _)).out
  | recv => exact (h.issue _ _ _ _ _ (fun _ ht => .ite ((ht.issueMsg _ _ _ _ _).postWaiting.bump _)
    (ht.issueMsg _ _ _ _ _).postWaiting)).out
  | mput => exact (h.issue _ _ _ _ _ (fun _ ht => ht.issueWin _ _ _)).out
  | putacc => exact (h.issue _ _ _ _ _ (fun _ ht => ht.issueWin _ _ _)).out
  | sadd => exact keptOut_execSadd h _ _
  | ssub => exact keptOut_execSsub h _ _
  | sset => exact keptOut_execSset h _ _
  | sread => exact (h.issue _ _ _ _ _ (fun _ ht => ht.semRead _ _ _)).out
  | fence => exact (h.issue _ _ _ _ _ (fun _ ht => .ite (ht.retire _) (ht.updSlot _ _))).out
  | wait => exact (h.issue _ _ _ _ _ (fun _ ht => ht.waitGo _ _ _ _)).out
  | twait => exact (h.issue _ _ _ _ _ (fun _ ht => .ite ((ht.bump _).retire _) (ht.updSlot _ _))).out
  | tilewait => exact keptOut_execTilewait h _ _
  | mark => exact (h.issue _ _ _ _ _ (fun _ ht => ((ht.updSlot _ _).traceMark _).retire _)).out
  | segmentComplete => exact keptOut_execSegmentComplete h _
  | operationComplete => exact keptOut_execOperationComplete h _
  | waitTimeout => exact .ite (h.timeoutNow _).out h.out
  | twaitRelease => exact .ite (h.twaitRelease _).out h.out
  | programComplete => exact .ite (h.programComplete _).out h.out
  | pageResponse => exact .ite (h.pageResponse _ _ _).out h.out
  | atsTranslationResponse => exact .ite (h.atsAnswer _ _).out h.out
  | atsInvalidation => exact .ite (h.invalidate _ _ _ _ _).out h.out
  | invalidationComplete => exact .ite (h.invalDone _).out h.out
  | slotStop => exact (h.mapWrite _ _ _ (fun _ ht => .ite (ht.writtenStop _) ht)).out
  | imemFlush => exact (h.mapWrite _ _ _ (fun _ ht => ht.cluCtrl _ _)).out
  | nebulaPass => exact .ite (h.nebulaPass _ _).out h.out
  | residueInject => exact (h.mapWrite _ _ _ (fun _ ht => ht.injectWrite _)).out
  | cellSet => exact keptOut_execCellSet h _ _ _ _
  | cellAdd => exact keptOut_execCellAdd h _ _ _ _
  | cellSubtract => exact keptOut_execCellSubtract h _ _ _ _
  | cellRead => exact .ite ((h.tlp _ _).cellRead _ _ _ _).out h.out
  | semZero => exact (h.mapWrite _ _ _ (fun _ ht => ht.semZeroWrite _)).out
  | pageZeroComplete => exact keptOut_execPageZeroComplete h
  | semBarWrite => exact (h.mapWrite _ _ _ (fun _ ht => ht.semBarSet _ _)).out
  | doorbell => exact .ite ((h.tlp _ _).doorbell _ _ _ _).out h.out
  | descriptorFetchReturn => exact .ite (h.fetchReturn _ _ _).out h.out
  | descriptorReread => exact .ite (h.reread _ _ _).out h.out
  | ringRepoll => exact .ite (h.repoll _).out h.out
  | descriptorDispatch => exact keptOut_execDescriptorDispatch h
  | programLaunch => exact .ite (h.programLaunch _).out h.out
  | imageCheck => exact .ite (h.imageCheck _).out h.out
  | descriptorPublish => exact keptOut_execDescriptorPublish h _ _ _ _
  | irqHoldoffExpiry => exact .ite (h.irqExpiry _).out h.out
  | ringConfigure => exact (h.ringCmd _ _ (fun _ _ ht => ht.ringConfigure _ _)).out
  | ringRead => exact (h.ringCmd _ _ (fun _ _ ht => ht.ringRead _ _)).out
  | ringAbort => exact (h.ringCmd _ _ (fun _ _ ht => ht.ringAbort _ _)).out
  | ringResetIndices => exact (h.ringCmd _ _ (fun _ _ ht => ht.ringReset _ _)).out
  | faultQueueConsWrite => exact (Kept.ite (h.viewWrite _ _ _ (fun _ ht => ht.consWrite _ _)) h).out
  | messageCreate => exact .ite (h.messageCreate _).out h.out
  | packetRelease => exact .ite (h.packetRelease _ _).out h.out
  | cipherPacketDone => exact keptOut_execCipherPacketDone h _
  | writePacket => exact keptOut_execWritePacket h _
  | writeAccPacket => exact keptOut_execWriteAccPacket h _ _
  | sendPacket => exact keptOut_execSendPacket h _
  | readReq => exact (h.receiveTyped _ _ _).out
  | readResp => exact (h.receiveTyped _ _ _).out
  | semPacket => exact keptOut_execSemPacket h _
  | ack => exact keptOut_execAck h _
  | nack => exact (h.receiveTyped _ _ _).out
  | ackDelayExpiry => exact .ite (h.ackDelay _ _).out h.out
  | retxTimerExpiry => exact .ite (h.retxExpiry _).out h.out
  | lifetimeExpiry => exact .ite (h.lifeExpiry _).out h.out
  | busyResend => exact .ite (h.busyResend _ _).out h.out
  | recordRetentionExpiry => exact keptOut_execRecordRetentionExpiry h _ _
  | rateIncrease => exact .ite (h.rateUp _).out h.out
  | contextFetchComplete => exact .ite (h.ctxFetched _ _).out h.out
  | windowEntryFetchComplete => exact .ite (h.winFetched _ _).out h.out
  | writeAcknowledged => exact keptOut_execWriteAcknowledged h _ _
  | memoryReadReturn => exact keptOut_execMemoryReadReturn h _
  | ctxCreate => exact (h.ctxCmd _ _ (fun _ _ ht => ht.ctxCreate _ _)).out
  | ctxModify => exact (h.ctxCmd _ _ (fun _ _ ht => ht.ctxModify _ _)).out
  | ctxDestroy => exact (h.ctxCmd _ _ (fun _ _ ht => ht.ctxDestroy _)).out
  | ctxRead => exact (h.ctxCmd _ _ (fun _ _ ht => ht.ctxRead _ _)).out
  | xptCommit => exact (h.mapWrite _ _ _ (fun _ ht => .ite (ht.xptCommit _) ht)).out
  | windowOpen => exact (h.winCmd _ _ (fun _ _ ht => ht.winOpen _ _)).out
  | windowRevokeCmd => exact keptOut_execWindowRevokeCmd h _ _
  | windowRead => exact (h.winCmd _ _ (fun _ _ ht => ht.winRead _ _)).out
  | frameReceive => exact .ite (h.frameReceive _ _ _).out h.out
  | frameTransmit => exact .ite (h.frameTransmit _ _).out h.out
  | pfcFrame => exact .ite (h.pfcFrame _ _ _ _).out h.out
  | pfcPauseExpiry => exact .ite (h.pfcExpiry _ _ _).out h.out
  | pfcRefresh => exact .ite (h.pfcRefresh _ _ _).out h.out
  | dataFrame => exact .ite (h.dataFrame _ _ _).out h.out
  | ctrlFrame => exact .ite (h.ctrlFrame _ _ _).out h.out
  | replayFrame => exact .ite (h.replayFrame _ _ _).out h.out
  | initFrame => exact .ite h.out (h.initFrame _ _ _).out
  | ctrlFrameTimer => exact .ite (h.ctrlTimer _ _).out h.out
  | replayTimerExpiry => exact .ite (h.replayTimer _ _).out h.out
  | linkDown => exact .ite (h.linkDown _ _ _).out h.out
  | linkUp => exact .ite h.out (h.linkUp _).awake.out
  | portRetry => exact .ite (h.portRetry _).out h.out
  | adminUpWrite => exact (h.mapWrite _ _ _ (fun _ ht => ht.macCtrl _ _)).out
  | fabCommit => exact (h.mapWrite _ _ _ (fun _ ht => ht.fabCommitWrite _)).out
  | mcEntryWrite => exact (h.mapWrite _ _ _ (fun _ ht => ht.mcWrite)).out
  | mcEntryLoad => exact (h.mapWrite _ _ _ (fun _ ht => ht.mcLoad)).out
  | rawTxProdWrite => exact (h.mapWrite _ _ _ (fun _ ht => ht.tqProdWrite _ _)).out
  | statCounterRead => exact .ite ((h.tlp _ _).statRead _ _ _ _).out h.out
  | managementQuery => exact .ite (h.mgmtQuery _ _ _).out h.out
  | managementAnswer => exact .ite ((h.relayBack _ _ _).takeAnswer _ _ _).out h.out
  | peerQueryTimeout => exact .ite (h.unresponsive _).out h.out
  | pioTrigger => exact ((Kept.ite (h.tlp _ _) h).pioWrite _ _ _ _).out
  | apertureAccess => exact keptOut_execApertureAccess h _ _
  | backInvalidateResponse => exact .ite (h.lineBack _ _).out h.out
  | hostPortReset => exact .ite h.hostReset.out h.out
  | vfReset => exact .ite (h.vfReset _).out h.out
  | claim => exact (h.ownWrite _ _ (fun _ ht => ht.claim _ _)).out
  | renew => exact (h.ownWrite _ _ (fun _ ht => ht.renew _)).out
  | release => exact (h.ownWrite _ _ (fun _ ht => ht.release_ _)).out
  | handover => exact (h.ownWrite _ _ (fun _ ht => ht.handover _ _)).out
  | leaseExpiry => exact .ite (h.setFld _ _ _ _).out h.out
  | mctpRead => exact .ite h.out (.ite (h.emit _).out ((h.mctpGet _).emit _).out)
  | mctpWrite => exact .ite h.out (.ite (h.emit _).out (.ite ((h.ownWrite _ _ (fun _ ht => ht.ownOp _ _)).emit _).out
    ((h.mapWrite _ _ _ (fun _ ht => ht.regWrite _ _ _)).emit _).out))
  | instanceCreate => exact (h.mapWrite _ _ _ (fun _ ht => ht.instCreateOp)).out
  | instanceDestroy => exact (h.mapWrite _ _ _ (fun _ ht => ht.instDestroyOp)).out
  | instanceRead => exact (h.mapWrite _ _ _ (fun _ ht => ht.instReadOp)).out
  | instanceQuery => exact (h.mapWrite _ _ _ (fun _ ht => ht.instQueryOp)).out
  | memCommit => exact (h.mapWrite _ _ _ (fun _ ht => ht.memCommitWrite _)).out
  | rawWrite => exact (h.mapWrite _ _ _ (fun _ ht => ht.rawWriteOp)).out
  | rawRead => exact (h.mapWrite _ _ _ (fun _ ht => ht.rawReadOp)).out
  | decodedRead => exact (h.mapWrite _ _ _ (fun _ ht => ht.decodedReadOp)).out
  | patrolScrub => exact .ite h.out (.ite (h.scrubWord _).changed.out ((h.scrubWord _).changed.bump _).out)
  | sramScrub => exact .ite (h.sramDecoded _ _).out h.out
  | coldReset => exact .ite (h.cold _ _ _).out (.fault _)
  | warmRstN => exact .ite h.out (h.warm _ _).out
  | warmResetCommand => exact (h.mapWrite _ _ _ (fun _ ht => ht.resetWrite _ _)).out
  | startupTestDone => exact .ite (h.testDone _).out h.out
  | trainWindowExpiry => exact .ite h.closeWindow.awake.out h.out
  | profileDecision => exact .ite h.decide_.out h.out
  | memoryInitDone => exact .ite h.memReady.out h.out
  | firmwareLoad => exact (h.mapWrite _ _ _ (fun _ ht => ht.fwLoad _ _)).out
  | beginStream => exact (h.mapWrite _ _ _ (fun _ ht => ht.beginStream)).out
  | fwDataWrite => exact (h.mapWrite _ _ _ (fun _ ht => ht.streamWord _)).out
  | endStream => exact (h.mapWrite _ _ _ (fun _ ht => ht.endStream)).out
  | driverAttach => exact (h.mapWrite _ _ _ (fun _ ht => ht.attachDriver)).out
  | firmwareAuthenticate => exact .ite h.wakeAuth.out (.ite h.fwAuth.out h.out)
  | commitSecurityVersion => exact (h.mapWrite _ _ _ (fun _ ht => ht.commitSvn)).out
  | revokeKey0 => exact (h.mapWrite _ _ _ (fun _ ht => ht.revoke0)).out
  | revokeKey1 => exact (h.mapWrite _ _ _ (fun _ ht => ht.revoke1)).out
  | loadClear => exact (h.mapWrite _ _ _ (fun _ ht => ht.loadClear _)).out
  | loadWrapped => exact (h.mapWrite _ _ _ (fun _ ht => ht.loadWrapped _ _)).out
  | erase => exact (h.mapWrite _ _ _ (fun _ ht => ht.keyErase)).out
  | query => exact (h.mapWrite _ _ _ (fun _ ht => ht.keyQuery)).out
  | hold => exact (h.mapWrite _ _ _ (fun _ ht => ht.holdCore)).out
  | save => exact (h.mapWrite _ _ _ (fun _ ht => ht.saveCore)).out
  | restore => exact (h.mapWrite _ _ _ (fun _ ht => ht.restoreCore)).out
  | releaseCore => exact (h.mapWrite _ _ _ (fun _ ht => ht.releaseCore)).out
  | clearCtxEnWrite => exact (h.mapWrite _ _ _ (fun _ ht => ht.clearCtx _)).out
  | getVersion => exact (h.spdm _ _).out
  | getCapabilities => exact (h.spdm _ _).out
  | negotiateAlgorithms => exact (h.spdm _ _).out
  | getDigests => exact (h.spdm _ _).out
  | getCertificate => exact (h.spdm _ _).out
  | challenge => exact (h.spdm _ _).out
  | getMeasurements => exact (h.spdm _ _).out
  | timeSet => exact (h.mapWrite _ _ _ (fun _ ht => ht.stepTo _)).out
  | timeAdj => exact (h.mapWrite _ _ _ (fun _ ht => ht.stepTo _)).out
  | timeServoIn => exact (h.mapWrite _ _ _ (fun _ ht => .ite (ht.timeSample _) ht)).out
  | ptpOffsetSample => exact .ite (h.timeSample _).out h.out
  | ppsInEdge => exact .ite h.ppsEdge.out h.out
  | sampleLossTimeout => exact .ite (h.timeGo _).out h.out
  | timeCtrlWrite => exact (h.mapWrite _ _ _ (fun _ ht => ht.timeCtrl _)).out
  | ppsOutPulse => exact .ite (h.emit _).out h.out
  | ephemerisCommit => exact (h.mapWrite _ _ _ (fun _ ht => ht.ephCommit _)).out
  | ephemerisActivate => exact .ite h.ephSwap.out h.out
  | bankCopyComplete => exact .ite h.ephCopy.out h.out
  | slotMiss => exact .ite (h.slotMiss _ _).out h.out
  | cappingTick => exact .ite (h.capTick _).out h.out
  | thermalTick => exact .ite h.out (.ite h.trip.out (.ite (h.thermTick _).out h.out))
  | twilightEnter => exact (h.mapWrite _ _ _ (fun _ ht => ht.twiRequest)).out
  | twilightExit => exact (h.mapWrite _ _ _ (fun _ ht => ht.wake)).out
  | wakeN => exact .ite h.out h.wake.out
  | twilightEntryComplete => exact .ite h.twiDone.out h.out
  | tallyApportion => exact h.changed.out
  | tallyRecordClose => exact h.changed.out
  | tlyCalChange => exact .ite h.changed.out h.out
  | tallyPowerOn => exact h.changed.out
  | hangDetect => exact keptOut_execHangDetect h _
  | zenithHeartbeat => exact .ite h.changed.out h.out
  | declare => exact (h.mapWrite _ _ _ (fun _ ht => ht.nwDeclare)).out
  | dumpComplete => exact .ite h.dumped.out h.out
  | graphBuild => exact .ite h.graphDone.out h.out
  | resume => exact (h.mapWrite _ _ _ (fun _ ht => ht.nwResume)).out
  | abort => exact (h.mapWrite _ _ _ (fun _ ht => ht.nwAbort)).out
  | histogramSample => exact .ite h.out (Kept.foldl (fun _ _ ht => ht.histOne _) h).changed.out
  | cometStagingDrain => exact keptOut_execCometStagingDrain h
  | registerWrite => exact keptOut_execRegisterWrite h _ _ _ _ _
  | faultQueueEnable => exact (Kept.ite (h.viewWrite _ _ _ (fun _ ht => ht.fqControl _ _)) h).out
  | ref10mInPresenceChange => exact .ite h.changed.out h.out
  | blockLockChange => exact .ite (h.lockChange _ _ _).out h.out
  | attachLinkDown => exact .ite (h.attachDown _).out h.out
  | configurationSpaceWrite => exact .ite (h.cfgWrite _).out h.out
  | jtagInstructionLoad => exact h.changed.out

/-! ## The statements -/

/-- Settles O58: the clock and every command keep what `Kept` says, and taking a command from the queue changes neither
stores nor bounded numbers. -/
theorem stepKeepsInvariant : Obligations.StepKeepsInvariant := by
  unfold Obligations.StepKeepsInvariant
  intro s t hstores hbounds hstep
  have h : Kept s := ⟨hstores, hbounds⟩
  unfold step at hstep
  split at hstep
  · exact h.tick.out t hstep
  · exact h.changed.exec _ t hstep

/-- Settles O59: after reset the stores list nothing, the next message is number 1, and no page is being zeroed or requested. -/
theorem resetInvariants : Obligations.ResetInvariants :=
  ⟨⟨rfl, rfl, rfl, rfl, rfl, rfl, rfl⟩, ⟨(by decide : (1 : MsgId) ≠ 0), (by decide : 0 < 4), nofun, (by decide : 0 ≤ 64), nofun⟩,
    rfl, rfl⟩

end Sys2Proof.Proofs
end

section
/-!
PROOF. The send engine (R210, R218, R220, R224, R226, R228): look-up and change of sender records, the release of a packet in clear,
and the creation of a message.
-/

namespace Sys2Proof.Proofs

open Sys2Proof.Machine Sys2Proof.Laws Sys2Proof.Claims

/-! ## Sender records -/

/-- A change of the record that a message ID names changes what a look-up of it finds. -/
theorem srec?_updSrec (s : State) (m : MsgId) (f : SRec → SRec) (hf : ∀ x, (f x).msg = x.msg) :
    (s.updSrec m f).srec? m = (s.srec? m).map f := by
  have hkey : ((fun x : SRec => decide (x.msg = m)) ∘ fun x => if x.msg = m then f x else x)
      = fun x => decide (x.msg = m) := by
    funext x
    by_cases hx : x.msg = m <;> simp [hx, hf]
  rw [State.srec?, State.updSrec, List.find?_map, hkey]
  cases hfind : s.srecs.find? (fun x => decide (x.msg = m)) with
  | none => simp [State.srec?, hfind]
  | some x =>
    have hx : x.msg = m := by simpa using List.find?_some hfind
    simp [State.srec?, hfind, hx]

theorem msg_of_srec? {s : State} {m : MsgId} {r : SRec} (h : s.srec? m = some r) : r.msg = m := by
  simpa using List.find?_some h

/-- One packet of record `x` was sent and its timer runs. -/
def SentBy (e : Option Resend) (r x : SRec) : Prop :=
  x.timer.isSome = true ∧ x.acked = r.acked
    ∧ (e = none → x.sent = (if r.typ = 4 then r.last + 1 else r.sent + 1) ∧ x.again = r.again)
    ∧ (∀ y, e = some y → x.sent = r.sent ∧ x.again = r.again.erase y)

theorem reg_countSent (s : State) (e : Option Resend) :
    (s.countSent e).reg (Reg.XPT_CNT 0) = s.reg (Reg.XPT_CNT 0) + 1 := by
  unfold State.countSent
  rcases e with _ | ⟨_, _ | _ | _, _, _⟩ <;> simp [reg_bump, Reg.XPT_CNT]

theorem countSent_frame (s : State) (e : Option Resend) :
    (s.countSent e).out = s.out ∧ (s.countSent e).loop = s.loop ∧ (s.countSent e).srecs = s.srecs := by
  unfold State.countSent
  rcases e with _ | ⟨_, _ | _ | _, _, _⟩ <;> exact ⟨rfl, rfl, rfl⟩

theorem countBypass_frame (s : State) (r : SRec) (dst : AdapterId) : (s.countBypass r dst).out = s.out
    ∧ (s.countBypass r dst).loop = s.loop ∧ (s.countBypass r dst).srecs = s.srecs := by
  unfold State.countBypass
  split
  · split <;> exact ⟨rfl, rfl, rfl⟩
  · exact ⟨rfl, rfl, rfl⟩

theorem reg_countBypass (s : State) (r : SRec) (dst : AdapterId) :
    (s.countBypass r dst).reg (Reg.XPT_CNT 0) = s.reg (Reg.XPT_CNT 0) := by
  unfold State.countBypass
  split
  · split
    · rfl
    · rw [reg_bump, if_neg]
      simp only [Reg.XPT_CNT, Reg.TIME_EPH_GRP_BYPASS]
      omega
  · rfl

/-- The record of a packet that was sent, before its timer starts. -/
theorem srec?_countSent (s : State) {r : SRec} (hr : s.srec? r.msg = some r) (idx : Nat) (e : Option Resend)
    (plane : Option Nat) :
    ((s.countSent e).updSrec r.msg (fun x => x.sentOne idx e plane)).srec? r.msg = some (r.sentOne idx e plane) := by
  obtain ⟨-, -, hsrecs⟩ := countSent_frame s e
  have hfind : (s.countSent e).srec? r.msg = some r := by rw [State.srec?, hsrecs]; exact hr
  exact (srec?_updSrec _ _ _ (by intro; rfl)).trans (congrArg _ hfind)

theorem sentBy_sentOne (r : SRec) (idx : Nat) (e : Option Resend) (plane : Option Nat) (timer : Option Nat)
    (ht : timer.isSome = true) : SentBy e r { r.sentOne idx e plane with timer := timer } := by
  refine ⟨ht, rfl, ?_, ?_⟩
  · rintro rfl
    exact ⟨rfl, rfl⟩
  · rintro y rfl
    exact ⟨rfl, rfl⟩

/-- The state in which a released packet leaves: it is counted, its record holds it, and the record's timer runs. -/
def sentState (s : State) (r : SRec) (idx : Nat) (e : Option Resend) (plane : Option Nat) : State :=
  let s1 := (s.countSent e).updSrec r.msg (fun x => x.sentOne idx e plane)
  if r.timer.isNone then s1.restartTimer r.msg else s1

theorem sentState_frame (s : State) (r : SRec) (idx : Nat) (e : Option Resend) (plane : Option Nat) :
    (sentState s r idx e plane).out = s.out ∧ (sentState s r idx e plane).loop = s.loop
      ∧ (sentState s r idx e plane).reg (Reg.XPT_CNT 0) = s.reg (Reg.XPT_CNT 0) + 1 := by
  obtain ⟨hout, hloop, -⟩ := countSent_frame s e
  unfold sentState
  extract_lets s1
  split <;> exact ⟨hout, hloop, reg_countSent s e⟩

theorem srec?_sentState (s : State) {r : SRec} (hr : s.srec? r.msg = some r) (idx : Nat) (e : Option Resend)
    (plane : Option Nat) : ∃ x, (sentState s r idx e plane).srec? r.msg = some x ∧ SentBy e r x := by
  have hsent := srec?_countSent s hr idx e plane
  unfold sentState
  extract_lets s1
  split
  · exact ⟨_, (srec?_updSrec s1 r.msg _ (by intro; rfl)).trans (congrArg _ hsent), sentBy_sentOne r idx e plane _ rfl⟩
  next ht => exact ⟨_, hsent, sentBy_sentOne r idx e plane r.timer (by simpa [Option.isSome_iff_ne_none] using ht)⟩

/-- A packet in clear goes to its plane or the loopback (R220). -/
theorem releaseOn_clear (s : State) {r : SRec} (hkey : r.key = none) (idx : Nat) (e : Option Resend) (p : Packet)
    (plane : Option Nat) :
    s.releaseOn r idx e p [plane] = (sentState s r idx e plane).toPlane plane r.tc.toNat p := by
  simp only [State.releaseOn, List.head?_cons, Option.join_some, List.foldl_cons, List.foldl_nil, State.send, hkey, sentState]

/-- What the release of a packet of message `m` leaves: `out` and `loop` are what left. -/
def Released (s t : State) (m : MsgId) (r : SRec) (e : Option Resend) (out : List Emission) (loop : List Rx) : Prop :=
  ∃ x, t.out = s.out ++ out ∧ t.loop = s.loop ++ loop ∧ Counts s t (Reg.XPT_CNT 0) 1 ∧ t.srec? m = some x ∧ SentBy e r x

theorem released_loop (s : State) {r : SRec} (hr : s.srec? r.msg = some r) (hkey : r.key = none) (idx : Nat)
    (e : Option Resend) (p : Packet) :
    Released s (s.releaseOn r idx e p [none]) r.msg r e [] [looped p r.tc.toNat] := by
  obtain ⟨x, hx, hsent⟩ := srec?_sentState s hr idx e none
  obtain ⟨hout, hloop, hreg⟩ := sentState_frame s r idx e none
  rw [releaseOn_clear s hkey]
  generalize sentState s r idx e none = u at *
  exact ⟨x, hout.trans (List.append_nil _).symm, congrArg (· ++ [looped p r.tc.toNat]) hloop, hreg, hx, hsent⟩

theorem released_plane (s : State) {r : SRec} (hr : s.srec? r.msg = some r) (hkey : r.key = none) (idx : Nat)
    (e : Option Resend) (p : Packet) (i : Nat) :
    Released s (s.releaseOn r idx e p [some i]) r.msg r e [.packet i p] [] := by
  obtain ⟨x, hx, hsent⟩ := srec?_sentState s hr idx e (some i)
  obtain ⟨hout, hloop, hreg⟩ := sentState_frame s r idx e (some i)
  rw [releaseOn_clear s hkey]
  generalize sentState s r idx e (some i) = u at *
  exact ⟨x, (emit_out u _).trans (congrArg (· ++ [Emission.packet i p]) hout),
    hloop.trans (List.append_nil _).symm, hreg, hx, hsent⟩

/-- The conditions of R220 under which a packet of record `r` may be released: it is one in clear to one adapter. -/
structure Releasable (s : State) (m : MsgId) (idx : Nat) (r : SRec) (e : Option Resend) : Prop where
  found : s.srec? m = some r
  next : r.nextPacket idx = some e
  clear : r.key = none
  single : (r.mcast && e.isNone) = false
  again : e.isSome = true → s.mayRetx r.birth = true

/-- The adapter that the packet goes to. -/
def destination (r : SRec) (e : Option Resend) : AdapterId := match e with | some x => x.dst | none => r.dst

section Releases

variable {s : State} {m : MsgId} {idx : Nat} {r : SRec} {e : Option Resend} (h : Releasable s m idx r e)

include h

theorem packetRelease_loop (hloop : s.hop (destination r e) = .loop) :
    s.packetRelease m idx = s.releaseOn r idx e (s.packetOf r idx e.isSome (destination r e) false) [none] := by
  have hretx : ¬ (e.isSome = true ∧ (!s.mayRetx r.birth) = true) := fun ⟨hs, hno⟩ => by simp [h.again hs] at hno
  unfold State.packetRelease
  simp only [h.found, h.next, h.clear, h.single]
  rw [if_neg hretx, if_neg (by simp), if_pos ⟨rfl, hloop⟩]
  rfl

theorem packetRelease_plane (hloop : s.hop (destination r e) ≠ .loop)
    (hrate : r.urgent = true ∨
      tokenCost (s.frameLen (s.packetOf r idx e.isSome (destination r e) false)) ≤ s.tokens (s.ctx r.srcCtx))
    (heph : s.ephOpen r (destination r e) = true) {i : Nat} {wrr : Tab Int}
    (hpick : s.pickPlane r idx e.isSome (s.routePlanes (destination r e)) = some (i, wrr))
    (hfits : s.egressFits i (s.frameLen (s.packetOf r idx e.isSome (destination r e) false)) = true) :
    let p := s.packetOf r idx e.isSome (destination r e) false
    let s1 := (s.spend r.srcCtx (s.frameLen p)).updCtx r.srcCtx (fun x => { x with wrr := wrr })
    s.packetRelease m idx = (s1.countBypass r (destination r e)).releaseOn r idx e p [some i] := by
  have hretx : ¬ (e.isSome = true ∧ (!s.mayRetx r.birth) = true) := fun ⟨hs, hno⟩ => by simp [h.again hs] at hno
  intro p s1
  unfold State.packetRelease
  simp only [h.found, h.next, h.clear, h.single]
  rw [if_neg hretx, if_neg (by simp), if_neg (fun hl => hloop hl.2)]
  cases e <;>
  · simp only [destination] at hrate heph hpick hfits
    have hgo := (Bool.or_eq_true _ _).mpr (hrate.imp id decide_eq_true)
    simp only [hgo, heph, State.packetPlanes, State.copies, hpick, hfits, Bool.not_true, Bool.false_eq_true, false_and,
      or_self, if_false, List.all_cons, List.all_nil, Bool.and_self, List.map_cons, List.map_nil]
    rfl

theorem releases_loop (hloop : s.hop (destination r e) = .loop) :
    Released s (s.packetRelease m idx) m r e [] [looped (s.packetOf r idx e.isSome (destination r e) false) r.tc.toNat] := by
  have hmsg := msg_of_srec? h.found
  rw [packetRelease_loop h hloop, ← hmsg]
  exact released_loop s (hmsg ▸ h.found) h.clear idx e _

theorem releases_plane (hloop : s.hop (destination r e) ≠ .loop)
    (hrate : r.urgent = true ∨
      tokenCost (s.frameLen (s.packetOf r idx e.isSome (destination r e) false)) ≤ s.tokens (s.ctx r.srcCtx))
    (heph : s.ephOpen r (destination r e) = true) {i : Nat} {wrr : Tab Int}
    (hpick : s.pickPlane r idx e.isSome (s.routePlanes (destination r e)) = some (i, wrr))
    (hfits : s.egressFits i (s.frameLen (s.packetOf r idx e.isSome (destination r e) false)) = true) :
    Released s (s.packetRelease m idx) m r e [.packet i (s.packetOf r idx e.isSome (destination r e) false)] [] := by
  have hmsg := msg_of_srec? h.found
  have hgoes := packetRelease_plane h hloop hrate heph hpick hfits
  dsimp only at hgoes
  generalize hp : s.packetOf r idx e.isSome (destination r e) false = p at *
  generalize hs1 : (s.spend r.srcCtx (s.frameLen p)).updCtx r.srcCtx (fun x => { x with wrr := wrr }) = s1 at *
  obtain ⟨hout, hloops, hsrecs⟩ := countBypass_frame s1 r (destination r e)
  have hreg := reg_countBypass s1 r (destination r e)
  generalize s1.countBypass r (destination r e) = u at *
  have hfound : u.srec? r.msg = some r := by
    rw [State.srec?, hsrecs, ← hs1, hmsg]
    exact h.found
  obtain ⟨x, hxout, hxloop, hxreg, hx, hsent⟩ := released_plane u hfound h.clear idx e p i
  rw [hgoes]
  refine ⟨x, ?_, ?_, ?_, ?_, hsent⟩
  · rw [hxout, hout, ← hs1]; rfl
  · rw [hxloop, hloops, ← hs1]; rfl
  · rw [Counts, hxreg, hreg, ← hs1]; rfl
  · rw [← hmsg]; exact hx

end Releases

theorem packetsReleased : PacketsReleased := by
  intro s m idx r e halive hr he hkey hmcast hretx
  have hone : (r.mcast && e.isNone) = false := by
    rcases hmcast with h | h
    · simp [h]
    · cases e <;> simp_all
  have h : Releasable s m idx.toNat r e := ⟨hr, he, hkey, hone, hretx⟩
  intro dst p sent
  have hexec : exec (.packetRelease m idx) s = .next (s.packetRelease m idx.toNat) := if_pos halive
  have hsent : ∀ out loop, Released s (s.packetRelease m idx.toNat) m r e out loop → sent out loop := by
    rintro out loop ⟨x, hout, hloop, hreg, hx, htimer, hacked, hnew, hagain⟩
    exact ⟨_, x, hexec, hout, hloop, hreg, hx, htimer, hacked, hnew, hagain⟩
  refine ⟨fun hloop => hsent _ _ (releases_loop h hloop), fun hloop hrate heph i wrr hpick hfits => ?_⟩
  exact hsent _ _ (releases_plane h hloop hrate heph hpick hfits)

/-! ## Creation of messages -/

theorem useCtx_cases (s : State) (c : BitVec 20) :
    s.useCtx c = s ∨ ∃ x : Ctx, s.useCtx c = { s.setCtx c x with fresh := s.fresh + 1 } := by
  unfold State.useCtx
  split
  · exact .inr ⟨_, rfl⟩
  · exact .inl rfl

/-- The tracker that `newRecord` puts in takes the place of the one that its key named. -/
theorem find?_trackersBut (s : State) (c : BitVec 20) (mcast : Bool) (dst : AdapterId) (dctx : BitVec 20) (m : MsgId) :
    ((s.trackersBut c mcast dst dctx ++ [⟨c, mcast, dst, dctx, m⟩] : List Tracker).find?
      (fun t => t.ctx = c ∧ t.mcast = mcast ∧ t.dst = dst ∧ t.dstCtx = dctx)) = some ⟨c, mcast, dst, dctx, m⟩ := by
  have hnone : (s.trackersBut c mcast dst dctx).find?
      (fun t => t.ctx = c ∧ t.mcast = mcast ∧ t.dst = dst ∧ t.dstCtx = dctx) = none := by
    rw [List.find?_eq_none]
    intro x hx
    simp only [State.trackersBut, List.mem_filter] at hx
    simpa [Bool.and_eq_true, and_assoc, imp_iff_not_or, or_assoc] using hx.2
  rw [List.find?_append, hnone]
  simp

/-- A message that the send engine can create gets its record (R218, R224). -/
theorem messageCreate_creates {s : State} {id : Nat} {r : TxReq} {f : MsgForm}
    (hq : s.txq.find? (fun q => q.id = id) = some r) (h : Creatable s r f) :
    s.messageCreate id
      = s.newRecord r f (if f.typ = 1 ∨ f.typ = 2 then s.ownKey (winId f.tgtA) r.inst else none) := by
  obtain ⟨hon, hturn, hform, hctx, hres, hkey, hroom, htable, htracker⟩ := h
  have hgood : (if f.typ = 1 ∨ f.typ = 2 then s.ownKey (winId f.tgtA) r.inst else none).bind s.keyRefusal = none := by
    split
    next hw =>
      cases hk : s.ownKey (winId f.tgtA) r.inst with
      | none => rfl
      | some k => exact hkey k hw hk
    · rfl
  have hsend : s.sendRoom = true := by
    rw [State.sendRoom, recordTable, decide_eq_true hroom, decide_eq_true htable]
    rfl
  have htrack : ¬ ((s.ctx r.srcCtx).ordered = true ∧ (s.tracker? r.srcCtx f.mcast r.dst r.dstCtx).isNone = true
      ∧ 16384 ≤ s.trackers.length) := by
    rintro ⟨hord, hnone, hfull⟩
    rcases htracker with h | h | h
    · simp [h] at hord
    · simp [Option.isNone_iff_eq_none.mp hnone] at h
    · omega
  unfold State.messageCreate
  simp only [hq, hon, hturn, hform, hctx, hres, hgood, hsend, htrack, Bool.not_true, Bool.false_eq_true, or_self, if_false]

/-- What the creation of a message of request `r` and form `f` leaves (R210, R218, R224). -/
def CreatedBy (s t : State) (r : TxReq) (f : MsgForm) : Prop :=
  (∃ x, t.srecs = s.srecs ++ [x] ∧ x.msg = s.nextMsg ∧ x.birth = s.now
      ∧ x.src = r.src ∧ x.typ = f.typ ∧ x.dst = r.dst ∧ x.srcCtx = r.srcCtx ∧ x.dstCtx = r.dstCtx ∧ x.sent = 0 ∧ x.status = none)
    ∧ t.nextMsg = nextMsgId s.nextMsg ∧ t.msgCount = s.msgCount + 1 ∧ t.txq = s.txq.filter (fun x => x.id ≠ r.id)
    ∧ t.trackers = (if (s.ctx r.srcCtx).ordered then
        s.trackersBut r.srcCtx f.mcast r.dst r.dstCtx ++ [⟨r.srcCtx, f.mcast, r.dst, r.dstCtx, s.nextMsg⟩] else s.trackers)
    ∧ t.regs = s.regs ∧ SameStores s t ∧ t.ops = s.ops ∧ t.slots = s.slots ∧ t.rrecs = s.rrecs

theorem newRecord_creates (s : State) (r : TxReq) (f : MsgForm) (key : Option Nat)
    (hmembers : f.mcast = true → s.mcMembers r.dst.toNat ≠ 0) : CreatedBy s (s.newRecord r f key) r f := by
  unfold State.newRecord
  extract_lets c m x ts s1 s2
  have hsome : ¬ (f.mcast = true ∧ x.members = 0) := by
    rintro ⟨hm, hx⟩
    exact hmembers hm (by simpa [x, hm] using hx)
  rw [if_neg hsome]
  have hs1 : CreatedBy s s1 r f :=
    ⟨⟨x, rfl, rfl, rfl, rfl, rfl, rfl, rfl, rfl, rfl, rfl⟩, rfl, rfl, rfl, rfl, rfl, ⟨rfl, rfl, rfl, rfl, rfl⟩, rfl, rfl, rfl⟩
  clear_value s1
  obtain h | ⟨y, h⟩ := useCtx_cases s1 r.srcCtx
  · rw [show s2 = s1 from h]; exact hs1
  · rw [show s2 = _ from h]; exact hs1

theorem messagesCreated : MessagesCreated := by
  intro s id r f halive hq
  have hid : r.id = id := by simpa using List.find?_some hq
  have hexec : exec (.messageCreate id) s = .next (s.messageCreate id) := if_pos halive
  refine ⟨fun hwait => ?_, fun hc hmembers => ?_⟩
  · have hstay : (!s.flag Reg.XPT_CTRL 0) = true ∨ (!s.inTurn r) = true := hwait.imp (by simp [·]) (by simp [·])
    rw [hexec, State.messageCreate, hq]
    exact congrArg _ (if_pos hstay)
  · obtain ⟨⟨x, hsrecs, hmsg, hbirth, hsrc, htyp, hdst, hsctx, hdctx, hsent, hstatus⟩, hnext, hcount, htxq, htrackers, hframe⟩ :=
      newRecord_creates s r f (if f.typ = 1 ∨ f.typ = 2 then s.ownKey (winId f.tgtA) r.inst else none) hmembers
    rw [← messageCreate_creates hq hc] at *
    refine ⟨_, x, hexec, hsrecs, hmsg, hbirth, hsrc, htyp, hdst, hsctx, hdctx, hsent, hstatus, hnext, hcount, ?_, ?_, hframe⟩
    · intro q
      rw [htxq, hid]
      simp
    · intro hord
      rw [if_pos hord] at htrackers
      exact ⟨_, by rw [State.tracker?, htrackers]; exact find?_trackersBut .., rfl⟩

/-- Settles O24: the record that a message gets, and what the release of each of its packets leaves. -/
theorem sendEngine : Obligations.SendEngine := ⟨messagesCreated, packetsReleased⟩

end Sys2Proof.Proofs
end

section
/-!
PROOF. Arrivals (R213), part 1 of 4: what messages that end and operations that complete leave as it is. `Settles` is one relation
between the states before and after; each function of the model that belongs here has its lemma.
-/

namespace Sys2Proof.Proofs

open Sys2Proof.Machine Sys2Proof.Laws Sys2Proof.Claims

/-! ## The relations -/

/-- Counts of arrivals and ends, which only the step that counts them changes. -/
def arrivalCounts : List Nat := [Reg.XPT_CNT 1, Reg.XPT_CNT 17, Reg.XPT_CNT 21]

/-- The same with the counts of placed packets. -/
def placedCounts : List Nat := Reg.WIN_CNT 0 :: Reg.WIN_CNT 1 :: arrivalCounts

/-- The record names the same message and holds at least the packets of the other. -/
structure Grows (r x : RRec) : Prop where
  src : x.src = r.src
  msg : x.msg = r.msg
  got : ∀ i, r.got.testBit i = true → x.got.testBit i = true

/-- From `s` to `t` packets go on towards their places: parked ones wait on, new ones park for translations only; windows stay
in the cache, and records keep what they hold. -/
structure Onward (s t : State) : Prop where
  parked : ∃ l, t.parked = s.parked ++ l ∧ ∀ q ∈ l, ∃ ks, q.why = .xlat ks
  cached : ∀ w, (t.win w).cached = (s.win w).cached
  counts : ∀ a ∈ arrivalCounts, t.reg a = s.reg a
  rrec : ∀ src m r, s.rrec? src m = some r → ∃ x, t.rrec? src m = some x ∧ Grows r x

/-- From `s` to `t` parked packets, the windows in the cache, sender records and the counts stay, and receive records keep what
they hold. -/
structure KeepsRecords (s t : State) : Prop where
  parked : t.parked = s.parked
  cached : ∀ w, (t.win w).cached = (s.win w).cached
  counts : ∀ a ∈ placedCounts, t.reg a = s.reg a
  srecs : t.srecs = s.srecs
  rrecs : List.Forall₂ Grows s.rrecs t.rrecs

/-- The same of messages that end and operations that complete, which leave the memories as they are. -/
structure Settles (s t : State) : Prop extends KeepsRecords s t where
  mem : t.mem = s.mem
  tmem : t.tmem = s.tmem
  nbuf : t.nbuf = s.nbuf

theorem Grows.refl (r : RRec) : Grows r r := ⟨rfl, rfl, fun _ h => h⟩

theorem Grows.trans {r x y : RRec} (h : Grows r x) (k : Grows x y) : Grows r y :=
  ⟨k.src.trans h.src, k.msg.trans h.msg, fun i hi => k.got i (h.got i hi)⟩

theorem forall₂_grows_refl (l : List RRec) : List.Forall₂ Grows l l := List.forall₂_same.mpr fun r _ => Grows.refl r

theorem forall₂_grows_trans {a b c : List RRec} (h : List.Forall₂ Grows a b) (k : List.Forall₂ Grows b c) :
    List.Forall₂ Grows a c := by
  induction h generalizing c with
  | nil => exact k
  | cons hx _ ih =>
    cases k with
    | cons ky k => exact .cons (hx.trans ky) (ih k)

variable {s₀ s t : State}

theorem KeepsRecords.refl (s : State) : KeepsRecords s s :=
  ⟨rfl, fun _ => rfl, fun _ _ => rfl, rfl, forall₂_grows_refl _⟩

theorem Settles.refl (s : State) : Settles s s := ⟨.refl s, rfl, rfl, rfl⟩

theorem KeepsRecords.trans {u : State} (h : KeepsRecords s t) (k : KeepsRecords t u) : KeepsRecords s u :=
  ⟨k.parked.trans h.parked, fun w => (k.cached w).trans (h.cached w), fun a ha => (k.counts a ha).trans (h.counts a ha),
    k.srecs.trans h.srecs, forall₂_grows_trans h.rrecs k.rrecs⟩

theorem Settles.trans {u : State} (h : Settles s t) (k : Settles t u) : Settles s u :=
  ⟨h.toKeepsRecords.trans k.toKeepsRecords, k.mem.trans h.mem, k.tmem.trans h.tmem, k.nbuf.trans h.nbuf⟩

/-- A change of other fields. -/
theorem Settles.changed (h : Settles s₀ s)
    {x0 x1 x2 x3 x4 x5 x6 x7 x8 x9 x10 x11 x12 x13 x14 x15 x16 x17 x18 x19 x20 x21 x22 x23 x24 x25 x26 x27 x28 x29 x30
    x31 x32 x33 x34 x35 x36 x37 x38 x39 x40 x41 x42 x43 x44 x45 x46 x47 x48 x49 x50 x51 x52 x53 x54 x55 x56 x57 x58 x59
    x60 x61 x62 x63 x64 x65 x66 x67 x68 x69 x70 x71 x72 x73 x74 x75 : _} :
    Settles s₀ { s with
      pending := x0, free := x1, out := x2, fresh := x3, ps := x4, ck := x5, shadow := x6, ownRes := x7, leaseAt := x8,
      raw := x9, pio := x10, slots := x11, images := x12, ops := x13, jobs := x14, arrSeq := x15, armed := x16, laneMap
      := x17, reads := x18, writes := x19, atc := x20, xlating := x21, pages := x22, priStop := x23, invals := x24, sems
      := x25, poison := x26, zeroing := x27, semHeld := x28, rings := x29, sched := x30, fqs := x31, ctxs := x32, txq :=
      x33, trackers := x34, loop := x35, nextMsg := x36, msgCount := x37, debt := x38, debtAt := x39, lifeOld := x40,
      posted := x41, insts := x42, fns := x43, vfEn := x44, numVfs := x45, priAlloc := x46, cxlMem := x47, msixTab :=
      x48, msixPend := x49, filter := x50, freeing := x51, mcs := x52, split := x53, subs := x54, ingress := x55, fwdWrr
      := x56, time := x57, ephRows := x58, ephLive := x59, ephCopyAt := x60, keys := x61, cores := x62, cipherQ := x63,
      wraps := x64, boot := x65, fuses := x66, saved := x67, wakeHeld := x68, tripped := x69, capOk := x70, scrub :=
      x71, tally := x72, comet := x73, night := x74, jtag := x75 } :=
  h.trans ⟨⟨rfl, fun _ => rfl, fun _ _ => rfl, rfl, forall₂_grows_refl _⟩, rfl, rfl, rfl⟩

theorem Settles.ite {c : Prop} [Decidable c] {u : State} (hs : Settles s₀ s) (hu : Settles s₀ u) :
    Settles s₀ (if c then s else u) := by
  split <;> assumption

theorem Settles.ite_snd {α : Type} {c : Prop} [Decidable c] {a b : α × State} (ha : Settles s₀ a.2) (hb : Settles s₀ b.2) :
    Settles s₀ (if c then a else b).2 := by
  split <;> assumption

theorem Settles.foldlOf {α β : Type} (st : β → State) {f : β → α → β} {l : List α} {b : β}
    (hf : ∀ b x, Settles s₀ (st b) → Settles s₀ (st (f b x))) (hb : Settles s₀ (st b)) : Settles s₀ (st (l.foldl f b)) :=
  List.foldlRecOn (motive := fun b => Settles s₀ (st b)) l f hb fun b h x _ => hf b x h

theorem Settles.foldl {α : Type} {f : State → α → State} {l : List α} (hf : ∀ t x, Settles s₀ t → Settles s₀ (f t x))
    (h : Settles s₀ s) : Settles s₀ (l.foldl f s) := .foldlOf id hf h

/-! ## Registers, windows and records -/

theorem notPlaced_below {a : Nat} (ha : a < 0x0D0100) : a ∉ placedCounts := by
  simp [placedCounts, arrivalCounts, Reg.XPT_CNT, Reg.WIN_CNT]
  omega

theorem notPlaced_above {a : Nat} (ha : 0x0E0110 ≤ a) : a ∉ placedCounts := by
  simp [placedCounts, arrivalCounts, Reg.XPT_CNT, Reg.WIN_CNT]
  omega

theorem Settles.setReg (h : Settles s₀ s) {a : Nat} (ha : a ∉ placedCounts) (v : Word) : Settles s₀ (s.setReg a v) := by
  refine h.trans ⟨⟨rfl, fun _ => rfl, fun b hb => ?_, rfl, forall₂_grows_refl _⟩, rfl, rfl, rfl⟩
  rw [reg_setReg, if_neg fun e : b = a => ha (e ▸ hb)]

theorem Settles.setFld (h : Settles s₀ s) {a : Nat} (ha : a ∉ placedCounts) (lo w v : Nat) :
    Settles s₀ (s.setFld a lo w v) := h.setReg ha _

theorem Settles.count (h : Settles s₀ s) {a : Nat} (ha : a ∉ placedCounts) (n : Nat) : Settles s₀ (s.count a n) := h.setReg ha _

theorem Settles.bump (h : Settles s₀ s) {a : Nat} (ha : a ∉ placedCounts) : Settles s₀ (s.bump a) := h.count ha _

theorem Settles.setWin (h : Settles s₀ s) (w : Nat) (x : Win) (hx : x.cached = (s.win w).cached) :
    Settles s₀ (s.setWin w x) := by
  refine h.trans ⟨⟨rfl, fun v => ?_, fun _ _ => rfl, rfl, forall₂_grows_refl _⟩, rfl, rfl, rfl⟩
  rw [win_setWin]
  split
  next e => rw [hx, e]
  · rfl

theorem Settles.updWin (h : Settles s₀ s) (w : Nat) {f : Win → Win} (hf : ∀ x, (f x).cached = x.cached) :
    Settles s₀ (s.updWin w f) := h.setWin _ _ (hf _)

theorem Settles.updRrec (h : Settles s₀ s) (src : AdapterId) (m : MsgId) {f : RRec → RRec} (hf : ∀ r, Grows r (f r)) :
    Settles s₀ (s.updRrec src m f) := by
  refine h.trans ⟨⟨rfl, fun _ => rfl, fun _ _ => rfl, rfl, ?_⟩, rfl, rfl, rfl⟩
  rw [State.updRrec, List.forall₂_map_right_iff]
  refine List.forall₂_same.mpr fun r _ => ?_
  split
  · exact hf r
  · exact .refl r

/-- An update of a record keeps what names it and what it holds. -/
theorem Settles.updRrecKeys (h : Settles s₀ s) (src : AdapterId) (m : MsgId) {f : RRec → RRec}
    (hf : ∀ r, (f r).src = r.src ∧ (f r).msg = r.msg ∧ (f r).got = r.got) : Settles s₀ (s.updRrec src m f) :=
  h.updRrec src m fun r => by
    obtain ⟨hsrc, hmsg, hgot⟩ := hf r
    exact ⟨hsrc, hmsg, fun i hi => hgot ▸ hi⟩

theorem forall₂_find? {l l' : List RRec} (h : List.Forall₂ Grows l l') (src : AdapterId) (m : MsgId) :
    Option.Rel Grows (l.find? fun r => r.src = src ∧ r.msg = m) (l'.find? fun r => r.src = src ∧ r.msg = m) := by
  induction h with
  | nil => exact .none
  | @cons r x l l' hx _ ih =>
    rw [List.find?_cons, List.find?_cons, hx.src, hx.msg]
    split
    · exact .some hx
    · exact ih

theorem KeepsRecords.rrec?_some (h : KeepsRecords s t) {src : AdapterId} {m : MsgId} {r : RRec} (hr : s.rrec? src m = some r) :
    ∃ x, t.rrec? src m = some x ∧ Grows r x := by
  have hrel := forall₂_find? h.rrecs src m
  rw [State.rrec?] at hr
  rw [hr] at hrel
  cases hx : t.rrec? src m with
  | none => rw [State.rrec?] at hx; rw [hx] at hrel; cases hrel
  | some x =>
    rw [State.rrec?] at hx
    rw [hx] at hrel
    cases hrel with
    | some hg => exact ⟨x, rfl, hg⟩

theorem KeepsRecords.rrec?_none (h : KeepsRecords s t) {src : AdapterId} {m : MsgId} (hr : s.rrec? src m = none) :
    t.rrec? src m = none := by
  have hrel := forall₂_find? h.rrecs src m
  rw [State.rrec?] at hr
  rw [hr] at hrel
  rw [State.rrec?]
  cases hx : t.rrecs.find? (fun r => decide (r.src = src ∧ r.msg = m)) with
  | none => rfl
  | some x => rw [hx] at hrel; cases hrel

theorem placedCounts_of_arrivalCounts {a : Nat} (ha : a ∈ arrivalCounts) : a ∈ placedCounts := by
  rw [placedCounts]
  exact List.mem_cons_of_mem _ (List.mem_cons_of_mem _ ha)

theorem KeepsRecords.onward (h : KeepsRecords s t) : Onward s t where
  parked := ⟨[], h.parked.trans (List.append_nil _).symm, fun q hq => absurd hq List.not_mem_nil⟩
  cached := h.cached
  counts a ha := h.counts a (placedCounts_of_arrivalCounts ha)
  rrec := fun src m r hr => by
    obtain ⟨x, hx, hg⟩ := h.rrec?_some hr
    exact ⟨x, hx, hg⟩

/-! ## Operations and messages that end -/

/-! ### Translation and fault queues -/

theorem Settles.takeFree (h : Settles s₀ s) : Settles s₀ s.takeFree.2 := h.changed

theorem Settles.touch (h : Settles s₀ s) (k : XKey) : Settles s₀ (s.touch k) := by
  unfold State.touch
  split
  · exact h
  · exact h.changed

theorem Settles.emit (h : Settles s₀ s) (e : Emission) : Settles s₀ (s.emit e) := h.changed

theorem Settles.emits (h : Settles s₀ s) (es : List Emission) : Settles s₀ (s.emits es) := .foldl (fun _ _ ht => ht.emit _) h

theorem Settles.askAts (h : Settles s₀ s) (k : XKey) : Settles s₀ (s.askAts k) := .ite h (h.changed.emit _)

theorem Settles.lookupCount (h : Settles s₀ s) (k : XKey) (write : Bool) : Settles s₀ (s.lookupCount k write).2 := by
  unfold State.lookupCount
  split
  · exact (h.bump (by decide)).askAts _
  · exact (h.bump (by decide)).touch _

theorem Settles.engineReach (h : Settles s₀ s) (p : Port) (i : BitVec 8) (va : Word) (n : Nat) (write : Bool) :
    Settles s₀ (s.engineReach p i va n write).2 := by
  unfold State.engineReach
  split
  · exact h
  · exact .foldlOf Prod.snd (fun _ _ hb => hb.lookupCount _ _) h

theorem Settles.msix (h : Settles s₀ s) (fn : BitVec 8) (v : Nat) :
    Settles s₀ (s.msix fn v) := .ite h (.ite h.changed (h.emit _))

theorem Settles.setFq (h : Settles s₀ s) (q : Nat) (f : FaultQ) : Settles s₀ (s.setFq q f) := h.changed

theorem Settles.fqIrq (h : Settles s₀ s) (q : Nat) :
    Settles s₀ (s.fqIrq q) := .ite h (.ite ((h.setFq _ _).msix _ _) (h.setFq _ _))

theorem notPlaced_faultQueue {a q : Nat} (hq : q ≤ 256) (ha : a ≤ Reg.RING_FQ_OVF1 q) : a ∉ placedCounts :=
  notPlaced_below (by unfold Reg.RING_FQ_OVF1 at ha; omega)

theorem Settles.fqPut (h : Settles s₀ s) {q : Nat} (hq : q ≤ 256) (r : FaultRec) : Settles s₀ (s.fqPut q r) := by
  have hprod : Reg.RING_FQ_PROD q ∉ placedCounts :=
    notPlaced_faultQueue hq (by unfold Reg.RING_FQ_PROD Reg.RING_FQ_OVF1; omega)
  exact (((h.emit _).setFld hprod _ _ _).bump (by decide)).fqIrq _

theorem Settles.fqLose (h : Settles s₀ s) {q : Nat} (hq : q ≤ 256) (cls : Nat) : Settles s₀ (s.fqLose q cls) := by
  have hovf : (if cls < 4 then Reg.RING_FQ_OVF0 q else Reg.RING_FQ_OVF1 q) ∉ placedCounts :=
    notPlaced_faultQueue hq (by unfold Reg.RING_FQ_OVF0 Reg.RING_FQ_OVF1; split <;> omega)
  exact ((h.setFld hovf _ _ _).setFq _ _).bump (by decide)

theorem Settles.fqReach (h : Settles s₀ s) (q : Nat) : Settles s₀ (s.fqReach q).2 := h.engineReach _ _ _ _ _

theorem Settles.fault (h : Settles s₀ s) {q : Nat} (hq : q ≤ 256) (r : FaultRec) : Settles s₀ (s.fault q r) := by
  have hctrl : Reg.RING_FQ_CTRL q ∉ placedCounts :=
    notPlaced_faultQueue hq (by unfold Reg.RING_FQ_CTRL Reg.RING_FQ_OVF1; omega)
  exact .ite (h.fqLose hq _) (.ite ((h.fqReach _).fqPut hq _) (((h.fqReach _).setFld hctrl _ _ _).fqLose hq _))

/-! ### Slots and operations -/

theorem Settles.setSlot (h : Settles s₀ s) (i : Nat) (x : Slot) : Settles s₀ (s.setSlot i x) := h.changed

theorem Settles.updSlot (h : Settles s₀ s) (i : Nat) (f : Slot → Slot) : Settles s₀ (s.updSlot i f) := h.setSlot _ _

theorem Settles.updOp (h : Settles s₀ s) (id : Nat) (f : Op → Op) : Settles s₀ (s.updOp id f) := h.changed

theorem Settles.progressed (h : Settles s₀ s) (sl : Nat) : Settles s₀ (s.progressed sl) := h.updSlot _ _

theorem Settles.stage (h : Settles s₀ s) (t : Trace) : Settles s₀ (s.stage t) := .ite h.changed (h.changed.bump (by decide))

theorem Settles.traceOp (h : Settles s₀ s) (o : Op) (event : Nat) (st : Status) (w3 : Nat) :
    Settles s₀ (s.traceOp o event st w3) :=
  .ite (h.stage _) h

theorem Settles.tagCount (h : Settles s₀ s) (filters : BitVec 8) (k n : Nat) : Settles s₀ (s.tagCount filters k n) :=
  .foldl (fun _ _ ht => .ite (ht.count (notPlaced_above (by unfold Reg.DBG_TAG_CNT; omega)) _) ht) h

theorem Settles.record (h : Settles s₀ s) (r : FaultRec) : Settles s₀ (s.record r) :=
  (h.fault (by have := r.inst.isLt; omega) _).tagCount _ _ _

theorem Settles.slotFault (h : Settles s₀ s) (sl : Nat) (r : FaultRec) : Settles s₀ (s.slotFault sl r) := h.updSlot _ _

theorem Settles.stopSlot (h : Settles s₀ s) (sl : Nat) : Settles s₀ (s.stopSlot sl) := (h.updSlot _ _).changed

theorem Settles.retireTo (h : Settles s₀ s) (sl pc : Nat) : Settles s₀ (s.retireTo sl pc) :=
  ((h.updSlot _ _).progressed _).bump (notPlaced_above (by unfold Reg.DBG_CNT; omega))

theorem Settles.retire (h : Settles s₀ s) (sl : Nat) : Settles s₀ (s.retire sl) := h.retireTo _ _

/-! ### Ports, contexts and page requests -/

theorem Settles.setSub (h : Settles s₀ s) (n k : Nat) (x : Sub) : Settles s₀ (s.setSub n k x) := h.changed

theorem Settles.updSub (h : Settles s₀ s) (n k : Nat) (f : Sub → Sub) : Settles s₀ (s.updSub n k f) := h.setSub _ _ _

theorem Settles.enqueue (h : Settles s₀ s) (i : Nat) (f : EgFrame) : Settles s₀ (s.enqueue i f) := h.updSub _ _ _

theorem Settles.toPlane (h : Settles s₀ s) (plane : Option Nat) (tc : Nat) (p : Packet) :
    Settles s₀ (s.toPlane plane tc p) := by
  unfold State.toPlane
  split
  · exact h.changed
  · exact (h.emit _).enqueue _ _

theorem Settles.sendCtl (h : Settles s₀ s) (ctx : BitVec 20) (tc : Nat) (p : Packet) : Settles s₀ (s.sendCtl ctx tc p) := by
  unfold State.sendCtl
  refine .ite ?_ ?_
  · exact h.toPlane _ _ _
  · dsimp only
    split
    · exact h
    · exact (Settles.ite h.changed h).toPlane _ _ _

theorem Settles.setCtx (h : Settles s₀ s) (c : BitVec 20) (x : Ctx) : Settles s₀ (s.setCtx c x) := h.changed

theorem Settles.updCtx (h : Settles s₀ s) (c : BitVec 20) (f : Ctx → Ctx) : Settles s₀ (s.updCtx c f) := h.setCtx _ _

theorem Settles.useCtx (h : Settles s₀ s) (c : BitVec 20) : Settles s₀ (s.useCtx c) :=
  .ite (h.updCtx c fun x => { x with used := s.fresh }).changed h

theorem Settles.sendPage (h : Settles s₀ s) (id : Nat) : Settles s₀ (s.sendPage id) := by
  unfold State.sendPage
  split
  · exact h
  · exact .ite ((h.changed.emit _).bump (by decide)) h

/-! ### Semaphores -/

theorem Settles.semWake (h : Settles s₀ s) (id : BitVec 16) : Settles s₀ (s.semWake id) := by
  unfold State.semWake
  refine .foldl (fun _ _ ht => ?_) h
  split
  · exact .ite (ht.retire _) ht
  · exact ht

theorem Settles.barArrive (h : Settles s₀ s) (id : BitVec 16) : Settles s₀ (s.barArrive id) := by
  have hbar : barReg id ∉ placedCounts := notPlaced_above (by unfold barReg Reg.SEM_BAR; omega)
  exact .ite ((h.setFld hbar _ _ _).setFld hbar _ _ _) (h.setFld hbar _ _ _)

theorem Settles.putSem (h : Settles s₀ s) (i : BitVec 16) (v : Word) : Settles s₀ (s.putSem i v) := h.changed

theorem Settles.putSat (h : Settles s₀ s) (id : BitVec 16) (r : Word × Bool) : Settles s₀ (s.putSat id r) :=
  .ite ((h.putSem _ _).bump (by decide)) (h.putSem _ _)

theorem Settles.semEffect (h : Settles s₀ s) (id : BitVec 16) (a : SemAct) : Settles s₀ (s.semEffect id a) := by
  unfold State.semEffect
  split
  · exact .ite (.ite h (h.barArrive _)) (h.putSat _ _)
  · exact .ite h (h.putSat _ _)
  · exact .ite h (h.putSem _ _)
  · exact h
  · exact h

theorem Settles.semApply (h : Settles s₀ s) (i : BitVec 16) (a : SemAct) : Settles s₀ (s.semApply i a).2.2 := by
  unfold State.semApply
  by_cases hpoison : s.semPoisoned i
  · rw [if_pos hpoison]
    exact h
  · rw [if_neg hpoison]
    dsimp only
    exact ((h.bump (by decide)).semEffect _ _).semWake _

theorem Settles.holdSem (h : Settles s₀ s) (id : BitVec 16) (a : SemAct) (src : SemSrc) :
    Settles s₀ (s.holdSem id a src) := h.changed

theorem Settles.semSignal (h : Settles s₀ s) (inst : BitVec 8) (id : BitVec 16) : Settles s₀ (s.semSignal inst id).2 := by
  unfold State.semSignal
  split
  · exact h.holdSem _ _ _
  · exact h.semApply _ _

/-! ### Windows -/

theorem Settles.useWin (h : Settles s₀ s) (w : Nat) : Settles s₀ (s.useWin w) :=
  (h.updWin (f := fun x => { x with used := s.fresh }) w fun _ => rfl).changed

theorem Settles.revokeDone (h : Settles s₀ s) (w : Nat) : Settles s₀ (s.revokeDone w) := by
  unfold State.revokeDone
  extract_lets x y s1 s2
  have hs1 : Settles s₀ s1 := (h.setWin w y rfl).bump (by decide)
  have hs2 : Settles s₀ s2 := by
    dsimp only [s2]
    split
    · exact .ite (hs1.semSignal _ _) hs1
    · exact hs1
  refine .ite h ?_
  split
  · exact hs2
  · exact hs2.changed

theorem Settles.winLeave (h : Settles s₀ s) (w : Option Nat) : Settles s₀ (s.winLeave w) := by
  unfold State.winLeave
  split
  · exact h
  · exact (h.updWin _ (by exact fun _ => rfl)).revokeDone _

theorem Settles.countRefusal (h : Settles s₀ s) (st : Status) :
    Settles s₀ (s.countRefusal st) := .ite (h.bump (by decide)) (.ite (h.bump (by decide)) h)

/-! ### The cipher -/

theorem Settles.setCore (h : Settles s₀ s) (i : Nat) (x : Core) : Settles s₀ (s.setCore i x) := h.changed

theorem Settles.suspend (h : Settles s₀ s) (i : Nat) : Settles s₀ (s.suspend i) := by
  unfold State.suspend
  split
  · exact h
  · exact h.takeFree.setCore _ _

theorem Settles.startCore (h : Settles s₀ s) (i : Nat) (j : CJob) : Settles s₀ (s.startCore i j) := h.setCore _ _

theorem Settles.cipherPut (h : Settles s₀ s) (j : CJob) : Settles s₀ (s.cipherPut j) := by
  unfold State.cipherPut
  dsimp only
  split
  · exact h.startCore _ _
  · split
    · exact ((h.suspend _).bump (by decide)).startCore _ _
    · exact h.changed

/-! ### Segments -/

theorem Settles.updSeg (h : Settles s₀ s) (op g : Nat) (f : Seg → Seg) : Settles s₀ (s.updSeg op g f) := h.updOp _ _

theorem Settles.dropSegs (h : Settles s₀ s) (op : Nat) (p : Seg → Bool) : Settles s₀ (s.dropSegs op p) := by
  unfold State.dropSegs
  split
  · exact h
  · exact (h.updOp _ _).changed

theorem Settles.settle (h : Settles s₀ s) : Settles s₀ s.settle := by
  unfold State.settle
  refine .foldl (fun _ _ ht => ?_) h
  split
  · exact .ite (ht.retire _) ht
  · exact .ite (ht.retire _) ht
  · exact ht

theorem Settles.txAsk (h : Settles s₀ s) (src : MsgSrc) (sl : Nat) (inst : BitVec 8) (srcCtx : BitVec 20) (dst : AdapterId)
  (dstCtx : BitVec 20) (tc : BitVec 3) (urgent : Bool) (data : List Byte) (trig : List Word) :
    Settles s₀ (s.txAsk src sl inst srcCtx dst dstCtx tc urgent data trig) := h.changed

theorem Settles.askSignal (h : Settles s₀ s) (o : Op) (k : Nat) : Settles s₀ (s.askSignal o k) :=
  .ite ((h.updOp _ _).txAsk _ _ _ _ _ _ _ _ _ _) (h.updOp _ _)

theorem Settles.lastSignal (h : Settles s₀ s) (o : Op) : Settles s₀ (s.lastSignal o) := .ite (h.askSignal _ _) h

theorem Settles.countRead (h : Settles s₀ s) (o : Op) (n : Nat) : Settles s₀ (s.countRead o n) :=
  h.count (notPlaced_above (by unfold Reg.DBG_CNT; omega)) _

theorem Settles.countWrite (h : Settles s₀ s) (o : Op) (n : Nat) : Settles s₀ (s.countWrite o n) :=
  ((h.count (notPlaced_above (by unfold Reg.DBG_CNT; omega)) _).tagCount _ _ _).updOp _ _

theorem Settles.failSeg (h : Settles s₀ s) (op g : Nat) (st : Status) : Settles s₀ (s.failSeg op g st) := by
  unfold State.failSeg
  split
  · exact h.updOp _ _
  · exact (h.updOp _ _).dropSegs _ _

theorem Settles.partialNow (h : Settles s₀ s) (op : Nat) : Settles s₀ (s.partialNow op) := by
  unfold State.partialNow
  split
  · exact h
  · extract_lets port key s1 s2
    have hs1 : Settles s₀ s1 := h.changed
    exact .ite h (((hs1.record _).updSlot _ _).sendPage _)

theorem Settles.segDone (h : Settles s₀ s) (o : Op) (g : Nat) : Settles s₀ (s.segDone o g) := by
  unfold State.segDone
  split
  · exact h
  · extract_lets s1
    have hs1 : Settles s₀ s1 := (h.countWrite _ _).updSeg _ _ _
    exact .ite hs1 (.ite ((hs1.dropSegs _ _).partialNow _) (hs1.partialNow _))

theorem Settles.segLookup (h : Settles s₀ s) (ks : List (XKey × Bool)) : Settles s₀ (s.segLookup ks).2.2.2 := by
  unfold State.segLookup
  refine .foldlOf (fun b : _ × _ × _ × State => b.2.2.2) (fun _ _ hb => ?_) h
  dsimp only
  split
  · exact hb.lookupCount _ _
  · exact hb.lookupCount _ _
  · exact hb.lookupCount _ _

/-! ### Operations that complete -/

theorem Settles.opSignal (h : Settles s₀ s) (o : Op) : Settles s₀ (s.opSignal o).2 := by
  unfold State.opSignal
  split
  · exact h.semSignal _ _
  · exact h

theorem Settles.postWaiting (h : Settles s₀ s) : Settles s₀ s.postWaiting := .foldl (fun _ _ ht => .ite ht.changed ht) h

theorem Settles.operationComplete (h : Settles s₀ s) (op : Nat) : Settles s₀ (s.operationComplete op) := by
  unfold State.operationComplete
  split
  · exact h
  next o ho =>
    extract_lets r src s1 s2
    have hr : Settles s₀ r.2 := h.opSignal o
    clear_value r
    have hs1 : Settles s₀ s1 := hr.changed
    have hs2 : Settles s₀ s2 := (hs1.traceOp _ _ _ _).progressed _
    exact .ite h (Settles.ite hs2 ((hs2.slotFault _ _).stopSlot _)).settle.postWaiting

/-! ### Fenced lanes -/

theorem Settles.residue (h : Settles s₀ s) (a n per : Nat) (checked : Bool) (upset : Mismatch) :
    Settles s₀ (s.residue a n per checked upset).2 := by
  unfold State.residue
  dsimp only
  split
  · exact .ite h.changed h
  · split
    · exact (Settles.ite h.changed h).bump (by decide)
    · exact (Settles.ite h.changed h).bump (by decide)

theorem Settles.logFence (h : Settles s₀ s) (a lane : Nat) (tag : BitVec 24) (inst : BitVec 8) :
    Settles s₀ (s.logFence a lane tag inst) := .ite h (h.setReg (by decide) _)

theorem Settles.moveJob (h : Settles s₀ s) (j : Job) : Settles s₀ (s.moveJob j) := by
  unfold State.moveJob
  dsimp only
  split
  · exact h.changed.failSeg _ _ _
  · exact h.changed.changed

theorem Settles.fenceLane (h : Settles s₀ s) (a lane : Nat) (tag : BitVec 24) (inst : BitVec 8) :
    Settles s₀ (s.fenceLane a lane tag inst) := by
  unfold State.fenceLane
  extract_lets s1 n s2 k __src
  have hs1 : Settles s₀ s1 := h.logFence _ _ _ _
  have hs2 : Settles s₀ s2 := hs1.setFld (by decide) _ _ _
  have h__src : Settles s₀ __src := hs1.setFld (by decide) _ _ _
  exact .ite (.foldl (fun _ _ ht => ht.moveJob _) hs2) h__src.changed

/-! ### Messages that end -/

theorem Settles.msgEnded (h : Settles s₀ s) (src : MsgSrc) (inst : BitVec 8) (trig : List Word) (st : Status) :
    Settles s₀ (s.msgEnded src inst trig st) := by
  unfold State.msgEnded
  split
  · split
    · exact h
    · exact .ite ((Settles.ite (h.countRead _ _) h).segDone _ _).settle (h.failSeg _ _ _).settle
  · exact (h.updOp _ _).settle
  · exact (h.updOp _ _).settle
  · exact .ite (h.fault (by have := inst.isLt; omega) _) (.ite (h.semSignal _ _) h)

theorem Settles.endReq (h : Settles s₀ s) (r : TxReq) (st : Status) : Settles s₀ (s.endReq r st) := h.changed.msgEnded _ _ _ _

/-! ### Replies and publication -/

theorem Settles.nack (h : Settles s₀ s) (x : Rx) (st : Status) :
    Settles s₀ (s.nack x st) := .ite h ((h.bump (by split <;> decide)).sendCtl _ _ _)

theorem Settles.refuse (h : Settles s₀ s) (x : Rx) (st : Status) : Settles s₀ (s.refuse x st) := (h.nack _ _).sendCtl _ _ _

theorem Settles.sendAck (h : Settles s₀ s) (src : AdapterId) (m : MsgId) (fin : Bool) : Settles s₀ (s.sendAck src m fin) := by
  unfold State.sendAck
  split
  · exact h
  · exact .ite (h.updRrecKeys _ _ (by simp)) ((h.updRrecKeys _ _ (by simp)).sendCtl _ _ _)

theorem Settles.delivered (h : Settles s₀ s) (op : Nat) (st : Status) (bytes : Nat) : Settles s₀ (s.delivered op st bytes) := by
  unfold State.delivered
  extract_lets s1
  have hs1 : Settles s₀ s1 := h.changed
  split
  · exact hs1.postWaiting
  next o ho =>
    extract_lets s2
    have hs2 : Settles s₀ s2 := (hs1.countWrite _ _).updOp _ _
    exact ((Settles.ite ((hs2.traceOp _ _ _ _).lastSignal _) hs2).postWaiting.settle).operationComplete _

theorem Settles.deliverBound (h : Settles s₀ s) (r : RRec) (st : Status) : Settles s₀ (s.deliverBound r st) := by
  unfold State.deliverBound
  split
  · exact h.delivered _ _ _
  · exact h

theorem Settles.sigAdd (h : Settles s₀ s) (r : RRec) : Settles s₀ (s.sigAdd r).2 := by
  unfold State.sigAdd
  split
  · exact h
  · split
    · exact h.bump (by decide)
    · exact h.semApply _ _

theorem Settles.publishAs (h : Settles s₀ s) (r : RRec) (st : Status) : Settles s₀ (s.publishAs r st) :=
  ((Settles.ite (h.updRrecKeys _ _ (by simp)) ((h.updRrecKeys _ _ (by simp)).nack _ _)).deliverBound _ _).sendAck _ _ _

theorem Settles.publish (h : Settles s₀ s) (r : RRec) : Settles s₀ (s.publish r) :=
  .ite ((h.updRrecKeys _ _ (by simp)).holdSem _ _ _) ((h.sigAdd _).publishAs _ _)

theorem Settles.release (h : Settles s₀ s) (src : AdapterId) (m : MsgId) (x : Nat) : Settles s₀ (s.release src m x) := by
  induction x generalizing s m with
  | zero => exact h
  | succ n ih =>
    unfold State.release
    split
    · exact h
    · dsimp only
      split
      · exact .ite (ih (h.publish _) _) (h.publish _)
      · exact h.publish _

theorem Settles.rxFinish (h : Settles s₀ s) (src : AdapterId) (m : MsgId) : Settles s₀ (s.rxFinish src m) := by
  unfold State.rxFinish
  split
  · exact h
  · exact .ite h (.ite (.ite ((h.publish _).release _ _ _) (h.publish _)) ((h.updRrecKeys _ _ (by simp)).bump (by decide)))

theorem Settles.rxFlush (h : Settles s₀ s) (src : AdapterId) (m : MsgId) : Settles s₀ (s.rxFlush src m) := by
  unfold State.rxFlush
  split
  · exact .ite ((h.updRrecKeys _ _ (by simp)).emit _) h
  · exact h

theorem Settles.rxFailFinal (h : Settles s₀ s) (src : AdapterId) (m : MsgId) : Settles s₀ (s.rxFailFinal src m) := by
  unfold State.rxFailFinal
  split
  · exact h
  · exact .ite h (((h.updRrecKeys _ _ (by simp)).sendAck _ _ _).deliverBound _ _)

theorem Settles.rxFail (h : Settles s₀ s) (x : Rx) (st : Status) : Settles s₀ (s.rxFail x st) := by
  unfold State.rxFail
  extract_lets p s1 s2
  have hs1 : Settles s₀ s1 := h.nack _ _
  have hs2 : Settles s₀ s2 := (hs1.updRrecKeys _ _ (by simp)).rxFlush _ _
  split
  · exact hs1
  · exact .ite hs1 (.ite (hs1.rxFailFinal _ _) ((hs2.release _ _ _).rxFailFinal _ _))

theorem Settles.rxWriteDone (h : Settles s₀ s) (src : AdapterId) (m : MsgId) (w : Option Nat) :
    Settles s₀ (s.rxWriteDone src m w) :=
  ((((h.winLeave _).updRrecKeys _ _ (by simp)).rxFlush _ _).rxFinish _ _).rxFailFinal _ _

theorem Settles.rxWriteFail (h : Settles s₀ s) (x : Rx) (w : Option Nat) (st : Status) : Settles s₀ (s.rxWriteFail x w st) :=
  ((h.updRrecKeys _ _ (by simp)).winLeave _).rxFail _ _

/-! ### Acceptance and placement -/

/-- The record that takes a packet in holds what it held (R212). -/
theorem Settles.accept (h : Settles s₀ s) (x : Rx) (w : Option Nat) : Settles s₀ (s.accept x w) := by
  unfold State.accept
  extract_lets p every s1 s2
  have hs1 : Settles s₀ s1 := by
    refine h.updRrec _ _ fun r => ⟨rfl, rfl, fun i hi => ?_⟩
    simp [Nat.testBit_or, hi]
  have hs2 : Settles s₀ s2 := by
    dsimp only [s2]
    split
    · exact (hs1.updWin _ (by exact fun _ => rfl)).useWin _
    · exact hs1
  split
  · exact .ite (hs2.sendAck _ _ _) hs2
  · exact hs2

theorem Settles.placed (h : Settles s₀ s) (x : Rx) (failed : Bool) (n : Nat) : Settles s₀ (s.placed x failed n) :=
  .ite (h.rxWriteFail _ _ _) (.ite (h.rxWriteDone _ _ _) ((h.updRrecKeys _ _ (by simp)).rxFlush _ _))

theorem Settles.accPasses (h : Settles s₀ s) (a per x n : Nat) (upset : Mismatch) :
    Settles s₀ (s.accPasses a per x n upset).2 := by
  induction x generalizing s n upset with
  | zero => exact h
  | succ k ih =>
    unfold State.accPasses
    refine .ite_snd h ?_
    dsimp only
    split
    · exact h.residue _ _ _ _ _
    · exact ih (h.residue _ _ _ _ _) _ _

theorem pickArray_lt {a : Nat} (h : s.pickArray = some a) : a < 4 := by
  suffices hlt : ∀ b ∈ s.pickArray, b < 4 from hlt a h
  rw [State.pickArray]
  refine List.foldlRecOn (motive := fun best : Option Nat => ∀ b ∈ best, b < 4) _ _ (fun b hb => by cases hb) ?_
  intro best hbest i hi
  have hlt : i < 4 := List.mem_range.mp hi
  split
  · split
    · rintro b ⟨⟩; exact hlt
    · split
      · rintro b ⟨⟩; exact hlt
      · exact hbest
  · exact hbest

theorem Settles.accRun (h : Settles s₀ s) (p : Packet) (upset : Mismatch) (old : List Byte) :
    Settles s₀ (s.accRun p upset old).2 := by
  unfold State.accRun
  extract_lets e ctrl
  split
  next a f g ha hf hg =>
    extract_lets n r
    have hr : Settles s₀ r.2 := h.accPasses _ _ _ _ _
    have hops : Reg.NEB_CNT_OPS a ∉ placedCounts :=
      notPlaced_below (by have := pickArray_lt ha; unfold Reg.NEB_CNT_OPS; omega)
    split
    · exact .ite (hr.fenceLane _ _ _ _) hr
    · exact ((hr.count hops _).count (by decide) _).count (by decide) _
  · exact h

theorem Settles.xlatFail (h : Settles s₀ s) (x : Rx) : Settles s₀ (s.xlatFail x) := (h.bump (by decide)).rxWriteFail _ _ _

theorem Settles.authStart (h : Settles s₀ s) (x : Rx) (slot : Nat) (w : Option Nat) (upset : Mismatch) :
    Settles s₀ (s.authStart x slot w upset) := .ite (h.cipherPut _) ((h.bump (by decide)).winLeave _)

theorem Settles.winEnter (h : Settles s₀ s) (w : Nat) : Settles s₀ (s.winEnter w) :=
  (h.updWin w (by exact fun _ => rfl)).useWin _

theorem Settles.bindBuffer (h : Settles s₀ s) (x : Rx) (b : Posted) :
    Settles s₀ (s.bindBuffer x b) := (h.updRrecKeys _ _ (by simp)).changed.bump (by decide)

theorem Settles.noBuffer (h : Settles s₀ s) (x : Rx) (small : Bool) : Settles s₀ (s.noBuffer x small) :=
  (Settles.ite ((h.bump (by decide)).bump (by decide)) (h.bump (by decide))).rxFail _ _

theorem Settles.unbind (h : Settles s₀ s) (op : Nat) : Settles s₀ (s.unbind op) := by
  unfold State.unbind
  split
  · exact h
  · exact h.changed

theorem Settles.readFail (h : Settles s₀ s) (x : Rx) (st : Status) : Settles s₀ (s.readFail x st) := (h.nack _ _).winLeave _

end Sys2Proof.Proofs
end

section
/-!
PROOF. Arrivals (R213), part 2 of 4: accesses to memory, placement and the steps of a packet whose window is in the cache.
`Onward` leaves more open than `Settles`: memories change, and packets may park for translations.
-/

namespace Sys2Proof.Proofs

open Sys2Proof.Machine Sys2Proof.Laws Sys2Proof.Claims

variable {s₀ s t : State}

/-! ## Accesses to memory -/

theorem KeepsRecords.after (h : KeepsRecords s₀ s) (k : Settles s t) : KeepsRecords s₀ t := h.trans k.toKeepsRecords

/-- A change of other fields. -/
theorem KeepsRecords.changed (h : KeepsRecords s₀ s)
    {x0 x1 x2 x3 x4 x5 x6 x7 x8 x9 x10 x11 x12 x13 x14 x15 x16 x17 x18 x19 x20 x21 x22 x23 x24 x25 x26 x27 x28 x29 x30
    x31 x32 x33 x34 x35 x36 x37 x38 x39 x40 x41 x42 x43 x44 x45 x46 x47 x48 x49 x50 x51 x52 x53 x54 x55 x56 x57 x58 x59
    x60 x61 x62 x63 x64 x65 x66 x67 x68 x69 x70 x71 x72 x73 x74 x75 x76 x77 x78 : _} :
    KeepsRecords s₀ { s with
      pending := x0, free := x1, out := x2, fresh := x3, ps := x4, ck := x5, shadow := x6, ownRes := x7, leaseAt := x8,
      mem := x9, raw := x10, tmem := x11, nbuf := x12, pio := x13, slots := x14, images := x15, ops := x16, jobs := x17,
      arrSeq := x18, armed := x19, laneMap := x20, reads := x21, writes := x22, atc := x23, xlating := x24, pages :=
      x25, priStop := x26, invals := x27, sems := x28, poison := x29, zeroing := x30, semHeld := x31, rings := x32,
      sched := x33, fqs := x34, ctxs := x35, txq := x36, trackers := x37, loop := x38, nextMsg := x39, msgCount := x40,
      debt := x41, debtAt := x42, lifeOld := x43, posted := x44, insts := x45, fns := x46, vfEn := x47, numVfs := x48,
      priAlloc := x49, cxlMem := x50, msixTab := x51, msixPend := x52, filter := x53, freeing := x54, mcs := x55, split
      := x56, subs := x57, ingress := x58, fwdWrr := x59, time := x60, ephRows := x61, ephLive := x62, ephCopyAt := x63,
      keys := x64, cores := x65, cipherQ := x66, wraps := x67, boot := x68, fuses := x69, saved := x70, wakeHeld := x71,
      tripped := x72, capOk := x73, scrub := x74, tally := x75, comet := x76, night := x77, jtag := x78 } :=
  h.trans ⟨rfl, fun _ => rfl, fun _ _ => rfl, rfl, forall₂_grows_refl _⟩

theorem KeepsRecords.setReg (h : KeepsRecords s₀ s) {a : Nat} (ha : a ∉ placedCounts) (v : Word) :
    KeepsRecords s₀ (s.setReg a v) := h.after ((Settles.refl s).setReg ha v)

theorem KeepsRecords.count (h : KeepsRecords s₀ s) {a : Nat} (ha : a ∉ placedCounts) (n : Nat) :
    KeepsRecords s₀ (s.count a n) := h.setReg ha _

theorem KeepsRecords.bump (h : KeepsRecords s₀ s) {a : Nat} (ha : a ∉ placedCounts) : KeepsRecords s₀ (s.bump a) := h.count ha _

theorem KeepsRecords.emits (h : KeepsRecords s₀ s) (es : List Emission) : KeepsRecords s₀ (s.emits es) :=
  h.after ((Settles.refl s).emits es)

theorem KeepsRecords.ite {c : Prop} [Decidable c] {u : State} (hs : KeepsRecords s₀ s) (hu : KeepsRecords s₀ u) :
    KeepsRecords s₀ (if c then s else u) := by
  split <;> assumption

theorem KeepsRecords.foldlOf {α β : Type} (st : β → State) {f : β → α → β} {l : List α} {b : β}
    (hf : ∀ b x, KeepsRecords s₀ (st b) → KeepsRecords s₀ (st (f b x))) (hb : KeepsRecords s₀ (st b)) :
    KeepsRecords s₀ (st (l.foldl f b)) :=
  List.foldlRecOn (motive := fun b => KeepsRecords s₀ (st b)) l f hb fun b h x _ => hf b x h

theorem KeepsRecords.putBytes (h :
    KeepsRecords s₀ s) (a : Nat) (bs : List Byte) : KeepsRecords s₀ (s.putBytes a bs) := h.changed

theorem KeepsRecords.putWord (h : KeepsRecords s₀ s) (w : Nat) (bs : List Byte) : KeepsRecords s₀ (s.putWord w bs) :=
  (h.putBytes _ _).changed

theorem KeepsRecords.poisonWord (h : KeepsRecords s₀ s) (w : Nat) (d : BitVec 256) : KeepsRecords s₀ (s.poisonWord w d) :=
  (h.putBytes _ _).changed

theorem KeepsRecords.logUncorr (h : KeepsRecords s₀ s) (w : Nat) (inst : BitVec 8) (scrub : Bool) :
    KeepsRecords s₀ (s.logUncorr w inst scrub) := .ite h ((h.setReg (by decide) _).setReg (by decide) _)

theorem KeepsRecords.askLines (h : KeepsRecords s₀ s) (ls : List (Nat × Nat)) : KeepsRecords s₀ (s.askLines ls) :=
  (h.count (by decide) _).emits _

theorem KeepsRecords.sramRmw (h : KeepsRecords s₀ s) (a : Nat) (bs : List (Option Byte)) : KeepsRecords s₀ (s.sramRmw a bs) :=
  h.count (by decide) _

theorem KeepsRecords.countCorr (h :
    KeepsRecords s₀ s) (w : Nat) : KeepsRecords s₀ (s.countCorr w) :=
  (h.bump (by decide)).bump (notPlaced_above (by unfold Reg.MEM_CNT_CORR_M; omega))

theorem KeepsRecords.readWord (h :
    KeepsRecords s₀ s) (w : Nat) (inst : BitVec 8) (wb : Bool) : KeepsRecords s₀ (s.readWord w inst wb).2.2 := by
  unfold State.readWord
  split
  · exact h
  · exact .ite ((h.countCorr _).putWord _ _) (h.countCorr _)
  · exact (h.bump (by decide)).bump (by decide)
  · exact .ite (((h.bump (by decide)).logUncorr _ _ _).poisonWord _ _) ((h.bump (by decide)).logUncorr _ _ _)

theorem KeepsRecords.readMem (h :
    KeepsRecords s₀ s) (inst : BitVec 8) (off len : Nat) : KeepsRecords s₀ (s.readMem inst off len).2.2 := by
  unfold State.readMem
  split
  · exact h
  · exact .foldlOf (fun b : _ × _ × State => b.2.2) (fun _ _ hb => hb.readWord _ _ _) h

theorem KeepsRecords.writeWord (h :
    KeepsRecords s₀ s) (w : Nat) (inst : BitVec 8) (f : Nat → Option Byte) : KeepsRecords s₀ (s.writeWord w inst f).2 := by
  unfold State.writeWord
  split
  · exact h.putWord _ _
  · dsimp only
    split
    · exact ((h.bump (by decide)).readWord _ _ _).bump (by decide)
    · exact ((h.bump (by decide)).readWord _ _ _).putWord _ _

theorem KeepsRecords.writeMemBe (h : KeepsRecords s₀ s) (inst : BitVec 8) (off : Nat) (bs : List (Option Byte)) :
    KeepsRecords s₀ (s.writeMemBe inst off bs).2 := by
  unfold State.writeMemBe
  split
  · exact h
  · refine .foldlOf Prod.snd (fun _ _ hb => ?_) h
    dsimp only
    split
    · exact hb
    · exact hb.writeWord _ _ _

theorem KeepsRecords.writeMem (h :
    KeepsRecords s₀ s) (inst : BitVec 8) (off : Nat) (bs : List Byte) : KeepsRecords s₀ (s.writeMem inst off bs).2 :=
    h.writeMemBe _ _ _

theorem KeepsRecords.writeLoc (h : KeepsRecords s₀ s) (i : BitVec 8) (l : Loc) (bs : List Byte) :
    KeepsRecords s₀ (s.writeLoc i l bs).2 := by
  cases l with
  | mem a => exact h.writeMem i a bs
  | tmem a => exact (h.sramRmw a (bs.map some)).changed
  | nbuf a => exact (h.sramRmw a (bs.map some)).changed

theorem KeepsRecords.storeMemBe (h :
    KeepsRecords s₀ s) (inst : BitVec 8) (k : WriteKind) (a : Nat) (bs : List (Option Byte)) (skip : Option Nat) :
    KeepsRecords s₀ (s.storeMemBe inst k a bs skip).2.2 := by
  unfold State.storeMemBe
  dsimp only
  split
  · exact h.writeMemBe _ _ _
  · exact h.changed.askLines _

theorem KeepsRecords.storeMem (h :
    KeepsRecords s₀ s) (inst : BitVec 8) (k : WriteKind) (a : Nat) (bs : List Byte) (skip : Option Nat) :
    KeepsRecords s₀ (s.storeMem inst k a bs skip).2.2 := h.storeMemBe _ _ _ _ _

theorem KeepsRecords.ownStore (h :
    KeepsRecords s₀ s) (a : Nat) (bs : List Byte) : KeepsRecords s₀ (s.ownStore a bs) := h.storeMem _ _ _ _ _

theorem KeepsRecords.readLoc (h :
    KeepsRecords s₀ s) (i : BitVec 8) (l : Loc) (n : Nat) : KeepsRecords s₀ (s.readLoc i l n).2.2 := by
  unfold State.readLoc
  split
  · exact h.readMem _ _ _
  · exact h
  · exact h

theorem KeepsRecords.readRuns (h : KeepsRecords s₀ s) (i : BitVec 8) (clu space : Nat) (rs : List (Word × Nat)) :
    KeepsRecords s₀ (s.readRuns i clu space rs).2.2 :=
  .foldlOf (fun b : _ × _ × State => b.2.2) (fun _ _ hb => hb.readLoc _ _ _) h

theorem KeepsRecords.writeRuns (h : KeepsRecords s₀ s) (i : BitVec 8) (clu space : Nat) (rs : List (Word × Nat))
    (bs : List Byte) : KeepsRecords s₀ (s.writeRuns i clu space rs bs).2 := by
  unfold State.writeRuns
  exact .foldlOf (fun b : _ × _ × State => b.2.2) (fun _ _ hb => hb.writeLoc _ _ _) h

theorem KeepsRecords.storeRun (h :
    KeepsRecords s₀ s) (inst : BitVec 8) (clu space : Nat) (k : WriteKind) (a : Word) (bs : List Byte) :
    KeepsRecords s₀ (s.storeRun inst clu space k a bs).2.2 := by
  unfold State.storeRun
  split
  · exact h.storeMem _ _ _ _ _
  · exact h.writeLoc _ _ _

theorem KeepsRecords.storeRuns (h :
    KeepsRecords s₀ s) (inst : BitVec 8) (clu space : Nat) (k : WriteKind) (rs : List (Word × Nat))
  (bs : List Byte) :
    KeepsRecords s₀ (s.storeRuns inst clu space k rs bs).2.2 := by
  unfold State.storeRuns
  split
  · exact h
  · split
    · exact h.changed.emits _
    · exact .foldlOf (fun b : _ × _ × _ × State => b.2.2.2) (fun _ _ hb => hb.storeRun _ _ _ _ _ _) h

/-! ## Placement -/

theorem Onward.trans {u : State} (h : Onward s t) (k : Onward t u) : Onward s u := by
  obtain ⟨l, hl, hxl⟩ := h.parked
  obtain ⟨m, hm, hxm⟩ := k.parked
  refine ⟨⟨l ++ m, by rw [hm, hl, List.append_assoc], fun q hq => ?_⟩, fun w => (k.cached w).trans (h.cached w),
    fun a ha => (k.counts a ha).trans (h.counts a ha), fun src m r hr => ?_⟩
  · exact (List.mem_append.mp hq).elim (hxl q) (hxm q)
  · obtain ⟨x, hx, hrx⟩ := h.rrec src m r hr
    obtain ⟨y, hy, hxy⟩ := k.rrec src m x hx
    exact ⟨y, hy, hrx.trans hxy⟩

theorem Onward.after (h : Onward s₀ s) (k : KeepsRecords s t) : Onward s₀ t := h.trans k.onward

theorem Onward.settled (h : Onward s₀ s) (k : Settles s t) : Onward s₀ t := h.after k.toKeepsRecords

theorem rrec?_congr (h : t.rrecs = s.rrecs) (src : AdapterId) (m : MsgId) : t.rrec? src m = s.rrec? src m := by
  rw [State.rrec?, State.rrec?, h]

theorem Onward.ite {c : Prop} [Decidable c] {u : State} (hs : Onward s₀ s) (hu : Onward s₀ u) :
    Onward s₀ (if c then s else u) := by
  split <;> assumption

theorem Onward.setReg (h : Onward s₀ s) {a : Nat} (ha : a ∉ arrivalCounts) (v : Word) : Onward s₀ (s.setReg a v) := by
  refine h.trans ⟨⟨[], (List.append_nil _).symm, fun q hq => absurd hq List.not_mem_nil⟩, fun _ => rfl,
    fun b hb => ?_, fun src m r hr => ?_⟩
  · rw [reg_setReg, if_neg fun e : b = a => ha (e ▸ hb)]
  · exact ⟨r, (rrec?_congr rfl src m).trans hr, .refl r⟩

theorem Onward.bump (h : Onward s₀ s) {a : Nat} (ha : a ∉ arrivalCounts) : Onward s₀ (s.bump a) := h.setReg ha _

/-- A packet that waits for translations. -/
theorem Onward.parkXlat (h : Onward s₀ s) (x : Rx) (ks : List XKey) (upset : Mismatch) (ck : Nat) :
    Onward s₀ { s with parked := s.parked ++ [⟨x, .xlat ks, upset, ck⟩] } := by
  refine h.trans (t := s) ⟨⟨[⟨x, .xlat ks, upset, ck⟩], ?_, fun q hq => ⟨ks, ?_⟩⟩, fun w => ?_, fun a _ => ?_,
    fun src m r hr => ?_⟩
  · rfl
  · rw [List.mem_singleton.mp hq]
  · rfl
  · rfl
  exact ⟨r, (rrec?_congr rfl src m).trans hr, .refl r⟩

/-- A payload that was placed counts in its record. -/
theorem Onward.placedBytes (h : Onward s₀ s) (src : AdapterId) (m : MsgId) (n : Nat) :
    Onward s₀ (s.updRrec src m fun y => { y with bytes := y.bytes + n }) :=
  h.settled ((Settles.refl s).updRrecKeys src m (by exact fun _ => ⟨rfl, rfl, rfl⟩))

theorem Onward.placeWrite (h : Onward s₀ s) (x : Rx) (t : Target) : Onward s₀ (s.placeWrite x t) := by
  unfold State.placeWrite
  extract_lets p r s1
  have hr : Onward s₀ r.2.2 := h.after ((KeepsRecords.refl s).storeRuns _ _ _ _ _ _)
  have hs1 : Onward s₀ s1 := .ite hr ((Onward.ite (hr.bump (by decide)) hr).placedBytes _ _ _)
  exact hs1.settled ((Settles.refl s1).placed _ _ _)

theorem Onward.accInside (h : Onward s₀ s) (x : Rx) (t : Target) (upset : Mismatch) : Onward s₀ (s.accInside x t upset) := by
  unfold State.accInside
  extract_lets p r a
  have hr : Onward s₀ r.2.2 := h.after ((KeepsRecords.refl s).readRuns _ _ _ _)
  have ha : Onward s₀ a.2 := hr.settled ((Settles.refl _).accRun _ _ _)
  refine .ite (hr.settled ((Settles.refl _).rxWriteFail _ _ _)) ?_
  split
  · exact ha.settled ((Settles.refl _).rxWriteFail _ _ _)
  next bs hbs =>
    extract_lets w s1
    have hw : Onward s₀ w.2 := ha.after ((KeepsRecords.refl _).writeRuns _ _ _ _ _)
    have hs1 : Onward s₀ s1 := .ite hw ((hw.bump (by decide)).placedBytes _ _ _)
    exact hs1.settled ((Settles.refl s1).placed _ _ _)

theorem Settles.accNext (h : Settles s₀ s) : Settles s₀ s.accNext := by
  unfold State.accNext
  refine .ite h ?_
  split
  · exact h
  · split
    · exact h.changed.emit _
    · exact h

theorem Onward.placeAcc (h : Onward s₀ s) (x : Rx) (t : Target) (upset : Mismatch) (keys : List XKey) :
    Onward s₀ (s.placeAcc x t upset keys) :=
  .ite ((h.bump (by decide)).settled ((Settles.refl _).placed _ _ _)) (.ite (h.settled (Settles.refl s).changed.accNext)
    (.ite (h.accInside _ _ _) (h.after ((KeepsRecords.refl s).changed.askLines _))))

theorem Onward.place (h : Onward s₀ s) (x : Rx) (upset : Mismatch) (keys : List XKey) : Onward s₀ (s.place x upset keys) := by
  unfold State.place
  split
  · exact h.settled ((Settles.refl s).rxWriteDone _ _ _)
  · exact .ite (h.placeAcc _ _ _ _) (h.placeWrite _ _)

theorem Onward.translate (h : Onward s₀ s) (x : Rx) (upset : Mismatch) : Onward s₀ (s.translate x upset) := by
  unfold State.translate
  split
  · exact h.settled ((Settles.refl s).rxWriteDone _ _ _)
  next t ht =>
    extract_lets ks l
    have hl : Onward s₀ l.2.2.2 := h.settled ((Settles.refl s).segLookup ks)
    exact .ite (h.settled ((Settles.refl s).xlatFail _)) (.ite (hl.settled ((Settles.refl _).xlatFail _))
      (.ite (hl.place _ _ _) (hl.parkXlat _ _ _ _)))

/-! ## Arrival at a window -/

/-- A packet whose window is in the cache is refused, handed to the cipher, or goes to its place (R213, R238). -/
theorem Onward.rxWindow (h : Onward s₀ s) (x : Rx) (upset : Mismatch) (hc : (s.win (winId x.pkt.tgtA)).cached = true) :
    Onward s₀ (s.rxWindow x upset) := by
  unfold State.rxWindow
  extract_lets p w e
  rw [if_neg (c := (!e.cached) = true) (by rw [hc]; decide)]
  refine .ite (h.settled (((Settles.refl s).countRefusal _).rxFail _ _)) ?_
  split
  · exact h.settled (((Settles.refl s).countRefusal _).rxFail _ _)
  · exact .ite (h.settled (((Settles.refl s).bump (by decide)).rxFail _ _))
      (.ite (h.settled (((Settles.refl s).winEnter _).authStart _ _ _ _))
        ((h.settled ((Settles.refl s).accept _ _)).translate _ _))

theorem Onward.readStart (h : Onward s₀ s) (x : Rx) (keys : List XKey) : Onward s₀ (s.readStart x keys) :=
  .ite (h.settled ((Settles.refl s).winLeave _)) (h.settled (.foldl
    (fun _ _ ht => .ite (ht.changed.emit _) ht.changed) (Settles.refl s).changed))

theorem Onward.readGo (h : Onward s₀ s) (x : Rx) : Onward s₀ (s.readGo x) := by
  unfold State.readGo
  extract_lets t ks l
  have hl : Onward s₀ l.2.2.2 := h.settled ((Settles.refl s).segLookup ks)
  exact .ite (h.settled (((Settles.refl s).bump (by decide)).readFail _ _))
    (.ite (hl.settled (((Settles.refl _).bump (by decide)).readFail _ _)) (.ite (hl.readStart _ _) (hl.parkXlat _ _ _ _)))

/-- A request whose window is in the cache is refused, or starts its reads (R231, R243). -/
theorem Onward.rxRead (h : Onward s₀ s) (x : Rx) (hc : (s.win (winId x.pkt.tgtA)).cached = true) : Onward s₀ (s.rxRead x) := by
  unfold State.rxRead
  extract_lets p w e
  rw [if_neg (c := (!e.cached) = true) (by rw [hc]; decide)]
  refine .ite (h.settled (((Settles.refl s).countRefusal _).nack _ _)) ?_
  split
  · exact h.settled (((Settles.refl s).countRefusal _).nack _ _)
  · refine .ite (h.settled (((Settles.refl s).bump (by decide)).nack _ _)) ?_
    split
    · exact h.settled ((Settles.ite ((Settles.refl s).bump (by decide)) (Settles.refl s)).nack _ _)
    · exact (h.settled ((Settles.refl s).winEnter _)).readGo _

/-! ## SEND, SEM and the steps of R213 -/

theorem Onward.rxSend (h : Onward s₀ s) (x : Rx) (r : RRec) : Onward s₀ (s.rxSend x r) := by
  have hs := Settles.refl s
  unfold State.rxSend
  refine .ite (h.settled (hs.bump (by decide))) ?_
  split
  · split
    · exact .ite (h.settled (((hs.unbind _).updRrecKeys _ _ (by exact fun _ => ⟨rfl, rfl, rfl⟩)).noBuffer _ _))
        ((h.settled (hs.accept _ _)).translate _ _)
    · exact h
  · dsimp only
    split
    · exact (h.settled ((hs.bindBuffer _ _).accept _ _)).translate _ _
    · exact h.settled (hs.noBuffer _ _)

theorem Settles.rxSem (h : Settles s₀ s) (x : Rx) : Settles s₀ (s.rxSem x) :=
  .ite (h.bump (by decide)) (.ite ((h.bump (by decide)).rxFail _ _) (.ite ((h.accept _ _).holdSem _ _ _)
    (.ite ((h.semApply _ _).rxFail _ _) (((h.semApply _ _).accept _ _).rxWriteDone _ _ _))))

/-- A packet with a record, whose window is in the cache if it names one (R213). -/
theorem Onward.rxFrom8 (h : Onward s₀ s) (x : Rx) (upset : Mismatch) (hc : (s.win (winId x.pkt.tgtA)).cached = true) :
    Onward s₀ (s.rxFrom8 x upset) := by
  have hs := Settles.refl s
  unfold State.rxFrom8
  dsimp only
  split
  · exact h
  · exact .ite (h.settled ((hs.bump (by decide)).sendAck _ _ _)) (.ite (h.settled (hs.bump (by decide)))
      (.ite (h.rxSend _ _) (.ite (h.settled (hs.rxSem _)) (h.rxWindow _ _ hc))))

end Sys2Proof.Proofs
end

section
/-!
PROOF. Arrivals (R213, R358), part 3 of 4: the state in which a packet's own steps start, and adapter memory without stored
errors.
-/

namespace Sys2Proof.Proofs

open Sys2Proof.Machine Sys2Proof.Laws Sys2Proof.Claims

/-! ## The steps of R213 that every packet passes -/

/-- A state without what taking a packet in changes. -/
def exceptArrival (s : State) : State :=
  { s with ingress := [], loop := [], subs := [], out := [], tally := State.reset.tally, regs := [], ctxs := [], fresh := 0 }

/-- A context without the time of its last use. -/
def exceptUse (x : Ctx) : Ctx := { x with used := 0 }

/-- A packet has been taken from where it waited, and counted; nothing else that its type's own steps read has changed. -/
structure Arrives (s t : State) : Prop where
  frame : exceptArrival t = exceptArrival s
  ctx : ∀ c, exceptUse (t.ctx c) = exceptUse (s.ctx c)
  counted : Counts s t (Reg.XPT_CNT 1) 1
  regs : ∀ a, a ≠ Reg.FAB_CNT 4 → a ≠ Reg.XPT_CNT 1 → t.reg a = s.reg a

theorem frame_pfcFall (s : State) (n k prio : Nat) :
    exceptArrival (s.pfcFall n k prio) = exceptArrival s ∧ (s.pfcFall n k prio).ctxs = s.ctxs := by
  unfold State.pfcFall
  extract_lets x s1
  split
  · split <;> exact ⟨rfl, rfl⟩
  · exact ⟨rfl, rfl⟩

theorem regs_pfcFall (s : State) (n k prio a : Nat) (ha : a ≠ Reg.FAB_CNT 4) : (s.pfcFall n k prio).reg a = s.reg a := by
  unfold State.pfcFall
  extract_lets x s1
  split
  · split
    · exact (reg_bump _ _ _).trans (if_neg ha)
    · rfl
  · rfl

theorem takeIngress_frame (s : State) (x : Rx) :
    exceptArrival (s.takeIngress x) = exceptArrival s ∧ (s.takeIngress x).ctxs = s.ctxs := by
  unfold State.takeIngress State.inTake
  split
  · extract_lets s1
    split
    · exact ⟨rfl, rfl⟩
    · exact frame_pfcFall s1 _ _ _
  · exact ⟨rfl, rfl⟩

theorem reg_takeIngress (s : State) (x : Rx) (a : Nat) (ha : a ≠ Reg.FAB_CNT 4) : (s.takeIngress x).reg a = s.reg a := by
  unfold State.takeIngress State.inTake
  split
  · extract_lets s1
    split
    · rfl
    · exact regs_pfcFall s1 _ _ _ a ha
  · rfl

/-- The state in which the steps after the count of an arrival start (R213). -/
def arrived (s : State) (x : Rx) : State := (s.takeIngress x).bump (Reg.XPT_CNT 1)

theorem arrives_arrived (s : State) (x : Rx) : Arrives s (arrived s x) := by
  obtain ⟨hframe, hctxs⟩ := takeIngress_frame s x
  have hreg := reg_takeIngress s x
  unfold arrived
  generalize s.takeIngress x = u at *
  refine ⟨hframe, fun c => ?_, ?_, fun a hfab hxpt => ?_⟩
  · rw [State.ctx, State.ctx, bump_ctxs, hctxs]
  · rw [Counts, reg_bump, if_pos rfl, hreg _ (by decide)]
    rfl
  · rw [reg_bump, if_neg hxpt, hreg a hfab]

theorem Arrives.useCtx {s t : State} (h : Arrives s t) (c : BitVec 20) : Arrives s (t.useCtx c) := by
  unfold State.useCtx
  split
  · obtain ⟨hframe, hctx, hcounted, hregs⟩ := h
    refine ⟨hframe, fun d => ?_, hcounted, hregs⟩
    rw [← hctx d]
    change exceptUse ((t.setCtx c { t.ctx c with used := t.fresh }).ctx d) = _
    rw [ctx_setCtx]
    split
    next e => rw [e]; rfl
    · rfl
  · exact h

section Arrived

variable {s t : State} (h : Arrives s t)

include h

/-- What reads none of what taking a packet in changes. -/
theorem Arrives.field {α : Type} (f : State → α) (hf : ∀ u, f (exceptArrival u) = f u) : f t = f s := by
  rw [← hf t, h.frame, hf s]

theorem Arrives.ctxField {α : Type} (f : Ctx → α) (hf : ∀ x, f (exceptUse x) = f x) (c : BitVec 20) :
    f (t.ctx c) = f (s.ctx c) := by
  rw [← hf (t.ctx c), h.ctx c, hf (s.ctx c)]

theorem Arrives.stores : SameStores s t :=
  ⟨h.field State.mem fun _ => rfl, h.field State.tmem fun _ => rfl, h.field State.nbuf fun _ => rfl,
    h.field State.pio fun _ => rfl, h.field State.sems fun _ => rfl⟩

theorem Arrives.win (w : Nat) : t.win w = s.win w := h.field (fun u : State => u.win w) fun _ => rfl

theorem Arrives.rrecs : t.rrecs = s.rrecs := h.field State.rrecs fun _ => rfl

theorem Arrives.srecs : t.srecs = s.srecs := h.field State.srecs fun _ => rfl

theorem Arrives.rrec? (src : AdapterId) (m : MsgId) : t.rrec? src m = s.rrec? src m := rrec?_congr h.rrecs src m

theorem Arrives.srec? (m : MsgId) : t.srec? m = s.srec? m := by rw [State.srec?, State.srec?, h.srecs]

theorem Arrives.data0 (c : BitVec 20) : (t.ctx c).data0 = (s.ctx c).data0 := h.ctxField Ctx.data0 (fun _ => rfl) c

theorem Arrives.fld {a : Nat} (hfab : a ≠ Reg.FAB_CNT 4) (hxpt : a ≠ Reg.XPT_CNT 1) (lo w : Nat) :
    t.fld a lo w = s.fld a lo w := by
  rw [State.fld, State.fld, h.regs a hfab hxpt]

theorem Arrives.tooOld (x : Rx) (fresh : Bool) : t.tooOld x fresh = s.tooOld x fresh := by
  have hlife : t.lifeNs = s.lifeNs := by rw [State.lifeNs, State.lifeNs, h.fld (by decide) (by decide)]
  have hnow : t.now = s.now := h.field State.now fun _ => rfl
  have hold : t.lifeOld = s.lifeOld := h.field State.lifeOld fun _ => rfl
  have hdebt : t.debtNs = s.debtNs := h.field State.debtNs fun _ => rfl
  have haccept : t.acceptNs = s.acceptNs := by
    unfold State.acceptNs State.nowNs
    rw [hnow, hold, hlife]
  unfold State.tooOld State.ageNs
  rw [hnow, haccept, hdebt]

theorem Arrives.ctxOk (c : BitVec 20) : t.ctxOk c = s.ctxOk c := by
  have hvalid : (t.ctx c).valid = (s.ctx c).valid := h.ctxField Ctx.valid (fun _ => rfl) c
  have hcount : t.ctxCount = s.ctxCount := h.fld (by decide) (by decide) _ _
  rw [State.ctxOk, State.ctxOk, hvalid, hcount]

theorem Arrives.resident (c : BitVec 20) : (t.ctx c).resident = (s.ctx c).resident := h.ctxField Ctx.resident (fun _ => rfl) c

theorem Arrives.part (c : BitVec 20) : (t.ctx c).part = (s.ctx c).part := by rw [Ctx.part, Ctx.part, h.data0 c]

theorem Arrives.winCount : t.winCount = s.winCount := h.fld (by decide) (by decide) _ _

theorem Arrives.winCheck (p : Packet) : t.winCheck p = s.winCheck p := by
  have hinst : (t.ctx p.dstCtx).inst = (s.ctx p.dstCtx).inst := by rw [Ctx.inst, Ctx.inst, h.data0]
  simp only [State.winCheck, h.winCount, h.win, hinst]

theorem Arrives.memBytes : t.memBytes = s.memBytes := by
  rw [State.memBytes, State.memBytes, h.fld (by decide) (by decide)]

/-- Where each allocation of adapter memory lies. -/
theorem Arrives.alloc (i : BitVec 8) : t.alloc i 0 = s.alloc i 0 := by
  have hinsts : t.insts = s.insts := h.field State.insts fun _ => rfl
  by_cases hi : i = 0
  · simp only [State.alloc, if_pos hi, h.memBytes]
  · simp only [State.alloc, if_neg hi, State.range, hinsts]

theorem Arrives.winProt (e : Win) (off n : Nat) : t.winProt e off n = s.winProt e off n := by
  have hrgn : ∀ r, t.reg (Reg.MEM_RGN r) = s.reg (Reg.MEM_RGN r) := fun r =>
    h.regs _ (by unfold Reg.MEM_RGN Reg.FAB_CNT; omega) (by unfold Reg.MEM_RGN Reg.XPT_CNT; omega)
  simp only [State.winProt, State.prot, State.rgnValid, State.rgn, State.flag, State.fld, hrgn, h.alloc]

end Arrived

/-- The state in which a packet whose context is resident comes to step 6. -/
def reached (s : State) (x : Rx) : State := (arrived s x).useCtx x.pkt.dstCtx

theorem arrives_reached (s : State) (x : Rx) : Arrives s (reached s x) := (arrives_arrived s x).useCtx _

section Header

variable {s : State} {x : Rx} {t : BitVec 4} (halive : s.alive = true) (htyp : x.pkt.typ = t) (hheader : s.headerOk x = true)

include halive htyp hheader

theorem receiveTyped_request (ht : ¬ (t = 5 ∨ t = 8 ∨ t = 9)) (upset : Mismatch) :
    s.receiveTyped x t upset = (arrived s x).rxFrom3 x upset := by
  subst htyp
  rw [State.receiveTyped, if_pos ⟨halive, .inl rfl⟩, State.receive, if_neg (by simp [hheader])]
  exact if_neg ht

/-- A reply that names no sender record is counted alone (R213). -/
theorem receiveTyped_stray (ht : t = 5 ∨ t = 8 ∨ t = 9) (hnone : (arrived s x).srec? x.pkt.msg = none) (upset : Mismatch) :
    s.receiveTyped x t upset = (arrived s x).bump (Reg.XPT_CNT 7) := by
  subst htyp
  rw [State.receiveTyped, if_pos ⟨halive, .inl rfl⟩, State.receive, if_neg (by simp [hheader])]
  refine (if_pos ht).trans ?_
  rw [show ((s.takeIngress x).bump (Reg.XPT_CNT 1)).srec? x.pkt.msg = none from hnone]
  rfl

/-- A reply that names a sender record acts on it, by its type. -/
theorem receiveTyped_reply (ht : t = 5 ∨ t = 8 ∨ t = 9) {r : SRec} (hr : (arrived s x).srec? x.pkt.msg = some r)
    (upset : Mismatch) :
    s.receiveTyped x t upset =
      if t = 8 then (arrived s x).onAck r x.pkt
      else if t = 9 then (arrived s x).onNack r x.pkt
      else if r.typ ≠ 4 then (arrived s x).bump (Reg.XPT_CNT 7)
      else (arrived s x).rxFrom3 x upset := by
  subst htyp
  rw [State.receiveTyped, if_pos ⟨halive, .inl rfl⟩, State.receive, if_neg (by simp [hheader])]
  refine (if_pos ht).trans ?_
  rw [show ((s.takeIngress x).bump (Reg.XPT_CNT 1)).srec? x.pkt.msg = some r from hr]
  rfl

end Header

/-- A packet that is taken comes to step 6. -/
theorem rxFrom3_taken {s : State} {x : Rx} {t : BitVec 4} (h : Taken s x t) (upset : Mismatch) :
    (arrived s x).rxFrom3 x upset = (reached s x).rxFrom6 x upset := by
  obtain ⟨-, -, -, hage, hctx, hres, -⟩ := h
  have ha := arrives_arrived s x
  have hage' : ∀ fresh, (arrived s x).tooOld x fresh = false := by
    intro fresh
    rw [ha.tooOld]
    simp only [State.tooOld, Bool.or_eq_false_iff, Bool.and_eq_false_iff] at hage ⊢
    obtain ⟨hold, hnew⟩ := hage
    exact ⟨hold, .inr (hnew.resolve_left (by decide))⟩
  unfold State.rxFrom3
  extract_lets p fresh
  rw [if_neg (by rw [hage']; decide), if_neg (by rw [ha.ctxOk, hctx]; decide), if_pos (by rw [ha.resident, hres])]
  rfl

theorem receiveTyped_taken {s : State} {x : Rx} {t : BitVec 4} (h : Taken s x t) (ht : ¬ (t = 5 ∨ t = 8 ∨ t = 9))
    (upset : Mismatch) : s.receiveTyped x t upset = (reached s x).rxFrom6 x upset := by
  obtain ⟨halive, htyp, hheader, -⟩ := id h
  rw [receiveTyped_request halive htyp hheader ht, rxFrom3_taken h]

/-! Step 6 lets a packet of its context's partition pass. -/

section Partition

variable {s u : State} {x : Rx} {t : BitVec 4} (h : Taken s x t) (hu : Arrives s u) (upset : Mismatch)

include h hu

theorem samePart : ¬ x.pkt.part ≠ (u.ctx x.pkt.dstCtx).part := by
  obtain ⟨-, -, -, -, -, -, hpart⟩ := h
  rw [hu.part, ← hpart]
  exact fun e => e rfl

theorem rxFrom6_response (ht : t = 5) {r : SRec} (hr : u.srec? x.pkt.msg = some r) :
    u.rxFrom6 x upset = u.rxResp x r := by
  obtain ⟨-, htyp, -⟩ := id h
  unfold State.rxFrom6
  dsimp only
  rw [if_neg (samePart h hu), if_pos (htyp.trans ht), hr]

theorem rxFrom6_read (ht : t = 4) : u.rxFrom6 x upset = u.rxRead x := by
  obtain ⟨-, htyp, -⟩ := id h
  unfold State.rxFrom6
  dsimp only
  rw [if_neg (samePart h hu), if_neg (by rw [htyp, ht]; decide), if_pos (htyp.trans ht)]

theorem rxFrom6_write (ht : t ≠ 5 ∧ t ≠ 4) {v : State} (hv : u.withRecord x = some v) :
    u.rxFrom6 x upset = v.rxFrom8 x upset := by
  obtain ⟨-, htyp, -⟩ := id h
  obtain ⟨hresp, hread⟩ := ht
  unfold State.rxFrom6
  dsimp only
  rw [if_neg (samePart h hu), if_neg (by rw [htyp]; exact hresp), if_neg (by rw [htyp]; exact hread), hv]

end Partition

/-! ## Adapter memory without stored errors (R358, R359) -/

/-- A state without adapter memory and registers. -/
def exceptWords (s : State) : State := { s with mem := [], raw := [], regs := [] }

/-- From `s` to `t` adapter memory takes the bytes that `val` gives; every word is an encoding, and of the rest only registers
change. -/
structure Writes (s t : State) (val : Nat → Option Byte) : Prop where
  raw : t.raw = []
  mem : ∀ b, tget 0 t.mem b = (val b).getD (tget 0 s.mem b)
  frame : exceptWords t = exceptWords s

theorem Writes.trans {s t u : State} {val next : Nat → Option Byte} (h : Writes s t val) (k : Writes t u next) :
    Writes s u (fun b => (next b).or (val b)) := by
  refine ⟨k.raw, fun b => ?_, k.frame.trans h.frame⟩
  rw [k.mem, h.mem]
  cases next b <;> rfl

theorem Writes.none {s : State} (hraw : s.raw = []) : Writes s s (fun _ => none) := ⟨hraw, fun _ => rfl, rfl⟩

theorem Writes.congr {s t : State} {val next : Nat → Option Byte} (h : Writes s t val) (hval : ∀ b, next b = val b) :
    Writes s t next :=
  ⟨h.raw, fun b => by rw [hval b]; exact h.mem b, h.frame⟩

theorem decodeWord_clean {s : State} (hraw : s.raw = []) (w : Nat) : s.decodeWord w = .good (s.wordBytes w) 0 := by
  rw [State.decodeWord, hraw]
  rfl

theorem readWord_clean {s : State} (hraw : s.raw = []) (w : Nat) (inst : BitVec 8) (wb : Bool) :
    s.readWord w inst wb = (s.wordBytes w, false, s) := by
  rw [State.readWord, decodeWord_clean hraw]
  rfl

theorem writes_putWord {s : State} (hraw : s.raw = []) (w : Nat) {bs : List Byte} (hlen : bs.length = 32) :
    Writes s (s.putWord w bs) (fun b => if b / 32 = w then some (bs.getD (b - 32 * w) 0) else none) := by
  refine ⟨?_, fun b => ?_, rfl⟩
  · change tset none s.raw w none = []
    rw [hraw]
    rfl
  · refine (tget_putBytes s (32 * w) b bs).trans ?_
    rw [hlen]
    by_cases hb : b / 32 = w
    · rw [if_pos (by omega), if_pos hb]
      rfl
    · rw [if_neg (by omega), if_neg hb]
      rfl

theorem Writes.bumped {s t : State} {a : Nat} {val : Nat → Option Byte} (h : Writes (s.bump a) t val) : Writes s t val :=
  ⟨h.raw, h.mem, h.frame⟩

/-- A write to a word whose bytes `f` gives, by a whole word or by read and write (R361). -/
theorem writeWord_clean {s : State} (hraw : s.raw = []) (w : Nat) (inst : BitVec 8) (f : Nat → Option Byte) :
    (s.writeWord w inst f).1 = false ∧
      Writes s (s.writeWord w inst f).2 (fun b => if b / 32 = w then f (b - 32 * w) else none) := by
  unfold State.writeWord
  split
  next hall =>
    refine ⟨rfl, (writes_putWord hraw w (by simp)).congr fun b => ?_⟩
    split
    next hb =>
      have hi : b - 32 * w < 32 := by omega
      have hsome := List.all_eq_true.mp hall _ (List.mem_range.mpr hi)
      obtain ⟨v, hv⟩ := Option.isSome_iff_exists.mp hsome
      simp [List.getD_eq_getElem?_getD, List.getElem?_range hi, hv]
    · rfl
  · rw [readWord_clean (s := s.bump (Reg.MEM_CNT 6)) hraw]
    refine ⟨rfl, ?_⟩
    have hput := writes_putWord (s := s.bump (Reg.MEM_CNT 6)) hraw w
      (bs := ((s.bump (Reg.MEM_CNT 6)).wordBytes w).zipIdx.map fun p => (f p.2).getD p.1) (by simp [State.wordBytes])
    refine ⟨hput.raw, fun b => ?_, hput.frame⟩
    refine (hput.mem b).trans ?_
    split
    next hb =>
      have hi : b - 32 * w < 32 := by omega
      have hsum : 32 * w + (b - 32 * w) = b := by omega
      simp [List.getD_eq_getElem?_getD, State.wordBytes, List.getElem?_range hi, hsum]
    · rfl

/-- The bytes that a write with byte enables at `off` gives. -/
def bytesAt (off : Nat) (bs : List (Option Byte)) (b : Nat) : Option Byte := if off ≤ b then (bs[b - off]?).join else none

/-- What a write with byte enables puts into word `w0 + k`. -/
theorem bytesAt_word (off : Nat) (bs : List (Option Byte)) (k i : Nat) :
    (if 32 * k + i < off - 32 * (off / 32) then none else (bs[32 * k + i - (off - 32 * (off / 32))]?).join)
      = bytesAt off bs (32 * (off / 32 + k) + i) := by
  have hat : off ≤ 32 * (off / 32 + k) + i ↔ ¬ 32 * k + i < off - 32 * (off / 32) := by omega
  have hidx : 32 * (off / 32 + k) + i - off = 32 * k + i - (off - 32 * (off / 32)) := by omega
  rw [bytesAt, hidx]
  by_cases h : 32 * k + i < off - 32 * (off / 32)
  · rw [if_pos h, if_neg (fun hle => hat.mp hle h)]
  · rw [if_neg h, if_pos (hat.mpr h)]

/-- One word of a write with byte enables. -/
def writeStep (w0 lead : Nat) (inst : BitVec 8) (bs : List (Option Byte)) (acc : Bool × State) (k : Nat) : Bool × State :=
  let f := fun i => if 32 * k + i < lead then none else (bs[32 * k + i - lead]?).join
  if (List.range 32).all (fun i => (f i).isNone) then acc
  else
    let x := acc.2.writeWord (w0 + k) inst f
    (acc.1 || x.1, x.2)

/-- The words below `w0 + m` hold what the write gives them. -/
def WordsWritten (s : State) (off : Nat) (bs : List (Option Byte)) (m : Nat) (r : Bool × State) : Prop :=
  r.1 = false ∧ Writes s r.2 (fun b => if b / 32 < off / 32 + m then bytesAt off bs b else none)

theorem wordsWritten_step {s : State} {off : Nat} {bs : List (Option Byte)} {m : Nat} {r : Bool × State} (inst : BitVec 8)
    (h : WordsWritten s off bs m r) :
    WordsWritten s off bs (m + 1) (writeStep (off / 32) (off - 32 * (off / 32)) inst bs r m) := by
  obtain ⟨hok, hwrites⟩ := h
  unfold writeStep
  extract_lets f x
  have hf : ∀ b, b / 32 = off / 32 + m → f (b - 32 * (off / 32 + m)) = bytesAt off bs b := by
    intro b hb
    refine (bytesAt_word off bs m _).trans (congrArg _ ?_)
    omega
  split
  next hnone =>
    refine ⟨hok, hwrites.congr fun b => ?_⟩
    by_cases hb : b / 32 = off / 32 + m
    · have hi := List.all_eq_true.mp hnone (b - 32 * (off / 32 + m)) (List.mem_range.mpr (by omega))
      rw [hf b hb] at hi
      rw [if_pos (by omega), if_neg (by omega)]
      exact Option.isNone_iff_eq_none.mp hi
    · exact if_congr (by omega) rfl rfl
  · obtain ⟨hx, hword⟩ := writeWord_clean hwrites.raw (off / 32 + m) inst f
    refine ⟨by simp [hok, x, hx], (hwrites.trans hword).congr fun b => ?_⟩
    by_cases hb : b / 32 = off / 32 + m
    · rw [if_pos (by omega), if_pos hb, hf b hb, if_neg (by omega), Option.or_none]
    · rw [if_neg hb, Option.none_or]
      exact if_congr (by omega) rfl rfl

theorem wordsWritten_range {s : State} (hraw : s.raw = []) (inst : BitVec 8) (off : Nat) (bs : List (Option Byte)) (m : Nat) :
    WordsWritten s off bs m
      ((List.range m).foldl (writeStep (off / 32) (off - 32 * (off / 32)) inst bs) (false, s)) := by
  induction m with
  | zero =>
    refine ⟨rfl, (Writes.none hraw).congr fun b => ?_⟩
    split
    · exact if_neg (by omega)
    · rfl
  | succ m ih =>
    rw [List.range_succ, List.foldl_concat]
    exact wordsWritten_step inst ih

/-- A write to adapter memory without stored errors puts its bytes in place, and succeeds. -/
theorem writeMemBe_clean {s : State} (hraw : s.raw = []) (inst : BitVec 8) (off : Nat) (bs : List (Option Byte)) :
    (s.writeMemBe inst off bs).1 = false ∧ Writes s (s.writeMemBe inst off bs).2 (bytesAt off bs) := by
  unfold State.writeMemBe
  split
  next hempty =>
    refine ⟨rfl, (Writes.none hraw).congr fun b => ?_⟩
    simp [bytesAt, List.isEmpty_iff.mp hempty]
  next hne =>
    extract_lets w0 n lead
    obtain ⟨hok, hwrites⟩ := wordsWritten_range hraw inst off bs n
    refine ⟨hok, hwrites.congr fun b => ?_⟩
    split
    · rfl
    next hb =>
      have hlen : 0 < bs.length := by
        rw [List.length_pos_iff]
        simpa using hne
      unfold bytesAt
      split
      · rw [List.getElem?_eq_none (by omega)]
        rfl
      · rfl

theorem readTab_append (m : Tab Byte) (a n k : Nat) : readTab m a (n + k) = readTab m a n ++ readTab m (a + n) k := by
  simp [readTab, List.range_add, Nat.add_assoc]

/-- The words below `w0 + n`, read one after the other. -/
theorem readWords_clean {s : State} (hraw : s.raw = []) (inst : BitVec 8) (w0 n : Nat) :
    (List.range n).foldl (fun (acc : List Byte × Bool × State) k =>
      let x := acc.2.2.readWord (w0 + k) inst true
      (acc.1 ++ x.1, acc.2.1 || x.2.1, x.2.2)) ([], false, s) = (readTab s.mem (32 * w0) (32 * n), false, s) := by
  induction n with
  | zero => rfl
  | succ n ih =>
    rw [List.range_succ, List.foldl_concat, ih]
    have hword : s.wordBytes (w0 + n) = readTab s.mem (32 * w0 + 32 * n) 32 := by
      rw [← Nat.mul_add]
      rfl
    simp only [readWord_clean hraw, Bool.or_self, Nat.mul_add, Nat.mul_one, readTab_append, hword]

/-- A read of adapter memory without stored errors gives its bytes and changes nothing. -/
theorem readMem_clean {s : State} (hraw : s.raw = []) (inst : BitVec 8) (off len : Nat) :
    s.readMem inst off len = (readTab s.mem off len, false, s) := by
  unfold State.readMem
  split
  next h => subst h; rfl
  next h =>
    extract_lets w0 n r
    have hr : r = (readTab s.mem (32 * w0) (32 * n), false, s) := readWords_clean hraw inst w0 n
    rw [hr]
    refine Prod.ext ?_ rfl
    refine List.ext_getElem ?_ fun i hi hj => ?_
    · simp [readTab]
      omega
    · have hsum : 32 * w0 + (off - 32 * w0 + i) = off + i := by omega
      simp [readTab, hsum]

/-- The bytes of a run that starts at `a`. -/
def runBytes (a : Nat) (bs : List Byte) (b : Nat) : Option Byte := if a ≤ b then bs[b - a]? else none

theorem bytesAt_map_some (a : Nat) (bs : List Byte) (b : Nat) : bytesAt a (bs.map some) b = runBytes a bs b := by
  unfold bytesAt runBytes
  rw [List.getElem?_map]
  cases bs[b - a]? <;> rfl

theorem writeMem_clean {s : State} (hraw : s.raw = []) (inst : BitVec 8) (a : Nat) (bs : List Byte) :
    (s.writeMem inst a bs).1 = false ∧ Writes s (s.writeMem inst a bs).2 (runBytes a bs) := by
  obtain ⟨hok, hwrites⟩ := writeMemBe_clean hraw inst a (bs.map some)
  exact ⟨hok, hwrites.congr fun b => (bytesAt_map_some a bs b).symm⟩

/-- First byte of adapter memory behind an address of space 0x0 (R48). -/
def memAt (s : State) (inst : BitVec 8) (va : Word) : Nat := (s.alloc inst 0).1 + va.toNat

theorem readRuns_clean {s : State} (hraw : s.raw = []) (inst : BitVec 8) (clu : Nat) (va : Word) (n : Nat) :
    s.readRuns inst clu 0 [(va, n)] = (readTab s.mem (memAt s inst va) n, false, s) := by
  simp only [State.readRuns, List.foldl_cons, List.foldl_nil, State.locOf, State.readLoc, readMem_clean hraw, List.nil_append,
    Bool.or_self, memAt]

theorem writeRuns_clean {s : State} (hraw : s.raw = []) (inst : BitVec 8) (clu : Nat) (va : Word) (n : Nat) (bs : List Byte) :
    (s.writeRuns inst clu 0 [(va, n)] bs).1 = false ∧
      Writes s (s.writeRuns inst clu 0 [(va, n)] bs).2 (runBytes (memAt s inst va) (bs.take n)) := by
  simp only [State.writeRuns, List.foldl_cons, List.foldl_nil, State.locOf, State.writeLoc, Bool.false_or]
  exact writeMem_clean hraw inst _ _

/-- A store to adapter memory without stored errors, none of whose lines a package holds, is done at once. -/
theorem storeRun_clean {s : State} (hclean : CleanMemory s) (inst : BitVec 8) (clu : Nat) (k : WriteKind) (va : Word)
    (bs : List Byte) : (s.storeRun inst clu 0 k va bs).1 = false ∧ (s.storeRun inst clu 0 k va bs).2.1 = false
      ∧ Writes s (s.storeRun inst clu 0 k va bs).2.2 (runBytes (memAt s inst va) bs) := by
  obtain ⟨hraw, hfilter⟩ := hclean
  have hlines : s.linesBe (memAt s inst va) (bs.map some) none = [] := by
    rw [State.linesBe, State.linesOf, hfilter]
    rfl
  have hstore : s.storeRun inst clu 0 k va bs
      = ((s.writeMem inst (memAt s inst va) bs).1, false, (s.writeMem inst (memAt s inst va) bs).2) := by
    change s.storeMemBe inst k (memAt s inst va) (bs.map some) none = _
    rw [State.storeMemBe, hlines]
    rfl
  obtain ⟨hok, hwrites⟩ := writeMem_clean hraw inst (memAt s inst va) bs
  rw [hstore]
  exact ⟨hok, rfl, hwrites⟩

theorem storeRuns_clean {s : State} (hclean : CleanMemory s) (inst : BitVec 8) (clu : Nat) (k : WriteKind) (va : Word)
    (bs : List Byte) :
    let r := s.storeRuns inst clu 0 k (if bs.length = 0 then [] else [(va, bs.length)]) bs
    r.1 = false ∧ r.2.1 = 0 ∧ Writes s r.2.2 (runBytes (memAt s inst va) bs) := by
  intro r
  cases bs with
  | nil =>
    refine ⟨rfl, rfl, (Writes.none hclean.1).congr fun b => ?_⟩
    simp [runBytes]
  | cons b bs =>
    obtain ⟨hok, hnow, hwrites⟩ := storeRun_clean hclean inst clu k va (b :: bs)
    have hr : r = ((s.storeRun inst clu 0 k va (b :: bs)).1, b2n (s.storeRun inst clu 0 k va (b :: bs)).2.1,
        (s.storeRun inst clu 0 k va (b :: bs)).2.2) := by
      simp [r, State.storeRuns, isExt]
    rw [hr]
    exact ⟨hok, by rw [hnow]; rfl, hwrites⟩

end Sys2Proof.Proofs
end

section
/-!
PROOF. Arrivals (R93, R213, R215, R249), part 4 of 4: acceptance, and the placement of WRITE and WRITE_ACC packets.
-/

namespace Sys2Proof.Proofs

open Sys2Proof.Machine Sys2Proof.Laws Sys2Proof.Claims

/-! ## Replies and acceptance (R207, R212, R215) -/

/-- A state without what sending a reply changes. -/
def exceptReply (s : State) : State := { s with ctxs := [], out := [], tally := State.reset.tally, subs := [], loop := [] }

/-- A state without what accepting a packet changes. -/
def exceptAccept (s : State) : State :=
  { s with
    ctxs := [], out := [], tally := State.reset.tally, subs := [], loop := [], rrecs := [], wins := [], fresh := 0 }

theorem toPlane_frame (s : State) (plane : Option Nat) (tc : Nat) (p : Packet) :
    exceptReply (s.toPlane plane tc p) = exceptReply s := by
  cases plane <;> rfl

theorem sendCtl_frame (s : State) (c : BitVec 20) (tc : Nat) (p : Packet) :
    exceptReply (s.sendCtl c tc p) = exceptReply s := by
  unfold State.sendCtl
  split
  · exact toPlane_frame ..
  · extract_lets y
    split
    · rfl
    · refine (toPlane_frame ..).trans ?_
      split <;> rfl

theorem sendCtl_field {α : Type} (f : State → α) (hf : ∀ u, f (exceptReply u) = f u) (s : State) (c : BitVec 20) (tc : Nat)
    (p : Packet) : f (s.sendCtl c tc p) = f s := by
  rw [← hf (s.sendCtl c tc p), sendCtl_frame, hf s]

theorem rrec?_updRrec (s : State) (src : AdapterId) (m : MsgId) (f : RRec → RRec)
    (hf : ∀ r, (f r).src = r.src ∧ (f r).msg = r.msg) : (s.updRrec src m f).rrec? src m = (s.rrec? src m).map f := by
  have hkey : ((fun r : RRec => decide (r.src = src ∧ r.msg = m)) ∘ fun r => if r.src = src ∧ r.msg = m then f r else r)
      = fun r => decide (r.src = src ∧ r.msg = m) := by
    funext r
    obtain ⟨hsrc, hmsg⟩ := hf r
    by_cases hr : r.src = src ∧ r.msg = m
    · simp [hr, hsrc, hmsg]
    · simp only [Function.comp_apply, if_neg hr]
  rw [State.rrec?, State.updRrec, List.find?_map, hkey, ← State.rrec?]
  cases hfind : s.rrec? src m with
  | none => rfl
  | some r =>
    have hr : r.src = src ∧ r.msg = m := by simpa using List.find?_some hfind
    exact congrArg some (if_pos hr)

/-- The record holds the same packets, and keeps the rounding control that it took. -/
def SameTaken (r y : RRec) : Prop := y.got = r.got ∧ y.ctrl = r.ctrl

theorem sendAck_frame (s : State) (src : AdapterId) (m : MsgId) (fin : Bool) :
    exceptAccept (s.sendAck src m fin) = exceptAccept s ∧ (s.sendAck src m fin).wins = s.wins
      ∧ ∀ r, s.rrec? src m = some r → ∃ y, (s.sendAck src m fin).rrec? src m = some y ∧ SameTaken r y := by
  unfold State.sendAck
  cases hfind : s.rrec? src m with
  | none => exact ⟨rfl, rfl, fun r hr => by cases hr⟩
  | some r =>
    dsimp only
    split
    · refine ⟨rfl, rfl, ?_⟩
      intro r' hr'
      obtain rfl := Option.some.inj hr'
      exact ⟨_, (rrec?_updRrec s src m _ (by exact fun _ => ⟨rfl, rfl⟩)).trans (congrArg _ hfind), rfl, rfl⟩
    · generalize hu : s.updRrec src m (fun r => { r with unacked := 0, ackDue := none, ece := false }) = u
      have hrec : u.rrec? src m = some { r with unacked := 0, ackDue := none, ece := false } := by
        rw [← hu]
        exact (rrec?_updRrec s src m _ (by exact fun _ => ⟨rfl, rfl⟩)).trans (congrArg _ hfind)
      refine ⟨?_, ?_, ?_⟩
      · rw [sendCtl_field exceptAccept fun _ => rfl, ← hu]
        rfl
      · rw [sendCtl_field State.wins fun _ => rfl, ← hu]
        rfl
      · intro r' hr'
        obtain rfl := Option.some.inj hr'
        exact ⟨_, (rrec?_congr (sendCtl_field State.rrecs (fun _ => rfl) ..) src m).trans hrec, rfl, rfl⟩

/-- What a packet that was accepted through window `w` leaves. -/
structure AcceptedBy (s t : State) (x : Rx) (r : RRec) : Prop where
  frame : exceptAccept t = exceptAccept s
  data : ∀ n, (t.win n).data0 = (s.win n).data0 ∧ (t.win n).data1 = (s.win n).data1 ∧ (t.win n).data2 = (s.win n).data2
  record : ∃ y, t.rrec? x.pkt.src x.pkt.msg = some y ∧ y.got.testBit x.pkt.idx.toNat = true
    ∧ y.ctrl = some (r.ctrl.getD (s.reg Reg.NEB_CTRL))

theorem win_winEnter (s : State) (w n : Nat) : ((s.winEnter w).win n).data0 = (s.win n).data0
    ∧ ((s.winEnter w).win n).data1 = (s.win n).data1 ∧ ((s.winEnter w).win n).data2 = (s.win n).data2 := by
  have ht : (s.winEnter w).win n = ((s.updWin w fun e => { e with flight := e.flight + 1 }).updWin w fun y =>
      { y with used := (s.updWin w fun e => { e with flight := e.flight + 1 }).fresh }).win n := rfl
  rw [ht, State.updWin, State.updWin, win_setWin]
  split
  next e =>
    rw [win_setWin, if_pos rfl, e]
    exact ⟨rfl, rfl, rfl⟩
  · rw [win_setWin]
    split
    next e => rw [e]; exact ⟨rfl, rfl, rfl⟩
    · exact ⟨rfl, rfl, rfl⟩

theorem updWin_frame (s : State) (w : Nat) (f : Win → Win) : exceptAccept (s.updWin w f) = exceptAccept s := rfl

theorem useWin_frame (s : State) (w : Nat) : exceptAccept (s.useWin w) = exceptAccept s := by
  have hfresh : ∀ u : State, exceptAccept { u with fresh := s.fresh + 1 } = exceptAccept u := fun _ => rfl
  exact (hfresh _).trans (updWin_frame ..)

theorem winEnter_frame (s : State) (w : Nat) : exceptAccept (s.winEnter w) = exceptAccept s :=
  (useWin_frame ..).trans (updWin_frame ..)

theorem winEnter_rrecs (s : State) (w : Nat) : (s.winEnter w).rrecs = s.rrecs := rfl

theorem accept_accepted (s : State) (x : Rx) (w : Nat) {r : RRec} (hr : s.rrec? x.pkt.src x.pkt.msg = some r) :
    AcceptedBy s (s.accept x (some w)) x r := by
  unfold State.accept
  extract_lets p every s1 s2
  have hs1 : ∃ y, s1.rrec? p.src p.msg = some y ∧ y.got.testBit p.idx.toNat = true
      ∧ y.ctrl = some (r.ctrl.getD (s.reg Reg.NEB_CTRL)) := by
    refine ⟨_, (rrec?_updRrec s p.src p.msg _ (by exact fun _ => ⟨rfl, rfl⟩)).trans (congrArg _ hr), ?_, rfl⟩
    simp [Nat.testBit_or, Nat.testBit_two_pow_self]
  have hwin : ∀ n, s1.win n = s.win n := fun _ => rfl
  have hframe1 : exceptAccept s1 = exceptAccept s := rfl
  clear_value s1
  have hs2 : AcceptedBy s s2 x r := by
    have henter : s2 = s1.winEnter w := rfl
    rw [henter]
    obtain ⟨y, hy, htaken⟩ := hs1
    refine ⟨(winEnter_frame s1 w).trans hframe1, fun n => ?_, y, (rrec?_congr (winEnter_rrecs s1 w) p.src p.msg).trans hy, htaken⟩
    rw [← hwin n]
    exact win_winEnter s1 w n
  clear_value s2
  split
  next y hy =>
    split
    · obtain ⟨hframe, hwins, hrec⟩ := sendAck_frame s2 p.src p.msg false
      obtain ⟨y', hy', hgot, hctrl⟩ := hs2.record
      obtain ⟨z, hz, hzgot, hzctrl⟩ := hrec y' hy'
      refine ⟨hframe.trans hs2.frame, fun n => ?_, z, hz, by rw [hzgot, hgot], by rw [hzctrl, hctrl]⟩
      have hwin : (s2.sendAck p.src p.msg false).win n = s2.win n := by rw [State.win, State.win, hwins]
      rw [hwin]
      exact hs2.data n
    · exact hs2
  · exact hs2

/-! ## A packet at its window (R213, R238, R243) -/

/-- A state without its receive records. -/
def exceptRrecs (s : State) : State := { s with rrecs := [] }

/-- A packet that the steps before its window let pass, with its record `r`. -/
structure AtWindow (s u : State) (x : Rx) (r : RRec) : Prop where
  arrives : ∃ v, Arrives s v ∧ exceptRrecs u = exceptRrecs v
  record : u.rrec? x.pkt.src x.pkt.msg = some r
  ctrl : r.ctrl = (s.rrec? x.pkt.src x.pkt.msg).bind (·.ctrl)

section AtWindow

variable {s u v : State} {x : Rx} {r : RRec}

theorem field_of_exceptRrecs {α : Type} (h : exceptRrecs u = exceptRrecs v) (f : State → α)
    (hf : ∀ u, f (exceptRrecs u) = f u) : f u = f v := by
  rw [← hf u, h, hf v]

theorem AtWindow.counted (h : AtWindow s u x r) : Counts s u (Reg.XPT_CNT 1) 1 := by
  obtain ⟨⟨v, hv, he⟩, -, -⟩ := h
  exact (field_of_exceptRrecs he (·.reg (Reg.XPT_CNT 1)) fun _ => rfl).trans hv.counted

theorem AtWindow.reg (h : AtWindow s u x r) {a : Nat} (hfab : a ≠ Reg.FAB_CNT 4) (hxpt : a ≠ Reg.XPT_CNT 1) :
    u.reg a = s.reg a := by
  obtain ⟨⟨v, hv, he⟩, -, -⟩ := h
  exact (field_of_exceptRrecs he (·.reg a) fun _ => rfl).trans (hv.regs a hfab hxpt)

/-- What reads neither what taking a packet in changes nor receive records. -/
theorem AtWindow.field {α : Type} (h : AtWindow s u x r) (f : State → α) (harr : ∀ u, f (exceptArrival u) = f u)
    (hrec : ∀ u, f (exceptRrecs u) = f u) : f u = f s := by
  obtain ⟨⟨v, hv, he⟩, -, -⟩ := h
  exact (field_of_exceptRrecs he f hrec).trans (hv.field f harr)

theorem AtWindow.alloc (h : AtWindow s u x r) (i : BitVec 8) : u.alloc i 0 = s.alloc i 0 := by
  obtain ⟨⟨v, hv, he⟩, -, -⟩ := h
  exact (field_of_exceptRrecs he (·.alloc i 0) fun _ => rfl).trans (hv.alloc i)

end AtWindow

/-- A packet for which a record can be made, or which its record awaits, comes to step 8 (R212, R215, R218). -/
theorem withRecord_receivable {s v : State} {x : Rx} (h : Receivable s x.pkt) (hv : Arrives s v) :
    ∃ u r, v.withRecord x = some u ∧ AtWindow s u x r ∧ r.phase = .receiving ∧ r.got.testBit x.pkt.idx.toNat = false
      ∧ x.pkt.idx.toNat < r.cum + 256 := by
  rcases h with ⟨hnone, hprev, hroom, hidx⟩ | ⟨r, hr, hphase, hgot, hidx⟩
  · have hroom' : v.recRoom 1 = true := by
      rw [State.recRoom, hv.rrecs, hv.srecs, hv.fld (by decide) (by decide)]
      exact hroom
    have hnone' : v.rrec? x.pkt.src x.pkt.msg = none := (hv.rrec? _ _).trans hnone
    let r := (RRec.expect x.pkt.src x.pkt.msg x.pkt.ts v.ck).fill x
    refine ⟨{ v with rrecs := v.rrecs ++ [r] }, r, ?_, ⟨⟨v, hv, rfl⟩, ?_, ?_⟩, rfl, ?_, ?_⟩
    · unfold State.withRecord
      extract_lets p hold extra
      have hextra : extra = [] := if_neg fun hh => hh.1 hprev
      rw [hnone', hextra]
      dsimp only [List.length_nil]
      rw [if_pos hroom', List.append_nil]
    · change (v.rrecs ++ [r]).find? _ = some r
      rw [List.find?_append, show v.rrecs.find? _ = none from hnone']
      simp [r, RRec.fill, RRec.expect]
    · rw [hnone]
      rfl
    · exact Nat.zero_testBit _
    · exact Nat.lt_of_lt_of_le hidx (Nat.le_add_left _ _)
  · have hr' : v.rrec? x.pkt.src x.pkt.msg = some r := (hv.rrec? _ _).trans hr
    refine ⟨v, r, ?_, ⟨⟨v, hv, rfl⟩, hr', by rw [hr]; rfl⟩, hphase, hgot, hidx⟩
    unfold State.withRecord
    extract_lets p hold extra
    rw [hr']
    exact if_pos (by rw [hphase]; decide)

/-- A packet that its window admits is accepted, and goes to its place (R213, R243). -/
theorem receive_window {s : State} {x : Rx} {t : BitVec 4} (ht : t = 1 ∨ t = 2) (h : Taken s x t) (hrec : Receivable s x.pkt)
    (hwin : WindowAdmits s x.pkt) (upset : Mismatch) :
    ∃ u r, AtWindow s u x r ∧
      s.receiveTyped x t upset = (u.accept x (some (winId x.pkt.tgtA))).translate x upset := by
  obtain ⟨hcount, hcached, hcheck, henc, hprot⟩ := hwin
  have harr := arrives_reached s x
  obtain ⟨u, r, hu, hat, hphase, hgot, hidx⟩ := withRecord_receivable hrec harr
  obtain ⟨-, htyp, -⟩ := id h
  refine ⟨u, r, hat, ?_⟩
  rw [receiveTyped_taken h (by rcases ht with rfl | rfl <;> decide),
    rxFrom6_write h harr upset (by rcases ht with rfl | rfl <;> decide) hu]
  obtain ⟨v, hv, he⟩ := hat.arrives
  have hwc : u.winCount = s.winCount := (field_of_exceptRrecs he State.winCount fun _ => rfl).trans hv.winCount
  have hw : u.win (winId x.pkt.tgtA) = s.win (winId x.pkt.tgtA) :=
    (field_of_exceptRrecs he (·.win (winId x.pkt.tgtA)) fun _ => rfl).trans (hv.win _)
  have hck : u.winCheck x.pkt = none :=
    ((field_of_exceptRrecs he (·.winCheck x.pkt) fun _ => rfl).trans (hv.winCheck _)).trans hcheck
  have hpr : ∀ e off n, u.winProt e off n = s.winProt e off n := fun e off n =>
    (field_of_exceptRrecs he (·.winProt e off n) fun _ => rfl).trans (hv.winProt _ _ _)
  have h8 : u.rxFrom8 x upset = u.rxWindow x upset := by
    unfold State.rxFrom8
    extract_lets p
    rw [hat.record]
    dsimp only
    rw [if_neg (by rw [hgot, hphase]; decide), if_neg (Nat.not_le.mpr hidx),
      if_neg (by rw [htyp]; rcases ht with rfl | rfl <;> decide), if_neg (by rw [htyp]; rcases ht with rfl | rfl <;> decide)]
  refine h8.trans ?_
  unfold State.rxWindow
  extract_lets p w e
  rw [hck, if_neg (by rw [hwc]; exact Nat.not_le.mpr hcount), if_neg (by rw [show e = _ from hw, hcached]; decide)]
  dsimp only
  rw [show e = _ from hw, if_neg (by rw [hpr, hprot]; decide), if_neg (by rw [henc]; decide)]

/-- A packet that its window admits is counted, and its record holds it. -/
theorem window_received {s u : State} {x : Rx} {r : RRec} (h : AtWindow s u x r) (w : Nat) (upset : Mismatch) :
    let t := (u.accept x (some w)).translate x upset
    Counts s t (Reg.XPT_CNT 1) 1
      ∧ ∃ y, t.rrec? x.pkt.src x.pkt.msg = some y ∧ y.got.testBit x.pkt.idx.toNat = true := by
  intro t
  have haccept : Settles u (u.accept x (some w)) := (Settles.refl u).accept x (some w)
  have hon : Onward (u.accept x (some w)) t := by
    have hrefl := (Settles.refl (u.accept x (some w))).onward
    exact hrefl.translate x upset
  obtain ⟨y, hy, hgot, -⟩ := (accept_accepted u x w h.record).record
  obtain ⟨z, hz, hgrows⟩ := hon.rrec _ _ y hy
  refine ⟨?_, z, hz, hgrows.got _ hgot⟩
  rw [Counts, hon.counts _ (by decide), haccept.counts _ (by decide)]
  exact h.counted

/-! ## Placement in adapter memory (R93, R249) -/

/-- The target of a packet in the window entry `e`. -/
def windowTarget (e : Win) (p : Packet) : Target :=
  ⟨e.inst, 0, e.space,
    if (spanOf e p).2 = 0 then [] else [(e.base + BitVec.ofNat 64 (bits p.tgtB 0 48 + (spanOf e p).1), (spanOf e p).2)]⟩

theorem translate_inside (s : State) (x : Rx) (upset : Mismatch) (htyp : x.pkt.typ ≠ 3)
    (hspace : (s.win (winId x.pkt.tgtA)).space = 0) :
    s.translate x upset =
      let g := windowTarget (s.win (winId x.pkt.tgtA)) x.pkt
      if x.pkt.typ = 2 then s.placeAcc x g upset [] else s.placeWrite x g := by
  have htarget : s.targetOf x.pkt = some (windowTarget (s.win (winId x.pkt.tgtA)) x.pkt) := by
    rw [State.targetOf, if_neg htyp]
    rfl
  have hkeys : ∀ wr rd, s.targetKeys (windowTarget (s.win (winId x.pkt.tgtA)) x.pkt) wr rd = [] := by
    intro wr rd
    rw [State.targetKeys, windowTarget, hspace]
    rfl
  unfold State.translate
  rw [htarget]
  dsimp only
  rw [hkeys]
  change s.place x upset [] = _
  rw [State.place, htarget]

/-- What reads only the data of window entries is the same for entries with the same data. -/
structure SameData (e f : Win) : Prop where
  data0 : f.data0 = e.data0
  data1 : f.data1 = e.data1
  data2 : f.data2 = e.data2

section Placed

variable {s u : State} {x : Rx} {r : RRec} (h : AtWindow s u x r)

/-- The state in which an accepted packet goes to its place. -/
abbrev accepted (u : State) (x : Rx) : State := u.accept x (some (winId x.pkt.tgtA))

include h

theorem accepted_data : SameData (s.win (winId x.pkt.tgtA)) ((accepted u x).win (winId x.pkt.tgtA)) := by
  obtain ⟨hdata0, hdata1, hdata2⟩ := (accept_accepted u x (winId x.pkt.tgtA) h.record).data (winId x.pkt.tgtA)
  have hw : u.win (winId x.pkt.tgtA) = s.win (winId x.pkt.tgtA) := h.field (·.win _) (fun _ => rfl) fun _ => rfl
  rw [hw] at hdata0 hdata1 hdata2
  exact ⟨hdata0, hdata1, hdata2⟩

theorem accepted_space : ((accepted u x).win (winId x.pkt.tgtA)).space = (s.win (winId x.pkt.tgtA)).space := by
  rw [Win.space, Win.space, (accepted_data h).data1]

theorem accepted_target :
    windowTarget ((accepted u x).win (winId x.pkt.tgtA)) x.pkt = windowTarget (s.win (winId x.pkt.tgtA)) x.pkt := by
  have hd := accepted_data h
  have hfmt : ((accepted u x).win (winId x.pkt.tgtA)).accFmt = (s.win (winId x.pkt.tgtA)).accFmt := by
    rw [Win.accFmt, Win.accFmt, hd.data2]
  have hspan : spanOf ((accepted u x).win (winId x.pkt.tgtA)) x.pkt = spanOf (s.win (winId x.pkt.tgtA)) x.pkt := by
    unfold spanOf
    rw [hfmt]
  rw [windowTarget, hspan, accepted_space h, Win.inst, hd.data2, Win.base, hd.data0]
  rfl

/-- What accepting and the steps before leave alone. -/
theorem accepted_field {α : Type} (f : State → α) (harr : ∀ u, f (exceptArrival u) = f u)
    (hrec : ∀ u, f (exceptRrecs u) = f u) (hacc : ∀ u, f (exceptAccept u) = f u) : f (accepted u x) = f s := by
  obtain ⟨hframe, -, -⟩ := accept_accepted u x (winId x.pkt.tgtA) h.record
  rw [← hacc (accepted u x), hframe, hacc u]
  exact h.field f harr hrec

theorem accepted_alloc (i : BitVec 8) : (accepted u x).alloc i 0 = s.alloc i 0 := by
  obtain ⟨hframe, -, -⟩ := accept_accepted u x (winId x.pkt.tgtA) h.record
  refine Eq.trans ?_ (h.alloc i)
  change (exceptAccept (accepted u x)).alloc i 0 = (exceptAccept u).alloc i 0
  rw [hframe]

theorem accepted_reg {a : Nat} (hfab : a ≠ Reg.FAB_CNT 4) (hxpt : a ≠ Reg.XPT_CNT 1) : (accepted u x).reg a = s.reg a := by
  obtain ⟨hframe, -, -⟩ := accept_accepted u x (winId x.pkt.tgtA) h.record
  refine Eq.trans ?_ (h.reg hfab hxpt)
  change (exceptAccept (accepted u x)).reg a = (exceptAccept u).reg a
  rw [hframe]

theorem accepted_clean (hclean : CleanMemory s) : CleanMemory (accepted u x) :=
  ⟨(accepted_field h State.raw (fun _ => rfl) (fun _ => rfl) fun _ => rfl).trans hclean.1,
    (accepted_field h State.filter (fun _ => rfl) (fun _ => rfl) fun _ => rfl).trans hclean.2⟩

theorem accepted_mem : (accepted u x).mem = s.mem :=
  accepted_field h State.mem (fun _ => rfl) (fun _ => rfl) fun _ => rfl

/-- First byte behind the packet's target. -/
theorem accepted_windowByte :
    memAt (accepted u x) (s.win (winId x.pkt.tgtA)).inst ((s.win (winId x.pkt.tgtA)).base
      + BitVec.ofNat 64 (bits x.pkt.tgtB 0 48 + (spanOf (s.win (winId x.pkt.tgtA)) x.pkt).1)) = windowByte s x.pkt := by
  rw [memAt, accepted_alloc h]
  rfl

end Placed

/-- What a placement of `bs` at `a` comes to, counted in `cnt`. -/
structure PlacedAt (s t : State) (cnt a : Nat) (bs : List Byte) : Prop where
  mem : ∀ b, tget 0 t.mem b = (runBytes a bs b).getD (tget 0 s.mem b)
  tmem : t.tmem = s.tmem
  nbuf : t.nbuf = s.nbuf
  counted : Counts s t cnt 1

theorem Writes.tmem {s t : State} {val : Nat → Option Byte} (h : Writes s t val) : t.tmem = s.tmem := by
  have hframe := congrArg State.tmem h.frame
  exact hframe

theorem Writes.nbuf {s t : State} {val : Nat → Option Byte} (h : Writes s t val) : t.nbuf = s.nbuf := by
  have hframe := congrArg State.nbuf h.frame
  exact hframe

/-- A payload that was written counts in its record, and as placed. -/
def countPlaced (s : State) (cnt : Nat) (p : Packet) : State :=
  (s.bump cnt).updRrec p.src p.msg (fun y => { y with bytes := y.bytes + p.payload.length })

theorem reg_countPlaced (s : State) (cnt : Nat) (p : Packet) : (countPlaced s cnt p).reg cnt = s.reg cnt + 1 := by
  have h : (countPlaced s cnt p).reg cnt = (s.bump cnt).reg cnt := rfl
  rw [h, reg_bump, if_pos rfl]

/-- A placement whose bytes are in place and counted, and then ends. -/
theorem placedAt_of_counted {s v : State} {x : Rx} {cnt a : Nat} {bs : List Byte} (hcnt : cnt ∈ placedCounts)
    (hmem : ∀ b, tget 0 v.mem b = (runBytes a bs b).getD (tget 0 s.mem b)) (htmem : v.tmem = s.tmem) (hnbuf : v.nbuf = s.nbuf)
    (hreg : v.reg cnt = s.reg cnt + 1) : PlacedAt s (v.placed x false 0) cnt a bs := by
  have htail : Settles v (v.placed x false 0) := (Settles.refl v).placed x false 0
  refine ⟨fun b => ?_, ?_, ?_, ?_⟩
  · rw [htail.mem, hmem]
  · rw [htail.tmem, htmem]
  · rw [htail.nbuf, hnbuf]
  · rw [Counts, htail.counts _ hcnt, hreg]
    rfl

/-- A payload that is placed in a window of space 0x0 without stored errors (R249). -/
theorem placeWrite_clean {s : State} (hclean : CleanMemory s) (x : Rx) (htyp : x.pkt.typ = 1) (inst : BitVec 8) (va : Word) :
    PlacedAt s (s.placeWrite x ⟨inst, 0, 0, if x.pkt.payload.length = 0 then [] else [(va, x.pkt.payload.length)]⟩)
      (Reg.WIN_CNT 0) (memAt s inst va) x.pkt.payload := by
  obtain ⟨hok, hnow, hwrites⟩ := storeRuns_clean hclean inst 0 (.rx x.pkt.src x.pkt.msg x.pkt.idx (winOf x.pkt)) va x.pkt.payload
  have hkeeps : KeepsRecords s _ := (KeepsRecords.refl s).storeRuns inst 0 0 (.rx x.pkt.src x.pkt.msg x.pkt.idx (winOf x.pkt))
    (if x.pkt.payload.length = 0 then [] else [(va, x.pkt.payload.length)]) x.pkt.payload
  unfold State.placeWrite
  extract_lets p r s1
  have hfail : r.1 = false := hok
  have hs1 : s1 = countPlaced r.2.2 (Reg.WIN_CNT 0) x.pkt := by
    simp only [s1, hfail, Bool.false_eq_true, if_false, p, htyp, if_true]
    rfl
  rw [hs1, hfail, show r.2.1 = 0 from hnow]
  exact placedAt_of_counted (by decide) hwrites.mem hwrites.tmem hwrites.nbuf
    ((reg_countPlaced _ _ _).trans (congrArg (· + 1) (hkeeps.counts _ (by decide))))

/-- Bytes of a placement, inside and outside. -/
theorem PlacedAt.bytes {s t : State} {cnt a : Nat} {bs : List Byte} (h : PlacedAt s t cnt a bs) :
    (∀ k, k < bs.length → tget 0 t.mem (a + k) = bs.getD k 0)
      ∧ ∀ b, b < a ∨ a + bs.length ≤ b → tget 0 t.mem b = tget 0 s.mem b := by
  refine ⟨fun k hk => ?_, fun b hb => ?_⟩
  · rw [h.mem, runBytes, if_pos (Nat.le_add_right a k), Nat.add_sub_cancel_left, List.getElem?_eq_getElem hk,
      List.getD_eq_getElem _ _ hk]
    rfl
  · rw [h.mem, runBytes]
    split
    · rw [List.getElem?_eq_none (by omega)]
      rfl
    · rfl

theorem writePackets : WritePackets := by
  intro s x htaken hrec hwin
  obtain ⟨u, r, hat, heq⟩ := receive_window (.inl rfl) htaken hrec hwin none
  obtain ⟨hcount, y, hy, hgot⟩ := window_received hat (winId x.pkt.tgtA) none
  obtain ⟨-, htyp, -⟩ := id htaken
  have hexec : exec (.writePacket x) s = .next (s.receiveTyped x 1 none) := rfl
  rw [heq] at hexec
  refine ⟨_, y, hexec, hcount, hy, hgot, fun hspace hclean => ?_⟩
  intro a
  have hspan : spanOf (s.win (winId x.pkt.tgtA)) x.pkt = (x.pkt.idx.toNat * 4096, x.pkt.payload.length) := by
    rw [spanOf, if_neg (by rw [htyp]; decide)]
  have htrans := translate_inside (accepted u x) x none (by rw [htyp]; decide) ((accepted_space hat).trans hspace)
  dsimp only at htrans
  rw [if_neg (by rw [htyp]; decide), accepted_target hat, windowTarget, hspace, hspan] at htrans
  have hplaced := placeWrite_clean (accepted_clean hat hclean) x htyp (s.win (winId x.pkt.tgtA)).inst
    ((s.win (winId x.pkt.tgtA)).base + BitVec.ofNat 64 (bits x.pkt.tgtB 0 48 + x.pkt.idx.toNat * 4096))
  have hbyte := accepted_windowByte hat
  rw [hspan] at hbyte
  rw [hbyte, ← htrans] at hplaced
  obtain ⟨hin, hout⟩ := hplaced.bytes
  refine ⟨hin, fun b hb => ?_, ?_, ?_, ?_⟩
  · rw [hout b hb, accepted_mem hat]
  · rw [Counts, hplaced.counted, accepted_reg hat (by decide) (by decide)]
  · rw [hplaced.tmem]
    exact accepted_field hat State.tmem (fun _ => rfl) (fun _ => rfl) fun _ => rfl
  · rw [hplaced.nbuf]
    exact accepted_field hat State.nbuf (fun _ => rfl) (fun _ => rfl) fun _ => rfl

/-! ## WRITE_ACC (R93, R121) -/

theorem residue_clean {s : State} (harmed : s.armed = none) (a n per : Nat) (checked : Bool) :
    s.residue a n per checked none = (none, s) := by
  unfold State.residue
  rw [harmed]
  cases checked <;> rfl

/-- Passes in which no mismatch is armed find none. -/
theorem accPasses_clean {s : State} (harmed : s.armed = none) (a per k n : Nat) :
    s.accPasses a per k n none = (none, s) := by
  induction k generalizing n with
  | zero => rfl
  | succ k ih =>
    unfold State.accPasses
    split
    · rfl
    · rw [residue_clean harmed]
      exact ih _

/-- The counters of the arrays after a WRITE_ACC that met array `a`. -/
def accCounted (s : State) (a n : Nat) (d : Dense) : State :=
  ((s.count (Reg.NEB_CNT_OPS a) n).count Reg.NEB_CNT_SAT d.sat).count Reg.NEB_CNT_NAN_LOST d.lost

/-- A WRITE_ACC of good formats meets an array, whose residue check passes (R93, R121). -/
theorem accRun_clean {s : State} (harmed : s.armed = none) {a : Nat} (harr : s.pickArray = some a) (p : Packet) {f g : Fmt}
    (hf : accSrc p = some f) (hg : fmtOf (s.win (winId p.tgtA)).accFmt = some g) (old : List Byte) :
    let ctrl := ((s.rrec? p.src p.msg).bind (·.ctrl)).getD (s.reg Reg.NEB_CTRL)
    let d := accResult ctrl (s.win (winId p.tgtA)) p old
    s.accRun p none old = (some d.bytes, accCounted s a (accCount f p.payload.length) d) := by
  intro ctrl d
  unfold State.accRun
  extract_lets e ctrl'
  rw [harr, hf, show fmtOf e.accFmt = some g from hg]
  dsimp only
  rw [accPasses_clean harmed]
  rfl

theorem memAt_accCounted (s : State) {a : Nat} (ha : a < 4) (n : Nat) (d : Dense) (inst : BitVec 8) (va : Word) :
    memAt (accCounted s a n d) inst va = memAt s inst va := by
  have hreg : (accCounted s a n d).reg Reg.MEM_STATUS = s.reg Reg.MEM_STATUS := by
    have hops : Reg.MEM_STATUS ≠ Reg.NEB_CNT_OPS a := by
      unfold Reg.MEM_STATUS Reg.NEB_CNT_OPS
      omega
    rw [accCounted, reg_count, if_neg (by decide), reg_count, if_neg (by decide), reg_count, if_neg hops]
  have hinsts : (accCounted s a n d).insts = s.insts := rfl
  have halloc : (accCounted s a n d).alloc inst 0 = s.alloc inst 0 := by
    by_cases hi : inst = 0
    · simp only [State.alloc, if_pos hi, State.memBytes, State.fld, hreg]
    · simp only [State.alloc, if_neg hi, State.range, hinsts]
  rw [memAt, memAt, halloc]

/-- A WRITE_ACC that combines into one run of adapter memory without stored errors. -/
theorem accInside_clean {s : State} (hraw : s.raw = []) (harmed : s.armed = none) {a : Nat} (harr : s.pickArray = some a)
    (x : Rx) {f g : Fmt} (hf : accSrc x.pkt = some f) (hg : fmtOf (s.win (winId x.pkt.tgtA)).accFmt = some g)
    (inst : BitVec 8) (va : Word) (n : Nat) :
    let ctrl := ((s.rrec? x.pkt.src x.pkt.msg).bind (·.ctrl)).getD (s.reg Reg.NEB_CTRL)
    let bs := (accResult ctrl (s.win (winId x.pkt.tgtA)) x.pkt (readTab s.mem (memAt s inst va) n)).bytes
    PlacedAt s (s.accInside x ⟨inst, 0, 0, [(va, n)]⟩ none) (Reg.WIN_CNT 1) (memAt s inst va) (bs.take n) := by
  intro ctrl bs
  have hsettles : Settles s (s.accRun x.pkt none (readTab s.mem (memAt s inst va) n)).2 :=
    (Settles.refl s).accRun x.pkt none (readTab s.mem (memAt s inst va) n)
  have hrun := accRun_clean harmed harr x.pkt hf hg (readTab s.mem (memAt s inst va) n)
  dsimp only at hrun
  unfold State.accInside
  rw [readRuns_clean hraw]
  dsimp only
  rw [if_neg (by decide), hrun]
  rw [hrun] at hsettles
  dsimp only at hsettles ⊢
  have hat := memAt_accCounted s (pickArray_lt harr) (accCount f x.pkt.payload.length)
    (accResult ctrl (s.win (winId x.pkt.tgtA)) x.pkt (readTab s.mem (memAt s inst va) n)) inst va
  have hraw' : (accCounted s a (accCount f x.pkt.payload.length)
    (accResult ctrl (s.win (winId x.pkt.tgtA)) x.pkt (readTab s.mem (memAt s inst va) n))).raw = [] := hraw
  generalize accCounted s a (accCount f x.pkt.payload.length)
    (accResult ctrl (s.win (winId x.pkt.tgtA)) x.pkt (readTab s.mem (memAt s inst va) n)) = u at *
  obtain ⟨hok, hwrites⟩ := writeRuns_clean hraw' inst 0 va n bs
  have hkeeps : KeepsRecords u (u.writeRuns inst 0 0 [(va, n)] bs).2 := (KeepsRecords.refl u).writeRuns inst 0 0 [(va, n)] bs
  rw [hat] at hwrites
  rw [if_neg (by rw [show (u.writeRuns inst 0 0 [(va, n)] bs).1 = false from hok]; decide)]
  rw [show (u.writeRuns inst 0 0 [(va, n)] bs).1 = false from hok]
  generalize (u.writeRuns inst 0 0 [(va, n)] bs).2 = w at *
  refine placedAt_of_counted (by decide) (fun b => ?_) ?_ ?_ ?_
  · refine (hwrites.mem b).trans ?_
    rw [hsettles.mem]
  · exact hwrites.tmem.trans hsettles.tmem
  · exact hwrites.nbuf.trans hsettles.nbuf
  · refine (reg_countPlaced w (Reg.WIN_CNT 1) x.pkt).trans ?_
    rw [hkeeps.counts _ (by decide), hsettles.counts _ (by decide)]

/-- A WRITE_ACC into a window of space 0x0, without stored errors and with no line held by a package. -/
theorem placeAcc_clean {s : State} (hclean : CleanMemory s) (harmed : s.armed = none) {a : Nat} (harr : s.pickArray = some a)
    (x : Rx) {f g : Fmt} (hf : accSrc x.pkt = some f) (hg : fmtOf (s.win (winId x.pkt.tgtA)).accFmt = some g)
    (inst : BitVec 8) (va : Word) (n : Nat) :
    let ctrl := ((s.rrec? x.pkt.src x.pkt.msg).bind (·.ctrl)).getD (s.reg Reg.NEB_CTRL)
    let bs := (accResult ctrl (s.win (winId x.pkt.tgtA)) x.pkt (readTab s.mem (memAt s inst va) n)).bytes
    PlacedAt s (s.placeAcc x ⟨inst, 0, 0, if n = 0 then [] else [(va, n)]⟩ none []) (Reg.WIN_CNT 1) (memAt s inst va)
      (bs.take n) := by
  intro ctrl bs
  obtain ⟨hraw, hfilter⟩ := hclean
  unfold State.placeAcc
  by_cases hn : n = 0
  · subst hn
    dsimp only
    rw [if_pos rfl, List.isEmpty_nil, if_pos rfl, List.take_zero]
    refine placedAt_of_counted (by decide) (fun b => ?_) rfl rfl ?_
    · simp [runBytes]
    · rw [reg_bump, if_pos rfl]
  · have hlines : s.accLines ⟨inst, 0, 0, [(va, n)]⟩ = [] := by
      simp [State.accLines, State.locOf, State.linesOf, hfilter]
    dsimp only
    rw [if_neg hn, if_neg (by simp), if_neg (by decide), hlines, List.isEmpty_nil, if_pos rfl]
    exact accInside_clean hraw harmed harr x hf hg inst va n

theorem accSrc_of_headerOk {s : State} {x : Rx} (htyp : x.pkt.typ = 2) (h : s.headerOk x = true) :
    ∃ f, accSrc x.pkt = some f := by
  unfold State.headerOk at h
  simp only [Bool.and_eq_true, attrOk, if_pos htyp] at h
  exact Option.isSome_iff_exists.mp (by tauto)

/-- A window that admits a WRITE_ACC has a format. -/
theorem accFmt_of_winCheck {s : State} {p : Packet} (htyp : p.typ = 2) (h : s.winCheck p = none) :
    ∃ g, fmtOf (s.win (winId p.tgtA)).accFmt = some g := by
  rw [← Option.isSome_iff_exists, Option.isSome_iff_ne_none]
  intro hnone
  unfold State.winCheck at h
  extract_lets w e off reach at h
  simp [htyp, show fmtOf e.accFmt = none from hnone] at h
  split at h <;> cases h

theorem accResult_congr {e e' : Win} (h : e'.data2 = e.data2) (ctrl : Word) (p : Packet) (old : List Byte) :
    accResult ctrl e' p old = accResult ctrl e p old := by
  have hfmt : e'.accFmt = e.accFmt := by rw [Win.accFmt, Win.accFmt, h]
  unfold accResult
  rw [hfmt]

section Accumulates

variable {s u : State} {x : Rx} {r : RRec} (h : AtWindow s u x r)

include h

theorem accepted_pickArray : (accepted u x).pickArray = s.pickArray := by
  have hstatus : (accepted u x).reg Reg.NEB_STATUS = s.reg Reg.NEB_STATUS := accepted_reg h (by decide) (by decide)
  have hcaps : (accepted u x).arrays = s.arrays := by
    rw [State.arrays, State.arrays, State.fld, State.fld, accepted_reg h (by decide) (by decide)]
  have hjobs : (accepted u x).jobs = s.jobs := accepted_field h State.jobs (fun _ => rfl) (fun _ => rfl) fun _ => rfl
  have hup : (accepted u x).arrayUp = s.arrayUp := by
    funext a
    rw [State.arrayUp, State.arrayUp, hstatus, hcaps]
  have hqueued : (accepted u x).queued = s.queued := by
    funext a
    rw [State.queued, State.queued, hjobs]
  unfold State.pickArray
  rw [hup, hqueued]

/-- The rounding control that the record of an accepted packet holds. -/
theorem accepted_ctrl :
    (((accepted u x).rrec? x.pkt.src x.pkt.msg).bind (·.ctrl)).getD ((accepted u x).reg Reg.NEB_CTRL)
      = ((s.rrec? x.pkt.src x.pkt.msg).bind (·.ctrl)).getD (s.reg Reg.NEB_CTRL) := by
  obtain ⟨-, -, y, hy, -, hctrl⟩ := accept_accepted u x (winId x.pkt.tgtA) h.record
  rw [hy, Option.bind_some, hctrl, Option.getD_some, h.ctrl, h.reg (by decide) (by decide)]

end Accumulates

theorem writeAccPackets : WriteAccPackets := by
  intro s x htaken hrec hwin e
  obtain ⟨u, r, hat, heq⟩ := receive_window (.inr rfl) htaken hrec hwin none
  obtain ⟨hcount, y, hy, hgot⟩ := window_received hat (winId x.pkt.tgtA) none
  obtain ⟨-, htyp, hheader, -⟩ := id htaken
  obtain ⟨-, -, hcheck, -⟩ := id hwin
  have hexec : exec (.writeAccPacket x none) s = .next (s.receiveTyped x 2 none) := rfl
  rw [heq] at hexec
  refine ⟨_, y, hexec, hcount, hy, hgot, fun hspace hclean harmed hpick => ?_⟩
  intro a n ctrl bs
  obtain ⟨f, hf⟩ := accSrc_of_headerOk htyp hheader
  obtain ⟨g, hg⟩ := accFmt_of_winCheck htyp hcheck
  obtain ⟨i, hi⟩ := Option.isSome_iff_exists.mp hpick
  have hd := accepted_data hat
  have hg' : fmtOf ((accepted u x).win (winId x.pkt.tgtA)).accFmt = some g := by
    rw [Win.accFmt, hd.data2]
    exact hg
  have htrans := translate_inside (accepted u x) x none (by rw [htyp]; decide) ((accepted_space hat).trans hspace)
  dsimp only at htrans
  rw [if_pos htyp, accepted_target hat, windowTarget, hspace] at htrans
  have hplaced := placeAcc_clean (accepted_clean hat hclean)
    ((accepted_field hat State.armed (fun _ => rfl) (fun _ => rfl) fun _ => rfl).trans harmed)
    ((accepted_pickArray hat).trans hi) x hf hg' e.inst (e.base + BitVec.ofNat 64 (bits x.pkt.tgtB 0 48 + (spanOf e x.pkt).1)) n
  dsimp only at hplaced
  rw [accepted_windowByte hat, accepted_ctrl hat, accResult_congr hd.data2, accepted_mem hat, ← htrans] at hplaced
  obtain ⟨hin, hout⟩ := hplaced.bytes
  refine ⟨fun k hk hkb => ?_, fun b hb => ?_, ?_, ?_, ?_⟩
  · refine (hin k (by rw [List.length_take]; exact Nat.lt_min.mpr ⟨hk, hkb⟩)).trans ?_
    simp [List.getD_eq_getElem?_getD, hk]
    rfl
  · rw [hout b (hb.imp_right fun hle => (Nat.add_le_add_left (List.length_take_le ..) _).trans hle), accepted_mem hat]
  · rw [Counts, hplaced.counted, accepted_reg hat (by decide) (by decide)]
  · rw [hplaced.tmem]
    exact accepted_field hat State.tmem (fun _ => rfl) (fun _ => rfl) fun _ => rfl
  · rw [hplaced.nbuf]
    exact accepted_field hat State.nbuf (fun _ => rfl) (fun _ => rfl) fun _ => rfl

/-- Settles O25: what a WRITE and a WRITE_ACC packet that their window admits leave. -/
theorem writesArrive : Obligations.WritesArrive := ⟨writePackets, writeAccPackets⟩

end Sys2Proof.Proofs
end

section
/-!
PROOF. Arrivals (R231, R243, R244): read requests and responses.
-/

namespace Sys2Proof.Proofs

open Sys2Proof.Machine Sys2Proof.Laws Sys2Proof.Claims

/-! ## Contexts that are fetched, and messages that end -/

section Fetch

variable {s₀ s : State}

theorem KeepsRecords.setCtx (h : KeepsRecords s₀ s) (c : BitVec 20) (x : Ctx) : KeepsRecords s₀ (s.setCtx c x) := h.changed

theorem KeepsRecords.updCtx (h : KeepsRecords s₀ s) (c : BitVec 20) (f : Ctx → Ctx) : KeepsRecords s₀ (s.updCtx c f) := h.setCtx _ _

theorem KeepsRecords.ctxBack (h : KeepsRecords s₀ s) (c : Nat) : KeepsRecords s₀ (s.ctxBack c) := by
  have hopen : KeepsRecords s₀ (s.openBytes 256).2 := h.changed
  exact hopen.ownStore _ _

theorem KeepsRecords.fetchCtx (h : KeepsRecords s₀ s) (c : BitVec 20) : KeepsRecords s₀ (s.fetchCtx c) := by
  unfold State.fetchCtx
  refine .ite h (.ite ((h.setCtx _ _).bump (by decide)) ?_)
  split
  · exact h
  · exact ((((h.ctxBack _).updCtx _ _).bump (by decide)).updCtx _ _).bump (by decide)

theorem KeepsRecords.pumpFetch (h : KeepsRecords s₀ s) : KeepsRecords s₀ s.pumpFetch :=
  .foldlOf id (fun _ _ ht => ht.fetchCtx _) (.foldlOf id (fun _ _ ht => .ite (ht.fetchCtx _) ht) h)

end Fetch

/-- A state whose sender records are those of no other message than `m`. -/
def withoutMsg (s : State) (m : MsgId) : State := { s with srecs := s.srecs.filter (fun x => x.msg ≠ m) }

/-- A message that ends takes its record out; the rest is what `KeepsRecords` says. -/
theorem endMsg_keeps (s : State) (r : SRec) (st : Status) : KeepsRecords (withoutMsg s r.msg) (s.endMsg r st) := by
  have htracker : KeepsRecords (withoutMsg s r.msg) ((withoutMsg s r.msg).freeTracker r) := by
    unfold State.freeTracker
    exact .ite (.refl _) (KeepsRecords.refl _).changed
  exact (htracker.after ((Settles.refl _).msgEnded _ _ _ _)).pumpFetch

theorem srec?_endMsg (s : State) (r : SRec) (st : Status) : (s.endMsg r st).srec? r.msg = none := by
  rw [State.srec?, (endMsg_keeps s r st).srecs]
  simp [withoutMsg]

/-! ## Read requests (R231, R243, R244) -/

/-- A state without what issuing reads changes. -/
def exceptReads (s : State) : State := { s with fresh := 0, reads := [] }

/-- One response packet's read is issued. -/
def readStep (x : Rx) (keys : List XKey) (g : Nat) (e : Win) (s : State) (i : Nat) : State :=
  let s1 : State := { s with
    fresh := s.fresh + 1
    reads := s.reads ++ [⟨s.fresh, .win g x.pkt x.tc i (winId x.pkt.tgtA), respLen x.pkt i, keys, true⟩] }
  if isExt e.space ∧ respLen x.pkt i ≠ 0 then
    s1.emit (.memRead (portOf e.space) e.inst (respVa e x.pkt i) (respLen x.pkt i))
  else s1

/-- Inside the adapter, each response packet adds one read and nothing else. -/
theorem foldl_readStep (x : Rx) (keys : List XKey) (g : Nat) {e : Win} (he : e.space < 3) (l : List Nat) (s : State) :
    exceptReads (l.foldl (readStep x keys g e) s) = exceptReads s
      ∧ ∃ m, (l.foldl (readStep x keys g e) s).reads = s.reads ++ m ∧ m.length = l.length := by
  induction l generalizing s with
  | nil => exact ⟨rfl, [], (List.append_nil _).symm, rfl⟩
  | cons i l ih =>
    have hext : ¬ (isExt e.space = true ∧ respLen x.pkt i ≠ 0) := by
      simp [isExt]
      omega
    have hstep : readStep x keys g e s i = { s with
        fresh := s.fresh + 1
        reads := s.reads ++ [⟨s.fresh, .win g x.pkt x.tc i (winId x.pkt.tgtA), respLen x.pkt i, keys, true⟩] } := if_neg hext
    obtain ⟨hframe, m, hm, hlen⟩ := ih (readStep x keys g e s i)
    rw [List.foldl_cons]
    refine ⟨hframe.trans ?_, ⟨s.fresh, .win g x.pkt x.tc i (winId x.pkt.tgtA), respLen x.pkt i, keys, true⟩ :: m, ?_, ?_⟩
    · rw [hstep]
      rfl
    · rw [hm, hstep]
      simp
    · rw [List.length_cons, List.length_cons, hlen]

/-- A packet whose window is open leaves it as it was entered. -/
theorem win_leave {s : State} {w : Nat} (hopen : (s.win w).phase = .open_) :
    ((s.winLeave (some w)).win w).flight = (s.win w).flight - 1
      ∧ exceptAccept (s.winLeave (some w)) = exceptAccept s ∧ (s.winLeave (some w)).rrecs = s.rrecs := by
  have hupd : ((s.updWin w fun y => { y with flight := y.flight - 1 }).win w)
      = { s.win w with flight := (s.win w).flight - 1 } := by
    rw [State.updWin, win_setWin, if_pos rfl]
  have hleave : s.winLeave (some w) = s.updWin w fun y => { y with flight := y.flight - 1 } := by
    change State.revokeDone _ w = _
    unfold State.revokeDone
    extract_lets y
    rw [if_pos]
    refine .inl ?_
    rw [show y = _ from hupd]
    dsimp only
    rw [hopen]
    decide
  rw [hleave]
  exact ⟨congrArg Win.flight hupd, rfl, rfl⟩

theorem win_winEnter_self (s : State) (w : Nat) : ((s.winEnter w).win w).flight = (s.win w).flight + 1
    ∧ ((s.winEnter w).win w).phase = (s.win w).phase := by
  have ht : (s.winEnter w).win w = ((s.updWin w fun e => { e with flight := e.flight + 1 }).updWin w fun y =>
      { y with used := (s.updWin w fun e => { e with flight := e.flight + 1 }).fresh }).win w := rfl
  rw [ht, State.updWin, State.updWin, win_setWin, if_pos rfl, win_setWin, if_pos rfl]
  exact ⟨rfl, rfl⟩

/-- A request that wants no packet ends with its window; any other issues a read for each. -/
theorem readStart_inside {s : State} {x : Rx} (hspace : (s.win (winId x.pkt.tgtA)).space < 3)
    (hopen : (s.win (winId x.pkt.tgtA)).phase = .open_) (keys : List XKey) :
    let t := s.readStart x keys
    SameStores s t ∧ t.rrecs = s.rrecs
      ∧ (∃ l, t.reads = s.reads ++ l ∧ l.length = x.pkt.last.toNat + 1 - x.pkt.idx.toNat)
      ∧ (x.pkt.idx.toNat ≤ x.pkt.last.toNat → t.wins = s.wins)
      ∧ (x.pkt.last.toNat < x.pkt.idx.toNat →
          (t.win (winId x.pkt.tgtA)).flight = (s.win (winId x.pkt.tgtA)).flight - 1) := by
  intro t
  obtain ⟨hflight, hframe, hrrecs⟩ := win_leave hopen
  by_cases hle : x.pkt.idx.toNat ≤ x.pkt.last.toNat
  · have hne : ((List.range (x.pkt.last.toNat + 1 - x.pkt.idx.toNat)).map (· + x.pkt.idx.toNat)).isEmpty = false := by
      rw [List.isEmpty_eq_false_iff]
      intro h
      have hlen := congrArg List.length h
      simp at hlen
      omega
    have ht : t = ((List.range (x.pkt.last.toNat + 1 - x.pkt.idx.toNat)).map (· + x.pkt.idx.toNat)).foldl
        (readStep x keys s.fresh (s.win (winId x.pkt.tgtA))) { s with fresh := s.fresh + 1 } := by
      refine (if_neg ?_).trans rfl
      rw [hne]
      decide
    obtain ⟨hreads, m, hm, hlen⟩ := foldl_readStep x keys s.fresh hspace
      ((List.range (x.pkt.last.toNat + 1 - x.pkt.idx.toNat)).map (· + x.pkt.idx.toNat)) { s with fresh := s.fresh + 1 }
    rw [← ht] at hreads hm
    have field : ∀ {α : Type} (f : State → α), (∀ u, f (exceptReads u) = f u) → f t = f s := by
      intro α f hf
      rw [← hf t, hreads]
      exact hf s
    refine ⟨⟨field _ fun _ => rfl, field _ fun _ => rfl, field _ fun _ => rfl, field _ fun _ => rfl, field _ fun _ => rfl⟩,
      field _ fun _ => rfl, ⟨m, hm, ?_⟩, fun _ => field _ fun _ => rfl, fun hlt => absurd hle (Nat.not_le.mpr hlt)⟩
    rw [hlen, List.length_map, List.length_range]
  · have hnone : x.pkt.last.toNat + 1 - x.pkt.idx.toNat = 0 := by omega
    have ht : t = s.winLeave (some (winId x.pkt.tgtA)) := by
      refine if_pos ?_
      rw [hnone]
      rfl
    have field : ∀ {α : Type} (f : State → α), (∀ u, f (exceptAccept u) = f u) → f t = f s := by
      intro α f hf
      rw [← hf t, ht, hframe, hf s]
    refine ⟨⟨field _ fun _ => rfl, field _ fun _ => rfl, field _ fun _ => rfl, field _ fun _ => rfl, field _ fun _ => rfl⟩,
      ht ▸ hrrecs, ⟨[], ?_, hnone.symm⟩, fun h => absurd h hle, fun _ => ht ▸ hflight⟩
    rw [List.append_nil]
    exact field _ fun _ => rfl

/-- A NACK leaves all but what a reply changes, and its counter. -/
theorem nack_field {α : Type} (f : State → α) (hf : ∀ u, f (exceptReply u) = f u) (s : State) (x : Rx) (st : Status)
    (hbump : f (s.bump (Reg.XPT_CNT (if st = St.busy then 12 else 10))) = f s) : f (s.nack x st) = f s := by
  unfold State.nack
  split
  · rfl
  · exact (sendCtl_field f hf ..).trans hbump

theorem reg_nack {s : State} {x : Rx} {st : Status} (hmcast : s.ofMcast x.pkt = false) (hst : st ≠ St.busy) :
    (s.nack x st).reg (Reg.XPT_CNT 10) = s.reg (Reg.XPT_CNT 10) + 1 := by
  rw [State.nack, if_neg (by rw [hmcast]; decide), if_neg hst]
  refine (sendCtl_field (·.reg (Reg.XPT_CNT 10)) (fun _ => rfl) ..).trans ?_
  exact (reg_bump _ _ _).trans (if_pos rfl)

theorem countRefusal_field {α : Type} (f : State → α) (s : State) (st : Status) (hbump : ∀ a u, f (State.bump u a) = f u) :
    f (s.countRefusal st) = f s := by
  unfold State.countRefusal
  split
  · exact hbump _ _
  · split
    · exact hbump _ _
    · rfl

/-- A refused request draws its NACK. -/
theorem refusedRead (s : State) (x : Rx) (st : Status) :
    let t := (s.countRefusal st).nack x st
    t.reads = s.reads ∧ t.wins = s.wins ∧ SameStores s t
      ∧ (st ≠ St.busy → s.ofMcast x.pkt = false → Counts s t (Reg.XPT_CNT 10) 1) := by
  intro t
  have field : ∀ {α : Type} (f : State → α), (∀ u, f (exceptReply u) = f u) → (∀ a u, f (State.bump u a) = f u) →
      f t = f s := fun f hf hbump => (nack_field f hf _ _ _ (hbump _ _)).trans (countRefusal_field f s st hbump)
  refine ⟨field _ (fun _ => rfl) fun _ _ => rfl, field _ (fun _ => rfl) fun _ _ => rfl,
    ⟨field _ (fun _ => rfl) fun _ _ => rfl, field _ (fun _ => rfl) fun _ _ => rfl, field _ (fun _ => rfl) fun _ _ => rfl,
      field _ (fun _ => rfl) fun _ _ => rfl, field _ (fun _ => rfl) fun _ _ => rfl⟩, fun hst hmcast => ?_⟩
  have hrefusal : (s.countRefusal st).ofMcast x.pkt = false :=
    (countRefusal_field (·.ofMcast x.pkt) s st fun _ _ => rfl).trans hmcast
  have hreg : (s.countRefusal st).reg (Reg.XPT_CNT 10) = s.reg (Reg.XPT_CNT 10) := by
    unfold State.countRefusal
    split
    · exact (reg_bump _ _ _).trans (if_neg (by decide))
    · split
      · exact (reg_bump _ _ _).trans (if_neg (by decide))
      · rfl
  rw [Counts, reg_nack hrefusal hst, hreg]
  rfl

/-- Inside the adapter nothing needs a translation. -/
theorem readGo_inside {s : State} {x : Rx} (hspace : (s.win (winId x.pkt.tgtA)).space < 3) :
    s.readGo x = s.readStart x [] := by
  have hkeys : s.targetKeys (s.readTarget x.pkt) false true = [] := by
    refine if_neg ?_
    rw [State.readTarget, isExt]
    simp
    omega
  unfold State.readGo
  dsimp only
  rw [hkeys]
  rfl

/-- A request that its window, inside the adapter and in clear, admits starts its reads at once. -/
theorem rxRead_admitted {u : State} {x : Rx} (hcount : winId x.pkt.tgtA < u.winCount)
    (hcached : (u.win (winId x.pkt.tgtA)).cached = true) (hcheck : u.winCheck x.pkt = none)
    (hprot : u.winProt (u.win (winId x.pkt.tgtA)) (bits x.pkt.tgtB 0 48) (readReach x.pkt) = false)
    (henc : (u.win (winId x.pkt.tgtA)).enc = false) (hspace : (u.win (winId x.pkt.tgtA)).space < 3) :
    u.rxRead x = (u.winEnter (winId x.pkt.tgtA)).readStart x [] := by
  obtain ⟨-, hdata1, -⟩ := win_winEnter u (winId x.pkt.tgtA) (winId x.pkt.tgtA)
  unfold State.rxRead
  extract_lets p w e
  rw [if_neg (Nat.not_le.mpr hcount), if_neg (by rw [show e.cached = true from hcached]; decide), hcheck]
  dsimp only
  rw [if_neg (by rw [show u.winProt e _ _ = false from hprot]; decide), show e.enc = false from henc]
  exact readGo_inside (by rw [Win.space, hdata1]; exact hspace)

/-- A window that admits a packet is open. -/
theorem open_of_winCheck {s : State} {p : Packet} (h : s.winCheck p = none) : (s.win (winId p.tgtA)).phase = .open_ := by
  by_contra hclosed
  unfold State.winCheck at h
  extract_lets w e off reach at h
  rw [if_pos (.inr (.inl hclosed))] at h
  cases h

theorem readRequests : ReadRequests := by
  intro s x htaken e hcount hcached
  have harr := arrives_reached s x
  have hexec : exec (.readReq x) s = .next ((reached s x).rxRead x) := by
    rw [← rxFrom6_read htaken harr none rfl, ← receiveTyped_taken htaken (by decide)]
    rfl
  have hw := harr.win (winId x.pkt.tgtA)
  have hcount' : winId x.pkt.tgtA < (reached s x).winCount := by rw [harr.winCount]; exact hcount
  have hreads : (reached s x).reads = s.reads := harr.field State.reads fun _ => rfl
  have hmcast : (reached s x).ofMcast x.pkt = s.ofMcast x.pkt := by rw [State.ofMcast, State.ofMcast, harr.rrec?]
  have hcheck' := harr.winCheck x.pkt
  have hprot' := harr.winProt e (bits x.pkt.tgtB 0 48) (readReach x.pkt)
  have hstores := harr.stores
  have hrrecs := harr.rrecs
  have hreg10 := harr.regs (Reg.XPT_CNT 10) (by decide) (by decide)
  generalize reached s x = u at *
  refine ⟨fun hcheck hprot henc hspace => ?_, fun st hst hbusy => ?_⟩
  · have hgo := rxRead_admitted hcount' (by rw [hw]; exact hcached) (hcheck'.trans hcheck) (by rw [hw, hprot', hprot])
      (by rw [hw]; exact henc) (by rw [hw]; exact hspace)
    obtain ⟨hflight, hphase⟩ := win_winEnter_self u (winId x.pkt.tgtA)
    obtain ⟨-, hdata1, -⟩ := win_winEnter u (winId x.pkt.tgtA) (winId x.pkt.tgtA)
    have henter := winEnter_frame u (winId x.pkt.tgtA)
    have henterRrecs := winEnter_rrecs u (winId x.pkt.tgtA)
    rw [hgo] at hexec
    rw [hw] at hflight hphase hdata1
    generalize u.winEnter (winId x.pkt.tgtA) = v at *
    have field : ∀ {α : Type} (f : State → α), (∀ u, f (exceptAccept u) = f u) → f v = f u := by
      intro α f hf
      rw [← hf v, henter, hf u]
    obtain ⟨hsame, hrecs, ⟨l, hl, hlen⟩, hwins, hleft⟩ := readStart_inside (s := v) (x := x)
      (by rw [Win.space, hdata1]; exact hspace) (hphase.trans (open_of_winCheck hcheck)) []
    refine ⟨_, l, hexec, ?_, hlen, fun hle => ?_, fun hlt => ?_, ?_, ?_⟩
    · rw [hl, field State.reads fun _ => rfl, hreads]
    · rw [State.win, hwins hle]
      exact hflight
    · rw [hleft hlt, hflight, Nat.add_sub_cancel]
    · have henterStores : SameStores u v := ⟨field _ fun _ => rfl, field _ fun _ => rfl, field _ fun _ => rfl,
        field _ fun _ => rfl, field _ fun _ => rfl⟩
      exact sameStores_trans (sameStores_trans hstores henterStores) hsame
    · rw [hrecs, henterRrecs, hrrecs]
  · have hrefused : u.rxRead x = (u.countRefusal st).nack x st := by
      unfold State.rxRead
      extract_lets p w e'
      rw [if_neg (Nat.not_le.mpr hcount'), if_neg (by rw [show e' = _ from hw, hcached]; decide), hcheck', hst]
    rw [hrefused] at hexec
    obtain ⟨hread, hwins, hsame, hcounts⟩ := refusedRead u x st
    refine ⟨_, hexec, hread.trans hreads, fun hm => ?_, ?_, sameStores_trans hstores hsame⟩
    · rw [Counts, hcounts hbusy (hmcast.trans hm), hreg10]
    · rw [State.win, hwins, ← State.win, hw]

/-! ## Responses (R231) -/

theorem le_firstClear (m c n : Nat) : c ≤ firstClear m c n := by
  induction n generalizing c with
  | zero => exact Nat.le_refl c
  | succ n ih =>
    unfold firstClear
    split
    · exact Nat.le_of_succ_le (ih (c + 1))
    · exact Nat.le_refl c

theorem firstClear_le {m c i : Nat} (n : Nat) (hc : c ≤ i) (hi : m.testBit i = false) : firstClear m c n ≤ i := by
  induction n generalizing c with
  | zero => exact hc
  | succ n ih =>
    unfold firstClear
    split
    next hset =>
      refine ih (Nat.lt_of_le_of_ne hc fun e => ?_)
      rw [e, hi] at hset
      cases hset
    · exact hc

theorem lt_firstClear {m c last n : Nat} (hn : last < c + n) (hall : ∀ i, c ≤ i → i ≤ last → m.testBit i = true) :
    last < firstClear m c n := by
  induction n generalizing c with
  | zero => exact hn
  | succ n ih =>
    unfold firstClear
    split
    · exact ih (by omega) fun i hi hl => hall i (by omega) hl
    next hclear =>
      by_contra hle
      exact hclear (hall c (Nat.le_refl c) (by omega))

/-- Stores to adapter memory without stored errors, none of whose lines a package holds, are done at once. -/
theorem storeRuns_clean_all {s : State} (hclean : CleanMemory s) (inst : BitVec 8) (clu : Nat) (k : WriteKind)
    (rs : List (Word × Nat)) (bs : List Byte) :
    (s.storeRuns inst clu 0 k rs bs).1 = false ∧ (s.storeRuns inst clu 0 k rs bs).2.1 = 0 := by
  unfold State.storeRuns
  split
  · exact ⟨rfl, rfl⟩
  · rw [if_neg (by decide)]
    dsimp only
    refine (List.foldlRecOn (motive := fun acc : Bool × Nat × List Byte × State =>
      acc.1 = false ∧ acc.2.1 = 0 ∧ CleanMemory acc.2.2.2) rs _ ⟨rfl, rfl, hclean⟩ fun acc hacc r _ => ?_).imp id And.left
    obtain ⟨hok, hnow, hmem⟩ := hacc
    obtain ⟨hrok, hrnow, hwrites⟩ := storeRun_clean hmem inst clu k r.1 (acc.2.2.1.take r.2)
    have hfilter := congrArg State.filter hwrites.frame
    dsimp only
    refine ⟨?_, ?_, hwrites.raw, Eq.trans hfilter hmem.2⟩
    · rw [hok, hrok]
      rfl
    · rw [hnow, hrnow]
      rfl

/-- Every response of record `r` is held, with `acked` the ones that are. -/
def AllHeld (r : SRec) (acked : Nat) : Prop := ∀ i, r.cum ≤ i → i ≤ r.last → acked.testBit i = true

theorem respDone_last {s : State} {m : MsgId} {r : SRec} (hr : s.srec? m = some r) {i : Nat}
    (hall : AllHeld r (r.acked ||| 2 ^ i)) : (s.respDone m i).srec? m = none := by
  have hlast : r.last < firstClear (r.acked ||| 2 ^ i) r.cum (r.last + 1) := lt_firstClear (by omega) hall
  unfold State.respDone
  rw [hr]
  dsimp only
  rw [if_pos hlast, ← msg_of_srec? hr]
  exact srec?_endMsg ..

theorem respDone_notLast {s : State} {m : MsgId} {r : SRec} (hr : s.srec? m = some r) {i j : Nat} (hj : r.cum ≤ j)
    (hlast : j ≤ r.last) (hclear : (r.acked ||| 2 ^ i).testBit j = false) :
    ∃ x, (s.respDone m i).srec? m = some x ∧ x.acked = r.acked ||| 2 ^ i := by
  have hle := firstClear_le (r.last + 1) hj hclear
  unfold State.respDone
  rw [hr]
  dsimp only
  rw [if_neg (by omega), State.restartTimer]
  refine ⟨_, (srec?_updSrec _ _ _ (by intro; rfl)).trans (congrArg _ ((srec?_updSrec _ _ _ (by intro; rfl)).trans
    (congrArg _ hr))), rfl⟩

theorem srecs_respFlush (s : State) (m : MsgId) : (s.respFlush m).srecs = s.srecs := by
  unfold State.respFlush
  split
  · split <;> rfl
  · rfl

/-- A response with its place in clean adapter memory is recorded at once. -/
theorem respPlace_clean {s : State} (hclean : CleanMemory s) {r : SRec} (p : Packet) {id g : Nat} (hsrc : r.src = .op id g)
    {o : Op} {k : Nat} (hseg : s.segIdx id g = some (o, k)) (hspace : o.dst.space = 0) :
    ∃ u : State, u.srecs = s.srecs ∧ s.respPlace r p = (u.respDone r.msg p.idx.toNat).respFlush r.msg := by
  obtain ⟨hok, hnow⟩ := storeRuns_clean_all hclean o.inst o.clu (.resp r.msg p.idx.toNat)
    (sliceRuns (o.dst.span (o.part k).1 (o.part k).2) (p.idx.toNat * 4096) p.payload.length) p.payload
  have hkeeps : KeepsRecords s _ := (KeepsRecords.refl s).storeRuns o.inst o.clu 0 (.resp r.msg p.idx.toNat)
    (sliceRuns (o.dst.span (o.part k).1 (o.part k).2) (p.idx.toNat * 4096) p.payload.length) p.payload
  refine ⟨_, hkeeps.srecs, ?_⟩
  unfold State.respPlace
  rw [hsrc]
  dsimp only
  rw [hseg]
  dsimp only
  rw [hspace, hok, if_neg (by decide), if_pos hnow]

/-- A response that is taken comes to its record. -/
theorem receive_response {s : State} {x : Rx} {r : SRec} (h : Taken s x 5) (hr : s.srec? x.pkt.msg = some r) (htyp : r.typ = 4) :
    s.receiveTyped x 5 none = (reached s x).rxResp x r := by
  obtain ⟨halive, hpkt, hheader, -⟩ := id h
  have ha := arrives_arrived s x
  have hu := arrives_reached s x
  rw [receiveTyped_reply halive hpkt hheader (by decide) ((ha.srec? _).trans hr), if_neg (by decide), if_neg (by decide),
    if_neg (fun hne => hne htyp), rxFrom3_taken h, rxFrom6_response h hu none rfl ((hu.srec? _).trans hr)]

theorem readResponses : ReadResponses := by
  intro s x r htaken hr htyp henc
  have hu := arrives_reached s x
  have hexec : exec (.readResp x) s = .next ((reached s x).rxResp x r) := by
    rw [← receive_response htaken hr htyp]
    rfl
  have hdup := hu.field (·.respDup r x.pkt.idx.toNat) fun _ => rfl
  have hmsg := msg_of_srec? hr
  refine ⟨fun hnew hclean id g o k hsrc hseg hspace => ?_, fun hold => ?_⟩
  · have hclean' : CleanMemory (reached s x) :=
      ⟨(hu.field State.raw fun _ => rfl).trans hclean.1, (hu.field State.filter fun _ => rfl).trans hclean.2⟩
    have hseg' : (reached s x).segIdx id g = some (o, k) := (hu.field (·.segIdx id g) fun _ => rfl).trans hseg
    obtain ⟨u, hsrecs, hplace⟩ := respPlace_clean hclean' x.pkt hsrc hseg' hspace
    have hrx : (reached s x).rxResp x r = (u.respDone r.msg x.pkt.idx.toNat).respFlush r.msg := by
      unfold State.rxResp
      dsimp only
      rw [if_neg (by rw [hdup, hnew]; decide), if_pos (by rw [henc]; decide), hplace]
    have hfound : u.srec? x.pkt.msg = some r := by rw [State.srec?, hsrecs, hu.srecs]; exact hr
    have hflush : ∀ v : State, (v.respFlush r.msg).srec? x.pkt.msg = v.srec? x.pkt.msg := fun v => by
      rw [State.srec?, State.srec?, srecs_respFlush]
    rw [hrx] at hexec
    intro acked
    refine ⟨fun hall => ⟨_, hexec, ?_⟩, fun i hi hlast hclear => ?_⟩
    · rw [hflush, hmsg]
      exact respDone_last hfound hall
    · obtain ⟨y, hy, hacked⟩ := respDone_notLast hfound hi hlast hclear
      refine ⟨_, y, hexec, ?_, hacked⟩
      rw [hflush, hmsg]
      exact hy
  · have hrx : (reached s x).rxResp x r = (reached s x).bump (Reg.XPT_CNT 4) := by
      unfold State.rxResp
      dsimp only
      rw [if_pos (hdup.trans hold)]
    rw [hrx] at hexec
    refine ⟨_, hexec, ?_, hu.srecs, hu.stores⟩
    rw [Counts, reg_bump, if_pos rfl, hu.regs _ (by decide) (by decide)]
    rfl

/-- Settles O27: what read requests and their responses leave. -/
theorem readsArrive : Obligations.ReadsArrive := ⟨readRequests, readResponses⟩

end Sys2Proof.Proofs
end

section
/-!
PROOF. Replies and timers (R212, R213, R216, R221, R223, R232).
-/

namespace Sys2Proof.Proofs

open Sys2Proof.Machine Sys2Proof.Laws Sys2Proof.Claims

/-! ## ACKs and NACKs (R212, R213, R216, R223, R232) -/

theorem srecs_rateDown (s : State) (c : BitVec 20) : (s.rateDown c).srecs = s.srecs := by
  unfold State.rateDown
  extract_lets x hold due p f r
  split <;> rfl

/-- The state on which an ACK acts: a mark of congestion lowers the rate first (R228). -/
def echoed (s : State) (r : SRec) (p : Packet) : State :=
  if p.ece then (s.bump (Reg.XPT_CNT 15)).rateDown r.srcCtx else s

theorem srecs_echoed (s : State) (r : SRec) (p : Packet) : (echoed s r p).srecs = s.srecs := by
  unfold echoed
  split
  · exact srecs_rateDown ..
  · rfl

theorem srec?_echoed (s : State) (r : SRec) (p : Packet) (m : MsgId) : (echoed s r p).srec? m = s.srec? m := by
  rw [State.srec?, srecs_echoed]
  rfl

theorem onAck_eq (s : State) (r : SRec) (p : Packet) :
    s.onAck r p =
      if r.mcast then (if p.fin then (echoed s r p).ackMember r p else echoed s r p)
      else if p.fin then (echoed s r p).endMsg r p.attr
      else if r.typ = 4 then echoed s r p
      else (echoed s r p).ackMark r p := rfl

theorem testBit_ackShows (p : Packet) (last i : Nat) :
    (ackShows p last).testBit i = (decide (i ≤ last) && (decide (i < p.idx.toNat) || (decide (p.idx.toNat < i)
      && p.tgtB.toNat.testBit (i - p.idx.toNat - 1)))) := by
  simp only [ackShows, Nat.testBit_mod_two_pow, Nat.testBit_or, Nat.testBit_two_pow_sub_one, Nat.testBit_shiftLeft,
    Nat.lt_succ_iff, Nat.sub_sub, ge_iff_le, Nat.succ_le_iff]

theorem srec?_restartTimer (s : State) (m : MsgId) {r : SRec} (hr : s.srec? m = some r) :
    ∃ t, (s.restartTimer m).srec? m = some { r with timer := t } :=
  ⟨_, (srec?_updSrec _ _ _ (by intro; rfl)).trans (congrArg _ hr)⟩

theorem srec?_putSrec {s : State} {m : MsgId} {r x : SRec} (hr : s.srec? m = some r) (hx : x.msg = m) :
    (s.updSrec m fun _ => x).srec? m = some x := by
  have hguard : s.updSrec m (fun _ => x) = s.updSrec m fun y => if y.msg = m then x else y := by
    unfold State.updSrec
    congr 1
    refine List.map_congr_left fun y _ => ?_
    by_cases hy : y.msg = m <;> simp [hy]
  rw [hguard, srec?_updSrec _ _ _ fun y => by split <;> simp [*], hr]
  simp [msg_of_srec? hr]

/-- An ACK of a message to one adapter marks what it shows. -/
theorem srec?_ackMark {s : State} {r : SRec} (hr : s.srec? r.msg = some r) (p : Packet) :
    ∃ x, (s.ackMark r p).srec? r.msg = some x ∧ x.acked = r.acked ||| ackShows p r.last := by
  unfold State.ackMark
  extract_lets acked cum r1 fs r2 s1
  have hs1 : s1.srec? r.msg = some r2 := srec?_putSrec hr rfl
  split
  · obtain ⟨t, ht⟩ := srec?_restartTimer s1 r.msg hs1
    exact ⟨_, ht, rfl⟩
  · exact ⟨_, hs1, rfl⟩

theorem srec?_ackMember_ends (s : State) {r : SRec} {p : Packet}
    (h : p.attr ≠ 0 ∨ r.members &&& ~~~(BitVec.ofNat 64 (2 ^ rankIn r.line p.src)) = 0) :
    (s.ackMember r p).srec? r.msg = none := by
  unfold State.ackMember
  dsimp only
  split
  · exact srec?_endMsg ..
  next hattr =>
    rw [if_pos (h.resolve_left hattr)]
    exact srec?_endMsg ..

theorem srec?_ackMember_left {s : State} {r : SRec} (hr : s.srec? r.msg = some r) {p : Packet} (hattr : p.attr = 0)
    (hleft : r.members &&& ~~~(BitVec.ofNat 64 (2 ^ rankIn r.line p.src)) ≠ 0) :
    ∃ x, (s.ackMember r p).srec? r.msg = some x
      ∧ x.members = r.members &&& ~~~(BitVec.ofNat 64 (2 ^ rankIn r.line p.src)) := by
  unfold State.ackMember
  dsimp only
  rw [if_neg (not_not_intro hattr), if_neg hleft]
  exact ⟨_, (srec?_updSrec _ _ _ (by intro; rfl)).trans (congrArg _ hr), rfl⟩


theorem onNack_busy {s : State} {r : SRec} (hr : s.srec? r.msg = some r) {p : Packet} (hbusy : p.attr = St.busy) :
    (s.onNack r p).srec? r.msg = some { r with
      busy := r.busy ++
        [(⟨p.idx.toNat, .busy, if r.mcast then p.src else r.dst, s.now⟩, s.ps + us (s.fld Reg.XPT_BUSY 0 16))] } ∧
    (s.onNack r p).reg (Reg.XPT_CNT 11) = s.reg (Reg.XPT_CNT 11) + 1 := by
  have hfld : (s.bump (Reg.XPT_CNT 11)).fld Reg.XPT_BUSY 0 16 = s.fld Reg.XPT_BUSY 0 16 := by
    rw [State.fld, State.fld, reg_bump, if_neg (by decide)]
  unfold State.onNack
  dsimp only
  rw [if_pos hbusy, ← hfld]
  exact ⟨(srec?_updSrec _ _ _ (by intro; rfl)).trans (congrArg _ hr), (reg_bump s _ _).trans (if_pos rfl)⟩

theorem onNack_status {s : State} {r : SRec} (hr : s.srec? r.msg = some r) {p : Packet} (hbusy : p.attr ≠ St.busy)
    (htyp : r.typ ≠ 4) :
    (s.onNack r p).srec? r.msg = some { r with status := some (r.status.getD p.attr) } ∧
    (s.onNack r p).reg (Reg.XPT_CNT 11) = s.reg (Reg.XPT_CNT 11) + 1 := by
  unfold State.onNack
  dsimp only
  rw [if_neg hbusy, if_neg htyp]
  exact ⟨(srec?_updSrec _ _ _ (by intro; rfl)).trans (congrArg _ hr), (reg_bump s _ _).trans (if_pos rfl)⟩

theorem onNack_ends (s : State) {r : SRec} {p : Packet} (hbusy : p.attr ≠ St.busy) (htyp : r.typ = 4) :
    (s.onNack r p).srec? r.msg = none := by
  unfold State.onNack
  dsimp only
  rw [if_neg hbusy, if_pos htyp]
  exact srec?_endMsg ..

/-- An ACK of a message to one adapter, with and without FIN. -/
theorem onAck_unicast {s : State} {r : SRec} (hr : s.srec? r.msg = some r) (hmcast : r.mcast = false) (p : Packet) :
    (p.fin = true → (s.onAck r p).srec? r.msg = none) ∧
    (p.fin = false → r.typ ≠ 4 → ∃ x, (s.onAck r p).srec? r.msg = some x ∧ x.acked = r.acked ||| ackShows p r.last) := by
  rw [onAck_eq, if_neg (by rw [hmcast]; decide)]
  refine ⟨fun hfin => ?_, fun hfin htyp => ?_⟩
  · rw [if_pos hfin]
    exact srec?_endMsg ..
  · rw [if_neg (by rw [hfin]; decide), if_neg htyp]
    exact srec?_ackMark ((srec?_echoed ..).trans hr) p

/-- An ACK of a multicast message: a member that has finished leaves it. -/
theorem onAck_multicast {s : State} {r : SRec} (hr : s.srec? r.msg = some r) (hmcast : r.mcast = true) (p : Packet) :
    let left := r.members &&& ~~~(BitVec.ofNat 64 (2 ^ rankIn r.line p.src))
    (p.fin = false → (s.onAck r p).srecs = s.srecs) ∧
    (p.fin = true → p.attr ≠ 0 ∨ left = 0 → (s.onAck r p).srec? r.msg = none) ∧
    (p.fin = true → p.attr = 0 → left ≠ 0 → ∃ x, (s.onAck r p).srec? r.msg = some x ∧ x.members = left) := by
  rw [onAck_eq, if_pos hmcast]
  refine ⟨fun hfin => ?_, fun hfin hend => ?_, fun hfin hattr hleft => ?_⟩
  · rw [if_neg (by rw [hfin]; decide)]
    exact srecs_echoed ..
  · rw [if_pos hfin]
    exact srec?_ackMember_ends _ hend
  · rw [if_pos hfin]
    exact srec?_ackMember_left ((srec?_echoed ..).trans hr) hattr hleft

theorem acknowledgements : Acknowledgements := by
  intro s x halive hheader
  have ha := arrives_arrived s x
  have hack : exec (.ack x) s = .next (s.receiveTyped x 8 none) := rfl
  have hnack : exec (.nack x) s = .next (s.receiveTyped x 9 none) := rfl
  have hreply (r : SRec) (hr : s.srec? x.pkt.msg = some r) :
      (x.pkt.typ = 8 → exec (.ack x) s = .next ((arrived s x).onAck r x.pkt)) ∧
      (x.pkt.typ = 9 → exec (.nack x) s = .next ((arrived s x).onNack r x.pkt)) := by
    refine ⟨fun htyp => ?_, fun htyp => ?_⟩
    · rw [hack, receiveTyped_reply halive htyp hheader (by decide) ((ha.srec? _).trans hr), if_pos rfl]
    · rw [hnack, receiveTyped_reply halive htyp hheader (by decide) ((ha.srec? _).trans hr), if_neg (by decide), if_pos rfl]
  have hstray (hnone : s.srec? x.pkt.msg = none) (t : BitVec 4) (ht : t = 5 ∨ t = 8 ∨ t = 9) (htyp : x.pkt.typ = t) :
      s.receiveTyped x t none = (arrived s x).bump (Reg.XPT_CNT 7) :=
    receiveTyped_stray halive htyp hheader ht ((ha.srec? _).trans hnone) none
  have hcount (k : Nat) (hk : Reg.XPT_CNT k ≠ Reg.FAB_CNT 4) (hk' : Reg.XPT_CNT k ≠ Reg.XPT_CNT 1) :
      Counts s ((arrived s x).bump (Reg.XPT_CNT k)) (Reg.XPT_CNT k) 1 := by
    rw [Counts, reg_bump, if_pos rfl, ha.regs _ hk hk']
    rfl
  refine ⟨fun r hr hmcast => ?_, fun r hr hmcast => ?_, fun hnone => ⟨fun htyp => ?_, fun htyp => ?_⟩⟩
  · obtain ⟨hack, hnack⟩ := hreply r hr
    have hmsg := msg_of_srec? hr
    have hr' : (arrived s x).srec? r.msg = some r := by rw [hmsg, ha.srec?, hr]
    obtain ⟨hends, hmarks⟩ := onAck_unicast hr' hmcast x.pkt
    have hcount : (arrived s x).reg (Reg.XPT_CNT 11) = s.reg (Reg.XPT_CNT 11) := ha.regs _ (by decide) (by decide)
    simp only [← hmsg]
    refine ⟨fun htyp hfin => ⟨_, hack htyp, hends hfin⟩, fun htyp hfin h4 => ?_, fun htyp hbusy => ?_,
      fun htyp hbusy h4 => ?_, fun htyp hbusy h4 => ⟨_, hnack htyp, onNack_ends _ hbusy h4⟩⟩
    · obtain ⟨y, hy, hacked⟩ := hmarks hfin h4
      exact ⟨_, y, hack htyp, hy, fun i => by rw [hacked, Nat.testBit_or, testBit_ackShows]⟩
    · obtain ⟨hy, hreg⟩ := onNack_busy hr' hbusy
      refine ⟨_, _, hnack htyp, hy, ?_, rfl, ?_⟩
      · rw [ha.field State.now fun _ => rfl, ha.field State.ps fun _ => rfl, State.fld, ha.regs _ (by decide) (by decide),
          hmcast]
        rfl
      · rw [Counts, hreg, hcount]
        rfl
    · obtain ⟨hy, hreg⟩ := onNack_status hr' hbusy h4
      refine ⟨_, _, hnack htyp, hy, rfl, ?_⟩
      rw [Counts, hreg, hcount]
      rfl
  · obtain ⟨hack, -⟩ := hreply r hr
    have hmsg := msg_of_srec? hr
    have hr' : (arrived s x).srec? r.msg = some r := by rw [hmsg, ha.srec?, hr]
    obtain ⟨hstays, hends, hleaves⟩ := onAck_multicast hr' hmcast x.pkt
    simp only [← hmsg]
    refine ⟨fun htyp hfin => ⟨_, hack htyp, (hstays hfin).trans ha.srecs⟩,
      fun htyp hfin hend => ⟨_, hack htyp, hends hfin hend⟩, fun htyp hfin hattr hleft => ?_⟩
    obtain ⟨y, hy, hmembers⟩ := hleaves hfin hattr hleft
    exact ⟨_, y, hack htyp, hy, hmembers⟩
  · exact ⟨_, hack.trans (congrArg _ (hstray hnone 8 (by decide) htyp)), hcount 7 (by decide) (by decide), ha.srecs,
      ha.stores⟩
  · exact ⟨_, hnack.trans (congrArg _ (hstray hnone 9 (by decide) htyp)), hcount 7 (by decide) (by decide), ha.srecs,
      ha.stores⟩

/-! ## Timers of messages (R212, R221, R223) -/

theorem mem_timerList (s : State) {r : SRec} (hmcast : r.mcast = false) (htyp : r.typ ≠ 4) (hlast : r.cum ≤ r.last) (i : Nat) :
    (∃ e ∈ s.timerList r, e.idx = i) ↔ r.cum ≤ i ∧ i < r.sent ∧ i < r.cum + 256 ∧ r.acked.testBit i = false := by
  have hlist : s.timerList r = (((List.range (min r.sent (r.cum + 256) - r.cum)).map (· + r.cum)).filter
      (fun i => !r.acked.testBit i)).map (fun i => ⟨i, .timer, r.dst, s.now⟩) := by
    unfold State.timerList
    rw [if_neg (by rw [hmcast]; decide), if_neg htyp, if_neg (by omega)]
  rw [hlist]
  simp only [List.mem_map, List.mem_filter, List.mem_range, exists_exists_and_eq_and, Bool.not_eq_true', exists_eq_right]
  constructor
  · rintro ⟨⟨k, hk, rfl⟩, hclear⟩
    exact ⟨by omega, by omega, by omega, hclear⟩
  · rintro ⟨hcum, hsent, hwindow, hclear⟩
    exact ⟨⟨i - r.cum, by omega, by omega⟩, hclear⟩

/-- A due acknowledgement is sent by the plane that the schedule picks, or by the loopback. -/
theorem sendCtl_emits (s : State) (c : BitVec 20) (tc : Nat) (p : Packet) :
    (s.hop p.dst = .loop → (s.sendCtl c tc p).loop = s.loop ++ [looped p tc]) ∧
    (s.hop p.dst ≠ .loop → ∀ i wrr, wrrPick (s.ctx c).wrr (s.routePlanes p.dst) = some (i, wrr) →
      (s.sendCtl c tc p).out = s.out ++ [.packet i p]) := by
  unfold State.sendCtl
  refine ⟨fun h => ?_, fun h i wrr hpick => ?_⟩
  · rw [if_pos h]
    rfl
  · rw [if_neg h]
    unfold State.ctx at hpick
    dsimp only
    rw [hpick]
    dsimp only
    split <;> rfl

theorem sendAck_sent {s : State} {src : AdapterId} {m : MsgId} {r : RRec} (hr : s.rrec? src m = some r) :
    ∃ x, (s.sendAck src m false).rrec? src m = some x ∧ x.unacked = 0 ∧ x.ackDue = none ∧
      (r.mcast = false → ∃ u : State,
        s.sendAck src m false = u.sendCtl r.dstCtx r.tc.toNat (s.ackPacket r false) ∧
        u.loop = s.loop ∧ u.out = s.out ∧ u.hop = s.hop ∧ u.ctx = s.ctx ∧ u.routePlanes = s.routePlanes) := by
  unfold State.sendAck
  rw [hr]
  dsimp only
  by_cases hmcast : r.mcast = true
  · rw [if_pos ⟨hmcast, rfl⟩]
    refine ⟨_, (rrec?_updRrec s src m _ (by exact fun _ => ⟨rfl, rfl⟩)).trans (congrArg _ hr), rfl, rfl, fun hno => ?_⟩
    rw [hmcast] at hno
    cases hno
  · rw [if_neg fun hboth => hmcast hboth.1]
    refine ⟨{ r with unacked := 0, ackDue := none, ece := false }, ?_, rfl, rfl, fun _ => ⟨_, rfl, rfl, rfl, rfl, rfl, rfl⟩⟩
    refine (sendCtl_field (fun u : State => u.rrec? src m) (fun _ => rfl) ..).trans ?_
    exact (rrec?_updRrec s src m _ (by exact fun _ => ⟨rfl, rfl⟩)).trans (congrArg _ hr)

theorem ackDelay_due {s : State} {src : AdapterId} {m : MsgId} {r : RRec} (hr : s.rrec? src m = some r) {a : Nat}
    (ha : r.ackDue = some a) (hdue : a ≤ s.ps) (hfinal : r.finalSent = false) :
    s.ackDelay src m = s.sendAck src m false := by
  unfold State.ackDelay
  rw [hr]
  dsimp only
  rw [ha]
  exact if_pos ⟨hdue, by rw [hfinal]; rfl⟩

section Expiry

variable {s : State} {m : MsgId} {r : SRec} {a : Nat} (hr : s.srec? m = some r) (ha : r.timer = some a)

include hr ha

theorem retxExpiry_eq :
    s.retxExpiry m =
      if s.ps < a then s
      else if !s.mayRetx r.birth ∨ s.fld Reg.XPT_RTO_CFG 32 4 ≤ r.retx then s.updSrec m (fun x => { x with timer := none })
      else (s.updSrec m (fun x => { x with again := s.timerList r, expo := x.expo + 1, retx := x.retx + 1 })).restartTimer m := by
  unfold State.retxExpiry
  rw [hr]
  dsimp only
  rw [ha]

theorem retxExpiry_again (hdue : a ≤ s.ps) (hmay : s.mayRetx r.birth = true) (hlimit : r.retx < s.fld Reg.XPT_RTO_CFG 32 4) :
    (s.retxExpiry m).srec? m = some { r with
      again := s.timerList r
      expo := r.expo + 1
      retx := r.retx + 1
      timer := some (s.ps + us (s.rtoUs (r.expo + 1))) } := by
  rw [retxExpiry_eq hr ha, if_neg (by omega), if_neg (by rw [hmay]; simpa using hlimit)]
  exact (srec?_updSrec _ _ _ (by intro; rfl)).trans
    (congrArg _ ((srec?_updSrec _ _ _ (by intro; rfl)).trans (congrArg _ hr)))

theorem retxExpiry_stops (hdue : a ≤ s.ps) (hend : s.mayRetx r.birth = false ∨ s.fld Reg.XPT_RTO_CFG 32 4 ≤ r.retx) :
    (s.retxExpiry m).srec? m = some { r with timer := none } := by
  rw [retxExpiry_eq hr ha, if_neg (by omega), if_pos (hend.imp (fun h => by rw [h]; rfl) id)]
  exact (srec?_updSrec _ _ _ (by intro; rfl)).trans (congrArg _ hr)

theorem retxExpiry_early (hearly : s.ps < a) : s.retxExpiry m = s := by
  rw [retxExpiry_eq hr ha, if_pos hearly]

end Expiry

/-- An expired timer changes nothing but the records. -/
theorem retxExpiry_frame (s : State) (m : MsgId) : { s.retxExpiry m with srecs := [] } = { s with srecs := [] } := by
  unfold State.retxExpiry
  split
  · rfl
  · split
    · rfl
    · split
      · rfl
      · split <;> rfl

theorem busyResend_due {s : State} {m : MsgId} {r : SRec} (hr : s.srec? m = some r) {i : Nat} {e : Resend × Nat}
    (he : r.busy.find? (fun e => e.1.idx = i ∧ e.2 ≤ s.ps) = some e) :
    s.busyResend m i = s.updSrec m (fun x => { x with
      busy := x.busy.erase e
      again := if !x.mcast ∧ x.acked.testBit i then x.again else x.again ++ [{ e.1 with at_ := s.now }] }) := by
  unfold State.busyResend
  rw [hr]
  dsimp only
  rw [he]

theorem messageTimers : MessageTimers := by
  intro s halive
  refine ⟨fun src msg r a hr ha hdue hfinal => ?_, fun msg r a hr ha => ⟨fun hdue hmay hlimit => ?_, fun hdue hend => ?_,
    fun hearly => ?_⟩, fun msg idx r e hr he => ?_⟩
  · have hexec : exec (.ackDelayExpiry src msg) s = .next (s.ackDelay src msg) := if_pos halive
    rw [ackDelay_due hr ha hdue hfinal] at hexec
    obtain ⟨x, hx, hunacked, hackDue, hsent⟩ := sendAck_sent hr
    refine ⟨_, x, hexec, hx, hunacked, hackDue, fun hmcast hloop => ?_, fun hmcast hhop i wrr hpick => ?_⟩
    · obtain ⟨u, heq, huloop, -, huhop, -, -⟩ := hsent hmcast
      rw [heq, ← huloop]
      exact (sendCtl_emits u _ _ _).1 (by rw [huhop]; exact hloop)
    · obtain ⟨u, heq, -, huout, huhop, huctx, hroute⟩ := hsent hmcast
      rw [heq, ← huout]
      exact (sendCtl_emits u _ _ _).2 (by rw [huhop]; exact hhop) i wrr (by rw [huctx, hroute]; exact hpick)
  · have hexec : exec (.retxTimerExpiry msg) s = .next (s.retxExpiry msg) := if_pos halive
    have hframe {α : Type} (f : State → α) (hf : ∀ u : State, f { u with srecs := [] } = f u) :
        f (s.retxExpiry msg) = f s := by
      rw [← hf (s.retxExpiry msg), retxExpiry_frame, hf s]
    refine ⟨_, _, hexec, retxExpiry_again hr ha hdue hmay hlimit, rfl, rfl, ?_, fun hmcast htyp hcum i =>
      mem_timerList s hmcast htyp hcum i, hframe State.regs fun _ => rfl, hframe State.mem fun _ => rfl,
      hframe State.tmem fun _ => rfl, hframe State.nbuf fun _ => rfl, hframe State.pio fun _ => rfl,
      hframe State.sems fun _ => rfl⟩
    rw [us, Nat.mul_comm]
  · have hexec : exec (.retxTimerExpiry msg) s = .next (s.retxExpiry msg) := if_pos halive
    exact ⟨_, _, hexec, retxExpiry_stops hr ha hdue hend, rfl, rfl⟩
  · have hexec : exec (.retxTimerExpiry msg) s = .next (s.retxExpiry msg) := if_pos halive
    rw [hexec, retxExpiry_early hr ha hearly]
  · have hexec : exec (.busyResend msg idx) s = .next (s.busyResend msg idx.toNat) := if_pos halive
    rw [busyResend_due hr he] at hexec
    refine ⟨_, _, hexec, (srec?_updSrec _ _ _ (by intro; rfl)).trans (congrArg _ hr), rfl, ?_, rfl, rfl, rfl, rfl, rfl, rfl⟩
    simp

/-- Settles O28: what replies and timers do to the records of messages. -/
theorem acknowledgementsAndTimers : Obligations.AcknowledgementsAndTimers := ⟨acknowledgements, messageTimers⟩

end Sys2Proof.Proofs
end

section
/-!
PROOF. Lifetimes (R214, R217, R233), and the packets that wait for a fetch (R229, R234, R238).
-/

namespace Sys2Proof.Proofs

open Sys2Proof.Machine Sys2Proof.Laws Sys2Proof.Claims

/-! ## Lifetimes (R214, R217, R233) -/

theorem lifeExpiry_early {s : State} {m : MsgId} {r : SRec} (hr : s.srec? m = some r) (hage : s.msgAge r.birth < (s.lifeNs : Int)) :
    s.lifeExpiry m = s := by
  unfold State.lifeExpiry
  rw [hr]
  exact if_pos hage

theorem lifeExpiry_due {s : State} {m : MsgId} {r : SRec} (hr : s.srec? m = some r) (hage : (s.lifeNs : Int) ≤ s.msgAge r.birth) :
    s.lifeExpiry m =
      if s.msgRouteUp r then (s.bump (Reg.XPT_CNT 17)).endMsg r St.timeout else s.endMsg r St.unreachable := by
  unfold State.lifeExpiry
  rw [hr]
  exact if_neg (by omega)

theorem reg_endMsg (s : State) (r : SRec) (st : Status) {a : Nat} (ha : a ∈ placedCounts) : (s.endMsg r st).reg a = s.reg a :=
  (endMsg_keeps s r st).counts a ha

/-- A message that has reached its lifetime ends; TIMEOUT counts, UNREACHABLE does not. -/
theorem lifeExpiry_ends {s : State} {m : MsgId} {r : SRec} (hr : s.srec? m = some r) (hage : (s.lifeNs : Int) ≤ s.msgAge r.birth) :
    (s.lifeExpiry m).srec? m = none ∧ (s.msgRouteUp r = true → Counts s (s.lifeExpiry m) (Reg.XPT_CNT 17) 1) ∧
      (s.msgRouteUp r = false → Counts s (s.lifeExpiry m) (Reg.XPT_CNT 17) 0) := by
  have hcounted : Reg.XPT_CNT 17 ∈ placedCounts := by decide
  rw [lifeExpiry_due hr hage]
  refine ⟨?_, fun hup => ?_, fun hup => ?_⟩
  · rw [← msg_of_srec? hr]
    split <;> exact srec?_endMsg ..
  · rw [if_pos hup, Counts, reg_endMsg _ _ _ hcounted, reg_bump, if_pos rfl]
    rfl
  · rw [if_neg (by rw [hup]; decide), Counts, reg_endMsg _ _ _ hcounted]
    exact (BitVec.add_zero _).symm

/-- The record of message `m` from `src` is gone, and records that wait for it know how it ended. -/
def withoutRecord (s : State) (src : AdapterId) (m : MsgId) (ok : Bool) : State :=
  { s with
    rrecs := (s.rrecs.filter (fun y => !(y.src == src && y.msg == m))).map (fun y =>
      if y.src = src ∧ y.hasPrev ∧ y.prev = m then { y with prevGone := some ok } else y) }

theorem rrec?_withoutRecord (s : State) (src : AdapterId) (m : MsgId) (ok : Bool) :
    (withoutRecord s src m ok).rrec? src m = none := by
  rw [State.rrec?, List.find?_eq_none]
  intro y hy
  obtain ⟨z, hz, rfl⟩ := List.mem_map.mp hy
  have hne := (List.mem_filter.mp hz).2
  split <;> simpa [← not_and_or] using hne

theorem retentionEnd_stays {s : State} {src : AdapterId} {m : MsgId} {r : RRec} (hr : s.rrec? src m = some r)
    (h : s.ageNs r.ts ≤ (s.lifeNs : Int) ∨ r.writes ≠ 0) : s.retentionEnd src m = s := by
  unfold State.retentionEnd
  rw [hr]
  exact if_pos h

theorem retentionEnd_frees {s : State} {src : AdapterId} {m : MsgId} {r : RRec} (hr : s.rrec? src m = some r)
    (hage : (s.lifeNs : Int) < s.ageNs r.ts) (hwrites : r.writes = 0) :
    (s.retentionEnd src m).rrec? src m = none ∧
      (r.phase = .expected → Counts s (s.retentionEnd src m) (Reg.XPT_CNT 21) 1) := by
  have hcounted : Reg.XPT_CNT 21 ∈ placedCounts := by decide
  unfold State.retentionEnd
  rw [hr]
  dsimp only
  rw [if_neg (by omega)]
  generalize hs1 : (if r.phase = RPhase.expected then s.bump (Reg.XPT_CNT 21) else s) = s1
  generalize hs2 : (if r.over then s1 else s1.deliverBound r St.timeout) = s2
  have hdelivered : Settles s1 s2 := by
    rw [← hs2]
    exact .ite (.refl _) ((Settles.refl _).deliverBound _ _)
  have hreleased : Settles (withoutRecord s2 src m (r.phase == .published)) _ :=
    (Settles.refl _).release src m (withoutRecord s2 src m (r.phase == .published)).rrecs.length
  refine ⟨hreleased.rrec?_none (rrec?_withoutRecord ..), fun hphase => ?_⟩
  rw [if_pos hphase] at hs1
  rw [Counts]
  refine (hreleased.counts _ hcounted).trans ((hdelivered.counts _ hcounted).trans ?_)
  rw [← hs1, reg_bump, if_pos rfl]
  rfl

theorem lifetimesEnd : LifetimesEnd := by
  intro s halive
  refine ⟨fun msg r hr => ?_, fun src msg r hr => ?_⟩
  · have hexec : exec (.lifetimeExpiry msg) s = .next (s.lifeExpiry msg) := if_pos halive
    refine ⟨fun hage => ⟨_, hexec, lifeExpiry_ends hr hage⟩, fun hage => ?_⟩
    rw [hexec, lifeExpiry_early hr hage]
  · have hexec : exec (.recordRetentionExpiry src msg) s = .next (s.retentionEnd src msg) := if_pos halive
    refine ⟨fun hage hwrites => ⟨_, hexec, retentionEnd_frees hr hage hwrites⟩, fun hstays => ?_⟩
    rw [hexec, retentionEnd_stays hr hstays]

/-! ## Packets that wait (R229, R234, R238) -/

/-- From `s` to `t` none of the packets that `p` picks begins or ceases to wait. -/
def SameWaiting (p : Parked → Bool) (s t : State) : Prop := t.parked.filter p = s.parked.filter p

section Waiting

variable {p : Parked → Bool} {s₀ s t u : State}

theorem SameWaiting.refl (s : State) : SameWaiting p s s := rfl

theorem SameWaiting.trans (h : SameWaiting p s t) (k : SameWaiting p t u) : SameWaiting p s u := Eq.trans k h

theorem SameWaiting.keeps (h : SameWaiting p s₀ s) (k : KeepsRecords s t) : SameWaiting p s₀ t :=
  h.trans (congrArg (List.filter p) k.parked)

theorem SameWaiting.settled (h : SameWaiting p s₀ s) (k : Settles s t) : SameWaiting p s₀ t := h.keeps k.toKeepsRecords

theorem SameWaiting.ite {c : Prop} [Decidable c] (hs : SameWaiting p s₀ s) (ht : SameWaiting p s₀ t) :
    SameWaiting p s₀ (if c then s else t) := by
  split <;> assumption

/-- Packets that begin to wait are none of those that `p` picks. -/
theorem SameWaiting.parked {l : List Parked} (h : t.parked = s.parked ++ l) (hl : ∀ q ∈ l, p q = false) : SameWaiting p s t := by
  rw [SameWaiting, h, List.filter_append, List.filter_eq_nil_iff (l := l).mpr (by simpa using hl), List.append_nil]

theorem Onward.sameWaiting (h : Onward s t) (hp : ∀ q ks, q.why = .xlat ks → p q = false) : SameWaiting p s t := by
  obtain ⟨l, hl, hxlat⟩ := h.parked
  refine .parked hl fun q hq => ?_
  obtain ⟨ks, hks⟩ := hxlat q hq
  exact hp q ks hks

theorem parked_fetchWin (s : State) (w : Nat) : (s.fetchWin w).parked = s.parked := by
  unfold State.fetchWin
  extract_lets x
  split
  · rfl
  · split
    · rfl
    · split
      · rfl
      next v _ =>
        have hback : KeepsRecords s (s.winBack v) := (KeepsRecords.refl s).changed.ownStore _ _
        generalize s.winBack v = u at hback ⊢
        exact hback.parked

theorem parked_pumpWins (s : State) : s.pumpWins.parked = s.parked := by
  unfold State.pumpWins
  refine List.foldlRecOn (motive := fun t : State => t.parked = s.parked) _ _ rfl fun t ht q _ => ?_
  split
  · exact (parked_fetchWin t _).trans ht
  · exact ht

theorem parked_endMsg (s : State) (r : SRec) (st : Status) : (s.endMsg r st).parked = s.parked := (endMsg_keeps s r st).parked

theorem parked_respDone (s : State) (m : MsgId) (i : Nat) : (s.respDone m i).parked = s.parked := by
  unfold State.respDone
  split
  · rfl
  · extract_lets acked cum s1
    split
    · exact parked_endMsg s1 _ _
    · rfl

theorem parked_respFlush (s : State) (m : MsgId) : (s.respFlush m).parked = s.parked := by
  unfold State.respFlush
  split
  · split <;> rfl
  · rfl

theorem parked_respPlace (s : State) (r : SRec) (p : Packet) : (s.respPlace r p).parked = s.parked := by
  unfold State.respPlace
  split
  · split
    · exact parked_respDone ..
    · extract_lets runs w
      have hw : KeepsRecords s w.2.2 := (KeepsRecords.refl s).storeRuns _ _ _ _ _ _
      split
      · exact (parked_endMsg ..).trans hw.parked
      · split
        · exact (parked_respFlush ..).trans ((parked_respDone ..).trans hw.parked)
        · exact (parked_respFlush ..).trans hw.parked
  · rfl

theorem parked_rxResp (s : State) (x : Rx) (r : SRec) : (s.rxResp x r).parked = s.parked := by
  unfold State.rxResp
  extract_lets p
  split
  · rfl
  · split
    · exact parked_respPlace ..
    · split
      · exact ((Settles.refl s).authStart _ _ _ _).parked
      · rfl

theorem parked_withRecord {s t : State} {x : Rx} (h : s.withRecord x = some t) : t.parked = s.parked := by
  unfold State.withRecord at h
  extract_lets q hold extra at h
  split at h <;> split at h
  · cases h; rfl
  · split at h
    · cases h; rfl
    · cases h
  · cases h; rfl
  · cases h

/-- A packet whose window is not in the cache waits for it. -/
theorem SameWaiting.parkWin (hp : ∀ q w, q.why = .win w → p q = false) (s : State) (x : Rx) (upset : Mismatch) :
    SameWaiting p s (s.parkWin x upset) := by
  refine .parked (l := [⟨x, .win (winId x.pkt.tgtA), upset, s.ck⟩]) (parked_fetchWin _ _) fun q hq => ?_
  obtain rfl := List.mem_singleton.mp hq
  exact hp _ _ rfl

section NotWaiting

variable (hwin : ∀ q w, q.why = .win w → p q = false) (hxlat : ∀ q ks, q.why = .xlat ks → p q = false)

include hwin hxlat

theorem SameWaiting.rxWindow (s : State) (x : Rx) (upset : Mismatch) : SameWaiting p s (s.rxWindow x upset) := by
  by_cases hc : (s.win (winId x.pkt.tgtA)).cached = true
  · exact ((KeepsRecords.refl s).onward.rxWindow x upset hc).sameWaiting hxlat
  · unfold State.rxWindow
    extract_lets q w e
    refine .ite ((SameWaiting.refl s).settled (((Settles.refl s).countRefusal _).rxFail _ _)) ?_
    rw [if_pos (by simpa using hc)]
    exact .parkWin hwin s x upset

theorem SameWaiting.rxRead (s : State) (x : Rx) : SameWaiting p s (s.rxRead x) := by
  by_cases hc : (s.win (winId x.pkt.tgtA)).cached = true
  · exact ((KeepsRecords.refl s).onward.rxRead x hc).sameWaiting hxlat
  · unfold State.rxRead
    extract_lets q w e
    refine .ite ((SameWaiting.refl s).settled (((Settles.refl s).countRefusal _).nack _ _)) ?_
    rw [if_pos (by simpa using hc)]
    exact .parkWin hwin s x none

theorem SameWaiting.rxFrom8 (s : State) (x : Rx) (upset : Mismatch) : SameWaiting p s (s.rxFrom8 x upset) := by
  have h := SameWaiting.refl (p := p) s
  have hs := Settles.refl s
  unfold State.rxFrom8
  dsimp only
  split
  · exact h
  · exact .ite (h.settled ((hs.bump (by decide)).sendAck _ _ _)) (.ite (h.settled (hs.bump (by decide)))
      (.ite (((KeepsRecords.refl s).onward.rxSend _ _).sameWaiting hxlat) (.ite (h.settled (hs.rxSem _))
        (.rxWindow hwin hxlat s x upset))))

theorem SameWaiting.rxFrom6 (s : State) (x : Rx) (upset : Mismatch) : SameWaiting p s (s.rxFrom6 x upset) := by
  have h := SameWaiting.refl (p := p) s
  have hs := Settles.refl s
  unfold State.rxFrom6
  extract_lets q
  refine .ite (h.settled (hs.refuse _ _)) ?_
  split
  · split
    · exact congrArg (List.filter p) (parked_rxResp ..)
    · exact h
  · refine .ite (.rxRead hwin hxlat s x) ?_
    split
    · exact h.settled (hs.nack _ _)
    next t ht => exact SameWaiting.trans (congrArg (List.filter p) (parked_withRecord ht)) (.rxFrom8 hwin hxlat t x upset)

end NotWaiting

end Waiting

end Sys2Proof.Proofs
end

section
/-!
PROOF. Contexts and window entries that become resident, rates and XPT_COMMIT (R228, R229, R234, R238).
-/

namespace Sys2Proof.Proofs

open Sys2Proof.Machine Sys2Proof.Laws Sys2Proof.Claims

/-! ## Contexts and window entries that become resident (R229, R234, R238) -/

/-- Packets that `p` picks, taken one after the other out of those that wait, wait no more. -/
theorem none_waits {p : Parked → Bool} {I : State → Prop} {f : State → Parked → State} (l : List Parked)
    (hf : ∀ s, ∀ q ∈ l, I s → I (f s q) ∧ SameWaiting p { s with parked := s.parked.erase q } (f s q)) (s : State) (hs : I s)
    (hl : s.parked.filter p = l) : (l.foldl f s).parked.filter p = [] := by
  induction l generalizing s with
  | nil => exact hl
  | cons q l ih =>
    obtain ⟨hI, hwaits⟩ := hf s q (by simp) hs
    refine ih (fun t x hx => hf t x (by simp [hx])) (f s q) hI (Eq.trans hwaits ?_)
    exact List.erase_filter.symm.trans (by rw [hl, List.erase_cons_head])

/-- The packets that wait for context `c`. -/
def waitsFor (c : BitVec 20) (q : Parked) : Bool := decide (q.why = .ctx ∧ q.rx.pkt.dstCtx = c)

theorem unparkCtx_none (s : State) (c : BitVec 20) (ok : Bool) : (s.unparkCtx c ok).parked.filter (waitsFor c) = [] := by
  unfold State.unparkCtx
  refine none_waits (I := fun _ => True) _ (fun t q _ _ => ⟨trivial, ?_⟩) s trivial rfl
  extract_lets s1
  refine .ite ?_ (.ite (.refl s1) ((SameWaiting.refl s1).settled ((Settles.refl s1).refuse _ _)))
  exact ((SameWaiting.refl s1).settled ((Settles.refl s1).useCtx c)).trans
    (.rxFrom6 (fun q w h => by simp [waitsFor, h]) (fun q ks h => by simp [waitsFor, h]) _ _ _)

theorem pumpFetch_keeps (s : State) : KeepsRecords s s.pumpFetch := (KeepsRecords.refl s).pumpFetch

/-- No packet waits any more for a context whose fetch ended. -/
theorem ctxFetched_none {s : State} {c : BitVec 20} (ok : Bool) (hfetch : (s.ctx c).fetching = true)
    (hstore : s.storing (s.ctxAt c.toNat) 256 = false) :
    ∀ q ∈ (s.ctxFetched c ok).parked, q.why = .ctx → q.rx.pkt.dstCtx ≠ c := by
  have hnone : (s.ctxFetched c ok).parked.filter (waitsFor c) = [] := by
    unfold State.ctxFetched
    rw [if_neg (by rw [hfetch, hstore]; decide)]
    extract_lets f s1 s2 s3
    have hrest : KeepsRecords s2 s3 :=
      .ite (.foldlOf id (fun t r ht => ht.after ((Settles.refl t).endReq r _)) (.refl s2)) (.refl s2)
    exact Eq.trans ((SameWaiting.refl s2).keeps (hrest.trans (pumpFetch_keeps s3))) (unparkCtx_none s1 c _)
  intro q hq hwhy hc
  exact List.filter_eq_nil_iff.mp hnone q hq (decide_eq_true ⟨hwhy, hc⟩)

/-- The packets that wait for the entry of window `w`. -/
def waitsForWin (w : Nat) (q : Parked) : Bool := decide (q.why = .win w)

theorem unparkWin_none {s : State} {w : Nat} {ok : Bool} (hok : ok = true → (s.win w).cached = true)
    (hw : ∀ q ∈ s.parked, q.why = .win w → winId q.rx.pkt.tgtA = w) : (s.unparkWin w ok).parked.filter (waitsForWin w) = [] := by
  unfold State.unparkWin
  refine none_waits (I := fun t => ok = true → (t.win w).cached = true) _ (fun t q hq ht => ?_) s hok rfl
  obtain ⟨hmem, hwhy⟩ := List.mem_filter.mp hq
  have hid := hw q hmem (of_decide_eq_true hwhy)
  extract_lets s1
  have hxlat : ∀ (q : Parked) ks, q.why = .xlat ks → waitsForWin w q = false := fun q ks h => by simp [waitsForWin, h]
  cases ok with
  | false =>
    refine ⟨nofun, ?_⟩
    rw [if_neg (by decide)]
    exact .ite ((SameWaiting.refl s1).settled ((Settles.refl s1).nack _ _))
      ((SameWaiting.refl s1).settled ((Settles.refl s1).rxFail _ _))
  | true =>
    have hcached : (s1.win (winId q.rx.pkt.tgtA)).cached = true := by rw [hid]; exact ht rfl
    have hon : Onward s1 (if q.rx.pkt.typ = 4 then s1.rxRead q.rx else s1.rxFrom8 q.rx q.upset) :=
      .ite ((KeepsRecords.refl s1).onward.rxRead _ hcached) ((KeepsRecords.refl s1).onward.rxFrom8 _ _ hcached)
    rw [if_pos rfl]
    exact ⟨fun _ => (hon.cached w).trans (ht rfl), hon.sameWaiting hxlat⟩

/-- The entry of a window whose fetch ended, in state `u`. -/
def winEnded (u : State) (w : Nat) (ok : Bool) : State :=
  (u.updWin w (fun x => { x with fetching := false, cached := ok })).useWin w

theorem win_winEnded (u : State) (w v : Nat) (ok : Bool) :
    (winEnded u w ok).win v =
      if v = w then { u.win w with fetching := false, cached := ok, used := u.fresh } else u.win v := by
  change (((u.updWin w (fun x => { x with fetching := false, cached := ok })).updWin w
    (fun x => { x with used := u.fresh })).win v) = _
  simp only [State.updWin, win_setWin, if_true]
  split <;> rfl

theorem winEnded_stores (u : State) (w : Nat) (ok : Bool) : SameStores u (winEnded u w ok) := ⟨rfl, rfl, rfl, rfl, rfl⟩

theorem regs_winEnded (u : State) (w : Nat) (ok : Bool) : (winEnded u w ok).regs = u.regs := rfl

theorem hwFetch_parked (s : State) (a n : Nat) (ok : Bool) : (s.hwFetch a n ok).2.parked = s.parked := by
  unfold State.hwFetch
  split
  · rfl
  · exact ((KeepsRecords.refl s).readMem _ _ _).parked

/-- No packet waits any more for a window entry whose fetch ended. -/
theorem winFetched_none {s : State} {w : Nat} (ok : Bool) (hfetch : (s.win w).fetching = true)
    (hstore : s.storing (s.winAt w) 64 = false) (hw : ∀ q ∈ s.parked, q.why = .win w → winId q.rx.pkt.tgtA = w) :
    ∀ q ∈ (s.winFetched w ok).parked, q.why ≠ .win w := by
  have hnone : (s.winFetched w ok).parked.filter (waitsForWin w) = [] := by
    have hparked := hwFetch_parked s (s.winAt w) 64 ok
    unfold State.winFetched
    rw [if_neg (by rw [hfetch, hstore]; decide)]
    generalize s.hwFetch (s.winAt w) 64 ok = f at hparked ⊢
    dsimp only
    rw [parked_pumpWins]
    refine unparkWin_none (fun hok => ?_) fun q hq => hw q (hparked ▸ hq)
    exact (congrArg Win.cached ((win_winEnded f.2 w w (!f.1)).trans (if_pos rfl))).trans hok
  intro q hq hwhy
  exact List.filter_eq_nil_iff.mp hnone q hq (decide_eq_true hwhy)

/-! ### Fetches that nothing waits for -/

/-- The state after a fetch of a context or an entry: one that fails counts. -/
def fetched (s : State) (ok : Bool) : State := if ok then s else s.bump (Reg.MEM_CNT 10)

theorem fetched_frame (s : State) (ok : Bool) : { fetched s ok with regs := [] } = { s with regs := [] } := by
  cases ok <;> rfl

theorem fetched_field {α : Type} (f : State → α) (hf : ∀ u : State, f { u with regs := [] } = f u) (s : State) (ok : Bool) :
    f (fetched s ok) = f s := by
  rw [← hf (fetched s ok), fetched_frame, hf s]

theorem fetched_stores (s : State) (ok : Bool) : SameStores s (fetched s ok) := by
  cases ok <;> exact ⟨rfl, rfl, rfl, rfl, rfl⟩

theorem fetched_count (s : State) {ok : Bool} (hok : ok = false) : Counts s (fetched s ok) (Reg.MEM_CNT 10) 1 := by
  subst hok
  exact (reg_bump s _ _).trans (if_pos rfl)

theorem hwFetch_clean {s : State} (hraw : s.raw = []) (a n : Nat) (ok : Bool) :
    s.hwFetch a n ok = (!ok, fetched s ok) := by
  unfold State.hwFetch
  rw [readMem_clean hraw]
  cases ok <;> rfl

theorem unparkWin_quiet {s : State} (h : ∀ q ∈ s.parked, ∀ v, q.why ≠ .win v) (w : Nat) (ok : Bool) : s.unparkWin w ok = s := by
  unfold State.unparkWin
  rw [List.filter_eq_nil_iff.mpr fun q hq => by simpa using h q hq w]
  rfl

theorem pumpWins_quiet {s : State} (h : ∀ q ∈ s.parked, ∀ v, q.why ≠ .win v) : s.pumpWins = s := by
  unfold State.pumpWins
  refine List.foldlRecOn (motive := fun t => t = s) _ _ rfl fun t ht q hq => ?_
  split
  next w hw => exact absurd hw (h q hq w)
  next => exact ht

/-- A window entry whose fetch ended, when no packet waits for any. -/
theorem winFetched_quiet {s : State} {w : Nat} (ok : Bool) (hfetch : (s.win w).fetching = true)
    (hstore : s.storing (s.winAt w) 64 = false) (hraw : s.raw = []) (h : ∀ q ∈ s.parked, ∀ v, q.why ≠ .win v) :
    s.winFetched w ok = winEnded (fetched s ok) w ok := by
  have hu := fetched_field State.parked (fun _ => rfl) s ok
  unfold State.winFetched
  rw [if_neg (by rw [hfetch, hstore]; decide), hwFetch_clean hraw]
  generalize fetched s ok = u at hu ⊢
  have hquiet : ∀ q ∈ (winEnded u w ok).parked, ∀ v, q.why ≠ .win v := fun q hq => h q (hu ▸ hq)
  dsimp only
  rw [Bool.not_not]
  change ((winEnded u w ok).unparkWin w ok).pumpWins = _
  rw [unparkWin_quiet hquiet, pumpWins_quiet hquiet]

theorem unparkCtx_quiet {s : State} (h : ∀ q ∈ s.parked, q.why ≠ .ctx) (c : BitVec 20) (ok : Bool) : s.unparkCtx c ok = s := by
  unfold State.unparkCtx
  rw [List.filter_eq_nil_iff.mpr fun q hq => by simpa using fun hwhy => absurd hwhy (h q hq)]
  rfl

theorem pumpFetch_quiet {s : State} (h : ∀ q ∈ s.parked, q.why ≠ .ctx) (htxq : s.txq = []) : s.pumpFetch = s := by
  unfold State.pumpFetch
  rw [htxq]
  change s.parked.foldl (fun t q => if q.why = .ctx then t.fetchCtx q.rx.pkt.dstCtx else t) s = s
  exact List.foldlRecOn (motive := fun t => t = s) _ _ rfl fun t ht q hq => (if_neg (h q hq)).trans ht

/-- The record of a context whose fetch ended, in state `u`. -/
def ctxEnded (u : State) (c : BitVec 20) (ok : Bool) : State :=
  (u.updCtx c (fun x => { x with fetching := false, resident := ok })).useCtx c

/-- A state without what the end of a context's fetch changes. -/
def exceptCtxs (s : State) : State := { s with ctxs := [], fresh := 0 }

theorem ctxEnded_frame (u : State) (c : BitVec 20) (ok : Bool) : exceptCtxs (ctxEnded u c ok) = exceptCtxs u := by
  unfold ctxEnded State.useCtx
  split <;> rfl

theorem ctxEnded_field {α : Type} (f : State → α) (hf : ∀ u, f (exceptCtxs u) = f u) (u : State) (c : BitVec 20) (ok : Bool) :
    f (ctxEnded u c ok) = f u := by
  rw [← hf (ctxEnded u c ok), ctxEnded_frame, hf u]

theorem ctxEnded_stores (u : State) (c : BitVec 20) (ok : Bool) : SameStores u (ctxEnded u c ok) := by
  unfold ctxEnded State.useCtx
  split <;> exact ⟨rfl, rfl, rfl, rfl, rfl⟩

theorem ctx_useCtx (s : State) (c : BitVec 20) :
    (∃ k, (s.useCtx c).ctx c = { s.ctx c with used := k }) ∧ ∀ d, d ≠ c → (s.useCtx c).ctx d = s.ctx d := by
  unfold State.useCtx
  split
  · exact ⟨⟨s.fresh, (ctx_setCtx ..).trans (if_pos rfl)⟩, fun d hd => (ctx_setCtx ..).trans (if_neg hd)⟩
  · exact ⟨⟨_, rfl⟩, fun _ _ => rfl⟩

theorem ctx_ctxEnded (u : State) (c : BitVec 20) (ok : Bool) :
    (∃ k, (ctxEnded u c ok).ctx c = { u.ctx c with fetching := false, resident := ok, used := k }) ∧
      ∀ d, d ≠ c → (ctxEnded u c ok).ctx d = u.ctx d := by
  obtain ⟨⟨k, hk⟩, hother⟩ := ctx_useCtx (u.updCtx c (fun x => { x with fetching := false, resident := ok })) c
  refine ⟨⟨k, hk.trans ?_⟩, fun d hd => (hother d hd).trans ?_⟩
  · rw [State.updCtx, ctx_setCtx, if_pos rfl]
  · rw [State.updCtx, ctx_setCtx, if_neg hd]

/-- A context whose fetch ended, when nothing waits for any. -/
theorem ctxFetched_quiet {s : State} {c : BitVec 20} (ok : Bool) (hfetch : (s.ctx c).fetching = true)
    (hstore : s.storing (s.ctxAt c.toNat) 256 = false) (hraw : s.raw = []) (h : ∀ q ∈ s.parked, q.why ≠ .ctx) (htxq : s.txq = []) :
    s.ctxFetched c ok = ctxEnded (fetched s ok) c ok := by
  have hu := fetched_field State.parked (fun _ => rfl) s ok
  have htx := fetched_field State.txq (fun _ => rfl) s ok
  unfold State.ctxFetched
  rw [if_neg (by rw [hfetch, hstore]; decide), hwFetch_clean hraw]
  generalize fetched s ok = u at hu htx ⊢
  extract_lets f s1 s2 s3
  have hs1 : s1 = ctxEnded u c ok := by
    change ctxEnded u c (!!ok) = _
    rw [Bool.not_not]
  have hparked : ∀ q ∈ s1.parked, q.why ≠ .ctx := by
    rw [hs1, ctxEnded_field State.parked (fun _ => rfl), hu]
    exact h
  have hnone : s1.txq = [] := by
    rw [hs1, ctxEnded_field State.txq (fun _ => rfl), htx]
    exact htxq
  have hs2 : s2 = s1 := unparkCtx_quiet hparked c _
  have hs3 : s3 = s1 := by
    change (if f.1 = true then (s2.txq.filter fun r => r.srcCtx = c).foldl _ s2 else s2) = s1
    rw [hs2, hnone]
    exact ite_self _
  rw [hs3, pumpFetch_quiet hparked hnone, hs1]

/-! ## Rates (R228) and XPT_COMMIT (R234) -/

theorem rateUp_due {s : State} {c : BitVec 20} (hok : s.ctxOk c = true)
    (hdue : max (s.ctx c).aiAt ((s.ctx c).mdAt.getD 0) + us (s.fld Reg.XPT_RATE_CFG 16 8) ≤ s.ps) :
    s.rateUp c = (s.setRate c (min (s.ctx c).ceiling ((s.ctx c).rate + 256 * s.fld Reg.XPT_RATE_CFG 32 13))).updCtx c
      (fun x => { x with aiAt := s.ps }) := by
  unfold State.rateUp
  dsimp only
  rw [if_neg (by rw [hok]; simpa using hdue)]

/-- A due rate increase changes the rate of its context and the time of the increase. -/
theorem ctx_rateUp {s : State} {c : BitVec 20} (hok : s.ctxOk c = true)
    (hdue : max (s.ctx c).aiAt ((s.ctx c).mdAt.getD 0) + us (s.fld Reg.XPT_RATE_CFG 16 8) ≤ s.ps) (d : BitVec 20) :
    (s.rateUp c).ctx d = if d = c then { s.ctx c with
      tokens := s.tokens (s.ctx c)
      tokAt := s.ps
      rate := min (s.ctx c).ceiling ((s.ctx c).rate + 256 * s.fld Reg.XPT_RATE_CFG 32 13)
      aiAt := s.ps } else s.ctx d := by
  rw [rateUp_due hok hdue, State.updCtx, State.setRate, State.updCtx]
  simp only [ctx_setCtx, if_true]
  split <;> rfl

/-- Registers `l` take their shadow copies. -/
def takeShadow (s : State) (l : List Nat) : State := l.foldl (fun s a => s.setReg a (s.sh a)) s

theorem takeShadow_frame (s : State) (l : List Nat) : { takeShadow s l with regs := [] } = { s with regs := [] } := by
  unfold takeShadow
  refine List.foldlRecOn (motive := fun t : State => { t with regs := [] } = { s with regs := [] }) l
    (fun s a => s.setReg a (s.sh a)) rfl fun _ ht _ _ => ?_
  exact ht

theorem takeShadow_field {α : Type} (f : State → α) (hf : ∀ u : State, f { u with regs := [] } = f u) (s : State) (l : List Nat) :
    f (takeShadow s l) = f s := by
  rw [← hf (takeShadow s l), takeShadow_frame, hf s]

theorem reg_takeShadow (l : List Nat) (s : State) {a : Nat} (ha : a ∈ l) : (takeShadow s l).reg a = s.sh a := by
  induction l using List.reverseRecOn with
  | nil => cases ha
  | append_singleton l b ih =>
    have hstep : takeShadow s (l ++ [b]) = (takeShadow s l).setReg b ((takeShadow s l).sh b) := by
      simp only [takeShadow, List.foldl_append, List.foldl_cons, List.foldl_nil]
    rw [hstep, reg_setReg]
    split
    next hab => rw [hab]; exact takeShadow_field (·.sh b) (fun _ => rfl) s l
    next hab => exact ih (by simpa [hab] using ha)

theorem committed_committed (x : Ctx) (low ps : Nat) (fill : Bool) :
    (x.committed low ps fill).committed low ps fill = x.committed low ps fill := by
  have hrate : min x.ceiling (max low (min x.ceiling (max low x.rate))) = min x.ceiling (max low x.rate) := by omega
  exact congrArg (fun k => { x with tokens := if fill then fullBucket else 0, tokAt := ps, rate := k }) hrate

/-- A valid context takes the committed rate and bucket (R234). -/
def commitCtx (fill : Bool) (s : State) (c : Nat) : State :=
  if (s.ctx (BitVec.ofNat 20 c)).valid then
    s.setCtx (BitVec.ofNat 20 c) ((s.ctx (BitVec.ofNat 20 c)).committed s.rateMin s.ps fill)
  else s

theorem xptCommit_eq (s : State) (fill : Bool) :
    s.xptCommit fill =
      ((takeShadow s (Reg.XPT_RATE_CFG :: (List.range 6).map Reg.XPT_PLANE_WT)).ctxs.map (·.1)).foldl (commitCtx fill)
        (takeShadow s (Reg.XPT_RATE_CFG :: (List.range 6).map Reg.XPT_PLANE_WT)) := rfl

theorem commitCtx_frame (fill : Bool) (s : State) (c : Nat) : { commitCtx fill s c with ctxs := [] } = { s with ctxs := [] } := by
  unfold commitCtx
  split <;> rfl

theorem ctx_commitCtx (fill : Bool) (s : State) (c : Nat) (d : BitVec 20) :
    (commitCtx fill s c).ctx d =
      if d = BitVec.ofNat 20 c ∧ (s.ctx d).valid = true then (s.ctx d).committed s.rateMin s.ps fill else s.ctx d := by
  unfold commitCtx
  by_cases hd : d = BitVec.ofNat 20 c
  · subst hd
    by_cases hv : (s.ctx (BitVec.ofNat 20 c)).valid = true
    · rw [if_pos hv, ctx_setCtx, if_pos rfl, if_pos ⟨rfl, hv⟩]
    · rw [if_neg hv, if_neg fun h => hv h.2]
  · rw [if_neg (c := d = BitVec.ofNat 20 c ∧ (s.ctx d).valid = true) fun h => hd h.1]
    split
    · rw [ctx_setCtx, if_neg hd]
    · rfl

theorem commitCtxs_frame (fill : Bool) (l : List Nat) (s : State) :
    { l.foldl (commitCtx fill) s with ctxs := [] } = { s with ctxs := [] } :=
  List.foldlRecOn (motive := fun t : State => { t with ctxs := [] } = { s with ctxs := [] }) l _ rfl
    fun t ht c _ => (commitCtx_frame fill t c).trans ht

theorem commitCtxs_field {α : Type} (f : State → α) (hf : ∀ u : State, f { u with ctxs := [] } = f u) (fill : Bool) (l : List Nat)
    (s : State) : f (l.foldl (commitCtx fill) s) = f s := by
  rw [← hf (l.foldl (commitCtx fill) s), commitCtxs_frame, hf s]

/-- Every valid context that is listed takes what is committed, however often it is listed. -/
theorem ctx_commitCtxs (fill : Bool) (l : List Nat) (s : State) (d : BitVec 20) :
    (l.foldl (commitCtx fill) s).ctx d =
      if d ∈ l.map (BitVec.ofNat 20) ∧ (s.ctx d).valid = true then (s.ctx d).committed s.rateMin s.ps fill else s.ctx d := by
  induction l using List.reverseRecOn with
  | nil => rw [if_neg (by simp)]; rfl
  | append_singleton l c ih =>
    have hlow : (l.foldl (commitCtx fill) s).rateMin = s.rateMin := commitCtxs_field State.rateMin (fun _ => rfl) fill l s
    have hps : (l.foldl (commitCtx fill) s).ps = s.ps := commitCtxs_field State.ps (fun _ => rfl) fill l s
    rw [List.foldl_append, List.foldl_cons, List.foldl_nil, ctx_commitCtx, hlow, hps, ih]
    simp only [List.map_append, List.map_cons, List.map_nil, List.mem_append, List.mem_singleton]
    by_cases hl : d ∈ l.map (BitVec.ofNat 20) ∧ (s.ctx d).valid = true
    · rw [if_pos hl, if_pos (c := (d ∈ _ ∨ _) ∧ _) ⟨.inl hl.1, hl.2⟩, committed_committed, ite_self]
    · rw [if_neg hl]
      exact if_congr ⟨fun h => ⟨.inr h.1, h.2⟩, fun h => ⟨h.1.resolve_left fun hm => hl ⟨hm, h.2⟩, h.2⟩⟩ rfl rfl

theorem tget_of_unlisted {α : Type} (x : α) (t : Tab α) (i : Nat) (h : ∀ e ∈ t, e.1 ≠ i) : tget x t i = x := by
  have hnil := tget_append_of_none x t [] i h
  rwa [List.append_nil] at hnil

/-- A valid context has an entry. -/
theorem listed_of_valid {s : State} {d : BitVec 20} (h : (s.ctx d).valid = true) :
    d ∈ (s.ctxs.map (·.1)).map (BitVec.ofNat 20) := by
  by_contra hno
  have hinit : s.ctx d = Ctx.init := by
    refine tget_of_unlisted _ _ _ fun e he hd => hno ?_
    simp only [List.map_map, List.mem_map]
    exact ⟨e, he, by simp [hd]⟩
  rw [hinit] at h
  cases h

/-- What XPT_COMMIT leaves. -/
theorem xptCommit_leaves (s : State) (fill : Bool) :
    (∀ a ∈ Reg.XPT_RATE_CFG :: (List.range 6).map Reg.XPT_PLANE_WT, (s.xptCommit fill).reg a = s.sh a) ∧
      ∀ d, (s.ctx d).valid = true →
        (s.xptCommit fill).ctx d = (s.ctx d).committed (256 * bits (s.sh Reg.XPT_RATE_CFG) 48 13) s.ps fill := by
  have hreg : ∀ a ∈ Reg.XPT_RATE_CFG :: (List.range 6).map Reg.XPT_PLANE_WT, _ := fun a ha =>
    reg_takeShadow (Reg.XPT_RATE_CFG :: (List.range 6).map Reg.XPT_PLANE_WT) s ha
  rw [xptCommit_eq]
  have hctxs := takeShadow_field State.ctxs (fun _ => rfl) s (Reg.XPT_RATE_CFG :: (List.range 6).map Reg.XPT_PLANE_WT)
  have hps := takeShadow_field State.ps (fun _ => rfl) s (Reg.XPT_RATE_CFG :: (List.range 6).map Reg.XPT_PLANE_WT)
  generalize takeShadow s _ = u at hreg hctxs hps ⊢
  have hctx : u.ctx = s.ctx := by funext d; rw [State.ctx, State.ctx, hctxs]
  refine ⟨fun a ha => (commitCtxs_field (·.reg a) (fun _ => rfl) fill _ u).trans (hreg a ha), fun d hd => ?_⟩
  have hlisted : d ∈ (u.ctxs.map (·.1)).map (BitVec.ofNat 20) := by rw [hctxs]; exact listed_of_valid hd
  rw [ctx_commitCtxs, hctx, if_pos ⟨hlisted, hd⟩, hps, State.rateMin, State.fld, hreg _ (by simp)]

/-- What the end of a context's fetch leaves when nothing waits for it. -/
theorem ctxEnded_leaves (s : State) (c : BitVec 20) (ok : Bool) :
    let t := ctxEnded (fetched s ok) c ok
    (t.ctx c).resident = ok ∧ (t.ctx c).fetching = false ∧ (t.ctx c).data0 = (s.ctx c).data0 ∧ (t.ctx c).rate = (s.ctx c).rate
      ∧ (∀ d, d ≠ c → t.ctx d = s.ctx d) ∧ SameStores s t ∧ (ok = true → t.regs = s.regs)
      ∧ (ok = false → Counts s t (Reg.MEM_CNT 10) 1) := by
  intro t
  have hctx (d : BitVec 20) : (fetched s ok).ctx d = s.ctx d := fetched_field (·.ctx d) (fun _ => rfl) s ok
  have hregs : t.regs = (fetched s ok).regs := ctxEnded_field State.regs (fun _ => rfl) _ c ok
  obtain ⟨⟨k, hk⟩, hother⟩ := ctx_ctxEnded (fetched s ok) c ok
  have hkept : t.ctx c = { s.ctx c with fetching := false, resident := ok, used := k } := by rw [hk, hctx]
  rw [hkept]
  refine ⟨rfl, rfl, rfl, rfl, fun d hd => (hother d hd).trans (hctx d),
    sameStores_trans (fetched_stores s ok) (ctxEnded_stores _ c ok), fun hok => ?_, fun hok => ?_⟩
  · rw [hregs, fetched, if_pos hok]
  · rw [Counts, State.reg, hregs]
    exact fetched_count s hok

/-- What the end of an entry's fetch leaves when nothing waits for any. -/
theorem winEnded_leaves (s : State) (w : Nat) (ok : Bool) :
    let t := winEnded (fetched s ok) w ok
    (t.win w).cached = ok ∧ (t.win w).fetching = false ∧ (t.win w).phase = (s.win w).phase ∧ (t.win w).gen = (s.win w).gen
      ∧ (∀ v, v ≠ w → t.win v = s.win v) ∧ SameStores s t ∧ (ok = true → t.regs = s.regs)
      ∧ (ok = false → Counts s t (Reg.MEM_CNT 10) 1) := by
  intro t
  have hwin (v : Nat) : (fetched s ok).win v = s.win v := fetched_field (·.win v) (fun _ => rfl) s ok
  have hregs : t.regs = (fetched s ok).regs := regs_winEnded _ w ok
  have hkept : t.win w = _ := (win_winEnded (fetched s ok) w w ok).trans (if_pos rfl)
  rw [hkept, hwin]
  refine ⟨rfl, rfl, rfl, rfl, fun v hv => ((win_winEnded ..).trans (if_neg hv)).trans (hwin v),
    sameStores_trans (fetched_stores s ok) (winEnded_stores _ w ok), fun hok => ?_, fun hok => ?_⟩
  · rw [hregs, fetched, if_pos hok]
  · rw [Counts, State.reg, hregs]
    exact fetched_count s hok

theorem contextEvents : ContextEvents := by
  intro s c
  refine ⟨fun halive hok hdue => ?_, fun ok halive hfetch hstore => ?_, fun w ok halive hfetch hstore => ?_,
    fun p v haccepted hgo => ?_⟩
  · have hexec : exec (.rateIncrease c) s = .next (s.rateUp c) := if_pos halive
    have hctx := ctx_rateUp hok hdue
    refine ⟨_, hexec, ?_, ?_, fun d hd => (hctx d).trans (if_neg hd), ?_⟩
    · rw [hctx, if_pos rfl]
    · rw [hctx, if_pos rfl]
    · rw [rateUp_due hok hdue]
      rfl
  · have hexec : exec (.contextFetchComplete c ok) s = .next (s.ctxFetched c ok) := if_pos halive
    refine ⟨_, hexec, ctxFetched_none ok hfetch hstore, fun hraw hparked htxq => ?_⟩
    rw [ctxFetched_quiet ok hfetch hstore hraw hparked htxq]
    exact ctxEnded_leaves s c ok
  · have hexec : exec (.windowEntryFetchComplete w ok) s = .next (s.winFetched w.toNat ok) := if_pos halive
    refine ⟨_, hexec, winFetched_none ok hfetch hstore, fun hraw hparked => ?_⟩
    rw [winFetched_quiet ok hfetch hstore hraw hparked]
    exact winEnded_leaves s w.toNat ok
  · obtain ⟨tally, htlp⟩ := tlp_eq s p 8
    have hexec : exec (.xptCommit p v) s = .next ((s.tlp p 8).xptCommit (bit v 1)) := by
      refine (congrArg _ (mapWrite_accepted haccepted _)).trans ?_
      rw [if_pos hgo]
    obtain ⟨hreg, hctx⟩ := xptCommit_leaves (s.tlp p 8) (bit v 1)
    rw [htlp] at hexec hreg hctx
    refine ⟨_, hexec, hreg _ (by simp), fun n hn => hreg _ (List.mem_cons_of_mem _ (List.mem_map_of_mem (List.mem_range.mpr hn))),
      fun d hd => ?_⟩
    rw [hctx d hd]
    exact ⟨rfl, rfl, rfl, rfl⟩

/-- Settles O29: how messages, records and fetches end, and what XPT_COMMIT takes. -/
theorem recordsAndContexts : Obligations.RecordsAndContexts := ⟨lifetimesEnd, contextEvents⟩

end Sys2Proof.Proofs
end

section
/-!
PROOF. What the operations on fabric ports leave alone: a write of a sub-port (R342), the reading of a transmit queue (R350), and
loops over the sub-ports of a port.
-/

namespace Sys2Proof.Proofs

open Sys2Proof.Machine Sys2Proof.Laws Sys2Proof.Claims

/-! ## Sub-ports after a write -/

section Subs

variable (s : State) (n k : Nat)

theorem sub_setSub (x : Sub) (m j : Nat) : (s.setSub n k x).sub m j = if 4 * m + j = 4 * n + k then x else s.sub m j :=
  tget_tset ..

@[simp] theorem sub_setSub_self (x : Sub) : (s.setSub n k x).sub n k = x := tget_tset_self ..

@[simp] theorem sub_updSub_self (f : Sub → Sub) : (s.updSub n k f).sub n k = f (s.sub n k) := tget_tset_self ..

theorem otherSubs_setSub (x : Sub) : OtherSubs s (s.setSub n k x) n k := fun _ _ h => tget_tset_ne _ _ _ _ _ h

theorem sub_of_subs {s t : State} (h : t.subs = s.subs) (m j : Nat) : t.sub m j = s.sub m j := by rw [State.sub, State.sub, h]

variable {s n k} {t u : State}

theorem otherSubs_trans (h : OtherSubs s t n k) (g : OtherSubs t u n k) : OtherSubs s u n k :=
  fun m j hne => (g m j hne).trans (h m j hne)

/-- What follows a change of one sub-port and touches none. -/
theorem otherSubs_of_subs (h : OtherSubs s t n k) (hsubs : u.subs = t.subs) : OtherSubs s u n k :=
  fun m j hne => (sub_of_subs hsubs m j).trans (h m j hne)

end Subs

/-! ## Registers that stay -/

section Regs

variable {s t u : State} {l : List Nat}

theorem regsBut_refl (s : State) (l : List Nat) : RegsBut s s l := fun _ _ => rfl

theorem regsBut_of_regs (h : t.regs = s.regs) : RegsBut s t l := fun a _ => by rw [State.reg, State.reg, h]

theorem regsBut_trans (h : RegsBut s t l) (g : RegsBut t u l) : RegsBut s u l := fun a ha => (g a ha).trans (h a ha)

theorem regsBut_mono {l' : List Nat} (h : RegsBut s t l) (hl : l ⊆ l') : RegsBut s t l' := fun a ha => h a fun h' => ha (hl h')

theorem regsBut_setReg (s : State) {a : Nat} (ha : a ∈ l) (v : Word) : RegsBut s (s.setReg a v) l := fun b hb => by
  rw [reg_setReg, if_neg fun e : b = a => hb (e ▸ ha)]

/-- A loop whose every round keeps registers keeps them. -/
theorem regsBut_foldl {α β : Type} (st : β → State) (f : β → α → β) (xs : List α) (b : β)
    (hf : ∀ b x, RegsBut (st b) (st (f b x)) l) : RegsBut (st b) (st (xs.foldl f b)) l :=
  List.foldlRecOn (motive := fun c => RegsBut (st b) (st c) l) xs f (regsBut_refl _ _) fun c h x _ => regsBut_trans h (hf c x)

/-- A count after a change that leaves the counter alone. -/
theorem counts_bump_of_reg {a : Nat} (h : t.reg a = s.reg a) : Counts s (t.bump a) a 1 := by
  rw [Counts, reg_bump, if_pos rfl, h]
  rfl

theorem counts_of_reg {a m : Nat} (h : Counts s t a m) (hreg : u.reg a = t.reg a) : Counts s u a m := hreg.trans h

theorem flag_of_reg {a : Nat} (h : t.reg a = s.reg a) (i : Nat) : t.flag a i = s.flag a i := by rw [State.flag, State.flag, h]

theorem fld_of_reg {a : Nat} (h : t.reg a = s.reg a) (lo w : Nat) : t.fld a lo w = s.fld a lo w := by
  rw [State.fld, State.fld, h]

end Regs

/-! ## Transmit queues (R350) -/

section Queues

/-- The counters of lookups (R323). -/
def lookupCounts : List Nat := [Reg.XLT_CNT 0, Reg.XLT_CNT 1]

theorem regs_askAts (s : State) (k : XKey) : (s.askAts k).regs = s.regs := by
  unfold State.askAts
  split <;> rfl

theorem regs_touch (s : State) (k : XKey) : (s.touch k).regs = s.regs := by
  unfold State.touch
  split <;> rfl

theorem regsBut_lookupCount (s : State) (k : XKey) (write : Bool) : RegsBut s (s.lookupCount k write).2 lookupCounts := by
  unfold State.lookupCount
  split
  · exact regsBut_trans (regsBut_setReg s (by simp [lookupCounts]) _) (regsBut_of_regs (regs_askAts ..))
  · exact regsBut_trans (regsBut_setReg s (by simp [lookupCounts]) _) (regsBut_of_regs (regs_touch ..))

theorem regsBut_engineReach (s : State) (p : Port) (i : BitVec 8) (va : Word) (n : Nat) (write : Bool) :
    RegsBut s (s.engineReach p i va n write).2 lookupCounts := by
  unfold State.engineReach
  split
  · exact regsBut_refl _ _
  · exact regsBut_foldl Prod.snd _ _ (true, s) fun _ _ => regsBut_lookupCount _ _ _

/-- A state without what the reading of a transmit queue changes. -/
def exceptQueues (s : State) : State := { exceptRecords s with fresh := 0, reads := [] }

theorem exceptQueues_of_records {s t : State} (h : Records s t) : exceptQueues t = exceptQueues s :=
  congrArg (fun u : State => ({ u with fresh := 0, reads := [] } : State)) h.frame

/-- The next slot's read changes what lookups change, and the outstanding reads. -/
theorem tqNext_leaves (s : State) (n : Nat) :
    exceptQueues (s.tqNext n) = exceptQueues s ∧ RegsBut s (s.tqNext n) lookupCounts := by
  have hframe := exceptQueues_of_records (records_engineReach s (s.tqPort n) 0 (s.tqVa n) 16384 false)
  have hregs := regsBut_engineReach s (s.tqPort n) 0 (s.tqVa n) 16384 false
  unfold State.tqNext
  split
  · exact ⟨rfl, regsBut_refl _ _⟩
  · dsimp only
    split
    · exact ⟨hframe, hregs⟩
    · exact ⟨hframe, hregs⟩

/-- The registers that the end of a slot of port `n`'s queue, sent or not, may change. -/
def queueRegs (n : Nat) : List Nat := Reg.MAC_TQ_CONS n :: lookupCounts

/-- A slot that ends unsent frees its place, and the next one is read. -/
theorem tqDone_unsent_leaves (s : State) (n : Nat) :
    exceptQueues (s.tqDone n false) = exceptQueues s ∧ RegsBut s (s.tqDone n false) (queueRegs n) := by
  obtain ⟨hframe, hregs⟩ := tqNext_leaves (s.setFld (Reg.MAC_TQ_CONS n) 0 32 ((s.tqCons n).toNat + 1)) n
  exact ⟨hframe, regsBut_trans (regsBut_setReg s List.mem_cons_self _) (regsBut_mono hregs (List.subset_cons_self _ _))⟩

end Queues

/-! ## Loops over the sub-ports of a port -/

/-- A loop over sub-ports of port `n` whose round for `k` changes sub-port `k` alone, by `Q k`, and keeps `I`: every one that it
visits is changed so, and no other. -/
theorem foldl_subs {I : State → Prop} {Q : Nat → Sub → Sub → Prop} {n : Nat} {f : State → Nat → State}
    (hf : ∀ t k, I t → I (f t k) ∧ OtherSubs t (f t k) n k ∧ Q k (t.sub n k) ((f t k).sub n k)) :
    ∀ {l : List Nat}, l.Nodup → ∀ {s : State}, I s →
      I (l.foldl f s) ∧ (∀ k ∈ l, Q k (s.sub n k) ((l.foldl f s).sub n k))
        ∧ ∀ m j, (∀ k ∈ l, 4 * m + j ≠ 4 * n + k) → (l.foldl f s).sub m j = s.sub m j := by
  intro l
  induction l with
  | nil => exact fun _ s hs => ⟨hs, fun k hk => absurd hk List.not_mem_nil, fun _ _ _ => rfl⟩
  | cons k l ih =>
    intro hl s hs
    obtain ⟨hk, hl⟩ := List.nodup_cons.mp hl
    obtain ⟨hround, hothers, hq⟩ := hf s k hs
    obtain ⟨hi, hvisited, hrest⟩ := ih hl hround
    refine ⟨hi, fun j hj => ?_, fun m j hmj => ?_⟩
    · obtain rfl | hj := List.mem_cons.mp hj
      · have hlast : (l.foldl f (f s j)).sub n j = (f s j).sub n j := hrest n j fun i hi e => hk (by
          rwa [show j = i by omega])
        exact hlast ▸ hq
      · have hne : j ≠ k := fun e => hk (e ▸ hj)
        exact hothers n j (by omega) ▸ hvisited j hj
    · exact (hrest m j fun i hi => hmj i (List.mem_cons_of_mem _ hi)).trans (hothers m j (hmj k List.mem_cons_self))

end Sys2Proof.Proofs
end

section
/-!
PROOF. Priority flow control (R262, R272).
-/

namespace Sys2Proof.Proofs

open Sys2Proof.Machine Sys2Proof.Laws Sys2Proof.Claims

/-- An entry of a list that is rewritten by place. -/
theorem getD_map_zipIdx (l : List Nat) (f : Nat × Nat → Nat) {p : Nat} (hp : p < l.length) :
    (l.zipIdx.map f).getD p 0 = f (l.getD p 0, p) := by
  simp [hp]

theorem pfcRuns_iff (s : State) (n k : Nat) : s.pfcRuns n k = true ↔ s.role n ≠ 0 ∧ (s.sub n k).isUp = true := by
  rw [State.pfcRuns, Bool.and_eq_true, bne_iff_ne]

section Pfc

variable {s : State} {n k : Nat}

/-- A frame that is obeyed changes the pauses of the sub-port, and is counted. -/
theorem pfcFrame_obeyed (hdirect : s.direct = false) (hrole : s.role n ≠ 0) (hup : (s.sub n k).isUp = true) (mask : BitVec 8)
    (quanta : List Nat) : ∃ y : Sub, s.pfcFrame n k mask quanta = (s.setSub n k y).bump (Reg.FAB_CNT 5)
      ∧ ∀ p, p < (s.sub n k).paused.length → y.paused.getD p 0
          = if mask.getLsbD p && s.pfcOn p then s.ps + quanta.getD p 0 * quantumPs (s.sub n k).lanes
            else (s.sub n k).paused.getD p 0 := by
  have hruns := (pfcRuns_iff s n k).mpr ⟨hrole, hup⟩
  rw [State.pfcFrame]
  dsimp only
  rw [if_neg (by simp [hdirect, hruns])]
  exact ⟨_, rfl, fun p hp => getD_map_zipIdx _ _ hp⟩

/-- What a change of a sub-port and a count leave. -/
theorem setSub_bump_leaves (s : State) (n k : Nat) (y : Sub) (a : Nat) :
    let t := (s.setSub n k y).bump a
    t.sub n k = y ∧ Counts s t a 1 ∧ RegsBut s t [a] ∧ OtherSubs s t n k
      ∧ { t with subs := [], regs := [] } = { s with subs := [], regs := [] } := by
  refine ⟨sub_setSub_self s n k y, counts_bump_of_reg rfl, regsBut_bump (s.setSub n k y) a, otherSubs_setSub s n k y, ?_⟩
  unfold State.bump State.count State.setReg State.setSub
  rfl

theorem pfcFrame_discarded (h : s.direct = true ∨ s.role n = 0 ∨ (s.sub n k).isUp = false) (mask : BitVec 8)
    (quanta : List Nat) : s.pfcFrame n k mask quanta = s := by
  have hruns : ¬ (s.role n ≠ 0 ∧ (s.sub n k).isUp = true) ∨ s.direct = true := by
    obtain h | h | h := h
    · exact .inr h
    · exact .inl fun hr => hr.1 h
    · exact .inl fun hr => absurd (h.symm.trans hr.2) Bool.false_ne_true
  rw [← pfcRuns_iff] at hruns
  exact if_pos (hruns.elim (fun h => .inr (by simpa using h)) .inl)

theorem paused_pfcExpiry (s : State) (n k p : Nat) : ((s.pfcExpiry n k p).sub n k).paused
    = if (s.sub n k).paused.getD p 0 ≤ s.ps then (s.sub n k).paused.set p 0 else (s.sub n k).paused := by
  rw [State.pfcExpiry, sub_updSub_self]
  split <;> rfl

/-- The condition under which a pause of the peer is repeated. -/
theorem pfcRefresh_due {p : Nat} (hrole : s.role n ≠ 0) (hup : (s.sub n k).isUp = true)
    (hxoff : (s.sub n k).xoff.getLsbD p = true) (hon : s.pfcOn p = true) (hdue : (s.sub n k).xoffAt.getD p 0 + us 10 ≤ s.ps)
    (hfull : s.pfcBytes n 20 < s.inBytes n k p) : s.pfcRefresh n k p
      = (s.setSub n k { s.sub n k with xoffAt := (s.sub n k).xoffAt.set p s.ps }).sendPfc n k p 65535 := by
  have hruns := (pfcRuns_iff s n k).mpr ⟨hrole, hup⟩
  exact if_pos (by rw [hxoff, hon, hruns, decide_eq_true hdue, decide_eq_true hfull]; rfl)

theorem pfcRefresh_low {p : Nat} (hlow : s.inBytes n k p ≤ s.pfcBytes n 20) : s.pfcRefresh n k p = s :=
  if_neg (by simp [Nat.not_lt.mpr hlow])

end Pfc

/-- Settles O34, from what a received frame, the end of a pause and its repetition leave of a sub-port. -/
theorem flowControl : Obligations.FlowControl := by
  intro s n k halive x
  refine ⟨fun mask quanta hdirect hrole hup => ?_, fun mask quanta h => ?_, fun p => ?_,
    fun p hrole hup hxoff hon hdue hfull => ?_, fun p hlow => ?_⟩
  · obtain ⟨y, hframe, hpaused⟩ := pfcFrame_obeyed hdirect hrole hup mask quanta
    have hexec : exec (.pfcFrame n k mask quanta) s = .next (s.pfcFrame n k mask quanta) := if_pos halive
    rw [hframe] at hexec
    obtain ⟨hsub, hleaves⟩ := setSub_bump_leaves s n k y (Reg.FAB_CNT 5)
    generalize (s.setSub n k y).bump (Reg.FAB_CNT 5) = t at hexec hsub hleaves
    obtain rfl := hsub
    obtain ⟨hcounts, hregs, hothers, hrest⟩ := hleaves
    exact ⟨t, hexec, hcounts, hregs, hothers, hpaused, hrest⟩
  · exact (if_pos halive).trans (congrArg _ (pfcFrame_discarded h mask quanta))
  · exact ⟨_, if_pos halive, paused_pfcExpiry s n k p, otherSubs_setSub s n k _, rfl⟩
  · have hexec : exec (.pfcRefresh n k p) s = .next (s.pfcRefresh n k p) := if_pos halive
    rw [pfcRefresh_due hrole hup hxoff hon hdue hfull] at hexec
    exact ⟨_, hexec, rfl, counts_bump _ _, congrArg Sub.xoffAt (sub_setSub_self s n k _), otherSubs_setSub s n k _⟩
  · exact (if_pos halive).trans (congrArg _ (pfcRefresh_low hlow))

end Sys2Proof.Proofs
end

section
/-!
PROOF. The link layer of direct mode (R275–R278): what a sub-port's numbers and replay buffer keep when a packet goes on to the
transport or the forwarding path, what frames of the link layer carry, and the two timers.
-/

namespace Sys2Proof.Proofs

open Sys2Proof.Machine Sys2Proof.Laws Sys2Proof.Claims

/-! ## What packets that go on leave of the link layer -/

/-- What the frames of the link layer set in a sub-port: the number expected next, the peer's credits, the number last
acknowledged and the replay buffer. -/
def linkPart (x : Sub) : BitVec 16 × List (BitVec 16) × BitVec 16 × List EgFrame := (x.seqRx, x.peerCr, x.ackRx, x.held)

/-- From `s` to `t` every sub-port keeps its `linkPart`. -/
def KeepsLink (s t : State) : Prop := ∀ n k, linkPart (t.sub n k) = linkPart (s.sub n k)

section Keeps

variable {s t u : State}

theorem KeepsLink.refl (s : State) : KeepsLink s s := fun _ _ => rfl

theorem KeepsLink.same (h : KeepsLink s t) (hsubs : u.subs = t.subs) : KeepsLink s u := fun n k =>
  (congrArg linkPart (sub_of_subs hsubs n k)).trans (h n k)

theorem KeepsLink.setSub (h : KeepsLink s t) {n k : Nat} {x : Sub} (hx : linkPart x = linkPart (t.sub n k)) :
    KeepsLink s (t.setSub n k x) := fun m j => by
  rw [sub_setSub, ← h m j]
  split
  next e => rw [hx, State.sub, State.sub, e]
  · rfl

/-- A change of a sub-port that leaves its `linkPart`, and changes of other things than sub-ports. -/
theorem KeepsLink.change (h : KeepsLink s t) {n k : Nat} {x : Sub} (hx : linkPart x = linkPart (t.sub n k))
    (hsubs : u.subs = (t.setSub n k x).subs) : KeepsLink s u := (h.setSub hx).same hsubs

theorem KeepsLink.pfcRaise (h : KeepsLink s t) (n k prio : Nat) : KeepsLink s (t.pfcRaise n k prio) := by
  unfold State.pfcRaise
  dsimp only
  split
  · exact h.change (by rfl) rfl
  · exact h

theorem KeepsLink.pfcFall (h : KeepsLink s t) (n k prio : Nat) : KeepsLink s (t.pfcFall n k prio) := by
  unfold State.pfcFall
  dsimp only
  split
  · split
    · exact h.change (by rfl) rfl
    · exact h.setSub rfl
  · exact h

theorem KeepsLink.inPut (h : KeepsLink s t) (f : InFrame) : KeepsLink s (t.inPut f) :=
  KeepsLink.pfcRaise (h.same (by rfl)) _ _ _

theorem KeepsLink.creditBack (h : KeepsLink s t) (n k vc len : Nat) : KeepsLink s (t.creditBack n k vc len) := h.setSub rfl

theorem KeepsLink.inTake (h : KeepsLink s t) (f : InFrame) : KeepsLink s (t.inTake f) := by
  unfold State.inTake
  dsimp only
  split
  · exact KeepsLink.creditBack (h.same (by rfl)) _ _ _ _
  · exact KeepsLink.pfcFall (h.same (by rfl)) _ _ _

theorem subs_ecnMark (s : State) (ip : IpHdr) (q : Nat) : (s.ecnMark ip q).2.subs = s.subs := by
  unfold State.ecnMark
  dsimp only
  split
  · rfl
  · split
    · rfl
    · split
      · rfl
      · split <;> rfl

/-- A packet that is forwarded is queued, with a mark or without. -/
theorem keepsLink_forward {prio len : Nat} {ip : IpHdr} {x : Rx} (h : s.forward prio len ip x = some t) : KeepsLink s t := by
  unfold State.forward at h
  split at h
  · cases h
  · dsimp only at h
    split at h
    · obtain rfl := Option.some.inj h
      have hmark (q : Nat) : KeepsLink s (s.ecnMark ip q).2 := (KeepsLink.refl s).same (subs_ecnMark s ip q)
      exact (hmark _).change (by rfl) rfl
    · cases h

theorem keepsLink_transportIn (s : State) (f : InFrame) (ip : IpHdr) : KeepsLink s (s.transportIn f ip) := by
  have hin (g : InFrame) : KeepsLink s (s.inPut g) := (KeepsLink.refl s).inPut g
  unfold State.transportIn
  dsimp only
  split
  · exact hin f
  · split
    · split
      · exact hin f
      · exact ((hin f).inTake f).same rfl
    · split
      · split
        next hforward => exact ((keepsLink_forward hforward).inPut f).inTake f
        · exact hin _
      · exact ((hin f).inTake f).same rfl

end Keeps

/-! ## Frames of the link layer that are sent -/

section Sent

variable (s : State) (n k : Nat)

/-- The counters of a sub-port's sent frames (R354). -/
def sentCounts (n k : Nat) : List Nat := [Reg.MAC_CNT n k 2, Reg.MAC_CNT n k 3]

/-- The count of a sent frame changes two counters alone. -/
theorem macTx_leaves (len : Nat) :
    { s.macTx n k len with regs := [] } = { s with regs := [] } ∧ RegsBut s (s.macTx n k len) (sentCounts n k) :=
  ⟨(setReg_frame (s.mac n k 2 1) _ _).trans (setReg_frame s _ _),
    regsBut_trans (regsBut_setReg s (by simp [sentCounts]) _) (regsBut_setReg _ (by simp [sentCounts]) _)⟩

theorem fabCnt_not_sentCounts {i : Nat} (hi : i < 10) : Reg.FAB_CNT i ∉ sentCounts n k := by
  simp only [sentCounts, Reg.FAB_CNT, Reg.MAC_CNT, List.mem_cons, List.not_mem_nil, or_false, not_or]
  omega

/-- A frame of the link layer without a packet carries the acknowledgement and the credits, and stops the CTRL timer. -/
theorem sendLink_leaves (ltype : Nat) (seq : BitVec 16) :
    let t := s.sendLink n k ltype seq
    let x := s.sub n k
    t.out = s.out ++ [.link n k ltype (if ltype = 3 then initMac else x.peerMac) (s.portMac n k s.me) seq x.seqRx x.ownCr s.me]
      ∧ t.sub n k = { x with ctrlDue := none } ∧ OtherSubs s t n k ∧ RegsBut s t (sentCounts n k)
      ∧ t.ingress = s.ingress := by
  obtain ⟨hframe, hregs⟩ := macTx_leaves (s.updSub n k fun x => { x with ctrlDue := none }) n k 64
  have hsub := sub_updSub_self s n k fun x => { x with ctrlDue := none }
  have hothers := otherSubs_setSub s n k { s.sub n k with ctrlDue := none }
  unfold State.sendLink
  dsimp only
  generalize State.macTx _ n k 64 = v at hframe hregs ⊢
  have hsubs : v.subs = (s.updSub n k fun x => { x with ctrlDue := none }).subs := (congrArg State.subs hframe :)
  have hout : v.out = s.out := (congrArg State.out hframe :)
  have hingress : v.ingress = s.ingress := (congrArg State.ingress hframe :)
  exact ⟨congrArg (· ++ _) hout, (sub_of_subs hsubs n k).trans hsub, otherSubs_of_subs hothers hsubs, hregs, hingress⟩

/-- A replay request notes its time and goes out, unless an earlier one still counts. -/
theorem askReplay_cases :
    (∃ x, linkPart x = linkPart (s.sub n k) ∧ x.peerMac = (s.sub n k).peerMac ∧ x.ownCr = (s.sub n k).ownCr
      ∧ s.askReplay n k = ((s.setSub n k x).sendLink n k 2 0).bump (Reg.FAB_CNT 7))
    ∨ ((s.sub n k).ackAt ≠ 0 ∧ s.askReplay n k = s) := by
  unfold State.askReplay
  dsimp only
  split
  · exact .inl ⟨{ s.sub n k with ackAt := s.ps + 1 }, rfl, rfl, rfl, rfl⟩
  · rename_i hlate
    exact .inr ⟨fun h => hlate (.inl h), rfl⟩

/-- A replay request that may go out is the REPLAY frame, counted. -/
theorem askReplay_leaves :
    let t := s.askReplay n k
    let x := s.sub n k
    linkPart (t.sub n k) = linkPart x ∧ t.ingress = s.ingress ∧ (x.ackAt = 0 → Counts s t (Reg.FAB_CNT 7) 1
      ∧ t.out = s.out ++ [.link n k 2 x.peerMac (s.portMac n k s.me) 0 x.seqRx x.ownCr s.me]) := by
  obtain ⟨x, hx, hmac, hown, h⟩ | ⟨hlate, h⟩ := askReplay_cases s n k
  · obtain ⟨hout, hsent, -, hregs, hingress⟩ := sendLink_leaves (s.setSub n k x) n k 2 0
    rw [sub_setSub_self] at hout hsent
    have hseq : x.seqRx = (s.sub n k).seqRx := congrArg Prod.fst hx
    rw [hseq, hmac, hown] at hout
    rw [h]
    generalize State.sendLink _ n k 2 0 = v at hout hsent hregs hingress ⊢
    have hcounted : Counts s (v.bump (Reg.FAB_CNT 7)) (Reg.FAB_CNT 7) 1 :=
      counts_bump_of_reg (hregs _ (fabCnt_not_sentCounts n k (by decide)))
    exact ⟨(congrArg linkPart hsent).trans hx, hingress, fun _ => ⟨hcounted, hout⟩⟩
  · rw [h]
    exact ⟨rfl, rfl, fun hfirst => absurd hfirst hlate⟩

/-- A frame that is put on the wire is counted, and is all that leaves. -/
theorem putWire_leaves (f : EgFrame) :
    let t := s.putWire n k f
    t.subs = s.subs ∧ RegsBut s t (sentCounts n k) ∧ t.out.length = s.out.length + 1 := by
  obtain ⟨hframe, hregs⟩ := macTx_leaves s n k f.len
  unfold State.putWire
  generalize s.macTx n k f.len = v at hframe hregs ⊢
  have hout : v.out = s.out := (congrArg State.out hframe :)
  exact ⟨(congrArg State.subs hframe :), hregs, hout ▸ List.length_append⟩

/-- Frames that are sent again are counted, and leave one by one. -/
theorem foldl_resend (l : List EgFrame) :
    let t := l.foldl (fun s f => (s.putWire n k f).bump (Reg.FAB_CNT 6)) s
    t.subs = s.subs ∧ Counts s t (Reg.FAB_CNT 6) l.length ∧ t.out.length = s.out.length + l.length := by
  induction l generalizing s with
  | nil => exact ⟨rfl, (BitVec.add_zero _).symm, rfl⟩
  | cons f l ih =>
    obtain ⟨hsubs, hregs, hlen⟩ := putWire_leaves s n k f
    obtain ⟨hsubs', hcounts, hout⟩ := ih ((s.putWire n k f).bump (Reg.FAB_CNT 6))
    have hone : Counts s ((s.putWire n k f).bump (Reg.FAB_CNT 6)) (Reg.FAB_CNT 6) 1 :=
      counts_bump_of_reg (hregs _ (fabCnt_not_sentCounts n k (by decide)))
    refine ⟨hsubs'.trans hsubs, ?_, ?_⟩
    · rw [Counts] at hcounts hone ⊢
      rw [List.foldl_cons, hcounts, hone, BitVec.add_assoc, ← BitVec.ofNat_add, Nat.add_comm 1, List.length_cons]
    · rw [List.foldl_cons, hout, bump_out, hlen, List.length_cons]
      omega

/-- A replay sends every held frame again, and holds it. -/
theorem replay_leaves :
    let t := s.replay n k
    let x := s.sub n k
    (t.sub n k).held = x.held ∧ Counts s t (Reg.FAB_CNT 6) x.held.length ∧ t.out.length = s.out.length + x.held.length
      ∧ OtherSubs s t n k := by
  obtain ⟨hsubs, hcounts, hout⟩ := foldl_resend s n k (s.sub n k).held
  refine ⟨?_, hcounts, hout, otherSubs_trans (fun m j _ => sub_of_subs hsubs m j) (otherSubs_setSub _ n k _)⟩
  rw [State.replay, sub_updSub_self, sub_of_subs hsubs]

end Sent

/-! ## Frames of the link layer that arrive -/

section Arriving

variable {s : State} {n k : Nat} {f : LinkFrame}

/-- Sub-port `y` is `x` after what every good frame `f` brings: its credits and its acknowledgement, which frees the held frames
that it covers. -/
structure HeadTaken (f : LinkFrame) (x y : Sub) : Prop where
  peerCr : y.peerCr = [f.credit0, f.credit1, f.credit2, f.credit3]
  ackRx : y.ackRx = f.ack
  held : y.held = x.held.filter (fun g => decide (0 ≤ (g.seq - f.ack).toInt))
  seqRx : y.seqRx = x.seqRx
  ackAt : y.ackAt = x.ackAt
  peerMac : y.peerMac = x.peerMac
  ownCr : y.ownCr = x.ownCr

theorem linkHead_eq (s : State) (n k : Nat) (f : LinkFrame) :
    ∃ y, s.linkHead n k f = s.setSub n k y ∧ HeadTaken f (s.sub n k) y :=
  ⟨_, rfl, rfl, rfl, rfl, rfl, rfl, rfl, rfl⟩

/-- What a change of one sub-port leaves, with the bytes of the frame counted. -/
theorem setSub_meter_leaves (s : State) (n k : Nat) (y : Sub) (b : Nat) (m : Meter) (len : Nat) :
    let t := (s.setSub n k y).meter b m len
    t.sub n k = y ∧ OtherSubs s t n k ∧ { t with subs := [], tally := s.tally } = { s with subs := [] } := by
  refine ⟨sub_setSub_self s n k y, otherSubs_setSub s n k y, ?_⟩
  unfold State.meter State.setSub
  rfl

theorem linkRuns_of (hdirect : s.direct = true) (hrole : s.role n ≠ 0) (hup : (s.sub n k).isUp = true) :
    s.linkRuns n k = true := by
  rw [State.linkRuns, hdirect, hup, bne_iff_ne.mpr hrole]
  rfl

section Good

variable (hruns : s.linkRuns n k = true) (hfcs : f.fcsOk = true)

include hruns hfcs

theorem runs_and_good : (s.linkRuns n k && f.fcsOk) = true := by rw [hruns, hfcs]; rfl

variable {y : Sub} (htaken : HeadTaken f (s.sub n k) y) (hhead : s.linkHead n k f = s.setSub n k y)

include htaken hhead

/-- A DATA frame in sequence: the next number is expected, and its packet, if any, goes on. -/
theorem dataFrame_accepted (hrole : s.role n ≠ 0) (hseq : f.seq = (s.sub n k).seqRx) :
    ∃ g : Sub → Sub, (∀ x, linkPart (g x) = (x.seqRx + 1, x.peerCr, x.ackRx, x.held)) ∧
      (s.dataFrame n k f = (((s.setSub n k y).updSub n k g).creditBack n k f.vc.val f.len).meter transit .rx f.len
        ∨ ∃ p ip b, s.dataFrame n k f = (((s.setSub n k y).updSub n k g).transportIn p ip).meter b .rx f.len) := by
  have hnext : f.seq = ((s.setSub n k y).sub n k).seqRx := by rw [sub_setSub_self, htaken.seqRx, hseq]
  unfold State.dataFrame
  rw [if_neg hrole, if_neg (by simp [hruns]), if_neg (by simp [hfcs]), hhead]
  dsimp only
  rw [if_neg (not_not.mpr hnext)]
  split
  · exact ⟨_, fun _ => rfl, .inl rfl⟩
  · exact ⟨_, fun _ => rfl, .inr ⟨_, _, _, rfl⟩⟩

theorem dataFrame_inSequence (hrole : s.role n ≠ 0) (hseq : f.seq = (s.sub n k).seqRx) :
    linkPart ((s.dataFrame n k f).sub n k) = (y.seqRx + 1, y.peerCr, y.ackRx, y.held) := by
  obtain ⟨g, hg, hframe⟩ := dataFrame_accepted hruns hfcs htaken hhead hrole hseq
  have hsub : ((s.setSub n k y).updSub n k g).sub n k = g y := by rw [sub_updSub_self, sub_setSub_self]
  rw [← hg, ← hsub]
  generalize (s.setSub n k y).updSub n k g = u at hframe
  obtain hframe | ⟨p, ip, b, hframe⟩ := hframe
  · exact hframe ▸ (KeepsLink.refl u).creditBack n k f.vc.val f.len n k
  · exact hframe ▸ keepsLink_transportIn u p ip n k

/-- A DATA frame out of sequence is discarded, with a replay request. -/
theorem dataFrame_outOfSequence (hrole : s.role n ≠ 0) (hseq : f.seq ≠ (s.sub n k).seqRx) :
    s.dataFrame n k f = ((s.setSub n k y).meter transit .rx f.len).askReplay n k := by
  have hnext : f.seq ≠ ((s.setSub n k y).sub n k).seqRx := by rwa [sub_setSub_self, htaken.seqRx]
  unfold State.dataFrame
  rw [if_neg hrole, if_neg (by simp [hruns]), if_neg (by simp [hfcs]), hhead]
  dsimp only
  rw [if_pos hnext]

theorem dataFrame_discarded_leaves (hrole : s.role n ≠ 0) (hseq : f.seq ≠ (s.sub n k).seqRx) :
    let t := s.dataFrame n k f
    linkPart (t.sub n k) = linkPart y ∧ t.ingress = s.ingress ∧ (y.ackAt = 0 → Counts s t (Reg.FAB_CNT 7) 1
      ∧ t.out = s.out ++ [.link n k 2 y.peerMac (s.portMac n k s.me) 0 y.seqRx y.ownCr s.me]) := by
  rw [dataFrame_outOfSequence hruns hfcs htaken hhead hrole hseq]
  have hleaves := askReplay_leaves ((s.setSub n k y).meter transit .rx f.len) n k
  have hsub : ((s.setSub n k y).meter transit .rx f.len).sub n k = y := sub_setSub_self s n k y
  rwa [hsub] at hleaves

omit htaken

theorem ctrlFrame_taken : s.ctrlFrame n k f = (s.setSub n k y).meter transit .rx f.len :=
  (if_pos (runs_and_good hruns hfcs)).trans (congrArg (fun u : State => u.meter transit .rx f.len) hhead)

theorem replayFrame_taken : s.replayFrame n k f = ((s.setSub n k y).meter transit .rx f.len).replay n k :=
  (if_pos (runs_and_good hruns hfcs)).trans 
    (congrArg (fun u : State => (u.meter transit .rx f.len).replay n k) hhead)

end Good

/-- An INIT frame records the peer, and the numbers and the credits start anew. -/
theorem initFrame_taken (hdirect : s.direct = true) (hup : (s.sub n k).isUp = true) (hfcs : f.fcsOk = true) :
    ∃ y : Sub, s.initFrame n k f = (s.setSub n k y).meter transit .rx f.len ∧ y.peer = f.adapter ∧ y.peerMac = f.src
      ∧ y.seqRx = f.seq ∧ y.used = [0, 0, 0, 0] ∧ y.peerCr = [f.credit0, f.credit1, f.credit2, f.credit3]
      ∧ y.link = if s.role n = 0 ∨ s.sameLine (s.role n) f.adapter = true then (s.sub n k).link else .miswired :=
  ⟨_, if_pos (by rw [hdirect, hup, hfcs]; rfl), rfl, rfl, rfl, rfl, rfl, rfl⟩

theorem exec_initFrame (halive : s.alive = true) (n : Fin 6) (k : Fin 4) (f : LinkFrame) :
    exec (.initFrame n k f) s = .next (s.initFrame n k f) := by
  rw [State.alive] at halive
  refine if_neg ?_
  simp only [Bool.and_eq_true, Bool.not_eq_true'] at halive
  obtain ⟨⟨⟨-, htwilight⟩, htripped⟩, hrefused⟩ := halive
  rw [htwilight, htripped, hrefused]
  decide

end Arriving

theorem linkFrames : LinkFrames := by
  intro s n k f halive hdirect hup hfcs x credits kept
  have hruns (hrole : s.role n ≠ 0) : s.linkRuns n k = true := linkRuns_of hdirect hrole hup
  obtain ⟨y, hhead, htaken⟩ := linkHead_eq s n k f
  obtain ⟨hsub, hothers, hframe⟩ := setSub_meter_leaves s n k y transit .rx f.len
  refine ⟨fun hrole => ?_, fun hrole hseq => ?_, fun hrole hseq => ?_, fun hrole => ?_, fun hrole => ?_, ?_⟩
  · have hexec : exec (.dataFrame n k f) s = .next (s.bump (Reg.FAB_CNT 2)) :=
      (if_pos halive).trans (congrArg _ (if_pos hrole))
    exact ⟨_, hexec, counts_bump s _, regsBut_bump s _, rfl⟩
  · have hpart := dataFrame_inSequence (hruns hrole) hfcs htaken hhead hrole hseq
    rw [htaken.seqRx, htaken.peerCr, htaken.ackRx, htaken.held, linkPart] at hpart
    simp only [Prod.mk.injEq] at hpart
    exact ⟨_, if_pos halive, hpart⟩
  · obtain ⟨hpart, hingress, hasks⟩ := dataFrame_discarded_leaves (hruns hrole) hfcs htaken hhead hrole hseq
    rw [htaken.ackAt, htaken.peerMac, htaken.seqRx, htaken.ownCr] at hasks
    simp only [linkPart, Prod.mk.injEq] at hpart
    obtain ⟨hnext, -, -, hheld⟩ := hpart
    exact ⟨_, if_pos halive, hnext.trans htaken.seqRx, hheld.trans htaken.held, hingress, hasks⟩
  · have hexec : exec (.ctrlFrame n k f) s = .next (s.ctrlFrame n k f) := if_pos halive
    rw [ctrlFrame_taken (hruns hrole) hfcs hhead] at hexec
    generalize (s.setSub n k y).meter transit .rx f.len = t at hexec hsub hothers hframe
    obtain rfl := hsub
    exact ⟨t, hexec, htaken.peerCr, htaken.ackRx, htaken.held, htaken.seqRx, hothers, hframe⟩
  · have hexec : exec (.replayFrame n k f) s = .next (s.replayFrame n k f) := if_pos halive
    rw [replayFrame_taken (hruns hrole) hfcs hhead] at hexec
    obtain ⟨hheld, hcounts, hout, hothers'⟩ := replay_leaves ((s.setSub n k y).meter transit .rx f.len) n k
    rw [hsub, htaken.held] at hheld hcounts hout
    exact ⟨_, hexec, hheld, hcounts, hout, otherSubs_trans hothers hothers'⟩
  · have hexec := exec_initFrame halive n k f
    obtain ⟨z, hinit, hpeer, hmac, hseq, hused, hcredits, hlink⟩ := initFrame_taken (n := n) hdirect hup hfcs
    rw [hinit] at hexec
    obtain ⟨hsub, hothers, hframe⟩ := setSub_meter_leaves s n k z transit .rx f.len
    generalize (s.setSub n k z).meter transit .rx f.len = t at hexec hsub hothers hframe
    obtain rfl := hsub
    exact ⟨t, hexec, hpeer, hmac, hseq, hused, hcredits, hlink, hothers, hframe⟩

/-! ## The timers -/

section Timers

variable {s : State} {n k a : Nat}

theorem ctrlTimer_due (hruns : s.linkRuns n k = true) (hdue : (s.sub n k).ctrlDue = some a) (h : a ≤ s.ps) :
    s.ctrlTimer n k = s.sendLink n k 1 0 := by
  unfold State.ctrlTimer
  rw [hdue]
  exact if_pos (by rw [hruns, decide_eq_true h]; rfl)

theorem ctrlTimer_early (hdue : (s.sub n k).ctrlDue = some a) (h : s.ps < a) : s.ctrlTimer n k = s := by
  unfold State.ctrlTimer
  rw [hdue]
  exact if_neg (by simp [Nat.not_le.mpr h])

theorem replayTimer_due (hruns : s.linkRuns n k = true) (hdue : (s.sub n k).replayAt = some a) (h : a ≤ s.ps) :
    s.replayTimer n k = s.replay n k := by
  unfold State.replayTimer
  rw [hdue]
  exact if_pos (by rw [hruns, decide_eq_true h]; rfl)

theorem replayTimer_early (hdue : (s.sub n k).replayAt = some a) (h : s.ps < a) : s.replayTimer n k = s := by
  unfold State.replayTimer
  rw [hdue]
  exact if_neg (by simp [Nat.not_le.mpr h])

end Timers

theorem linkTimers : LinkTimers := by
  intro s n k halive hdirect hrole hup x
  have hruns : s.linkRuns n k = true := linkRuns_of hdirect hrole hup
  refine ⟨fun a hdue h => ?_, fun a hdue h => ?_, fun a hdue h => ?_, fun a hdue h => ?_⟩
  · have hexec : exec (.ctrlFrameTimer n k) s = .next (s.ctrlTimer n k) := if_pos halive
    rw [ctrlTimer_due hruns hdue h] at hexec
    obtain ⟨hout, hsub, hothers, -, -⟩ := sendLink_leaves s n k 1 0
    exact ⟨_, hexec, hout, congrArg Sub.ctrlDue hsub, hothers⟩
  · exact (if_pos halive).trans (congrArg _ (ctrlTimer_early hdue h))
  · have hexec : exec (.replayTimerExpiry n k) s = .next (s.replayTimer n k) := if_pos halive
    rw [replayTimer_due hruns hdue h] at hexec
    obtain ⟨hheld, hcounts, hout, hothers⟩ := replay_leaves s n k
    exact ⟨_, hexec, hcounts, hout, hheld, hothers⟩
  · exact (if_pos halive).trans (congrArg _ (replayTimer_early hdue h))

/-- Settles O35, from what a sub-port's link layer takes from each frame and does at its two timers. -/
theorem linkLayer : Obligations.LinkLayer := ⟨linkFrames, linkTimers⟩

end Sys2Proof.Proofs
end

section
/-!
PROOF. Links of the fabric ports: sub-ports that go down, train and retry (R279, R389, R392), and the owner's write of MAC_CTRL
(R342).
-/

namespace Sys2Proof.Proofs

open Sys2Proof.Machine Sys2Proof.Laws Sys2Proof.Claims

/-! ## What a change of a port's links leaves alone -/

/-- A state without what the links of ports change. -/
def exceptLinks (s : State) : State := { exceptQueues s with subs := [] }

/-- The registers that a change of port `n`'s links may change: those of its transmit queue and of the port of PTP (R190). -/
def linkRegs (n : Nat) : List Nat := Reg.TIME_STATUS :: Reg.TIME_CNT_LOSS :: queueRegs n

/-- From `s` to `t` links of port `n` change: sub-ports, and what a raw slot's end and the move of PTP change. -/
structure LinkChange (n : Nat) (s t : State) : Prop where
  frame : exceptLinks t = exceptLinks s
  regs : RegsBut s t (linkRegs n)

/-- The registers of the fabric and the head of a port's own are none of those. -/
theorem not_mem_linkRegs {a : Nat} (n : Nat) (hlow : 0x40000 ≤ a) (hhigh : a < 0x110190) : a ∉ linkRegs n := by
  simp only [linkRegs, queueRegs, lookupCounts, Reg.TIME_STATUS, Reg.TIME_CNT_LOSS, Reg.MAC_TQ_CONS, Reg.XLT_CNT, List.mem_cons,
    List.not_mem_nil, or_false, not_or]
  omega

theorem macCtrl_not_linkRegs {m : Nat} (hm : m < 6) (n : Nat) : Reg.MAC_CTRL m ∉ linkRegs n := by
  simp only [linkRegs, queueRegs, lookupCounts, Reg.TIME_STATUS, Reg.TIME_CNT_LOSS, Reg.MAC_TQ_CONS, Reg.MAC_CTRL, Reg.XLT_CNT,
    List.mem_cons, List.not_mem_nil, or_false, not_or]
  omega

section Change

variable {n : Nat} {s t u : State}

theorem LinkChange.refl (n : Nat) (s : State) : LinkChange n s s := ⟨rfl, regsBut_refl _ _⟩

theorem LinkChange.trans (h : LinkChange n s t) (g : LinkChange n t u) : LinkChange n s u :=
  ⟨g.frame.trans h.frame, regsBut_trans h.regs g.regs⟩

theorem linkChange_setSub (s : State) (n k : Nat) (x : Sub) : LinkChange n s (s.setSub n k x) := ⟨rfl, regsBut_of_regs rfl⟩

/-- What an update of one sub-port leaves. -/
theorem updSub_leaves (s : State) (n k : Nat) (g : Sub → Sub) :
    let t := s.updSub n k g
    LinkChange n s t ∧ OtherSubs s t n k ∧ t.sub n k = g (s.sub n k) :=
  ⟨linkChange_setSub s n k _, otherSubs_setSub s n k _, sub_updSub_self s n k g⟩

theorem linkChange_setReg (s : State) {a : Nat} (ha : a ∈ linkRegs n) (v : Word) : LinkChange n s (s.setReg a v) :=
  ⟨rfl, regsBut_setReg s ha v⟩

theorem linkChange_emit (n : Nat) (s : State) (e : Emission) : LinkChange n s (s.emit e) := ⟨rfl, regsBut_of_regs rfl⟩

theorem linkChange_tqDone (s : State) (n : Nat) : LinkChange n s (s.tqDone n false) := by
  obtain ⟨hframe, hregs⟩ := tqDone_unsent_leaves s n
  exact ⟨congrArg (fun u : State => ({ u with subs := [] } : State)) hframe,
    regsBut_mono hregs fun _ h => List.mem_cons_of_mem _ (List.mem_cons_of_mem _ h)⟩

theorem subs_tqDone_unsent (s : State) (n : Nat) : (s.tqDone n false).subs = s.subs :=
  (congrArg State.subs (tqDone_unsent_leaves s n).1 :)

/-- What reads none of what links change. -/
theorem field_of_exceptLinks {α : Type} (h : exceptLinks t = exceptLinks s) (f : State → α)
    (hf : ∀ u, f (exceptLinks u) = f u) : f t = f s := by
  rw [← hf t, h, hf s]

theorem stores_of_exceptLinks (h : exceptLinks t = exceptLinks s) : SameStores s t :=
  ⟨(congrArg State.mem h :), (congrArg State.tmem h :), (congrArg State.nbuf h :), (congrArg State.pio h :),
    (congrArg State.sems h :)⟩

theorem subCount_of_exceptLinks (h : exceptLinks t = exceptLinks s) (m : Nat) : t.subCount m = s.subCount m :=
  field_of_exceptLinks h (·.subCount m) fun _ => rfl

end Change

/-! ## Sub-ports that go down and train -/

section Down

variable (s : State) (n k : Nat)

/-- A sub-port that drops what it has queued and held; a raw slot among it ends. -/
theorem dropQueues_leaves : LinkChange n s (s.dropQueues n k)
    ∧ ∃ y, y.queue = [] ∧ y.held = [] ∧ (s.dropQueues n k).subs = (s.setSub n k y).subs := by
  unfold State.dropQueues
  dsimp only
  split
  · exact ⟨(linkChange_setSub s n k _).trans (linkChange_tqDone _ n), _, rfl, rfl, subs_tqDone_unsent _ n⟩
  · exact ⟨linkChange_setSub s n k _, _, rfl, rfl, rfl⟩

theorem subDown_eq (ph : LinkPhase) : ∃ g : Sub → Sub, s.subDown n k ph = (s.dropQueues n k).updSub n k g
    ∧ ∀ x, (g x).link = ph ∧ (g x).lanes = 0 ∧ (g x).queue = x.queue ∧ (g x).held = x.held :=
  ⟨_, rfl, fun _ => ⟨rfl, rfl, rfl, rfl⟩⟩

/-- A sub-port that goes down, to phase `ph`. -/
theorem subDown_leaves (ph : LinkPhase) :
    let t := s.subDown n k ph
    let y := t.sub n k
    LinkChange n s t ∧ OtherSubs s t n k ∧ y.link = ph ∧ y.lanes = 0 ∧ y.queue = [] ∧ y.held = [] := by
  obtain ⟨hchange, y, hqueue, hheld, hsubs⟩ := dropQueues_leaves s n k
  have hdropped : (s.dropQueues n k).sub n k = y := (sub_of_subs hsubs n k).trans (sub_setSub_self s n k y)
  have hothers : OtherSubs s (s.dropQueues n k) n k := otherSubs_of_subs (otherSubs_setSub s n k y) hsubs
  obtain ⟨g, hframe, hg⟩ := subDown_eq s n k ph
  obtain ⟨hdown, hothers', hsub⟩ := updSub_leaves (s.dropQueues n k) n k g
  obtain ⟨hlink, hlanes, hqueue', hheld'⟩ := hg y
  dsimp only
  rw [hframe, hsub, hdropped]
  exact ⟨hchange.trans hdown, otherSubs_trans hothers hothers', hlink, hlanes, hqueue'.trans hqueue, hheld'.trans hheld⟩

/-- A sub-port that starts to train. -/
theorem subTrain_leaves :
    let t := s.subTrain n k
    let y := t.sub n k
    LinkChange n s t ∧ OtherSubs s t n k ∧ y.link = .training ∧ y.downAt = some s.ps := by
  obtain ⟨hchange, hothers, hsub⟩ := updSub_leaves s n k fun x => { x with link := .training, downAt := some s.ps }
  unfold State.subTrain
  generalize (s.updSub n k fun x => { x with link := .training, downAt := some s.ps }) = u at hchange hothers hsub ⊢
  exact ⟨hchange.trans (linkChange_emit n u _), hothers, congrArg Sub.link hsub, congrArg Sub.downAt hsub⟩

/-- PTP moves to another port, or stays (R190). -/
theorem ptpMove_leaves (n : Nat) : LinkChange n s s.ptpMove ∧ s.ptpMove.subs = s.subs := by
  unfold State.ptpMove
  split
  · split
    · have hstatus : Reg.TIME_STATUS ∈ linkRegs n := List.mem_cons_self
      have hloss : Reg.TIME_CNT_LOSS ∈ linkRegs n := List.mem_cons_of_mem _ List.mem_cons_self
      exact ⟨(linkChange_setReg s hstatus _).trans (linkChange_setReg _ hloss _), rfl⟩
    · exact ⟨.refl n s, rfl⟩
  · exact ⟨.refl n s, rfl⟩

end Down

/-! ## Ports that go down and train -/

section Ports

variable (s : State) (n : Nat)

/-- No sub-port of a port other than `n`. -/
theorem otherPort_ne {n m j : Nat} (hm : m ≠ n) (hj : j < 4) : ∀ k ∈ List.range 4, 4 * m + j ≠ 4 * n + k := fun k hk => by
  have hk : k < 4 := List.mem_range.mp hk
  omega

/-- A port that goes down. -/
theorem portDown_leaves :
    let t := s.portDown n
    LinkChange n s t
      ∧ (∀ k, k < 4 → (t.sub n k).link = (if k < s.subCount n then .down else .absent) ∧ (t.sub n k).queue = [])
      ∧ ∀ m j, m ≠ n → j < 4 → t.sub m j = s.sub m j := by
  have hloop := foldl_subs (I := LinkChange n s)
    (Q := fun k _ y => y.link = (if k < s.subCount n then LinkPhase.down else .absent) ∧ y.queue = []) (n := n)
    (f := fun s k => s.subDown n k (if k < s.subCount n then .down else .absent)) (fun t k ht => by
      obtain ⟨hchange, hothers, hlink, -, hqueue, -⟩ := subDown_leaves t n k (if k < t.subCount n then .down else .absent)
      have hcount : t.subCount n = s.subCount n := subCount_of_exceptLinks ht.frame n
      exact ⟨ht.trans hchange, hothers, hlink.trans (by rw [hcount]), hqueue⟩) (List.nodup_range (n := 4)) (.refl n s)
  obtain ⟨hchange, hvisited, hothers⟩ := hloop
  exact ⟨hchange, fun k hk => hvisited k (List.mem_range.mpr hk), fun m j hm hj => hothers m j (otherPort_ne hm hj)⟩

/-- A port that trains takes its split first. -/
theorem portTrain_leaves :
    let t := s.portTrain n
    (∃ split, LinkChange n { s with split := split } t)
      ∧ (s.portOn n = true → ∀ k, k < 4 → (t.sub n k).link = if k < t.subCount n then .training else .absent)
      ∧ ∀ m j, m ≠ n → j < 4 → t.sub m j = s.sub m j := by
  unfold State.portTrain
  split
  · dsimp only
    generalize tset 0 s.split n (s.fld (Reg.MAC_CTRL n) 1 2) = split
    have hloop := foldl_subs (I := LinkChange n { s with split := split })
      (Q := fun k _ y => y.link = if k < ({ s with split := split } : State).subCount n then LinkPhase.training else .absent)
      (n := n) (f := fun s k =>
        if k < s.subCount n then (s.subDown n k .training).subTrain n k else s.subDown n k .absent) (fun t k ht => by
      rw [subCount_of_exceptLinks ht.frame]
      split
      · obtain ⟨hdown, hothers, -⟩ := subDown_leaves t n k .training
        obtain ⟨htrain, hothers', hlink, -⟩ := subTrain_leaves (t.subDown n k .training) n k
        exact ⟨(ht.trans hdown).trans htrain, otherSubs_trans hothers hothers', hlink⟩
      · obtain ⟨hdown, hothers, hlink, -⟩ := subDown_leaves t n k .absent
        exact ⟨ht.trans hdown, hothers, hlink⟩) (List.nodup_range (n := 4)) (.refl n _)
    obtain ⟨hchange, hvisited, hothers⟩ := hloop
    refine ⟨⟨split, hchange⟩, fun _ k hk => ?_, fun m j hm hj => hothers m j (otherPort_ne hm hj)⟩
    rw [subCount_of_exceptLinks hchange.frame]
    exact hvisited k (List.mem_range.mpr hk)
  · rename_i hoff
    exact ⟨⟨s.split, .refl n s⟩, fun hon => absurd hon hoff, fun _ _ _ _ => rfl⟩

end Ports

/-! ## Links that go down, retry and lose lock -/

section Links

variable {s : State} {n k : Nat}

/-- The condition of R279 as the model tests it. -/
theorem downNow_iff (cause : DownCause) : s.downNow n k cause = true ↔ GoesDown s n k cause := by
  have hlink : ((s.sub n k).isUp || (s.sub n k).link == .miswired) = true
      ↔ (s.sub n k).link = .up ∨ (s.sub n k).link = .degraded ∨ (s.sub n k).link = .miswired := by
    simp [Sub.isUp, or_assoc]
  have hbudget : s.budget = 1000000 * s.fld Reg.FAB_LINK_CFG 0 8 := Nat.mul_comm _ _
  unfold State.downNow GoesDown
  rw [Bool.and_eq_true, hlink, ← hbudget]
  refine and_congr_right fun _ => ?_
  cases cause with
  | replay => cases hheld : (s.sub n k).held <;> simp
  | lock => cases hlock : (s.sub n k).lockAt <;> simp
  | fec => simp

/-- What a link that goes down leaves (R279). -/
theorem linkDown_leaves {cause : DownCause} (h : GoesDown s n k cause) :
    let t := s.linkDown n k cause
    let y := t.sub n k
    y.link = .down ∧ y.lanes = 0 ∧ y.queue = [] ∧ y.held = [] ∧ y.downAt = some s.ps ∧ Counts s t (Reg.FAB_CNT 8) 1
      ∧ OtherSubs s t n k ∧ SameStores s t := by
  obtain ⟨hchange, hothers, hlink, hlanes, hqueue, hheld⟩ := subDown_leaves s n k .down
  rw [State.linkDown, if_pos ((downNow_iff cause).mpr h)]
  generalize s.subDown n k .down = u at hchange hothers hlink hlanes hqueue hheld ⊢
  obtain ⟨hthen, hothers', hdown⟩ := updSub_leaves u n k fun x => { x with downAt := some s.ps }
  replace hthen := hchange.trans hthen
  replace hothers := otherSubs_trans hothers hothers'
  generalize (u.updSub n k fun x => { x with downAt := some s.ps }) = v at hdown hthen hothers ⊢
  obtain ⟨hmove, hsubs⟩ := ptpMove_leaves (v.bump (Reg.FAB_CNT 8)) n
  generalize (v.bump (Reg.FAB_CNT 8)).ptpMove = t at hmove hsubs ⊢
  have hcnt (m : Nat) : Reg.FAB_CNT 8 ∉ linkRegs m := not_mem_linkRegs m (by decide) (by decide)
  have hsub : t.sub n k = v.sub n k := sub_of_subs hsubs n k
  dsimp only
  rw [hsub, hdown]
  refine ⟨hlink, hlanes, hqueue, hheld, rfl, ?_, otherSubs_of_subs hothers hsubs, ?_⟩
  · exact counts_of_reg (counts_bump_of_reg (hthen.regs _ (hcnt n))) (hmove.regs _ (hcnt n))
  · exact stores_of_exceptLinks (hmove.frame.trans hthen.frame)

theorem linkDown_stays {cause : DownCause} (h : ¬ GoesDown s n k cause) : s.linkDown n k cause = s :=
  if_neg fun h' => h ((downNow_iff cause).mp h')

/-- A sub-port that has not come up for `wait` at time `now` trains again; any other stays (R392). -/
structure Retries (now wait : Nat) (x y : Sub) : Prop where
  again : ∀ a, x.downAt = some a → a + wait ≤ now → y.link = .training ∧ y.downAt = some now
  early : ∀ a, x.downAt = some a → now < a + wait → y = x
  none : x.downAt = none → y = x

/-- A state without what sub-ports that start to train change. -/
def exceptTraining (s : State) (tally : Tally) : State := { s with subs := [], out := [], tally := tally }

theorem exceptTraining_subTrain (s : State) (n k : Nat) (tally : Tally) :
    exceptTraining (s.subTrain n k) tally = exceptTraining s tally := by
  unfold State.subTrain State.emit State.updSub State.setSub exceptTraining
  rfl

/-- A port whose sub-ports have not come up. -/
theorem portRetry_leaves (hon : s.portOn n = true) (hdecided : s.boot.decided = true) :
    let t := s.portRetry n
    exceptTraining t s.tally = exceptTraining s s.tally
      ∧ ∀ k, k < 4 → Retries s.ps (ms (s.fld Reg.BOOT_TRAIN_CFG 16 16)) (s.sub n k) (t.sub n k) := by
  rw [State.portRetry, if_neg (by simp [hon, hdecided])]
  refine (foldl_subs (I := fun t => exceptTraining t s.tally = exceptTraining s s.tally)
    (Q := fun _ => Retries s.ps (ms (s.fld Reg.BOOT_TRAIN_CFG 16 16))) (n := n) (fun t k ht => ?_)
    (List.nodup_range (n := 4)) rfl).imp id fun h k hk => h.1 k (List.mem_range.mpr hk)
  have hps : t.ps = s.ps := (congrArg State.ps ht :)
  have hregs : t.regs = s.regs := (congrArg State.regs ht :)
  rw [hps, State.fld, State.reg, hregs, ← State.reg, ← State.fld]
  split
  next a hdown =>
    split
    next hdue =>
      obtain ⟨-, hothers, hlink, hat⟩ := subTrain_leaves t n k
      rw [hps] at hat
      refine ⟨(exceptTraining_subTrain t n k _).trans ht, hothers, fun _ _ _ => ⟨hlink, hat⟩, fun b hb hearly => ?_,
        fun h => ?_⟩
      · obtain rfl := Option.some.inj (hdown.symm.trans hb)
        omega
      · cases hdown.symm.trans h
    next hearly =>
      refine ⟨ht, fun _ _ _ => rfl, fun b hb hdue => ?_, fun _ _ _ => rfl, fun _ => rfl⟩
      obtain rfl := Option.some.inj (hdown.symm.trans hb)
      exact absurd hdue hearly
  next hdown => exact ⟨ht, fun _ _ _ => rfl, fun b hb _ => (nomatch hdown.symm.trans hb), fun _ _ _ => rfl, fun _ => rfl⟩

/-- Block lock that is lost or regained. -/
theorem lockChange_leaves (s : State) (n k : Nat) (lock : Bool) :
    let x := s.sub n k
    let y := (s.lockChange n k lock).sub n k
    y.lock = lock ∧ (x.lock ≠ lock → y.lockAt = if lock then none else some s.ps) ∧ y.link = x.link := by
  dsimp only
  rw [State.lockChange, sub_updSub_self]
  split
  next hsame => exact ⟨hsame, fun h => absurd hsame h, rfl⟩
  · exact ⟨rfl, fun _ => rfl, rfl⟩

/-- A port without width is not up. -/
theorem attUp_attachDown (s : State) (q : Nat) : (s.attachDown q).attUp q = false := by
  have hwidth : tget 0 (s.attachDown q).boot.attWidth ((s.attachDown q).attPhys q) = 0 :=
    tget_tset_self (0 : Nat) 0 s.boot.attWidth (s.attPhys q)
  rw [State.attUp, hwidth]
  exact Bool.and_false _

end Links

theorem linksChange : LinksChange := by
  intro s n k halive x
  refine ⟨fun cause hdown => ⟨_, if_pos halive, linkDown_leaves hdown⟩,
    fun cause hstays => (if_pos halive).trans (congrArg _ (linkDown_stays hstays)), fun hon hdecided => ?_, fun lock => ?_,
    fun q hup => ?_⟩
  · obtain ⟨hframe, hretries⟩ := portRetry_leaves hon hdecided
    have hwait : ms (s.fld Reg.BOOT_TRAIN_CFG 16 16) = 1000000000 * s.fld Reg.BOOT_TRAIN_CFG 16 16 := Nat.mul_comm _ _
    rw [hwait] at hretries
    obtain ⟨hagain, hearly, hnone⟩ := hretries k k.isLt
    exact ⟨_, if_pos halive, hagain, hearly, hnone, hframe⟩
  · obtain ⟨hlock, hat, hlink⟩ := lockChange_leaves s n k lock
    exact ⟨_, if_pos halive, hlock, hat, hlink, otherSubs_setSub s n k _, rfl⟩
  · have hexec : exec (.attachLinkDown q) s = .next (s.attachDown q) := if_pos (by rw [halive, hup]; rfl)
    exact ⟨_, hexec, attUp_attachDown s q, rfl, rfl⟩

/-! ## The owner's write of MAC_CTRL (R342) -/

section Admin

theorem bits_lt (v : Word) (lo w : Nat) : bits v lo w < 2 ^ w := Nat.mod_lt _ (Nat.two_pow_pos w)

/-- MAC_CTRL after a write: split and kr are those written only while admin_up was 0. -/
def macCtrlWord (old v : Word) : Word :=
  BitVec.ofNat 64 (bits v 0 1 + (if bit old 0 = true ∨ bits v 1 2 = 3 then bits old 1 2 else bits v 1 2) * 2
    + (if bit old 0 = true then bits old 3 1 else bits v 3 1) * 8 + bits v 4 3 * 16)

theorem macCtrlWord_fields (old v : Word) : bit (macCtrlWord old v) 0 = bit v 0
    ∧ bits (macCtrlWord old v) 1 2 = (if bit old 0 = true ∨ bits v 1 2 = 3 then bits old 1 2 else bits v 1 2)
    ∧ bits (macCtrlWord old v) 4 3 = bits v 4 3 := by
  have hup : bit v 0 = decide (bits v 0 1 = 1) := by
    rw [bit, BitVec.getLsbD, Nat.testBit_zero, bits]
    rfl
  have hsplit : (if bit old 0 = true ∨ bits v 1 2 = 3 then bits old 1 2 else bits v 1 2) < 4 := by
    split
    · exact bits_lt old 1 2
    · exact bits_lt v 1 2
  have hkr : (if bit old 0 = true then bits old 3 1 else bits v 3 1) < 2 := by
    split
    · exact bits_lt old 3 1
    · exact bits_lt v 3 1
  have hadmin : bits v 0 1 < 2 := bits_lt v 0 1
  have hhigh : bits v 4 3 < 8 := bits_lt v 4 3
  rw [hup, macCtrlWord]
  generalize (if bit old 0 = true ∨ bits v 1 2 = 3 then bits old 1 2 else bits v 1 2) = split at hsplit ⊢
  generalize (if bit old 0 = true then bits old 3 1 else bits v 3 1) = kr at hkr ⊢
  generalize bits v 0 1 = admin at hadmin ⊢
  generalize bits v 4 3 = high at hhigh ⊢
  have hlt : admin + split * 2 + kr * 8 + high * 16 < 2 ^ 64 := by omega
  refine ⟨?_, ?_, ?_⟩
  · rw [bit, BitVec.getLsbD, Nat.testBit_zero, BitVec.toNat_ofNat, Nat.mod_eq_of_lt hlt]
    congr 1
    exact propext (by omega)
  · rw [bits_eq_div, BitVec.toNat_ofNat, Nat.mod_eq_of_lt hlt]
    omega
  · rw [bits_eq_div, BitVec.toNat_ofNat, Nat.mod_eq_of_lt hlt]
    omega

/-- The state in which a write of MAC_CTRL has set the register. -/
def macCtrlSet (s : State) (n : Nat) (v : Word) : State := s.setReg (Reg.MAC_CTRL n) (macCtrlWord (s.reg (Reg.MAC_CTRL n)) v)

theorem macCtrlSet_leaves (s : State) (n : Nat) (v : Word) :
    let u := macCtrlSet s n v
    u.reg (Reg.MAC_CTRL n) = macCtrlWord (s.reg (Reg.MAC_CTRL n)) v ∧ (∀ a, a ≠ Reg.MAC_CTRL n → u.reg a = s.reg a)
      ∧ { u with regs := [] } = { s with regs := [] } :=
  ⟨reg_setReg_self .., fun a ha => (reg_setReg s _ a _).trans (if_neg ha), setReg_frame s _ _⟩

section Write

variable {s : State} {n : Nat} {v : Word}

theorem macCtrl_starts (hold : bit (s.reg (Reg.MAC_CTRL n)) 0 = false) (hv : bit v 0 = true) :
    s.macCtrl n v = (macCtrlSet s n v).portTrain n :=
  if_pos (by rw [hold, hv]; rfl)

theorem macCtrl_stops (hold : bit (s.reg (Reg.MAC_CTRL n)) 0 = true) (hv : bit v 0 = false) :
    s.macCtrl n v = ((macCtrlSet s n v).portDown n).ptpMove :=
  (if_neg (by rw [hold, hv]; decide)).trans (if_pos (by rw [hold, hv]; rfl))

theorem macCtrl_unchanged (h : bit (s.reg (Reg.MAC_CTRL n)) 0 = bit v 0) : s.macCtrl n v = macCtrlSet s n v :=
  (if_neg (by rw [h]; simp)).trans (if_neg (by rw [h]; simp))

/-- A port that is present and whose role does not forbid it trains when admin_up is set. -/
theorem portOn_macCtrlSet (hn : n < 6) (hv : bit v 0 = true) (hpresent : s.present n = true)
    (hrole : s.boot.decided = false ∨ (s.role n ≠ 0 ∧ s.flag Reg.GLB_PROFILE 8 = false)) :
    (macCtrlSet s n v).portOn n = true := by
  have hplane : Reg.FAB_PLANE n ≠ Reg.MAC_CTRL n := by unfold Reg.FAB_PLANE Reg.MAC_CTRL; omega
  have hprofile : Reg.GLB_PROFILE ≠ Reg.MAC_CTRL n := by unfold Reg.GLB_PROFILE Reg.MAC_CTRL; omega
  obtain ⟨hword, hregs, hframe⟩ := macCtrlSet_leaves s n v
  obtain ⟨hadmin, -, -⟩ := macCtrlWord_fields (s.reg (Reg.MAC_CTRL n)) v
  have hboot : (macCtrlSet s n v).boot = s.boot := (congrArg State.boot hframe :)
  have hup : (macCtrlSet s n v).flag (Reg.MAC_CTRL n) 0 = true := by rw [State.flag, hword, hadmin, hv]
  have hpresent' : (macCtrlSet s n v).present n = true := by rwa [State.present, hboot]
  have hrole' : (macCtrlSet s n v).role n = s.role n := fld_of_reg (hregs _ hplane) 0 2
  have hprofile' : (macCtrlSet s n v).flag Reg.GLB_PROFILE 8 = s.flag Reg.GLB_PROFILE 8 := flag_of_reg (hregs _ hprofile) 8
  rw [State.portOn, hup, hpresent', hboot, hrole', hprofile']
  obtain h | ⟨h, hgood⟩ := hrole
  · simp [h]
  · simp [h, hgood]

/-- What every write of MAC_CTRL leaves. -/
theorem macCtrl_leaves (hn : n < 6) (v : Word) :
    let t := s.macCtrl n v
    t.reg (Reg.MAC_CTRL n) = macCtrlWord (s.reg (Reg.MAC_CTRL n)) v ∧ ∀ m j, m ≠ n → j < 4 → t.sub m j = s.sub m j := by
  obtain ⟨hword, -, hframe⟩ := macCtrlSet_leaves s n v
  have hsubs : ∀ m j, (macCtrlSet s n v).sub m j = s.sub m j := sub_of_subs (congrArg State.subs hframe :)
  have hkeep := macCtrl_not_linkRegs hn n
  dsimp only
  cases hold : bit (s.reg (Reg.MAC_CTRL n)) 0 <;> cases hv : bit v 0
  case false.true =>
    obtain ⟨⟨split, hchange⟩, -, hothers⟩ := portTrain_leaves (macCtrlSet s n v) n
    rw [macCtrl_starts hold hv]
    exact ⟨(hchange.regs _ hkeep).trans hword, fun m j hm hj => (hothers m j hm hj).trans (hsubs m j)⟩
  case true.false =>
    obtain ⟨hchange, -, hothers⟩ := portDown_leaves (macCtrlSet s n v) n
    obtain ⟨hmove, hsubs'⟩ := ptpMove_leaves ((macCtrlSet s n v).portDown n) n
    rw [macCtrl_stops hold hv]
    exact ⟨(hmove.regs _ hkeep).trans ((hchange.regs _ hkeep).trans hword),
      fun m j hm hj => (sub_of_subs hsubs' m j).trans ((hothers m j hm hj).trans (hsubs m j))⟩
  all_goals
    rw [macCtrl_unchanged (hold.trans hv.symm)]
    exact ⟨hword, fun m j _ _ => hsubs m j⟩

/-- Clearing admin_up takes the port's sub-ports down. -/
theorem macCtrl_stops_leaves (hold : bit (s.reg (Reg.MAC_CTRL n)) 0 = true) (hv : bit v 0 = false) {k : Nat} (hk : k < 4) :
    let y := (s.macCtrl n v).sub n k
    y.link = (if k < s.subCount n then .down else .absent) ∧ y.queue = [] := by
  obtain ⟨-, -, hframe⟩ := macCtrlSet_leaves s n v
  have hcount : (macCtrlSet s n v).subCount n = s.subCount n := by rw [State.subCount, (congrArg State.split hframe :)]; rfl
  obtain ⟨-, hdown, -⟩ := portDown_leaves (macCtrlSet s n v) n
  obtain ⟨-, hsubs⟩ := ptpMove_leaves ((macCtrlSet s n v).portDown n) n
  dsimp only
  rw [macCtrl_stops hold hv, sub_of_subs hsubs n k, ← hcount]
  exact hdown k hk

end Write

end Admin

theorem adminUp : AdminUp := by
  intro s p n v haccepted old
  have hexec : exec (.adminUpWrite p n v) s = .next ((s.tlp p 8).macCtrl n v) :=
    congrArg _ (mapWrite_accepted haccepted fun s => s.macCtrl n v)
  obtain ⟨tally, htlp⟩ := tlp_eq s p 8
  have hold : (s.tlp p 8).reg (Reg.MAC_CTRL n) = old := by rw [htlp]; rfl
  have hcount : (s.tlp p 8).subCount n = s.subCount n := by rw [htlp]; rfl
  have hpresent : (s.tlp p 8).present n = s.present n := by rw [htlp]; rfl
  have hboot : (s.tlp p 8).boot = s.boot := by rw [htlp]
  have hrole : (s.tlp p 8).role n = s.role n := by rw [htlp]; rfl
  have hprofile : (s.tlp p 8).flag Reg.GLB_PROFILE 8 = s.flag Reg.GLB_PROFILE 8 := by rw [htlp]; rfl
  have hsubs : (s.tlp p 8).subs = s.subs := by rw [htlp]
  generalize s.tlp p 8 = u at hexec hold hcount hpresent hboot hrole hprofile hsubs
  obtain ⟨hword, hothers⟩ := macCtrl_leaves (s := u) n.isLt v
  obtain ⟨hadmin, hsplit, hhigh⟩ := macCtrlWord_fields old v
  rw [hold] at hword
  refine ⟨_, hexec, ?_, ?_, ?_, fun h hv k => ?_, fun h hv hp hr k => ?_, fun m hm k => ?_⟩
  · rw [State.flag, hword, hadmin]
  · rw [State.fld, hword, hsplit]
  · rw [State.fld, hword, hhigh]
  · rw [← hcount]
    exact macCtrl_stops_leaves (hold ▸ h) hv k.isLt
  · rw [macCtrl_starts (hold ▸ h) hv]
    rw [← hpresent] at hp
    rw [← hboot, ← hrole, ← hprofile] at hr
    obtain ⟨-, htrain, -⟩ := portTrain_leaves (macCtrlSet u n v) n
    exact htrain (portOn_macCtrlSet n.isLt hv hp hr) k k.isLt
  · exact (hothers m k (fun h => hm (Fin.ext h)) k.isLt).trans (sub_of_subs hsubs m k)

/-- Settles O36, from what sub-ports leave that go down, retry or lose lock, and from a write of MAC_CTRL. -/
theorem linkStates : Obligations.LinkStates := ⟨linksChange, adminUp⟩

end Sys2Proof.Proofs
end

section
/-!
PROOF. The commands of the fabric and port registers (R273, R280, R283, R284, R350, R354).
-/

namespace Sys2Proof.Proofs

open Sys2Proof.Machine Sys2Proof.Laws Sys2Proof.Claims

/-! ## FAB_COMMIT (R273) -/

section Commit

variable {s t u : State} {n : Nat}

theorem fabRefused_iff (s : State) : s.fabRefused = true ↔ PfcRefused s := by
  unfold State.fabRefused PfcRefused
  simp [or_assoc]

/-- A write of FAB_COMMIT clears commit_err, or not, before it commits. -/
theorem fabCommitWrite_eq (s : State) {v : Word} (hgo : bit v 0 = true) :
    ∃ u, s.fabCommitWrite v = u.fabCommit ∧ RegsBut s u [Reg.FAB_COMMIT] ∧ { u with regs := [] } = { s with regs := [] } := by
  unfold State.fabCommitWrite
  dsimp only
  rw [if_pos hgo]
  split
  · exact ⟨_, rfl, regsBut_setReg s List.mem_cons_self _, setReg_frame s _ _⟩
  · exact ⟨s, rfl, regsBut_refl _ _, rfl⟩

theorem pfcRefused_of_shadow (h : u.shadow = s.shadow) : PfcRefused u ↔ PfcRefused s := by
  have hsh (a lo w : Nat) : u.shFld a lo w = s.shFld a lo w := by rw [State.shFld, State.shFld, State.sh, State.sh, h]
  rw [PfcRefused, PfcRefused, hsh, hsh, hsh]

theorem fabCommit_refused (h : PfcRefused s) : s.fabCommit = s.setFld Reg.FAB_COMMIT 1 1 1 := if_pos ((fabRefused_iff s).mpr h)

/-- From `s` to `t` port `n` takes its staged plane, and its links may change. -/
structure TakesPlane (n : Nat) (s t : State) : Prop where
  shadow : t.shadow = s.shadow
  plane : t.reg (Reg.FAB_PLANE n) = s.sh (Reg.FAB_PLANE n)
  regs : RegsBut s t (Reg.FAB_PLANE n :: linkRegs n)

theorem fabPlane_not_linkRegs (hn : n < 6) (m : Nat) : Reg.FAB_PLANE n ∉ linkRegs m :=
  not_mem_linkRegs m (by unfold Reg.FAB_PLANE; omega) (by unfold Reg.FAB_PLANE; omega)

theorem takesPlane_setReg (s : State) (n : Nat) : TakesPlane n s (s.setReg (Reg.FAB_PLANE n) (s.sh (Reg.FAB_PLANE n))) :=
  ⟨rfl, reg_setReg_self .., regsBut_setReg s List.mem_cons_self _⟩

theorem TakesPlane.linkChange (h : TakesPlane n s t) (hn : n < 6) {split : Tab Nat}
    (hlinks : LinkChange n { t with split := split } u) : TakesPlane n s u where
  shadow := (congrArg State.shadow hlinks.frame :).trans h.shadow
  plane := (hlinks.regs _ (fabPlane_not_linkRegs hn n)).trans h.plane
  regs a ha := (hlinks.regs a fun h => ha (List.mem_cons_of_mem _ h)).trans (h.regs a ha)

/-- A loop in which every port takes its staged plane leaves all of them, and no other register but those of links changes. -/
theorem foldl_planes {f : State → Nat → State} (hf : ∀ t n, n < 6 → TakesPlane n t (f t n)) :
    ∀ {l : List Nat}, (∀ n ∈ l, n < 6) → ∀ s : State,
      (l.foldl f s).shadow = s.shadow ∧ (∀ n ∈ l, (l.foldl f s).reg (Reg.FAB_PLANE n) = s.sh (Reg.FAB_PLANE n))
        ∧ ∀ a, (∀ n ∈ l, a ∉ Reg.FAB_PLANE n :: linkRegs n) → (l.foldl f s).reg a = s.reg a := by
  intro l
  induction l with
  | nil => exact fun _ s => ⟨rfl, fun n hn => absurd hn List.not_mem_nil, fun _ _ => rfl⟩
  | cons n l ih =>
    intro hl s
    have hn : n < 6 := hl n List.mem_cons_self
    obtain ⟨hshadow, hplane, hregs⟩ := hf s n hn
    obtain ⟨hshadow', hplanes, hrest⟩ := ih (fun m hm => hl m (List.mem_cons_of_mem _ hm)) (f s n)
    have hsh (a : Nat) : (f s n).sh a = s.sh a := by rw [State.sh, State.sh, hshadow]
    refine ⟨hshadow'.trans hshadow, fun m hm => ?_, fun a ha => ?_⟩
    · by_cases hml : m ∈ l
      · exact (hplanes m hml).trans (hsh _)
      · obtain rfl := (List.mem_cons.mp hm).resolve_right hml
        refine (hrest _ fun j hj h => ?_).trans hplane
        obtain h | h := List.mem_cons.mp h
        · have hmj : m = j := by unfold Reg.FAB_PLANE at h; omega
          exact hml (hmj ▸ hj)
        · exact fabPlane_not_linkRegs hn j h
    · exact (hrest a fun j hj => ha j (List.mem_cons_of_mem _ hj)).trans (hregs a (ha n List.mem_cons_self))

/-- The staged PFC settings and planes take effect together. -/
theorem fabCommit_accepted (h : ¬ PfcRefused s) :
    let t := s.fabCommit
    t.reg Reg.FAB_PFC = s.sh Reg.FAB_PFC ∧ ∀ n, n < 6 → t.reg (Reg.FAB_PLANE n) = s.sh (Reg.FAB_PLANE n) := by
  rw [State.fabCommit, if_neg fun h' => h ((fabRefused_iff s).mp h')]
  dsimp only
  have hround (t : State) (n : Nat) (hn : n < 6) : TakesPlane n t
      (if s.role n ≠ 0 ∧ (t.setReg (Reg.FAB_PLANE n) (t.sh (Reg.FAB_PLANE n))).role n = 0 then
        (t.setReg (Reg.FAB_PLANE n) (t.sh (Reg.FAB_PLANE n))).portDown n
      else if s.role n = 0 ∧ (t.setReg (Reg.FAB_PLANE n) (t.sh (Reg.FAB_PLANE n))).role n ≠ 0 then
        (t.setReg (Reg.FAB_PLANE n) (t.sh (Reg.FAB_PLANE n))).portTrain n
      else t.setReg (Reg.FAB_PLANE n) (t.sh (Reg.FAB_PLANE n))) := by
    have htakes := takesPlane_setReg t n
    generalize t.setReg (Reg.FAB_PLANE n) (t.sh (Reg.FAB_PLANE n)) = u at htakes ⊢
    split
    · exact htakes.linkChange hn (portDown_leaves u n).1
    · split
      · obtain ⟨⟨split, hchange⟩, -, -⟩ := portTrain_leaves u n
        exact htakes.linkChange hn hchange
      · exact htakes
  have hloop := foldl_planes hround (fun _ => List.mem_range.mp) (s.setReg Reg.FAB_PFC (s.sh Reg.FAB_PFC))
  obtain ⟨-, hplanes, hrest⟩ := hloop
  generalize List.foldl _ (s.setReg Reg.FAB_PFC (s.sh Reg.FAB_PFC)) (List.range 6) = u at hplanes hrest ⊢
  obtain ⟨hmove, -⟩ := ptpMove_leaves u 0
  have hpfc (n : Nat) : Reg.FAB_PFC ∉ linkRegs n := not_mem_linkRegs n (by decide) (by decide)
  refine ⟨(hmove.regs _ (hpfc 0)).trans ((hrest _ fun n _ h => ?_).trans (reg_setReg_self ..)), fun n hn => ?_⟩
  · obtain h | h := List.mem_cons.mp h
    · unfold Reg.FAB_PFC Reg.FAB_PLANE at h
      omega
    · exact hpfc n h
  · exact (hmove.regs _ (fabPlane_not_linkRegs hn 0)).trans (hplanes n (List.mem_range.mpr hn))

/-- What a write of FAB_COMMIT leaves. -/
theorem fabCommitWrite_leaves (s : State) {v : Word} (hgo : bit v 0 = true) :
    let t := s.fabCommitWrite v
    (PfcRefused s → t.flag Reg.FAB_COMMIT 1 = true ∧ RegsBut s t [Reg.FAB_COMMIT]
        ∧ { t with regs := [] } = { s with regs := [] })
      ∧ (¬ PfcRefused s → t.reg Reg.FAB_PFC = s.sh Reg.FAB_PFC
        ∧ ∀ n, n < 6 → t.reg (Reg.FAB_PLANE n) = s.sh (Reg.FAB_PLANE n)) := by
  obtain ⟨u, hu, hregs, hframe⟩ := fabCommitWrite_eq s hgo
  have hshadow : u.shadow = s.shadow := (congrArg State.shadow hframe :)
  have hsh (a : Nat) : u.sh a = s.sh a := by rw [State.sh, State.sh, hshadow]
  dsimp only
  rw [hu, ← pfcRefused_of_shadow hshadow, ← hsh]
  simp only [← hsh]
  refine ⟨fun h => ?_, fabCommit_accepted⟩
  rw [fabCommit_refused h]
  exact ⟨(flag_setFld_self u _ (by decide) 1).trans (by decide), regsBut_trans hregs (regsBut_setReg u List.mem_cons_self _),
    (setReg_frame u _ _).trans hframe⟩

end Commit

/-! ## The group table (R283, R284) -/

theorem mc_mcWrite (s : State) (g : Nat) : s.mcWrite.mc g
    = if g = s.fld Reg.FAB_MC_SEL 0 12 then ⟨s.sh Reg.FAB_MC_DATA0, s.sh Reg.FAB_MC_DATA1⟩ else s.mc g := tget_tset ..

theorem sh_setSh_self (s : State) (a : Nat) (v : Word) : (s.setSh a v).sh a = v := tget_tset_self ..

theorem sh_setSh_ne (s : State) {a b : Nat} (h : b ≠ a) (v : Word) : (s.setSh a v).sh b = s.sh b := by
  unfold State.sh State.setSh tset
  dsimp only
  split
  · exact tget_filter_ne _ _ _ _ h
  · exact tget_tins_ne _ _ _ _ _ h

theorem mcLoad_leaves (s : State) :
    let t := s.mcLoad
    let m := s.mc (s.fld Reg.FAB_MC_SEL 0 12)
    t.sh Reg.FAB_MC_DATA0 = m.data0 ∧ t.sh Reg.FAB_MC_DATA1 = m.data1 ∧ t.regs = s.regs
      ∧ { t with shadow := [] } = { s with shadow := [] } := by
  refine ⟨(sh_setSh_ne _ (by decide) _).trans (sh_setSh_self ..), sh_setSh_self .., rfl, ?_⟩
  unfold State.mcLoad State.setSh
  rfl

/-! ## The raw transmit queue's index (R350) -/

section Index

variable {s : State} {n : Nat} {v : Word}

theorem tqProdWrite_taken (h : (v.setWidth 32 - s.tqCons n).toNat ≤ 2 ^ s.fld (Reg.MAC_TQ_CFG n) 0 4) :
    let t := s.tqProdWrite n v
    (t.reg (Reg.MAC_TQ_PROD n)).toNat = bits v 0 32 ∧ RegsBut s t (Reg.MAC_TQ_PROD n :: lookupCounts) := by
  have hframe : s.tqProdWrite n v = (s.setReg (Reg.MAC_TQ_PROD n) ((v.setWidth 32).setWidth 64)).tqNext n :=
    if_neg (Nat.not_lt.mpr h)
  rw [hframe]
  obtain ⟨-, hregs⟩ := tqNext_leaves (s.setReg (Reg.MAC_TQ_PROD n) ((v.setWidth 32).setWidth 64)) n
  have hprod : Reg.MAC_TQ_PROD n ∉ lookupCounts := by
    simp only [lookupCounts, Reg.MAC_TQ_PROD, Reg.XLT_CNT, List.mem_cons, List.not_mem_nil, or_false, not_or]
    omega
  refine ⟨?_, regsBut_trans (regsBut_setReg s List.mem_cons_self _) (regsBut_mono hregs (List.subset_cons_self _ _))⟩
  rw [hregs _ hprod, reg_setReg_self, bits_eq_div, BitVec.toNat_setWidth, BitVec.toNat_setWidth, pow_zero, Nat.div_one]
  exact Nat.mod_eq_of_lt (by omega)

theorem tqProdWrite_discarded (h : 2 ^ s.fld (Reg.MAC_TQ_CFG n) 0 4 < (v.setWidth 32 - s.tqCons n).toNat) :
    s.tqProdWrite n v = s := if_pos h

end Index

/-! ## Statistics (R354) -/

theorem statRead_leaves {s : State} {p : Path} {n k : Nat} (hp : pathCode p ≠ 0) (hk : k < s.subCount n) (j : Nat) :
    let t := s.statRead p n k j
    t.out = s.out ++ [.data p (s.reg (Reg.MAC_CNT n k j))] ∧ t.reg (Reg.MAC_CNT n k j) = 0
      ∧ RegsBut s t [Reg.MAC_CNT n k j] := by
  have hframe : s.statRead p n k j
      = (s.emit (.data p (s.reg (Reg.MAC_CNT n k j)))).setReg (Reg.MAC_CNT n k j) 0 :=
    if_neg fun h => h.elim hp (Nat.not_le.mpr hk)
  rw [hframe]
  exact ⟨rfl, reg_setReg_self .., regsBut_setReg (s.emit _) List.mem_cons_self _⟩

/-! ## The statement -/

theorem fabricCommands : FabricCommands := by
  intro s p v
  obtain ⟨tally, htlp⟩ := tlp_eq s p 8
  have hwrite {off : Nat} (haccepted : Accepted s p off) (k : State → State) :
      s.mapWrite p off k = k { s with tally := tally } := htlp ▸ mapWrite_accepted haccepted k
  refine ⟨fun haccepted hgo => ?_, fun haccepted => ⟨?_, ?_⟩, fun n haccepted => ⟨fun hroom => ?_, fun hahead => ?_⟩,
    fun n k j halive hup hp hk => ?_⟩
  · have hexec : exec (.fabCommit p v) s = .next (({ s with tally := tally } : State).fabCommitWrite v) :=
      congrArg _ (hwrite haccepted fun s => s.fabCommitWrite v)
    obtain ⟨hrefused, htaken⟩ := fabCommitWrite_leaves { s with tally := tally } hgo
    generalize ({ s with tally := tally } : State).fabCommitWrite v = t at hexec hrefused htaken
    refine ⟨fun h => ?_, fun h => ?_⟩
    · obtain ⟨herr, hregs, hframe⟩ := hrefused h
      exact ⟨t, hexec, herr, hregs,
        onlyRegs_of_tally (congrArg (fun u : State => ({ u with shadow := [], tally := tally } : State)) hframe)⟩
    · obtain ⟨hpfc, hplanes⟩ := htaken h
      exact ⟨t, hexec, hpfc, fun n => hplanes n n.isLt⟩
  · have hexec : exec (.mcEntryWrite p) s = .next ({ s with tally := tally } : State).mcWrite :=
      congrArg _ (hwrite haccepted State.mcWrite)
    have hmc := mc_mcWrite { s with tally := tally }
    exact ⟨_, hexec, (hmc _).trans (if_pos rfl), fun g hg => (hmc g).trans (if_neg hg), rfl⟩
  · have hexec : exec (.mcEntryLoad p) s = .next ({ s with tally := tally } : State).mcLoad :=
      congrArg _ (hwrite haccepted State.mcLoad)
    obtain ⟨hdata0, hdata1, hregs, hframe⟩ := mcLoad_leaves { s with tally := tally }
    generalize ({ s with tally := tally } : State).mcLoad = t at hexec hdata0 hdata1 hregs hframe
    exact ⟨t, hexec, hdata0, hdata1, hregs,
      onlyRegs_of_tally (congrArg (fun u : State => ({ u with regs := [], tally := tally } : State)) hframe)⟩
  · have hexec : exec (.rawTxProdWrite p n v) s = .next (({ s with tally := tally } : State).tqProdWrite n v) :=
      congrArg _ (hwrite haccepted fun s => s.tqProdWrite n v)
    obtain ⟨hprod, hregs⟩ := tqProdWrite_taken (s := { s with tally := tally }) hroom
    exact ⟨_, hexec, hprod, hregs⟩
  · have hdiscarded := tqProdWrite_discarded (s := { s with tally := tally }) hahead
    have hexec : exec (.rawTxProdWrite p n v) s = .next { s with tally := tally } :=
      congrArg _ ((hwrite haccepted fun s => s.tqProdWrite n v).trans hdiscarded)
    exact ⟨_, hexec, rfl, rfl⟩
  · have hexec : exec (.statCounterRead p n k j) s = .next ((s.tlp p 8).statRead p n k j) := if_pos (by rw [halive, hup]; rfl)
    rw [htlp] at hexec
    obtain ⟨hout, hzero, hregs⟩ := statRead_leaves (s := { s with tally := tally }) hp hk j
    exact ⟨_, hexec, hout, hzero, hregs⟩

end Sys2Proof.Proofs
end

section
/-!
PROOF. Management queries and answers (R457, R458).
-/

namespace Sys2Proof.Proofs

open Sys2Proof.Machine Sys2Proof.Laws Sys2Proof.Claims

/-! ## Management frames that are queued -/

/-- A state without what the queueing of a management frame changes. -/
def exceptMgmt (s : State) : State := { s with subs := [], free := 0 }

theorem stores_of_exceptMgmt {s t : State} (h : exceptMgmt t = exceptMgmt s) : SameStores s t :=
  ⟨(congrArg State.mem h :), (congrArg State.tmem h :), (congrArg State.nbuf h :), (congrArg State.pio h :),
    (congrArg State.sems h :)⟩

section Queued

variable (s : State) (dst : AdapterId)

/-- A frame goes into the queue of its sub-port, or is lost. -/
theorem mgmtVia_frame (i : Nat) (q : Option MgmtQuery) (nodes : List PeerNode) :
    exceptMgmt (s.mgmtVia i dst q nodes) = exceptMgmt s := by
  unfold State.mgmtVia
  dsimp only
  split
  · rfl
  · unfold State.enqueue State.updSub State.setSub exceptMgmt
    rfl

theorem mgmtTo_frame (q : MgmtQuery) : exceptMgmt (s.mgmtTo dst q) = exceptMgmt s := by
  unfold State.mgmtTo
  dsimp only
  split
  · rfl
  · exact mgmtVia_frame s.takeFree.2 dst _ _ _

/-- The number of a sub-port gives its port and its place. -/
theorem subNumber (n : Nat) {k : Nat} (hk : k < 4) : (4 * n + k) / 4 = n ∧ (4 * n + k) % 4 = k := by omega

/-- An answer is queued on the sub-port on which it is to go out. -/
theorem queuesAnswer_mgmtVia (n : Nat) {k : Nat} (hk : k < 4) (nodes : List PeerNode) :
    QueuesAnswer s (s.mgmtVia (4 * n + k) dst none nodes) n k dst nodes := by
  obtain ⟨hport, hplace⟩ := subNumber n hk
  unfold State.mgmtVia State.enqueue State.egressFits
  rw [hport, hplace]
  dsimp only
  refine ⟨fun hup hroom => ?_, fun hdown => ?_⟩
  · have hlen : 64 + s.takeFree.1.toNat % 1455 ≤ 1518 := by omega
    rw [if_neg (by rw [hup, decide_eq_true (by omega)]; decide)]
    exact ⟨_, congrArg Sub.queue (sub_updSub_self s.takeFree.2 n k _), rfl, rfl⟩
  · rw [if_pos (by rw [hdown]; rfl)]
    rfl

theorem QueuesAnswer.same {s t u : State} {n k : Nat} {dst : AdapterId} {nodes : List PeerNode} (h : QueuesAnswer s t n k dst nodes)
    (hsubs : u.subs = t.subs) : QueuesAnswer s u n k dst nodes :=
  ⟨fun hup hroom => sub_of_subs hsubs n k ▸ h.1 hup hroom, fun hdown => hsubs.trans (h.2 hdown)⟩

end Queued

/-! ## Queries that arrive -/

theorem exec_managementQuery {s : State} (hon : s.mgmtOn = true) (n : Fin 6) (k : Fin 4) (src : AdapterId) (q : MgmtQuery) :
    exec (.managementQuery n k src q) s = .next (s.mgmtQuery (4 * n.val + k.val) src q) := if_pos hon

/-- A query that is answered at once. -/
theorem mgmtVia_answers (s : State) (n : Fin 6) (k : Fin 4) (src : AdapterId) (nodes : List PeerNode) :
    let t := s.mgmtVia (4 * n.val + k.val) src none nodes
    QueuesAnswer s t n k src nodes ∧ t.night = s.night ∧ SameStores s t := by
  have hframe := mgmtVia_frame s src (4 * n.val + k.val) none nodes
  exact ⟨queuesAnswer_mgmtVia s src n k.isLt nodes, (congrArg State.night hframe :), stores_of_exceptMgmt hframe⟩

/-- A query to relay to an adapter of this row or column is noted and sent on. -/
theorem mgmtQuery_relayed {s : State} {ad : AdapterId} (had : ad ∈ s.linePeers) (n : Nat) {k : Nat} (hk : k < 4) (src : AdapterId)
    (sem : Option (BitVec 16)) :
    let t := s.mgmtQuery (4 * n + k) src (.relay ad sem)
    t.night.relays = s.night.relays ++ [⟨n, k, src, ad, sem⟩] ∧ SameStores s t := by
  obtain ⟨hport, hplace⟩ := subNumber n hk
  unfold State.mgmtQuery
  dsimp only
  rw [if_pos (List.contains_iff_mem.mpr had), hport, hplace]
  generalize s.night.relays ++ [⟨n, k, src, ad, sem⟩] = relays
  have hframe := mgmtTo_frame { s with night := { s.night with relays := relays } } ad
  exact ⟨(congrArg (fun u : State => u.night.relays) (hframe _) :), (stores_of_exceptMgmt (hframe _) :)⟩

theorem mgmtQuery_notRelayed {s : State} {ad : AdapterId} (had : ad ∉ s.linePeers) (i : Nat) (src : AdapterId)
    (sem : Option (BitVec 16)) : s.mgmtQuery i src (.relay ad sem) = s :=
  if_neg fun h => had (List.contains_iff_mem.mp h)

/-! ## Answers that arrive -/

section Answers

variable (s : State) (peer : AdapterId) (sem : Option (BitVec 16)) (nodes : List PeerNode)

/-- A relay of the query that is answered. -/
def relayOf (r : Relay) : Bool := r.peer == peer && r.sem == sem

/-- A state whose relays of the answered query have ended. -/
def relaysEnded (s : State) : State :=
  { s with night := { s.night with relays := s.night.relays.filter (fun r => !relayOf peer sem r) } }

theorem relayBack_eq : s.relayBack peer sem nodes = (s.night.relays.filter (relayOf peer sem)).foldl
    (fun t r => t.mgmtVia (4 * r.port + r.sub) r.src none nodes) (relaysEnded peer sem s) := rfl

theorem relayBack_frame : exceptMgmt (s.relayBack peer sem nodes) = exceptMgmt (relaysEnded peer sem s) := by
  rw [relayBack_eq]
  exact List.foldlRecOn (motive := fun t => exceptMgmt t = exceptMgmt (relaysEnded peer sem s)) _ _ rfl
    fun t h r _ => (mgmtVia_frame t r.src _ none nodes).trans h

/-- The answer to a query that was relayed once goes back to where it came from. -/
theorem relayBack_answers {r : Relay} (hone : s.night.relays.filter (relayOf peer sem) = [r]) (hr : r.sub < 4) :
    QueuesAnswer s (s.relayBack peer sem nodes) r.port r.sub r.src nodes := by
  rw [relayBack_eq, hone]
  exact queuesAnswer_mgmtVia (relaysEnded peer sem s) r.src r.port hr nodes

/-- The query that an answer closes is open, and of that peer about that semaphore. -/
def answers (q : Query) : Bool := q.due && q.peer == peer && q.sem == sem

variable {peer sem}

theorem not_answers {q : Query} (h : q.peer ≠ peer ∨ q.sem ≠ sem) : ¬ answers peer sem q = true := by
  rw [answers, Bool.and_eq_true, Bool.and_eq_true, beq_iff_eq, beq_iff_eq]
  exact fun ⟨⟨_, hpeer⟩, hsem⟩ => h.elim (· hpeer) (· hsem)

theorem due_of_not_answers {q : Query} (h : ¬ answers peer sem q = true) (hpeer : q.peer = peer) (hsem : q.sem = sem) :
    q.due = false := by
  simpa [answers, hpeer, hsem] using h

variable (peer sem)

/-- What an answer leaves of the queries of this adapter. -/
theorem takeAnswer_leaves : ∃ asked nodes' edges, s.takeAnswer peer sem nodes
      = { s with night := { s.night with asked := asked, nodes := nodes', edges := edges } }
    ∧ (∀ q ∈ asked, q.peer = peer → q.sem = sem → q.due = false)
    ∧ ∀ q, q ∈ s.night.asked → q.peer ≠ peer ∨ q.sem ≠ sem → q ∈ asked := by
  by_cases hany : s.night.asked.any (answers peer sem) = true
  · refine ⟨s.night.asked.map (fun q => if answers peer sem q then { q with due := false } else q), _, _, if_pos hany,
      fun q hq hpeer hsem => ?_, fun q hq h => List.mem_map.mpr ⟨q, hq, if_neg (not_answers h)⟩⟩
    obtain ⟨x, -, rfl⟩ := List.mem_map.mp hq
    by_cases hx : answers peer sem x = true
    · rw [if_pos hx]
    · rw [if_neg hx] at hpeer hsem ⊢
      exact due_of_not_answers hx hpeer hsem
  · refine ⟨s.night.asked, s.night.nodes, s.night.edges, if_neg hany, fun q hq hpeer hsem => ?_, fun q hq _ => hq⟩
    exact due_of_not_answers (fun h => hany (List.any_eq_true.mpr ⟨q, hq, h⟩)) hpeer hsem

end Answers

/-! ## Peers that do not answer -/

section Graphs

/-- A field that two words share is that field of their union. -/
theorem bits_or_of_eq {a b : Word} {lo w : Nat} (h : bits a lo w = bits b lo w) : bits (a ||| b) lo w = bits b lo w := by
  refine Nat.eq_of_testBit_eq fun i => ?_
  have hi : (bits a lo w).testBit i = (bits b lo w).testBit i := by rw [h]
  rw [testBit_bits, testBit_bits] at hi
  rw [testBit_bits, testBit_bits, BitVec.getLsbD_or, Bool.and_or_distrib_left, hi, Bool.or_self]

/-- A node that names the same object has the same kind, adapter and identifier. -/
theorem bits_of_sameNode {a b : GNode} (h : sameNode a b = true) {lo w : Nat} (hfield : 8 + 8 ≤ lo ∨ lo + w ≤ 8) :
    bits a.w0 lo w = bits b.w0 lo w := by
  rw [sameNode, Bool.and_eq_true, beq_iff_eq] at h
  rw [← bits_putBits_disjoint hfield a.w0 0, h.1, bits_putBits_disjoint hfield]

theorem w0_mergeNode (a b : GNode) : (mergeNode a b).w0 = a.w0 ||| b.w0 := by
  unfold mergeNode
  dsimp only
  split <;> rfl

/-- A graph to which a node was added has one for the same object: one that agrees but for its flags. -/
theorem putNode_has (g : Graph) (n : GNode) :
    ∃ m ∈ (putNode g n).2.1, ∀ {lo w : Nat}, 8 + 8 ≤ lo ∨ lo + w ≤ 8 → bits m.w0 lo w = bits n.w0 lo w := by
  unfold putNode
  split
  next m i hfound =>
    have hsame : sameNode m n = true := by simpa using List.find?_some hfound
    have hi : i < g.1.length := by simpa using List.snd_lt_of_mem_zipIdx (List.mem_of_find?_eq_some hfound)
    refine ⟨mergeNode m n, List.mem_set hi _, fun hfield => ?_⟩
    rw [w0_mergeNode, bits_or_of_eq (bits_of_sameNode hsame hfield)]
  · exact ⟨n, List.mem_append_right _ List.mem_cons_self, fun _ => rfl⟩

theorem bits_unresponsive (peer : AdapterId) :
    bits (bareNode 5 0x10 peer 0).w0 0 8 = 5 ∧ bits (bareNode 5 0x10 peer 0).w0 16 16 = peer.toNat := by
  have hpeer : peer.toNat < 2 ^ 16 := peer.isLt
  have hw : (bareNode 5 0x10 peer 0).w0.toNat = 5 + 0x10 * 2 ^ 8 + peer.toNat * 2 ^ 16 := by
    rw [bareNode, nodeWord, BitVec.toNat_ofNat, BitVec.toNat_ofNat]
    omega
  rw [bits_eq_div, bits_eq_div, hw]
  omega

end Graphs

/-- A peer whose query is late becomes an unresponsive node, and the query is given up. -/
theorem unresponsive_leaves (s : State) (peer : AdapterId) :
    let t := s.unresponsive peer
    (∀ q ∈ t.night.asked, s.lateQuery peer q = false)
      ∧ (∃ m ∈ t.night.nodes, bits m.w0 0 8 = 5 ∧ bits m.w0 16 16 = peer.toNat) ∧ { t with night := s.night } = s := by
  obtain ⟨m, hm, hfields⟩ := putNode_has (s.night.nodes, s.night.edges) (bareNode 5 0x10 peer 0)
  obtain ⟨hkind, had⟩ := bits_unresponsive peer
  refine ⟨fun q hq => ?_, ⟨m, hm, (hfields (.inr (by decide))).trans hkind, (hfields (.inl (by decide))).trans had⟩, rfl⟩
  obtain ⟨x, -, rfl⟩ := List.mem_map.mp hq
  split
  · rw [State.lateQuery]
    rfl
  next h => exact Bool.eq_false_iff.mpr h

/-! ## The statement -/

theorem managementFrames : ManagementFrames := by
  intro s hon
  have halive : s.alive = true := by
    rw [State.mgmtOn, Bool.and_eq_true, Bool.and_eq_true] at hon
    exact hon.1.1
  refine ⟨fun n k src ad id => ?_, fun n k src ad => ?_, fun n k src ad sem => ⟨fun had => ?_, fun had => ?_⟩,
    fun peer sem nodes => ?_, fun peer => ⟨fun hlate => ?_, fun hnone => ?_⟩⟩
  · exact ⟨_, exec_managementQuery hon n k src _, mgmtVia_answers s n k src _⟩
  · exact ⟨_, exec_managementQuery hon n k src _, mgmtVia_answers s n k src _⟩
  · exact ⟨_, exec_managementQuery hon n k src _, mgmtQuery_relayed had n k.isLt src sem⟩
  · exact (exec_managementQuery hon n k src _).trans (congrArg _ (mgmtQuery_notRelayed had _ src sem))
  · have hexec : exec (.managementAnswer peer sem nodes) s = .next ((s.relayBack peer sem nodes).takeAnswer peer sem nodes) :=
      if_pos hon
    have hframe := relayBack_frame s peer sem nodes
    have hanswers := fun r => relayBack_answers s peer sem nodes (r := r)
    generalize s.relayBack peer sem nodes = u at hexec hframe hanswers
    obtain ⟨asked, nodes', edges, htaken, hclosed, hkept⟩ := takeAnswer_leaves u peer sem nodes
    rw [htaken] at hexec
    have hasked : u.night.asked = s.night.asked := (congrArg (fun v : State => v.night.asked) hframe :)
    have hrelays : u.night.relays = s.night.relays.filter (fun r => !relayOf peer sem r) :=
      (congrArg (fun v : State => v.night.relays) hframe :)
    have hout : u.out = s.out := (congrArg State.out hframe :)
    have hstores : SameStores (relaysEnded peer sem s) u := stores_of_exceptMgmt hframe
    rw [hasked] at hkept
    refine ⟨_, hexec, hclosed, fun r hr => ?_, hkept,
      fun r hone hr => QueuesAnswer.same (hanswers r hone hr) rfl, hout, hstores⟩
    dsimp only at hr
    rw [hrelays] at hr
    have hnot : relayOf peer sem r = false := by simpa using (List.mem_filter.mp hr).2
    simpa [relayOf, Classical.or_iff_not_imp_left] using hnot
  · have hexec : exec (.peerQueryTimeout peer) s = .next (s.unresponsive peer) := if_pos (by rw [halive, hlate]; rfl)
    exact ⟨_, hexec, unresponsive_leaves s peer⟩
  · exact if_neg (by rw [hnone]; simp)

/-- Settles O37, from what each command of the fabric and port registers leaves, and from what queries and answers do. -/
theorem fabricAndManagement : Obligations.FabricAndManagement := ⟨fabricCommands, managementFrames⟩

end Sys2Proof.Proofs
end

section
/-!
PROOF. The engine of the rings (R285, R286, R293, R300): what its lookups, its fault records and its interrupts add, the registers
that they leave alone, and what it does to the ring on which it works and to no other.
-/

namespace Sys2Proof.Proofs

open Sys2Proof.Machine Sys2Proof.Laws Sys2Proof.Claims

/-! ## Lookups, fault records and interrupts add to what leaves the adapter -/

/-- A register below the counts of discarded doorbells and of what follows (R309), or one of the semaphore pages (R186): neither
lookups nor fault records nor interrupts nor operations on semaphores change it. -/
def Steady (a : Nat) : Prop := a < Reg.RING_CNT 4 ∨ (Reg.SEM_PAGE 0 ≤ a ∧ a < Reg.SEM_BAR 0)

/-- Lookups, fault records and interrupts lead from `s` to `t`: what left the adapter is added to, and the steady registers stay. -/
structure Recorded (s t : State) : Prop where
  frame : exceptRecords t = exceptRecords s
  out : s.out <+: t.out
  steady : ∀ a, Steady a → t.reg a = s.reg a

theorem not_steady_of_le {a : Nat} (h : Reg.RING_CNT 4 ≤ a) (h' : a < Reg.SEM_PAGE 0 ∨ Reg.SEM_BAR 0 ≤ a) : ¬ Steady a := by
  unfold Steady; omega

theorem not_steady_ringCnt {i : Nat} (h : 4 ≤ i) (h' : i < 8) : ¬ Steady (Reg.RING_CNT i) :=
  not_steady_of_le (by unfold Reg.RING_CNT; omega) (.inl (by unfold Reg.RING_CNT Reg.SEM_PAGE; omega))

theorem steady_ringCnt {i : Nat} (h : i < 4) : Steady (Reg.RING_CNT i) := .inl (by unfold Reg.RING_CNT; omega)

/-- The registers of fault queues are not steady. -/
theorem not_steady_faultQueue {a q : Nat} (hq : q ≤ 256) (h : Reg.RING_FQ_BASE q ≤ a) (h' : a ≤ Reg.RING_FQ_OVF1 q) :
    ¬ Steady a := by
  unfold Reg.RING_FQ_BASE at h
  unfold Reg.RING_FQ_OVF1 at h'
  exact not_steady_of_le (by unfold Reg.RING_CNT; omega) (.inl (by unfold Reg.SEM_PAGE; omega))

section Records

variable {s₀ s t : State}

theorem Recorded.refl (s : State) : Recorded s s := ⟨rfl, List.prefix_rfl, fun _ _ => rfl⟩

theorem Recorded.trans (h : Recorded s₀ s) (k : Recorded s t) : Recorded s₀ t :=
  ⟨k.frame.trans h.frame, h.out.trans k.out, fun a ha => (k.steady a ha).trans (h.steady a ha)⟩

theorem Recorded.ite {c : Prop} [Decidable c] (hs : Recorded s₀ s) (ht : Recorded s₀ t) : Recorded s₀ (if c then s else t) := by
  split <;> assumption

theorem Recorded.foldl {α β : Type} {st : β → State} {f : β → α → β} {l : List α} {b : β}
    (hf : ∀ b x, Recorded s₀ (st b) → Recorded s₀ (st (f b x))) (h : Recorded s₀ (st b)) : Recorded s₀ (st (l.foldl f b)) :=
  List.foldlRecOn (motive := fun b => Recorded s₀ (st b)) l f h fun b hb x _ => hf b x hb

/-- Fields that the relation does not follow may change. -/
theorem Recorded.changed (h : Recorded s₀ s) {tally fqs pend atc xlating : _} :
    Recorded s₀ { s with tally := tally, fqs := fqs, msixPend := pend, atc := atc, xlating := xlating } :=
  ⟨h.frame, h.out, h.steady⟩

theorem Recorded.setReg (h : Recorded s₀ s) {a : Nat} (ha : ¬ Steady a) (v : Word) : Recorded s₀ (s.setReg a v) :=
  ⟨h.frame, h.out, fun b hb => by rw [reg_setReg, if_neg fun e : b = a => ha (e ▸ hb), h.steady b hb]⟩

theorem Recorded.setFld (h : Recorded s₀ s) {a : Nat} (ha : ¬ Steady a) (lo w x : Nat) : Recorded s₀ (s.setFld a lo w x) :=
  h.setReg ha _

theorem Recorded.bump (h : Recorded s₀ s) {a : Nat} (ha : ¬ Steady a) : Recorded s₀ (s.bump a) := h.setReg ha _

theorem Recorded.emit (h : Recorded s₀ s) (e : Emission) : Recorded s₀ (s.emit e) :=
  ⟨h.frame, h.out.trans (List.prefix_append ..), h.steady⟩

theorem Recorded.lookupCount (h : Recorded s₀ s) (k : XKey) (write : Bool) : Recorded s₀ (s.lookupCount k write).2 := by
  have hcnt (i : Nat) (hi : i < 8) : ¬ Steady (Reg.XLT_CNT i) :=
    not_steady_of_le (by unfold Reg.RING_CNT Reg.XLT_CNT; omega) (.inl (by unfold Reg.XLT_CNT Reg.SEM_PAGE; omega))
  unfold State.lookupCount
  split
  · exact .ite (h.bump (hcnt 1 (by decide))) ((h.bump (hcnt 1 (by decide))).changed.emit _)
  · dsimp only
    unfold State.touch
    split
    · exact h.bump (hcnt 0 (by decide))
    · exact (h.bump (hcnt 0 (by decide))).changed

theorem Recorded.engineReach (h : Recorded s₀ s) (p : Port) (i : BitVec 8) (va : Word) (n : Nat) (write : Bool) :
    Recorded s₀ (s.engineReach p i va n write).2 := by
  unfold State.engineReach
  split
  · exact h
  · exact .foldl (st := Prod.snd) (fun _ _ hb => hb.lookupCount _ _) h

theorem Recorded.msix (h : Recorded s₀ s) (fn : BitVec 8) (v : Nat) : Recorded s₀ (s.msix fn v) := .ite h (.ite h.changed (h.emit _))

theorem Recorded.setFq (h : Recorded s₀ s) (q : Nat) (f : FaultQ) : Recorded s₀ (s.setFq q f) := h.changed

theorem Recorded.fqIrq (h : Recorded s₀ s) (q : Nat) : Recorded s₀ (s.fqIrq q) :=
  .ite h (.ite ((h.setFq _ _).msix _ _) (h.setFq _ _))

theorem Recorded.fqPut (h : Recorded s₀ s) {q : Nat} (hq : q ≤ 256) (r : FaultRec) : Recorded s₀ (s.fqPut q r) := by
  have hprod : ¬ Steady (Reg.RING_FQ_PROD q) := not_steady_faultQueue hq (by unfold Reg.RING_FQ_BASE Reg.RING_FQ_PROD; omega)
    (by unfold Reg.RING_FQ_PROD Reg.RING_FQ_OVF1; omega)
  exact (((h.emit _).setFld hprod _ _ _).bump (not_steady_ringCnt (by decide) (by decide))).fqIrq _

theorem Recorded.fqLose (h : Recorded s₀ s) {q : Nat} (hq : q ≤ 256) (cls : Nat) : Recorded s₀ (s.fqLose q cls) := by
  have hovf : ¬ Steady (if cls < 4 then Reg.RING_FQ_OVF0 q else Reg.RING_FQ_OVF1 q) := not_steady_faultQueue hq
    (by unfold Reg.RING_FQ_BASE Reg.RING_FQ_OVF0 Reg.RING_FQ_OVF1; split <;> omega)
    (by unfold Reg.RING_FQ_OVF0 Reg.RING_FQ_OVF1; split <;> omega)
  exact ((h.setFld hovf _ _ _).setFq _ _).bump (not_steady_ringCnt (by decide) (by decide))

theorem Recorded.fault (h : Recorded s₀ s) {q : Nat} (hq : q ≤ 256) (r : FaultRec) : Recorded s₀ (s.fault q r) := by
  have hctrl : ¬ Steady (Reg.RING_FQ_CTRL q) := not_steady_faultQueue hq (by unfold Reg.RING_FQ_BASE Reg.RING_FQ_CTRL; omega)
    (by unfold Reg.RING_FQ_CTRL Reg.RING_FQ_OVF1; omega)
  have hreach : Recorded s₀ (s.fqReach q).2 := h.engineReach _ _ _ _ _
  exact .ite (h.fqLose hq _) (.ite (hreach.fqPut hq _) ((hreach.setFld hctrl _ _ _).fqLose hq _))

theorem Recorded.record (h : Recorded s₀ s) (r : FaultRec) : Recorded s₀ (s.record r) := by
  have htag (k : Nat) : ¬ Steady (Reg.DBG_TAG_CNT k 2) := not_steady_of_le (by unfold Reg.RING_CNT Reg.DBG_TAG_CNT; omega)
    (.inr (by unfold Reg.SEM_BAR Reg.DBG_TAG_CNT; omega))
  exact tagCount_induction (P := Recorded s₀) (h.fault (by have := r.inst.isLt; omega) r) (fun _ k ht => ht.setReg (htag k) _) _

theorem Recorded.ring (h : Recorded s₀ s) (i : Nat) : s.ring i = s₀.ring i :=
  congrArg (tget Ring.init · i) (congrArg State.rings h.frame :)

end Records

/-! ## Whether an access is possible (R322, R323) -/

/-- Two lookups of pages have come to the same, with the same cache. -/
def SameReach (a b : Bool × State) : Prop := b.1 = a.1 ∧ b.2.insts = a.2.insts ∧ b.2.atc = a.2.atc

theorem askAts_cache (s : State) (k : XKey) : (s.askAts k).insts = s.insts ∧ (s.askAts k).atc = s.atc := by
  unfold State.askAts
  split <;> exact ⟨rfl, rfl⟩

theorem touch_cache {s t : State} (hinsts : t.insts = s.insts) (hatc : t.atc = s.atc) (k : XKey) :
    (t.touch k).insts = (s.touch k).insts ∧ (t.touch k).atc = (s.touch k).atc := by
  unfold State.touch
  rw [hatc]
  split
  · exact ⟨hinsts, hatc⟩
  · exact ⟨hinsts, rfl⟩

/-- A lookup finds the same in the same cache, and leaves the same. -/
theorem lookupCount_congr {s t : State} (hinsts : t.insts = s.insts) (hatc : t.atc = s.atc) (k : XKey) (write : Bool) :
    (t.lookupCount k write).1 = (s.lookupCount k write).1 ∧ (t.lookupCount k write).2.insts = (s.lookupCount k write).2.insts
      ∧ (t.lookupCount k write).2.atc = (s.lookupCount k write).2.atc := by
  have hlookup : t.lookup k write = s.lookup k write := by rw [State.lookup, State.lookup, hatc]
  unfold State.lookupCount
  rw [hlookup]
  split
  · obtain ⟨hi, ha⟩ := askAts_cache (t.bump (Reg.XLT_CNT 1)) k
    obtain ⟨hi', ha'⟩ := askAts_cache (s.bump (Reg.XLT_CNT 1)) k
    exact ⟨rfl, (hi.trans hinsts).trans hi'.symm, (ha.trans hatc).trans ha'.symm⟩
  · exact ⟨rfl, touch_cache (s := s.bump (Reg.XLT_CNT 0)) (t := t.bump (Reg.XLT_CNT 0)) hinsts hatc k⟩

/-- The lookup of one page of an access. -/
def reachPage (p : Port) (i : BitVec 8) (write : Bool) (acc : Bool × State) (pg : Word) : Bool × State :=
  (acc.1 && (acc.2.lookupCount (acc.2.xkey i p pg) write).1 != .fault, (acc.2.lookupCount (acc.2.xkey i p pg) write).2)

theorem engineReach_eq (s : State) (p : Port) (i : BitVec 8) (va : Word) (n : Nat) (write : Bool) :
    s.engineReach p i va n write =
      if !s.canTranslate p i then (false, s) else (pagesOfRun (va, n)).foldl (reachPage p i write) (true, s) := rfl

theorem SameReach.reachPage {a b : Bool × State} (h : SameReach a b) (p : Port) (i : BitVec 8) (write : Bool) (pg : Word) :
    SameReach (reachPage p i write a pg) (reachPage p i write b pg) := by
  obtain ⟨hreach, hinsts, hatc⟩ := h
  have hkey : b.2.xkey i p pg = a.2.xkey i p pg := by simp only [State.xkey, State.pasid, hinsts]
  obtain ⟨hfound, hcache⟩ := lookupCount_congr hinsts hatc (a.2.xkey i p pg) write
  unfold Proofs.reachPage
  rw [hkey, hreach]
  exact ⟨congrArg (fun x => a.1 && x != XRes.fault) hfound, hcache⟩

/-- Whether an access is possible depends on the cache and on whether the function may translate alone. -/
theorem engineReach_congr {s t : State} {p : Port} {i : BitVec 8} (hmay : t.canTranslate p i = s.canTranslate p i)
    (hinsts : t.insts = s.insts) (hatc : t.atc = s.atc) (va : Word) (n : Nat) (write : Bool) :
    (t.engineReach p i va n write).1 = (s.engineReach p i va n write).1 := by
  rw [engineReach_eq, engineReach_eq, hmay]
  split
  · rfl
  · have hfold : SameReach ((pagesOfRun (va, n)).foldl (reachPage p i write) (true, s))
        ((pagesOfRun (va, n)).foldl (reachPage p i write) (true, t)) :=
      List.foldl_rel ⟨rfl, hinsts, hatc⟩ fun pg _ _ _ hab => hab.reachPage p i write pg
    exact hfold.1

/-- A register that holds no map of ports is none on which a translation depends. -/
theorem canTranslate_setReg (s : State) {a : Nat} (hcaps : a ≠ Reg.GLB_CAPS) (hio : a ≠ Reg.BOOT_MAP_IO) (v : Word) (p : Port)
    (i : BitVec 8) : (s.setReg a v).canTranslate p i = s.canTranslate p i := by
  cases p with
  | h => rfl
  | a q => simp only [State.canTranslate, State.attUp, State.attPhys, State.fld, reg_setReg, if_neg hcaps.symm, if_neg hio.symm]; rfl

/-! ## What the engine does to one ring (R286, R293, R300) -/

/-- The counts of a ring that bound its descriptors: head, fetched and tail (R286). -/
def ringCounts (g : Ring) : BitVec 32 × BitVec 32 × BitVec 32 := (g.head, g.fetched, g.tail)

/-- From `s` to `t` the engine works on ring `r`: no other ring changes, nor the counts of `r`, nor the steady registers, nor
anything that `except` does not leave out; and what left the adapter is added to. -/
structure RingStep (except : State → State) (r : Nat) (s t : State) : Prop where
  frame : except t = except s
  others : ∀ i, i ≠ r → t.ring i = s.ring i
  counts : ringCounts (t.ring r) = ringCounts (s.ring r)
  out : s.out <+: t.out
  steady : ∀ a, Steady a → t.reg a = s.reg a

/-- A step that changes descriptors, lookups and records alone. -/
abbrev DescStep := RingStep exceptDescriptor

section Steps

variable {except : State → State} {r : Nat} {s t u : State}

theorem RingStep.refl (s : State) : RingStep except r s s := ⟨rfl, fun _ _ => rfl, rfl, List.prefix_rfl, fun _ _ => rfl⟩

theorem RingStep.trans (h : RingStep except r s t) (k : RingStep except r t u) : RingStep except r s u :=
  ⟨k.frame.trans h.frame, fun i hi => (k.others i hi).trans (h.others i hi), k.counts.trans h.counts, h.out.trans k.out,
    fun a ha => (k.steady a ha).trans (h.steady a ha)⟩

/-- What leaves out more follows no more. -/
theorem RingStep.mono {wider : State → State} (h : RingStep except r s t) (hwider : ∀ s, wider (except s) = wider s) :
    RingStep wider r s t :=
  { h with frame := by rw [← hwider t, h.frame, hwider s] }

theorem RingStep.ite {c : Prop} [Decidable c] (ht : RingStep except r s t) (hu : RingStep except r s u) :
    RingStep except r s (if c then t else u) := by
  split <;> assumption

theorem RingStep.head (h : RingStep except r s t) : (t.ring r).head = (s.ring r).head := congrArg Prod.fst h.counts

theorem RingStep.fetched (h : RingStep except r s t) : (t.ring r).fetched = (s.ring r).fetched :=
  congrArg (fun c => c.2.1) h.counts

theorem RingStep.tail (h : RingStep except r s t) : (t.ring r).tail = (s.ring r).tail := congrArg (fun c => c.2.2) h.counts

theorem RingStep.stores (h : DescStep r s t) : SameStores s t :=
  ⟨(congrArg State.mem h.frame :), (congrArg State.tmem h.frame :), (congrArg State.nbuf h.frame :),
    (congrArg State.pio h.frame :), (congrArg State.sems h.frame :)⟩

theorem RingStep.sems (h : DescStep r s t) : t.sems = s.sems := (congrArg State.sems h.frame :)

/-- A steady counter counts what it counted before the step. -/
theorem RingStep.counted (h : RingStep except r t u) {a n : Nat} (hc : Counts s t a n) (ha : Steady a) : Counts s u a n :=
  counts_of_reg hc (h.steady a ha)

theorem Recorded.step (h : Recorded s t) : DescStep r s t :=
  ⟨congrArg (fun u : State => ({ u with rings := [] } : State)) h.frame, fun i _ => h.ring i, by rw [h.ring], h.out, h.steady⟩

theorem ring_updRing (s : State) (r q : Nat) (f : Ring → Ring) :
    (s.updRing r f).ring q = if q = r then f (s.ring r) else s.ring q := ring_setRing ..

@[simp] theorem ring_updRing_self (s : State) (r : Nat) (f : Ring → Ring) : (s.updRing r f).ring r = f (s.ring r) := by
  simp [ring_updRing]

theorem ring_updRing_ne (s : State) (f : Ring → Ring) {i : Nat} (hi : i ≠ r) : (s.updRing r f).ring i = s.ring i := by
  rw [ring_updRing, if_neg hi]

theorem step_updRing (s : State) (r : Nat) {f : Ring → Ring}
    (hf : ∀ g, ringCounts (f g) = ringCounts g := by exact fun _ => rfl) :
    DescStep r s (s.updRing r f) :=
  ⟨rfl, fun _ hi => ring_updRing_ne s f hi, by rw [ring_updRing_self, hf], List.prefix_rfl, fun _ _ => rfl⟩

end Steps

/-! ## Records and errors of a ring (R300, R306) -/

section Errors

variable (s : State) (r : Nat) (st : Status) (idx : BitVec 32) (w0 : Word)

theorem recorded_ringFault : Recorded s (s.ringFault r st idx w0) := (Recorded.refl s).record _

/-- A failed access stops the ring's fetching, unless it is in ERROR. -/
theorem ring_ringError : (s.ringError r st idx w0).ring r = if (s.ring r).phase = .error then s.ring r
    else { s.ring r with phase := .error, lastSt := st, want := 0, backoff := none } := by
  unfold State.ringError
  split
  · rfl
  · rw [(recorded_ringFault ..).ring, ring_updRing_self]

theorem step_ringError : DescStep r s (s.ringError r st idx w0) :=
  .ite (.refl s) ((step_updRing s r).trans (recorded_ringFault ..).step)

theorem descs_ringError : ((s.ringError r st idx w0).ring r).descs = (s.ring r).descs := by
  rw [ring_ringError]
  split <;> rfl

end Errors

/-! ## Descriptors (R290) -/

section Descs

variable {s : State} {r : Nat} {idx : BitVec 32} {d : RDesc} {st : Status} {p : DPhase}

/-- A descriptor that is looked up has the index by which it is found. -/
theorem idx_of_desc? {g : Ring} (h : g.desc? idx = some d) : d.idx = idx := by simpa using List.find?_some h

/-- The descriptors of a ring, the one of index `idx` in phase `p`. -/
def inPhase (l : List RDesc) (idx : BitVec 32) (p : DPhase) : List RDesc :=
  l.map fun d => if d.idx = idx then { d with phase := p } else d

theorem find?_inPhase (l : List RDesc) (idx j : BitVec 32) (p : DPhase) : (inPhase l idx p).find? (fun d => d.idx = j) =
    (l.find? fun d => d.idx = j).map fun d => if d.idx = idx then { d with phase := p } else d := by
  have hkeep : (fun d : RDesc => decide (d.idx = j)) ∘ (fun d => if d.idx = idx then { d with phase := p } else d)
      = fun d => decide (d.idx = j) := by
    funext d
    dsimp only [Function.comp]
    split <;> rfl
  rw [inPhase, List.find?_map, hkeep]

theorem step_setDesc (s : State) (r : Nat) (idx : BitVec 32) (p : DPhase) : DescStep r s (s.setDesc r idx p) :=
  step_updRing s r

theorem desc?_setDesc (h : (s.ring r).desc? idx = some d) (p : DPhase) :
    ((s.setDesc r idx p).ring r).desc? idx = some { d with phase := p } := by
  have hfound : (inPhase (s.ring r).descs idx p).find? (fun d => d.idx = idx) = some { d with phase := p } := by
    rw [find?_inPhase, ← Ring.desc?, h, Option.map_some, if_pos (idx_of_desc? h)]
  rw [State.setDesc, ring_updRing_self]
  exact hfound

/-- A descriptor has ended with a status, and the ring shows a failure. -/
def endedDesc (s : State) (r : Nat) (idx : BitVec 32) (st : Status) : State :=
  (s.setDesc r idx (.finished st)).updRing r fun g => { g with lastSt := if st = 0 then g.lastSt else st }

/-- The end of a descriptor that has not ended is followed by its count and its record. -/
theorem finishDesc_recorded (h : (s.ring r).desc? idx = some d) (hover : d.over = false) (st : Status) :
    Recorded (endedDesc s r idx st) (s.finishDesc r idx st) := by
  have hcount : Recorded (endedDesc s r idx st)
      (if st = St.aborted then (endedDesc s r idx st).bump (Reg.RING_CNT 5) else endedDesc s r idx st) :=
    .ite ((Recorded.refl _).bump (not_steady_ringCnt (by decide) (by decide))) (.refl _)
  simp only [State.finishDesc, h, hover, Bool.false_eq_true, if_false]
  exact .ite (hcount.record _) hcount

theorem step_endedDesc (s : State) (r : Nat) (idx : BitVec 32) (st : Status) : DescStep r s (endedDesc s r idx st) :=
  (step_setDesc ..).trans (step_updRing _ r)

theorem step_finishDesc (s : State) (r : Nat) (idx : BitVec 32) (st : Status) : DescStep r s (s.finishDesc r idx st) := by
  cases h : (s.ring r).desc? idx with
  | none => simp only [State.finishDesc, h]; exact .refl s
  | some d =>
    by_cases hover : d.over = true
    · simp only [State.finishDesc, h, hover, if_true]; exact .refl s
    · exact (step_endedDesc ..).trans (finishDesc_recorded h (Bool.eq_false_iff.mpr hover) st).step

/-- A descriptor that has not ended finishes with the status. -/
theorem descIs_finishDesc (h : (s.ring r).desc? idx = some d) (hover : d.over = false) (st : Status) :
    DescIs (s.finishDesc r idx st) r idx (.finished st) := by
  refine ⟨{ d with phase := .finished st }, ?_, rfl⟩
  rw [(finishDesc_recorded h hover st).ring, endedDesc, ring_updRing_self]
  exact desc?_setDesc h (.finished st)

theorem skipBad_eq (g : Ring) (n : Nat) : ∃ k, g.skipBad n = { g with dispatched := k } := by
  induction n generalizing g with
  | zero => exact ⟨g.dispatched, rfl⟩
  | succ n ih =>
    unfold Ring.skipBad
    split
    · split
      · obtain ⟨k, hk⟩ := ih { g with dispatched := g.dispatched + 1 }
        exact ⟨k, hk⟩
      · exact ⟨g.dispatched, rfl⟩
    · exact ⟨g.dispatched, rfl⟩

theorem step_skipRefused (s : State) (r : Nat) : DescStep r s (s.skipRefused r) :=
  step_updRing s r fun g => by obtain ⟨k, hk⟩ := skipBad_eq g 16; rw [hk]; rfl

theorem ring_skipRefused (s : State) (r : Nat) : ∃ k, (s.skipRefused r).ring r = { s.ring r with dispatched := k } := by
  obtain ⟨k, hk⟩ := skipBad_eq (s.ring r) 16
  exact ⟨k, by rw [State.skipRefused, ring_updRing_self, hk]⟩

end Descs

/-! ## Fetches (R293) -/

section Fetches

variable (s : State) (r : Nat)

theorem step_ringFetch : DescStep r s (s.ringFetch r) := by
  have hreach (p : Port) (i : BitVec 8) (va : Word) (n : Nat) : DescStep r s (s.engineReach p i va n false).2 :=
    ((Recorded.refl s).engineReach ..).step
  exact .ite (.refl s) (.ite ((hreach ..).trans (step_ringError ..))
    (((hreach ..).trans (step_updRing _ r)).trans ((Recorded.refl _).emit _).step))

/-- A fetch leaves the ring as it is, with descriptors on their way, or in ERROR. -/
theorem ring_ringFetch : (s.ringFetch r).ring r = s.ring r ∨ (∃ n, (s.ringFetch r).ring r = { s.ring r with want := n })
    ∨ (s.ringFetch r).ring r
      = { s.ring r with phase := .error, lastSt := St.translationFault, want := 0, backoff := none } := by
  have hreach (p : Port) (i : BitVec 8) (va : Word) (n : Nat) : (s.engineReach p i va n false).2.ring r = s.ring r :=
    ((Recorded.refl s).engineReach ..).ring r
  unfold State.ringFetch
  dsimp only
  split
  · exact .inl rfl
  · split
    · rw [ring_ringError, hreach]
      split
      · exact .inl rfl
      · exact .inr (.inr rfl)
    · exact .inr (.inl ⟨_, by rw [((Recorded.refl _).emit _).ring, ring_updRing_self, hreach]⟩)

theorem descs_ringFetch : ((s.ringFetch r).ring r).descs = (s.ring r).descs := by
  obtain h | ⟨n, h⟩ | h := ring_ringFetch s r <;> rw [h]

/-- Where all up to the tail are fetched, nothing is read. -/
theorem ringFetch_idle {s : State} {r : Nat} (h : (s.ring r).fetched = (s.ring r).tail) : s.ringFetch r = s := by
  have hwork : (s.ring r).work = 0 := by rw [Ring.work, h, Nat.sub_self]
  have hn : min (min (16 - (s.ring r).undispatched) (s.ring r).work)
      (2 ^ (s.ring r).log2 - (s.ring r).fetched.toNat % 2 ^ (s.ring r).log2) = 0 := by
    rw [hwork, Nat.min_zero, Nat.zero_min]
  exact if_pos (.inr hn)

end Fetches

end Sys2Proof.Proofs

end

section
/-!
PROOF. Writes of the registers of fault queues (R304, R307, R330, R339).
-/

namespace Sys2Proof.Proofs

open Sys2Proof.Machine Sys2Proof.Laws Sys2Proof.Claims

/-! ## Records of a fault queue (R304, R307) -/

section Queues

variable (s : State) (q : Nat)

theorem fq_setFq_self (f : FaultQ) : (s.setFq q f).fq q = f := tget_tset_self ..

theorem regs_msix (fn : BitVec 8) (v : Nat) : (s.msix fn v).regs = s.regs := by
  obtain ⟨-, h⟩ | ⟨-, -, h⟩ | ⟨-, -, h⟩ := msix_cases s fn v <;> rw [h]
  rfl

/-- An interrupt under its holdoff is raised or held; no register shows it. -/
theorem regs_fqIrq : (s.fqIrq q).regs = s.regs := by
  exact iteInduction (motive := fun t : State => t.regs = s.regs) (fun _ => rfl) fun _ =>
    iteInduction (motive := fun t : State => t.regs = s.regs) (fun _ => regs_msix ..) fun _ => rfl

/-- A record moves PROD on, and is counted. -/
theorem reg_fqPut (r : FaultRec) (a : Nat) : (s.fqPut q r).reg a =
    if a = Reg.RING_CNT 6 then (s.setFld (Reg.RING_FQ_PROD q) 0 32 (s.fld (Reg.RING_FQ_PROD q) 0 32 + 1)).reg a + 1
    else (s.setFld (Reg.RING_FQ_PROD q) 0 32 (s.fld (Reg.RING_FQ_PROD q) 0 32 + 1)).reg a := by
  have hirq (t : State) : (t.fqIrq q).reg a = t.reg a := by rw [State.reg, regs_fqIrq, State.reg]
  rw [State.fqPut, hirq, reg_bump]
  split
  case isTrue h => rw [h]; rfl
  case isFalse => rfl

/-- A record leaves every register but PROD and its count. -/
theorem reg_fqPut_ne (r : FaultRec) {a : Nat} (hcnt : a ≠ Reg.RING_CNT 6) (hprod : a ≠ Reg.RING_FQ_PROD q) :
    (s.fqPut q r).reg a = s.reg a := by
  rw [reg_fqPut, if_neg hcnt, reg_setFld_ne _ hprod]

/-- The registers of a queue are its own, and no counters. -/
theorem ringCnt_ne_faultQueue (i : Nat) (hi : i < 8) : Reg.RING_FQ_BASE q ≠ Reg.RING_CNT i ∧ Reg.RING_FQ_CTRL q ≠ Reg.RING_CNT i
    ∧ Reg.RING_FQ_PROD q ≠ Reg.RING_CNT i ∧ Reg.RING_FQ_CONS q ≠ Reg.RING_CNT i := by
  unfold Reg.RING_FQ_BASE Reg.RING_FQ_CTRL Reg.RING_FQ_PROD Reg.RING_FQ_CONS Reg.RING_CNT; omega

theorem faultQueue_apart (q : Nat) : Reg.RING_FQ_BASE q ≠ Reg.RING_FQ_CTRL q ∧ Reg.RING_FQ_PROD q ≠ Reg.RING_FQ_CTRL q
    ∧ Reg.RING_FQ_CONS q ≠ Reg.RING_FQ_CTRL q ∧ Reg.RING_FQ_CONS q ≠ Reg.RING_FQ_PROD q := by
  unfold Reg.RING_FQ_BASE Reg.RING_FQ_CTRL Reg.RING_FQ_PROD Reg.RING_FQ_CONS; omega

theorem counts_fqPut (r : FaultRec) : Counts s (s.fqPut q r) (Reg.RING_CNT 6) 1 := by
  obtain ⟨-, -, hprod, -⟩ := ringCnt_ne_faultQueue q 6 (by decide)
  rw [Counts, reg_fqPut, if_pos rfl, reg_setFld_ne _ hprod.symm]
  rfl

theorem prod_fqPut (r : FaultRec) :
    (s.fqPut q r).fld (Reg.RING_FQ_PROD q) 0 32 = (s.fld (Reg.RING_FQ_PROD q) 0 32 + 1) % 2 ^ 32 := by
  obtain ⟨-, -, hprod, -⟩ := ringCnt_ne_faultQueue q 6 (by decide)
  rw [State.fld, reg_fqPut, if_neg hprod, ← State.fld, fld_setFld_self _ _ (by decide)]

end Queues

/-! ## The overflow record (R307, R339) -/

section Flushes

variable {s : State} {q : Nat}

theorem fqFlush_quiet (h : (s.fq q).pend.any (· != 0) = false) : s.fqFlush q = s := by
  simp only [State.fqFlush, h, Bool.and_false, Bool.false_eq_true, if_false]

/-- Pending counts of a queue that is enabled and has room are written where its memory is reached. -/
theorem fqFlush_writes (hon : s.flag (Reg.RING_FQ_CTRL q) 0 = true) (hroom : s.fqFull q = false)
    (hpend : (s.fq q).pend.any (· != 0) = true) (hreach : (s.fqReach q).1 = true) :
    ∃ f : FaultQ, s.fqFlush q = ((s.fqReach q).2.fqPut q (overflowRec s.now q (s.fq q).pend)).setFq q { f with pend := FaultQ.init.pend } := by
  simp only [State.fqFlush, hon, hroom, hpend, hreach, Bool.not_false, Bool.and_self, if_true]
  exact ⟨_, rfl⟩

/-- A queue whose memory cannot be written is disabled. -/
theorem fqFlush_disables (hon : s.flag (Reg.RING_FQ_CTRL q) 0 = true) (hroom : s.fqFull q = false)
    (hpend : (s.fq q).pend.any (· != 0) = true) (hreach : (s.fqReach q).1 = false) :
    s.fqFlush q = (s.fqReach q).2.setFld (Reg.RING_FQ_CTRL q) 0 1 0 := by
  simp only [State.fqFlush, hon, hroom, hpend, hreach, Bool.not_false, Bool.and_self, if_true, Bool.false_eq_true, if_false]

/-- A lookup changes no counts that a queue holds. -/
theorem fqs_engineReach (s : State) (p : Port) (i : BitVec 8) (va : Word) (n : Nat) (write : Bool) :
    (s.engineReach p i va n write).2.fqs = s.fqs := by
  have hpage (t : State) (k : XKey) : (t.lookupCount k write).2.fqs = t.fqs := by
    unfold State.lookupCount
    split
    · exact iteInduction (motive := fun u : State => u.fqs = t.fqs) (fun _ => rfl) fun _ => rfl
    · dsimp only
      unfold State.touch
      split <;> rfl
  exact iteInduction (motive := fun r : Bool × State => r.2.fqs = s.fqs) (fun _ => rfl) fun _ =>
    List.foldlRecOn (motive := fun r : Bool × State => r.2.fqs = s.fqs) _ _ rfl fun _ h _ _ => (hpage _ _).trans h

/-- The registers that the record of pending counts, or its failure, may change. -/
def flushRegs (q : Nat) : List Nat := Reg.RING_FQ_CTRL q :: Reg.RING_FQ_PROD q :: Reg.RING_CNT 6 :: lookupCounts

theorem regsBut_fqReach (s : State) (q : Nat) : RegsBut s (s.fqReach q).2 lookupCounts :=
  regsBut_engineReach s _ _ _ _ _

theorem not_mem_lookupCounts {a : Nat} (h : a < Reg.XLT_CNT 0) : a ∉ lookupCounts := by
  simp only [lookupCounts, List.mem_cons, List.not_mem_nil, or_false, not_or]
  unfold Reg.XLT_CNT at *; omega

/-- The counters of rings and the registers of the fault queues lie below the counters of lookups. -/
theorem faultQueue_below (hq : q ≤ 256) : Reg.RING_CNT 6 < Reg.XLT_CNT 0 ∧ Reg.RING_FQ_CONS q < Reg.XLT_CNT 0 := by
  unfold Reg.RING_CNT Reg.XLT_CNT Reg.RING_FQ_CONS; omega

theorem regsBut_fqFlush (s : State) (q : Nat) : RegsBut s (s.fqFlush q) (flushRegs q) := by
  have hreach : RegsBut s (s.fqReach q).2 (flushRegs q) :=
    regsBut_mono (regsBut_fqReach s q) fun a ha => List.mem_cons_of_mem _ (List.mem_cons_of_mem _ (List.mem_cons_of_mem _ ha))
  have hput (t : State) (r : FaultRec) : RegsBut t (t.fqPut q r) (flushRegs q) := fun a ha =>
    reg_fqPut_ne t q r (fun h => ha (by simp [flushRegs, h])) (fun h => ha (by simp [flushRegs, h]))
  exact iteInduction (motive := fun t => RegsBut s t (flushRegs q))
    (fun _ => iteInduction (motive := fun t => RegsBut s t (flushRegs q)) (fun _ => regsBut_trans hreach (hput _ _))
      fun _ => regsBut_trans hreach (regsBut_setReg _ List.mem_cons_self _))
    fun _ => regsBut_refl _ _

end Flushes

/-! ## Writes of CONS and of the control register -/

section Writes

variable {s : State} {p : Path} {q : Nat} {v : Word}

/-- A write that reaches a register of a view takes effect (R330). -/
theorem viewWrite_accepted {off : Nat} (h : ViewAccepted s p off) (k : State → State) : s.viewWrite p off k = k (s.tlp p 8) := by
  cases p with
  | vf i =>
    obtain ⟨halive, hup⟩ := h
    exact if_pos (by rw [halive, hup]; rfl)
  | host => exact mapWrite_accepted h k
  | bmc => exact mapWrite_accepted h k
  | att q => exact mapWrite_accepted h k

theorem fqPath_own (h : ∀ i, p = .vf i → i.toNat = q) : fqPath p q = true := by
  cases p with
  | vf i => exact beq_iff_eq.mpr (h i rfl)
  | host => rfl
  | bmc => rfl
  | att q => rfl

theorem exec_faultQueueConsWrite {q : Fin 257} (hpath : ∀ i, p = .vf i → i.toNat = q.val)
    (h : ViewAccepted s p (Reg.RING_FQ_CONS q)) (v : Word) :
    exec (.faultQueueConsWrite p q v) s = .next ((s.tlp p 8).consWrite q v) :=
  congrArg Host.Outcome.next ((if_pos (fqPath_own hpath)).trans (viewWrite_accepted h _))

theorem exec_faultQueueEnable {q : Fin 257} (hpath : ∀ i, p = .vf i → i.toNat = q.val)
    (h : ViewAccepted s p (Reg.RING_FQ_CTRL q)) (v : Word) :
    exec (.faultQueueEnable p q v) s = .next ((s.tlp p 8).fqControl q v) :=
  congrArg Host.Outcome.next ((if_pos (fqPath_own hpath)).trans (viewWrite_accepted h _))

/-- A consumer index that is taken reads back, whatever record then follows. -/
theorem consWrite_taken (hq : q ≤ 256)
    (h : (BitVec.ofNat 32 (s.fld (Reg.RING_FQ_PROD q) 0 32) - v.setWidth 32).toNat ≤ 4096) :
    (s.consWrite q v).fld (Reg.RING_FQ_CONS q) 0 32 = bits v 0 32 := by
  obtain ⟨-, -, -, hcnt⟩ := ringCnt_ne_faultQueue q 6 (by decide)
  obtain ⟨-, -, hctrl, hprod⟩ := faultQueue_apart q
  have hlook := not_mem_lookupCounts (faultQueue_below hq).2
  have hcons : Reg.RING_FQ_CONS q ∉ flushRegs q := by
    simp only [flushRegs, List.mem_cons, hctrl, hprod, hcnt, hlook, or_self, not_false_eq_true]
  rw [State.consWrite, if_neg (Nat.not_lt.mpr h), fld_of_reg (regsBut_fqFlush _ q _ hcons), fld_setFld_self _ _ (by decide),
    bits_eq_div, Nat.mod_mod]

theorem consWrite_discarded (h : 4096 < (BitVec.ofNat 32 (s.fld (Reg.RING_FQ_PROD q) 0 32) - v.setWidth 32).toNat) :
    s.consWrite q v = s := if_pos h

/-- The queue once its control register is written. -/
def controlled (s : State) (q : Nat) (v : Word) : State := s.setReg (Reg.RING_FQ_CTRL q) (v &&& 0x1FFFFFFF#64)

theorem fqControl_eq (s : State) (q : Nat) (v : Word) : s.fqControl q v = (controlled s q v).fqFlush q := rfl

theorem reg_controlled_ne (s : State) (q : Nat) (v : Word) {a : Nat} (h : a ≠ Reg.RING_FQ_CTRL q) :
    (controlled s q v).reg a = s.reg a := by rw [controlled, reg_setReg, if_neg h]

theorem flag_controlled (s : State) (q : Nat) (v : Word) : (controlled s q v).flag (Reg.RING_FQ_CTRL q) 0 = bit v 0 := by
  rw [State.flag, controlled, reg_setReg_self, bit, BitVec.getLsbD_and]
  simp [bit]

theorem fqFull_controlled (s : State) (q : Nat) (v : Word) : (controlled s q v).fqFull q = s.fqFull q := by
  obtain ⟨-, hprod, hcons, -⟩ := faultQueue_apart q
  rw [State.fqFull, fld_of_reg (reg_controlled_ne s q v hprod), fld_of_reg (reg_controlled_ne s q v hcons)]; rfl

/-- The control register says nothing of where a queue's memory is. -/
theorem fqReach_controlled (s : State) (q : Nat) (v : Word) : ((controlled s q v).fqReach q).1 = (s.fqReach q).1 := by
  obtain ⟨hbase, hprod, -⟩ := faultQueue_apart q
  have hva : (controlled s q v).fqVa q = s.fqVa q := by
    rw [State.fqVa, reg_controlled_ne s q v hbase, fld_of_reg (reg_controlled_ne s q v hprod), State.fqVa]
  rw [State.fqReach, State.fqReach, hva]
  exact engineReach_congr (s := s) (t := controlled s q v) rfl rfl rfl _ _ _

/-- What the overflow record leaves where the queue's memory is reached (R307). -/
theorem fqControl_writes (hq : q ≤ 256) (hon : bit v 0 = true) (hroom : s.fqFull q = false) (hpend : (s.fq q).pend.any (· != 0) = true)
    (hreach : (s.fqReach q).1 = true) :
    let t := s.fqControl q v
    Counts s t (Reg.RING_CNT 6) 1 ∧ t.reg (Reg.RING_FQ_CTRL q) = v &&& 0x1FFFFFFF
      ∧ t.fld (Reg.RING_FQ_PROD q) 0 32 = (s.fld (Reg.RING_FQ_PROD q) 0 32 + 1) % 2 ^ 32
      ∧ (t.fq q).pend.any (· != 0) = false := by
  obtain ⟨-, hcnt, -, -⟩ := ringCnt_ne_faultQueue q 6 (by decide)
  obtain ⟨-, hprod, -, -⟩ := faultQueue_apart q
  have hlook {a : Nat} (ha : a ≤ Reg.RING_FQ_CONS q) : ((controlled s q v).fqReach q).2.reg a = (controlled s q v).reg a :=
    regsBut_fqReach (controlled s q v) q a (not_mem_lookupCounts (Nat.lt_of_le_of_lt ha (faultQueue_below hq).2))
  obtain ⟨f, hflush⟩ := fqFlush_writes ((flag_controlled s q v).trans hon) ((fqFull_controlled s q v).trans hroom) hpend
    ((fqReach_controlled s q v).trans hreach)
  rw [fqControl_eq, hflush]
  generalize ((controlled s q v).fqReach q).2 = u at hlook
  generalize overflowRec (controlled s q v).now q ((controlled s q v).fq q).pend = r
  have hcounts : Counts u (u.fqPut q r) (Reg.RING_CNT 6) 1 := counts_fqPut u q r
  have hctrl : (u.fqPut q r).reg (Reg.RING_FQ_CTRL q) = u.reg (Reg.RING_FQ_CTRL q) := reg_fqPut_ne u q r hcnt hprod.symm
  refine ⟨?_, ?_, ?_, ?_⟩
  · have hsame : u.reg (Reg.RING_CNT 6) = s.reg (Reg.RING_CNT 6) :=
      (hlook (by unfold Reg.RING_CNT Reg.RING_FQ_CONS; omega)).trans (reg_controlled_ne s q v hcnt.symm)
    exact hcounts.trans (congrArg (· + BitVec.ofNat 64 1) hsame)
  · exact (hctrl.trans (hlook (by unfold Reg.RING_FQ_CTRL Reg.RING_FQ_CONS; omega))).trans (reg_setReg_self ..)
  · have hsame : u.reg (Reg.RING_FQ_PROD q) = s.reg (Reg.RING_FQ_PROD q) :=
      (hlook (by unfold Reg.RING_FQ_PROD Reg.RING_FQ_CONS; omega)).trans (reg_controlled_ne s q v hprod)
    exact (prod_fqPut u q r).trans (by rw [fld_of_reg hsame])
  · rw [fq_setFq_self]
    rfl

/-- A queue whose memory is not reached is disabled and keeps its pending counts (R339). -/
theorem fqControl_disables (hon : bit v 0 = true) (hroom : s.fqFull q = false) (hpend : (s.fq q).pend.any (· != 0) = true)
    (hreach : (s.fqReach q).1 = false) :
    let t := s.fqControl q v
    t.flag (Reg.RING_FQ_CTRL q) 0 = false ∧ (t.fq q).pend = (s.fq q).pend := by
  have hflush := fqFlush_disables ((flag_controlled s q v).trans hon) ((fqFull_controlled s q v).trans hroom) hpend
    ((fqReach_controlled s q v).trans hreach)
  have hkept : ((controlled s q v).fqReach q).2.fqs = s.fqs := fqs_engineReach (controlled s q v) _ _ _ _ _
  rw [fqControl_eq, hflush]
  refine ⟨?_, congrArg (fun l => (tget FaultQ.init l q).pend) hkept⟩
  rw [flag_setFld_self _ _ (by decide), Nat.zero_testBit]

end Writes

/-- Settles O23: a consumer index within reach is taken, and a write of the control register is followed by the one record of
pending counts where the queue's memory can be written. -/
theorem faultQueueRegisters : Obligations.FaultQueueRegisters := by
  unfold Obligations.FaultQueueRegisters
  intro s p q v hpath
  have hq : q.val ≤ 256 := Nat.le_of_lt_succ q.isLt
  obtain ⟨tally, htlp⟩ := tlp_eq s p 8
  refine ⟨fun hcons => ?cons, fun hctrl => ?ctrl⟩
  case cons =>
    rw [exec_faultQueueConsWrite hpath hcons, htlp]
    refine ⟨fun hnear => ⟨_, rfl, consWrite_taken (s := { s with tally := tally }) hq hnear⟩, fun hfar => ⟨_, rfl, ?_⟩⟩
    rw [consWrite_discarded (s := { s with tally := tally }) hfar]
    exact ⟨rfl, rfl⟩
  case ctrl =>
    have hsame : (({ s with tally := tally } : State).fqReach q).1 = (s.fqReach q).1 :=
      engineReach_congr (s := s) (t := { s with tally := tally }) rfl rfl rfl _ _ _
    rw [exec_faultQueueEnable hpath hctrl, htlp]
    refine ⟨fun hquiet => ⟨_, rfl, ?_⟩, fun hpend hon hroom => ⟨fun hreach => ⟨_, rfl, ?_⟩, fun hreach => ⟨_, rfl, ?_⟩⟩⟩
    · rw [fqControl_eq, fqFlush_quiet (s := controlled { s with tally := tally } q v) hquiet]
      exact ⟨reg_setReg_self .., regsBut_setReg _ List.mem_cons_self _, rfl⟩
    · exact fqControl_writes (s := { s with tally := tally }) hq hon hroom hpend (hsame.trans hreach)
    · exact fqControl_disables (s := { s with tally := tally }) hon hroom hpend (hsame.trans hreach)

end Sys2Proof.Proofs

end

section
/-!
PROOF. Rereads, re-polls and dispatches of descriptors (R290, R293, R295, R297, R300).
-/

namespace Sys2Proof.Proofs

open Sys2Proof.Machine Sys2Proof.Laws Sys2Proof.Claims

/-! ## Acceptance (R289, R294) -/

section Acceptance

variable {s₀ s : State} {r : Nat}

theorem Recorded.preXlate (h : Recorded s₀ s) (i : BitVec 8) (space : Nat) (a : Word) : Recorded s₀ (s.preXlate i space a) :=
  .ite (h.lookupCount _ _) h

theorem Recorded.preArgs (h : Recorded s₀ s) (i : BitVec 8) (d : Desc) : Recorded s₀ (s.preArgs i d) :=
  .ite h (.foldl (st := id) (fun _ _ hs => .ite (hs.preXlate _ _ _) hs) h)

/-- The ring has fetched one descriptor more. -/
def acceptedDesc (s : State) (r : Nat) (d : Desc) : State := s.updRing r fun g =>
  { g with fetched := g.fetched + 1, rereads := 0, progress := s.ps, descs := g.descs ++ [⟨g.fetched, d, .fetched, s.ck⟩] }

/-- The checks of an accepted descriptor, and its end where it fails them, leave the ring's counts. -/
theorem step_acceptDesc (s : State) (r : Nat) (d : Desc) : DescStep r (acceptedDesc s r d) (s.acceptDesc r d) :=
  .ite ((Recorded.refl _).preXlate _ _ _ |>.preArgs _ _).step ((step_finishDesc ..).trans (step_skipRefused ..))

/-- The end of a descriptor changes the ring's descriptors and the status that it shows. -/
theorem ring_finishDesc (s : State) (r : Nat) (idx : BitVec 32) (st : Status) :
    ∃ l st', (s.finishDesc r idx st).ring r = { s.ring r with descs := l, lastSt := st' } := by
  cases h : (s.ring r).desc? idx with
  | none => exact ⟨(s.ring r).descs, (s.ring r).lastSt, by simp only [State.finishDesc, h]⟩
  | some d =>
    by_cases hover : d.over = true
    · exact ⟨(s.ring r).descs, (s.ring r).lastSt, by simp only [State.finishDesc, h, hover, if_true]⟩
    · have hended : (s.finishDesc r idx st).ring r = (endedDesc s r idx st).ring r :=
        (finishDesc_recorded h (Bool.eq_false_iff.mpr hover) st).ring r
      rw [hended, endedDesc, ring_updRing_self, State.setDesc, ring_updRing_self]
      exact ⟨_, _, rfl⟩

theorem backoff_acceptDesc (h : (s.ring r).backoff = none) (d : Desc) : ((s.acceptDesc r d).ring r).backoff = none := by
  have haccepted : ((acceptedDesc s r d).ring r).backoff = none := by rw [acceptedDesc, ring_updRing_self]; exact h
  refine iteInduction (motive := fun t : State => (t.ring r).backoff = none) (fun _ => ?_) fun _ => ?_
  · rw [((Recorded.refl _).preXlate _ _ _ |>.preArgs _ _).ring]
    exact haccepted
  · obtain ⟨k, hk⟩ := ring_skipRefused ((acceptedDesc s r d).finishDesc r (s.ring r).fetched St.badDescriptor) r
    obtain ⟨l, st', hl⟩ := ring_finishDesc (acceptedDesc s r d) r (s.ring r).fetched St.badDescriptor
    exact (congrArg Ring.backoff hk).trans ((congrArg Ring.backoff hl).trans haccepted)

theorem backoff_ringFetch (h : (s.ring r).backoff = none) : ((s.ringFetch r).ring r).backoff = none := by
  obtain hr | ⟨n, hr⟩ | hr := ring_ringFetch s r <;> rw [hr]
  · exact h
  · exact h

end Acceptance

/-! ## Rereads (R293, R300) -/

section Rereading

variable {s : State} {r : Nat}

/-- The descriptor at the ring's fetched count is read again, and the read is counted. -/
def rereadDone (s : State) (r : Nat) : State :=
  ((s.bump (Reg.RING_CNT 2)).engineReach (s.ring r).port (s.ring r).inst ((s.ring r).descVa (s.ring r).fetched) 64 false).2.emit
    (.memRead (s.ring r).port (s.ring r).inst ((s.ring r).descVa (s.ring r).fetched) 64)

theorem recorded_rereadDone (s : State) (r : Nat) : Recorded (s.bump (Reg.RING_CNT 2)) (rereadDone s r) :=
  ((Recorded.refl _).engineReach ..).emit _

theorem ring_rereadDone (s : State) (r i : Nat) : (rereadDone s r).ring i = s.ring i := (recorded_rereadDone s r).ring i

theorem counts_rereadDone (s : State) (r : Nat) : Counts s (rereadDone s r) (Reg.RING_CNT 2) 1 :=
  counts_of_reg (counts_bump s _) ((recorded_rereadDone s r).steady _ (steady_ringCnt (by decide)))

theorem stores_rereadDone (s : State) (r : Nat) : SameStores s (rereadDone s r) :=
  sameStores_trans (t := s.bump (Reg.RING_CNT 2)) ⟨rfl, rfl, rfl, rfl, rfl⟩
    ((recorded_rereadDone s r).step (r := r)).stores

/-- A re-read that is due and reaches the ring's memory fails, accepts its descriptor, stops the ring or is made again later. -/
theorem reread_due {b : Nat} (hb : (s.ring r).backoff = some b) (hdue : b ≤ s.ck)
    (hreach : RingReach s (s.ring r) ((s.ring r).descVa (s.ring r).fetched) 64 false) (d : Desc) (ok : Bool) : s.reread r d ok =
    if !ok then (rereadDone s r).ringError r St.uncorrectable (s.ring r).fetched 0
    else if descOwned d then
      ((((rereadDone s r).updRing r fun g => { g with backoff := none }).acceptDesc r d).ringFetch r)
    else if 8 ≤ (s.ring r).rereads + 1 then (rereadDone s r).ringStop r
    else (rereadDone s r).updRing r fun g =>
      { g with rereads := (s.ring r).rereads + 1, backoff := some (s.ck + cks (64 * 2 ^ ((s.ring r).rereads + 1))) } := by
  have hreach' : ((s.bump (Reg.RING_CNT 2)).engineReach (s.ring r).port (s.ring r).inst
      ((s.ring r).descVa (s.ring r).fetched) 64 false).1 = true :=
    (engineReach_congr (s := s) (canTranslate_setReg s (by decide) (by decide) _ _ _) rfl rfl _ _ _).trans hreach
  simp only [State.reread, hb, if_neg (Nat.not_lt.mpr hdue), hreach', Bool.not_true, Bool.false_eq_true, if_false]
  rfl

theorem reread_early (h : (s.ring r).backoff = none ∨ ∃ b, (s.ring r).backoff = some b ∧ s.ck < b) (d : Desc) (ok : Bool) :
    s.reread r d ok = s := by
  obtain h | ⟨b, h, hb⟩ := h
  · simp only [State.reread, h]
  · simp only [State.reread, h, if_pos hb]

theorem exec_descriptorReread (h : s.alive = true) (ring : BitVec 14) (d : Desc) (ok : Bool) :
    exec (.descriptorReread ring d ok) s = .next (s.reread ring.toNat d ok) := if_pos h

end Rereading

theorem reg_updRing (s : State) (r : Nat) (f : Ring → Ring) (a : Nat) : (s.updRing r f).reg a = s.reg a := rfl

theorem reg_acceptedDesc (s : State) (r : Nat) (d : Desc) (a : Nat) : (acceptedDesc s r d).reg a = s.reg a := rfl

/-- An accepted re-read: one descriptor more is fetched, and no re-read is due. -/
theorem reread_accepts (s : State) (r : Nat) (d : Desc) :
    let t := (((rereadDone s r).updRing r fun g => { g with backoff := none }).acceptDesc r d).ringFetch r
    Counts s t (Reg.RING_CNT 2) 1 ∧ (t.ring r).fetched = (s.ring r).fetched + 1 ∧ (t.ring r).backoff = none
      ∧ (t.ring r).tail = (s.ring r).tail ∧ (t.ring r).head = (s.ring r).head ∧ (∀ i, i ≠ r → t.ring i = s.ring i)
      ∧ SameStores s t := by
  intro t
  let u := (rereadDone s r).updRing r fun g => { g with backoff := none }
  have hring : u.ring r = { s.ring r with backoff := none } := by
    rw [ring_updRing_self, ring_rereadDone]
  have hbackoff : (t.ring r).backoff = none := backoff_ringFetch (backoff_acceptDesc (by rw [hring]) d)
  have hstep : DescStep r (acceptedDesc u r d) t := (step_acceptDesc u r d).trans (step_ringFetch ..)
  have haccepted : (acceptedDesc u r d).ring r = _ := ring_updRing_self ..
  have hstores : SameStores (rereadDone s r) (acceptedDesc u r d) := ⟨rfl, rfl, rfl, rfl, rfl⟩
  clear_value t
  have hcounted : Counts s (acceptedDesc u r d) (Reg.RING_CNT 2) 1 :=
    counts_of_reg (counts_rereadDone s r) ((reg_acceptedDesc ..).trans (reg_updRing ..))
  refine ⟨hstep.counted hcounted (steady_ringCnt (by decide)), ?_, hbackoff, ?_, ?_, fun i hi => ?_,
    sameStores_trans (stores_rereadDone s r) (sameStores_trans hstores hstep.stores)⟩
  · rw [hstep.fetched, haccepted, hring]
  · rw [hstep.tail, haccepted, hring]
  · rw [hstep.head, haccepted, hring]
  · rw [hstep.others i hi, acceptedDesc, ring_updRing_ne _ _ hi, ring_updRing_ne _ _ hi, ring_rereadDone]

theorem ring_bump (s : State) (a i : Nat) : (s.bump a).ring i = s.ring i := rfl

theorem ring_ringStop (s : State) (r : Nat) : (s.ringStop r).ring r = { s.ring r with
    phase := .stopped, lastSt := St.earlyDoorbell, backoff := none, rereads := 0, stopAt := s.ps } := by
  rw [State.ringStop, ring_bump, ring_updRing_self]

/-- The eighth re-read with owner 0 stops the ring, and is counted (R293). -/
theorem reread_stops (s : State) (r : Nat) :
    let t := (rereadDone s r).ringStop r
    Counts s t (Reg.RING_CNT 2) 1 ∧ Counts s t (Reg.RING_CNT 3) 1 ∧ (t.ring r).phase = .stopped
      ∧ (t.ring r).lastSt = St.earlyDoorbell ∧ (t.ring r).backoff = none ∧ (t.ring r).stopAt = s.ps
      ∧ (t.ring r).fetched = (s.ring r).fetched ∧ (∀ i, i ≠ r → t.ring i = s.ring i) ∧ SameStores s t := by
  have hps : (rereadDone s r).ps = s.ps := (congrArg State.ps (recorded_rereadDone s r).frame :)
  have hcnt : (rereadDone s r).reg (Reg.RING_CNT 3) = s.reg (Reg.RING_CNT 3) :=
    ((recorded_rereadDone s r).steady _ (steady_ringCnt (by decide))).trans (by rw [reg_bump, if_neg (by decide)])
  refine ⟨?_, counts_bump_of_reg hcnt, ?_, ?_, ?_, ?_, ?_, fun i hi => ?_, stores_rereadDone s r⟩
  · exact counts_of_reg (counts_rereadDone s r) (by rw [State.ringStop, reg_bump, if_neg (by decide)]; rfl)
  iterate 3 · rw [ring_ringStop]
  · rw [ring_ringStop, hps]
  · rw [ring_ringStop, ring_rereadDone]
  · rw [State.ringStop, ring_bump, ring_updRing_ne _ _ hi, ring_rereadDone]

theorem rereads : Rereads := by
  intro s ring d halive
  simp only [exec_descriptorReread halive]
  generalize ring.toNat = r
  refine ⟨fun b hb hdue hreach => ?due, fun ok h => by rw [reread_early h]⟩
  have hread := reread_due hb hdue hreach d
  refine ⟨fun hown => ⟨_, rfl, ?accepts⟩, fun hown hfew => ⟨_, rfl, ?again⟩, fun hown hmany => ⟨_, rfl, ?stops⟩,
    fun herr => ⟨_, rfl, ?fails⟩⟩
  case accepts =>
    rw [hread, if_neg (by decide), if_pos (show descOwned d = true from hown)]
    exact reread_accepts s r d
  case again =>
    have htime : cks (64 * 2 ^ ((s.ring r).rereads + 1)) = 64000000 * 2 ^ ((s.ring r).rereads + 1) := by
      unfold cks; omega
    rw [hread, if_neg (by decide), if_neg (show ¬ descOwned d = true from Bool.eq_false_iff.mp hown), if_neg (by omega), htime]
    exact ⟨counts_rereadDone s r, by rw [ring_updRing_self, ring_rereadDone],
      fun i hi => (ring_updRing_ne _ _ hi).trans (ring_rereadDone s r i), stores_rereadDone s r⟩
  case stops =>
    rw [hread, if_neg (by decide), if_neg (show ¬ descOwned d = true from Bool.eq_false_iff.mp hown), if_pos (by omega)]
    exact reread_stops s r
  case fails =>
    rw [hread, if_pos (by decide)]
    have hstep := step_ringError (rereadDone s r) r St.uncorrectable (s.ring r).fetched 0
    have hring := ring_ringError (rereadDone s r) r St.uncorrectable (s.ring r).fetched 0
    rw [ring_rereadDone, if_neg herr] at hring
    exact ⟨hstep.counted (counts_rereadDone s r) (steady_ringCnt (by decide)), by rw [hring], by rw [hring], by rw [hring]⟩

/-! ## Re-polls (R293) -/

theorem exec_ringRepoll {s : State} (h : s.alive = true) (ring : BitVec 14) :
    exec (.ringRepoll ring) s = .next (s.repoll ring.toNat) := if_pos h

/-- The ring leaves STOPPED. -/
def repolled (s : State) (r : Nat) : State := s.updRing r fun g => { g with phase := .idle, progress := s.ps }

theorem phase_repolled (s : State) (r : Nat) : (((repolled s r).ringFetch r).ring r).phase ≠ .stopped := by
  have hring : (repolled s r).ring r = { s.ring r with phase := .idle, progress := s.ps } := ring_updRing_self ..
  obtain h | ⟨n, h⟩ | h := ring_ringFetch (repolled s r) r
  · rw [h, hring]; exact (by decide : RingPhase.idle ≠ .stopped)
  · rw [h, hring]; exact (by decide : RingPhase.idle ≠ .stopped)
  · rw [h]; exact (by decide : RingPhase.error ≠ .stopped)

theorem repolls : Repolls := by
  intro s ring halive
  simp only [exec_ringRepoll halive]
  generalize ring.toNat = r
  refine ⟨fun hstopped htime hdue => ⟨_, rfl, ?_⟩, fun h => congrArg _ (if_pos h)⟩
  have hgo : s.repoll r = (repolled s r).ringFetch r :=
    if_neg (not_or.mpr ⟨not_not_intro hstopped, not_or.mpr ⟨htime, Nat.not_lt.mpr hdue⟩⟩)
  have hstep : DescStep r s ((repolled s r).ringFetch r) := (step_updRing s r).trans (step_ringFetch ..)
  have hring : (repolled s r).ring r = { s.ring r with phase := .idle, progress := s.ps } := ring_updRing_self ..
  rw [hgo]
  refine ⟨phase_repolled s r, hstep.tail, hstep.head, hstep.fetched, fun hidle => ?_, hstep.others, hstep.stores⟩
  rw [ringFetch_idle (by rw [hring]; exact hidle), hring]
  exact ⟨rfl, rfl⟩

/-! ## Operations of the semaphore memory (R170, R174, R183) -/

/-- A state without what the operations of the semaphore memory change. -/
def exceptSemMem (s : State) : State := { s with slots := [], regs := [], sems := [], semHeld := [] }

/-- Operations of the semaphore memory lead from `s` to `t`. -/
structure SemStep (s t : State) : Prop where
  frame : exceptSemMem t = exceptSemMem s
  steady : ∀ a, Steady a → t.reg a = s.reg a

section SemSteps

variable {s₀ s t : State}

theorem SemStep.refl (s : State) : SemStep s s := ⟨rfl, fun _ _ => rfl⟩

theorem SemStep.ite {c : Prop} [Decidable c] (hs : SemStep s₀ s) (ht : SemStep s₀ t) : SemStep s₀ (if c then s else t) := by
  split <;> assumption

theorem SemStep.setReg (h : SemStep s₀ s) {a : Nat} (ha : ¬ Steady a) (v : Word) : SemStep s₀ (s.setReg a v) :=
  ⟨h.frame, fun b hb => by rw [reg_setReg, if_neg fun e : b = a => ha (e ▸ hb), h.steady b hb]⟩

theorem SemStep.setFld (h : SemStep s₀ s) {a : Nat} (ha : ¬ Steady a) (lo w x : Nat) : SemStep s₀ (s.setFld a lo w x) :=
  h.setReg ha _

theorem SemStep.bump (h : SemStep s₀ s) {a : Nat} (ha : ¬ Steady a) : SemStep s₀ (s.bump a) := h.setReg ha _

/-- The counters of the semaphore memory and the barriers are not steady. -/
theorem not_steady_sem (id : BitVec 16) : ¬ Steady Reg.SEM_CNT_OPS ∧ ¬ Steady Reg.SEM_CNT_SAT ∧ ¬ Steady (barReg id) := by
  unfold Steady barReg Reg.SEM_CNT_OPS Reg.SEM_CNT_SAT Reg.RING_CNT Reg.SEM_PAGE Reg.SEM_BAR; omega

theorem SemStep.barArrive (h : SemStep s₀ s) (id : BitVec 16) : SemStep s₀ (s.barArrive id) := by
  obtain ⟨-, -, hbar⟩ := not_steady_sem id
  exact .ite ((h.setFld hbar _ _ _).setFld hbar _ _ _) (h.setFld hbar _ _ _)

theorem SemStep.putSem (h : SemStep s₀ s) (id : BitVec 16) (v : Word) : SemStep s₀ (s.putSem id v) := ⟨h.frame, h.steady⟩

theorem SemStep.putSat (h : SemStep s₀ s) (id : BitVec 16) (r : Word × Bool) : SemStep s₀ (s.putSat id r) :=
  .ite ((h.putSem id _).bump (not_steady_sem id).2.1) (h.putSem id _)

theorem SemStep.semEffect (h : SemStep s₀ s) (id : BitVec 16) (a : SemAct) : SemStep s₀ (s.semEffect id a) := by
  cases a with
  | add v => exact .ite (.ite h (h.barArrive _)) (h.putSat _ _)
  | sub v => exact .ite h (h.putSat _ _)
  | set v => exact .ite h (h.putSem _ _)
  | read => exact h
  | wait => exact h

theorem SemStep.semWake (h : SemStep s₀ s) (id : BitVec 16) : SemStep s₀ (s.semWake id) := by
  have hframe := exceptRetired_semWake s id
  have hreg {a : Nat} (ha : Steady a) : (s.semWake id).reg a = s.reg a :=
    reg_semWake s (by unfold Steady Reg.RING_CNT Reg.SEM_BAR at ha; omega) id
  generalize s.semWake id = u at hframe hreg
  have hwoken : exceptSemMem u = exceptSemMem s :=
    congrArg (fun u : State => ({ u with sems := [], semHeld := [] } : State)) hframe
  exact ⟨hwoken.trans h.frame, fun a ha => (hreg ha).trans (h.steady a ha)⟩

theorem SemStep.semApply (h : SemStep s₀ s) (id : BitVec 16) (a : SemAct) : SemStep s₀ (s.semApply id a).2.2 := by
  by_cases hpoison : s.semPoisoned id = true
  · rw [State.semApply, if_pos hpoison]
    exact h
  · rw [semApply_eq (Bool.eq_false_iff.mpr hpoison)]
    exact ((h.bump (not_steady_sem id).1).semEffect id a).semWake id

theorem SemStep.holdSem (h : SemStep s₀ s) (id : BitVec 16) (a : SemAct) (src : SemSrc) : SemStep s₀ (s.holdSem id a src) :=
  ⟨h.frame, h.steady⟩

theorem SemStep.semSignal (h : SemStep s₀ s) (inst : BitVec 8) (id : BitVec 16) : SemStep s₀ (s.semSignal inst id).2 := by
  unfold State.semSignal
  split
  · exact h.holdSem _ _ _
  · exact h.semApply _ _

theorem SemStep.ring (h : SemStep s t) (i : Nat) : t.ring i = s.ring i :=
  congrArg (tget Ring.init · i) (congrArg State.rings h.frame :)

end SemSteps

/-- A state without what a ring's engine changes, on semaphores and windows too. -/
def exceptServed (s : State) : State := { exceptDescriptor s with slots := [], sems := [], semHeld := [], wins := [] }

/-- A step that may also change semaphores and windows. -/
abbrev ServeStep := RingStep exceptServed

section Serving

variable {s t : State} {r : Nat}

theorem RingStep.served (h : DescStep r s t) : ServeStep r s t := h.mono fun _ => rfl

theorem SemStep.served (h : SemStep s t) : ServeStep r s t where
  frame := (congrArg exceptServed h.frame :)
  others i _ := h.ring i
  counts := by rw [h.ring]
  out := by rw [show t.out = s.out from (congrArg State.out h.frame :)]
  steady := h.steady

/-- A count of a register on which no right to a semaphore depends leaves the rights as they are. -/
theorem semProg_of_reg {id : BitVec 16} (h : t.semPage id = s.semPage id) (i : BitVec 8) : t.semProg i id = s.semProg i id := by
  rw [State.semProg, h, State.semProg]

theorem steady_semPage (id : BitVec 16) : Steady (Reg.SEM_PAGE (id.toNat / 256)) :=
  .inr (by unfold Reg.SEM_PAGE Reg.SEM_BAR; omega)

/-- A plain semaphore is one wherever the profile, the poison and the zeroing are the same. -/
theorem PlainSem.same {id : BitVec 16} (h : PlainSem s id) (hsteady : ∀ a, a ≤ Reg.GLB_PROFILE → t.reg a = s.reg a)
    (hpoison : t.poison = s.poison) (hzeroing : t.zeroing = s.zeroing) : PlainSem t id := by
  have hbar : t.isBar id = s.isBar id := by
    simp only [State.isBar, State.barriers, State.mapValid, State.profile, State.flag, State.fld,
      hsteady _ (by decide : Reg.GLB_MAP_STATUS ≤ Reg.GLB_PROFILE), hsteady _ (Nat.le_refl Reg.GLB_PROFILE)]
  obtain ⟨hbar', hpoison', hzeroing'⟩ := h
  refine ⟨hbar.trans hbar', ?_, ?_⟩
  · rw [State.semPoisoned, hbar, hpoison]; exact hpoison'
  · rw [State.semZeroing, hzeroing]; exact hzeroing'

end Serving

/-! ## A descriptor that is served (R290, R297) -/

section Dispatching

variable {s : State} {r : Nat} {d : RDesc}

/-- The oldest undispatched descriptor has not ended, and is found by its index. -/
theorem first?_spec {g : Ring} (h : g.first? = some d) : g.desc? d.idx = some d ∧ d.over = false := by
  obtain ⟨hfound, hphase⟩ := Option.filter_eq_some_iff.mp h
  have hfetched : d.phase = .fetched := of_decide_eq_true hphase
  exact ⟨idx_of_desc? hfound ▸ hfound, by rw [RDesc.over, hfetched]⟩

theorem step_setWin (s : State) (w r : Nat) (x : Win) : ServeStep r s (s.setWin w x) :=
  ⟨rfl, fun _ _ => rfl, rfl, List.prefix_rfl, fun _ _ => rfl⟩

/-- The completion of a revoke that a ring's descriptor made finishes that descriptor alone. -/
theorem step_revokeDone {w : Nat} {idx : BitVec 32} (hsem : (s.win w).sem = none) (hring : (s.win w).ring = some (r, idx)) :
    ServeStep r s (s.revokeDone w) := by
  have hcnt : ¬ Steady (Reg.WIN_CNT 6) := by unfold Steady Reg.WIN_CNT Reg.RING_CNT Reg.SEM_PAGE; omega
  unfold State.revokeDone
  dsimp only
  rw [hsem, hring]
  exact .ite (.refl s) (((step_setWin s w r _).trans ((Recorded.refl _).bump hcnt).step.served).trans
    (step_updRing _ r (f := fun g => { g with descs := inPhase g.descs idx (.finished St.ok) })).served)

theorem step_winRevoke (s : State) (w r : Nat) (idx : BitVec 32) :
    ServeStep r s (s.winRevoke w none (some (r, idx))).2 := by
  unfold State.winRevoke
  split
  · exact .refl s
  · refine (step_setWin s w r _).trans (step_revokeDone ?_ (idx := idx) ?_)
    · rw [win_setWin, if_pos rfl]
    · rw [win_setWin, if_pos rfl]

/-- What dispatching a descriptor does by its type (R288, R290). -/
def served (s : State) (r : Nat) (i : BitVec 8) (d : RDesc) : State :=
  match descTyp d.d with
  | 0 => s.finishDesc r d.idx St.ok
  | 1 => s.setDesc r d.idx .waiting
  | 2 => s.ringRevoke r i d
  | _ => s.ringSem r i d

theorem step_ringSem (s : State) (r : Nat) (i : BitVec 8) (d : RDesc) : ServeStep r s (s.ringSem r i d) := by
  have hset : ServeStep r s (s.setDesc r d.idx .dispatched) := (step_setDesc ..).served
  have hfinish (t : State) (st : Status) : ServeStep r t (t.finishDesc r d.idx st) := (step_finishDesc ..).served
  exact .ite (hset.trans (hfinish _ _)) (.ite (hset.trans ((SemStep.refl _).holdSem _ _ _).served)
    ((hset.trans ((SemStep.refl _).semApply _ _).served).trans (hfinish _ _)))

theorem step_served (s : State) (r : Nat) (i : BitVec 8) (d : RDesc) : ServeStep r s (served s r i d) := by
  have hset (p : DPhase) : ServeStep r s (s.setDesc r d.idx p) := (step_setDesc ..).served
  have hfinish (t : State) (st : Status) : ServeStep r t (t.finishDesc r d.idx st) := (step_finishDesc ..).served
  unfold served
  split
  · exact hfinish s _
  · exact hset _
  · exact .ite ((hset _).trans (hfinish _ _)) (.ite ((hset _).trans (hfinish _ _)) ((hset _).trans (step_winRevoke ..)))
  · exact step_ringSem s r i d

/-- The next descriptor of the ring is taken, and its dispatch counted. -/
def taken (s : State) (r : Nat) : State :=
  (s.updRing r fun g => { g with dispatched := g.dispatched + 1, progress := s.ps }).bump (Reg.RING_CNT 1)

theorem dispatchRing_eq (h : (s.ring r).first? = some d) :
    s.dispatchRing r = ((served (taken s r) r (s.ring r).inst d).skipRefused r).ringFetch r := by
  simp only [State.dispatchRing, h]
  rfl

/-- What follows a served descriptor leaves every descriptor as it is. -/
theorem descIs_after {idx : BitVec 32} {ph : DPhase} (h : DescIs s r idx ph) :
    DescIs ((s.skipRefused r).ringFetch r) r idx ph := by
  obtain ⟨d, hd, hph⟩ := h
  obtain ⟨k, hk⟩ := ring_skipRefused s r
  refine ⟨d, ?_, hph⟩
  rw [Ring.desc?, descs_ringFetch, hk]
  exact hd

theorem descIs_setDesc {idx : BitVec 32} (h : (s.ring r).desc? idx = some d) (p : DPhase) : DescIs (s.setDesc r idx p) r idx p :=
  ⟨_, desc?_setDesc h p, rfl⟩

/-- A SEM_OP without the right to its semaphore (R165). -/
theorem ringSem_denied {i : BitVec 8} (h : s.semProg i (BitVec.ofNat 16 (bits d.d.w1 0 16)) = false) :
    s.ringSem r i d = (s.setDesc r d.idx .dispatched).finishDesc r d.idx St.accessDenied :=
  if_pos (.inl (by rw [h]; rfl))

/-- A SEM_OP with the right to its semaphore, a plain one, is one operation on it. -/
theorem ringSem_plain {i : BitVec 8} (h : s.semProg i (BitVec.ofNat 16 (bits d.d.w1 0 16)) = true)
    (hplain : PlainSem s (BitVec.ofNat 16 (bits d.d.w1 0 16))) : s.ringSem r i d =
    ((s.setDesc r d.idx .dispatched).semApply (BitVec.ofNat 16 (bits d.d.w1 0 16)) (actOf (bits d.d.w1 16 2) d.d.w2)).2.2.finishDesc
      r d.idx St.ok := by
  obtain ⟨hbar, hpoison, hzeroing⟩ := hplain
  have hpoison' : (s.setDesc r d.idx .dispatched).semPoisoned (BitVec.ofNat 16 (bits d.d.w1 0 16)) = false := hpoison
  simp only [State.ringSem, State.semApply, h, hbar, hzeroing, hpoison', Bool.not_true, Bool.false_eq_true, false_and, or_self,
    if_false]

/-- The count of dispatches is none on which a right to a semaphore depends. -/
theorem semProg_taken (s : State) (r : Nat) (i : BitVec 8) (id : BitVec 16) : (taken s r).semProg i id = s.semProg i id := by
  refine semProg_of_reg ?_ i
  rw [State.semPage, taken, reg_bump, if_neg (by unfold Reg.SEM_PAGE Reg.RING_CNT; omega)]
  rfl

theorem PlainSem.taken {id : BitVec 16} (h : PlainSem s id) (r : Nat) : PlainSem (taken s r) id :=
  PlainSem.same h (fun a ha => by
    rw [Proofs.taken, reg_bump, if_neg (by unfold Reg.GLB_PROFILE at ha; unfold Reg.RING_CNT; omega)]
    rfl) rfl rfl

theorem counts_taken (s : State) (r : Nat) : Counts s (taken s r) (Reg.RING_CNT 1) 1 :=
  counts_bump_of_reg (s := s) rfl

theorem desc?_taken (s : State) (r : Nat) (idx : BitVec 32) : ((taken s r).ring r).desc? idx = (s.ring r).desc? idx := by
  rw [taken, ring_bump, ring_updRing_self]
  rfl

theorem served_semType (htyp : descTyp d.d = 3) (i : BitVec 8) : served s r i d = s.ringSem r i d := by
  unfold served
  rw [htyp]
  rfl

theorem served_nop (hfirst : (s.ring r).first? = some d) (htyp : descTyp d.d = 0) (i : BitVec 8) :
    DescIs (served (taken s r) r i d) r d.idx (.finished St.ok) ∧ (served (taken s r) r i d).sems = s.sems := by
  obtain ⟨hd, hover⟩ := first?_spec hfirst
  unfold served
  rw [htyp]
  exact ⟨descIs_finishDesc ((desc?_taken ..).trans hd) hover _, (step_finishDesc ..).sems⟩

theorem served_launch (hfirst : (s.ring r).first? = some d) (htyp : descTyp d.d = 1) (i : BitVec 8) :
    DescIs (served (taken s r) r i d) r d.idx .waiting ∧ (served (taken s r) r i d).sems = s.sems := by
  obtain ⟨hd, -⟩ := first?_spec hfirst
  unfold served
  rw [htyp]
  exact ⟨descIs_setDesc ((desc?_taken ..).trans hd) _, (step_setDesc ..).sems⟩

theorem served_denied (hfirst : (s.ring r).first? = some d) (htyp : descTyp d.d = 3) {i : BitVec 8}
    (h : s.semProg i (BitVec.ofNat 16 (bits d.d.w1 0 16)) = false) :
    DescIs (served (taken s r) r i d) r d.idx (.finished St.accessDenied)
      ∧ (served (taken s r) r i d).sems = s.sems := by
  obtain ⟨hd, -⟩ := first?_spec hfirst
  have hset := desc?_setDesc ((desc?_taken s r d.idx).trans hd) .dispatched
  rw [served_semType htyp, ringSem_denied ((semProg_taken ..).trans h)]
  exact ⟨descIs_finishDesc hset rfl _, ((step_setDesc ..).trans (step_finishDesc ..)).sems⟩

/-- A SEM_OP that takes effect leaves its result in the semaphore, and finishes with OK. -/
theorem served_semOp (hfirst : (s.ring r).first? = some d) (htyp : descTyp d.d = 3) {i : BitVec 8}
    (h : s.semProg i (BitVec.ofNat 16 (bits d.d.w1 0 16)) = true) (hplain : PlainSem s (BitVec.ofNat 16 (bits d.d.w1 0 16))) :
    let id : BitVec 16 := BitVec.ofNat 16 (bits d.d.w1 0 16)
    DescIs (served (taken s r) r i d) r d.idx (.finished St.ok)
      ∧ tget 0 (served (taken s r) r i d).sems id.toNat
        = semResult (tget 0 s.sems id.toNat) (actOf (bits d.d.w1 16 2) d.d.w2) := by
  intro id
  obtain ⟨hd, -⟩ := first?_spec hfirst
  have hset := desc?_setDesc ((desc?_taken s r d.idx).trans hd) .dispatched
  have hplain' := PlainSem.taken hplain r
  obtain ⟨hbar, hpoison, -⟩ := hplain'
  have hbar' : ((taken s r).setDesc r d.idx .dispatched).isBar id = false := hbar
  have hpoison' : ((taken s r).setDesc r d.idx .dispatched).semPoisoned id = false := hpoison
  rw [served_semType htyp, ringSem_plain ((semProg_taken ..).trans h) (PlainSem.taken hplain r)]
  have happly := (SemStep.refl ((taken s r).setDesc r d.idx .dispatched)).semApply id (actOf (bits d.d.w1 16 2) d.d.w2)
  have hsems := sems_semApply hbar' hpoison' (actOf (bits d.d.w1 16 2) d.d.w2) id.toNat
  rw [if_pos rfl] at hsems
  refine ⟨descIs_finishDesc (by rw [happly.ring]; exact hset) rfl _, ?_⟩
  exact (congrArg (tget 0 · id.toNat) (step_finishDesc ..).sems).trans hsems

theorem step_dispatchRing (h : (s.ring r).first? = some d) : ServeStep r (taken s r) (s.dispatchRing r) := by
  rw [dispatchRing_eq h]
  exact (step_served ..).trans ((step_skipRefused ..).trans (step_ringFetch ..)).served

theorem sems_dispatchRing (h : (s.ring r).first? = some d) :
    (s.dispatchRing r).sems = (served (taken s r) r (s.ring r).inst d).sems := by
  rw [dispatchRing_eq h]
  exact ((step_skipRefused ..).trans (step_ringFetch ..)).sems

theorem descIs_dispatchRing (h : (s.ring r).first? = some d) {idx : BitVec 32} {ph : DPhase}
    (hserved : DescIs (served (taken s r) r (s.ring r).inst d) r idx ph) : DescIs (s.dispatchRing r) r idx ph := by
  rw [dispatchRing_eq h]
  exact descIs_after hserved

/-- What the dispatch of one descriptor leaves, whatever its type. -/
theorem dispatchRing_leaves (h : (s.ring r).first? = some d) :
    let t := s.dispatchRing r
    Counts s t (Reg.RING_CNT 1) 1 ∧ t.sched = s.sched ∧ (t.ring r).head = (s.ring r).head ∧ (t.ring r).tail = (s.ring r).tail
      ∧ ∀ i, i ≠ r → t.ring i = s.ring i := by
  intro t
  have hstep : ServeStep r (taken s r) t := step_dispatchRing h
  have hsched : t.sched = (taken s r).sched := (congrArg State.sched hstep.frame :)
  clear_value t
  have htaken : (taken s r).ring r = { s.ring r with dispatched := (s.ring r).dispatched + 1, progress := s.ps } := by
    rw [taken, ring_bump, ring_updRing_self]
  refine ⟨hstep.counted (counts_taken s r) (steady_ringCnt (by decide)), hsched, ?_, ?_, fun i hi => ?_⟩
  · rw [hstep.head, htaken]
  · rw [hstep.tail, htaken]
  · rw [hstep.others i hi, taken, ring_bump, ring_updRing_ne _ _ hi]

end Dispatching

/-! ## The dispatch of one descriptor in 32 ck (R290, R295) -/

theorem exec_descriptorDispatch {s : State} (halive : s.alive = true) (hwatch : s.watching = true) :
    exec .descriptorDispatch s = .next s.dispatch := if_pos (by rw [halive, hwatch]; rfl)

section Scheduling

variable {s : State} {r : Nat} {q : Sched}

theorem dispatch_early {l : Nat} (hlast : s.sched.last = some l) (h : s.ck < l + 32000000) : s.dispatch = s := by
  have hnot : decide (l + cks 32 ≤ s.ck) = false := decide_eq_false (by unfold cks; omega)
  simp only [State.dispatch, hlast, hnot, Bool.not_false, or_true, if_true]

/-- The scheduler may dispatch: the engine is on, and the last dispatch was 32 ck ago or more. -/
def MayDispatch (s : State) : Prop := s.flag Reg.RING_CTRL 0 = true ∧ ∀ l, s.sched.last = some l → l + 32000000 ≤ s.ck

/-- The scheduler serves a ring, and the time of the dispatch is noted. -/
def scheduled (s : State) (q : Sched) : State := { s.schedTrim with sched := { q with last := some s.ck } }

theorem dispatch_due (h : MayDispatch s) : s.dispatch = match s.schedTrim.chooseRing with
    | none => s.schedTrim
    | some (r, q) => ((scheduled s q).dispatchRing r).schedTrim := by
  obtain ⟨hon, hlast⟩ := h
  cases hl : s.sched.last with
  | none => simp only [State.dispatch, hl, hon, Bool.not_true, Bool.false_eq_true, or_self, if_false]; rfl
  | some l =>
    have hdue : decide (l + cks 32 ≤ s.ck) = true := decide_eq_true (by have := hlast l hl; unfold cks; omega)
    simp only [State.dispatch, hl, hon, hdue, Bool.not_true, Bool.false_eq_true, or_self, if_false]; rfl

end Scheduling

theorem dispatches : Dispatches := by
  intro s halive hwatch hon
  rw [exec_descriptorDispatch halive hwatch]
  refine ⟨fun hlast => ⟨fun r q d hchoose hfirst => ?serves, fun hnone => ?idle⟩, fun l hlast h => by rw [dispatch_early hlast h]⟩
  case idle => rw [dispatch_due ⟨hon, hlast⟩, hnone]
  case serves =>
    rw [dispatch_due ⟨hon, hlast⟩, hchoose]
    have hfirst' : ((scheduled s q).ring r).first? = some d := hfirst
    obtain ⟨hcount, hsched, hhead, htail, hothers⟩ := dispatchRing_leaves hfirst'
    have hsems := sems_dispatchRing hfirst'
    refine ⟨_, rfl, hcount, congrArg Sched.last hsched, hhead, htail, hothers, fun htyp => ?nop, fun htyp => ?launch,
      fun htyp hprog hplain => ?semOp, fun htyp hprog => ?denied⟩
    case nop =>
      obtain ⟨hdesc, hkept⟩ := served_nop hfirst' htyp ((scheduled s q).ring r).inst
      exact ⟨descIs_dispatchRing hfirst' hdesc, hsems.trans hkept⟩
    case launch =>
      obtain ⟨hdesc, hkept⟩ := served_launch hfirst' htyp ((scheduled s q).ring r).inst
      exact ⟨descIs_dispatchRing hfirst' hdesc, hsems.trans hkept⟩
    case semOp =>
      obtain ⟨hdesc, hvalue⟩ := served_semOp hfirst' htyp hprog hplain
      have hresult := (congrArg (tget 0 · _) hsems).trans hvalue
      refine ⟨descIs_dispatchRing hfirst' hdesc, fun hadd => ?_, fun hsub => ?_, fun hset => ?_⟩
      · rw [hadd] at hresult
        exact (congrArg BitVec.toNat hresult).trans (satAdd_toNat_eq_min ..)
      · rw [hsub] at hresult
        exact (congrArg BitVec.toNat hresult).trans (satSub_toNat ..)
      · rw [hset] at hresult
        exact hresult
    case denied =>
      obtain ⟨hdesc, hkept⟩ := served_denied hfirst' htyp hprog
      exact ⟨descIs_dispatchRing hfirst' hdesc, hsems.trans hkept⟩

/-- Settles O19: a re-read is made once it is due, a stopped ring re-polls in its time, and a dispatch serves one descriptor of the
ring that the scheduler chooses. -/
theorem ringsDispatch : Obligations.RingsDispatch := ⟨rereads, repolls, dispatches⟩


end Sys2Proof.Proofs

end

section
/-!
PROOF. The publication of finished descriptors and the interrupts that a holdoff held (R298, R299, R301).
-/

namespace Sys2Proof.Proofs

open Sys2Proof.Machine Sys2Proof.Laws Sys2Proof.Claims

/-! ## Held interrupts (R301) -/

section Holdoffs

variable {s : State}

theorem exec_irqHoldoffExpiry (h : s.alive = true) (src : IrqSrc) : exec (.irqHoldoffExpiry src) s = .next (s.irqExpiry src) :=
  if_pos h

theorem vectorRaised_msix (s : State) (fn : BitVec 8) (v : Nat) : VectorRaised s (s.msix fn v) fn v := by
  obtain ⟨hmay, h⟩ | ⟨hmay, hheld, h⟩ | ⟨hmay, hheld, h⟩ := msix_cases s fn v
  · simp [VectorRaised, h, hmay]
  · simp [VectorRaised, h, hmay, hheld, tget_tset_self]
  · simp [VectorRaised, h, hmay, hheld, State.onWire, State.emit]

theorem stores_msix (s : State) (fn : BitVec 8) (v : Nat) : SameStores s (s.msix fn v) :=
  ((Recorded.refl s).msix fn v).step (r := 0) |>.stores

/-- The holdoff of an interrupt has passed since it was last raised. -/
def holdoffPassed (last : Option Nat) (hold now : Nat) : Bool := match last with
  | none => true
  | some t => decide (t + hold ≤ now)

theorem holdoffPassed_of_forall {last : Option Nat} {hold now : Nat} (h : ∀ a, last = some a → a + hold ≤ now) :
    holdoffPassed last hold now = true := by
  cases last with
  | none => rfl
  | some a => exact decide_eq_true (h a rfl)

theorem not_held_passed {held : Bool} {last : Option Nat} {hold now : Nat}
    (h : held = false ∨ ∃ a, last = some a ∧ now < a + hold) : ¬ (held && holdoffPassed last hold now) = true := by
  obtain rfl | ⟨a, rfl, ha⟩ := h
  · exact Bool.false_ne_true
  · simpa [holdoffPassed] using fun _ => ha

/-- A ring's interrupt was raised. -/
def ringRaised (s : State) (r : Nat) : State := s.updRing r fun g => { g with irqAt := some s.ps, irqHeld := false }

theorem ringIrq_eq (s : State) (r : Nat) : s.ringIrq r =
    if !bit (s.ring r).cfg3 11 then s
    else if holdoffPassed (s.ring r).irqAt (bits (s.ring r).cfg3 12 16 * 1000000) s.ps then
      (ringRaised s r).msix (s.ring r).inst (bits (s.ring r).cfg3 0 11)
    else s.updRing r fun g => { g with irqHeld := true } := rfl

theorem irqExpiry_ring (s : State) (r : BitVec 14) : s.irqExpiry (.ring r) =
    if (s.ring r.toNat).irqHeld && holdoffPassed (s.ring r.toNat).irqAt (bits (s.ring r.toNat).cfg3 12 16 * 1000000) s.ps then
      s.ringIrq r.toNat
    else s := rfl

/-- A fault queue's interrupt was raised. -/
def queueRaised (s : State) (q : Nat) : State := s.setFq q { s.fq q with irqAt := some s.ps, irqHeld := false }

theorem fqIrq_eq (s : State) (q : Nat) : s.fqIrq q =
    if !bit (s.reg (Reg.RING_FQ_CTRL q)) 12 then s
    else if holdoffPassed (s.fq q).irqAt (bits (s.reg (Reg.RING_FQ_CTRL q)) 13 16 * 1000000) s.ps then
      (queueRaised s q).msix (fqFn q) (bits (s.reg (Reg.RING_FQ_CTRL q)) 1 11)
    else s.setFq q { s.fq q with irqHeld := true } := rfl

theorem irqExpiry_fq (s : State) (q : Fin 257) : s.irqExpiry (.fq q) =
    if (s.fq q).irqHeld && holdoffPassed (s.fq q).irqAt (bits (s.reg (Reg.RING_FQ_CTRL q)) 13 16 * 1000000) s.ps then s.fqIrq q
    else s := rfl

theorem fqs_msix (s : State) (fn : BitVec 8) (v : Nat) : (s.msix fn v).fqs = s.fqs := by
  obtain ⟨-, h⟩ | ⟨-, -, h⟩ | ⟨-, -, h⟩ := msix_cases s fn v <;> rw [h]
  rfl

theorem holdoffsEnd : HoldoffsEnd := by
  intro s halive
  refine ⟨fun r => ⟨fun hheld hon hdue => ?ring, fun h => ?_⟩, fun q => ⟨fun hheld hon hdue => ?queue, fun h => ?_⟩⟩
  case ring =>
    have hpassed := holdoffPassed_of_forall hdue
    rw [exec_irqHoldoffExpiry halive, irqExpiry_ring, hheld, hpassed, Bool.and_self, if_pos rfl, ringIrq_eq, hon, hpassed,
      if_neg (by decide), if_pos rfl]
    have hring (i : Nat) : ((ringRaised s r.toNat).msix (s.ring r.toNat).inst (bits (s.ring r.toNat).cfg3 0 11)).ring i
        = (ringRaised s r.toNat).ring i := ((Recorded.refl _).msix _ _).ring i
    exact ⟨_, rfl, (hring _).trans (ring_updRing_self ..), fun i hi => (hring i).trans (ring_updRing_ne _ _ hi),
      vectorRaised_msix (ringRaised s r.toNat) _ _, regs_msix (ringRaised s r.toNat) _ _,
      stores_msix (ringRaised s r.toNat) _ _⟩
  case queue =>
    have hpassed := holdoffPassed_of_forall hdue
    rw [exec_irqHoldoffExpiry halive, irqExpiry_fq, hheld, hpassed, Bool.and_self, if_pos rfl, fqIrq_eq, hon, hpassed,
      if_neg (by decide), if_pos rfl]
    have hfq : ((queueRaised s q).msix (fqFn q) (bits (s.reg (Reg.RING_FQ_CTRL q)) 1 11)).fq q
        = { s.fq q with irqAt := some s.ps, irqHeld := false } :=
      (congrArg (tget FaultQ.init · q.val) (fqs_msix ..)).trans (fq_setFq_self ..)
    exact ⟨_, rfl, congrArg FaultQ.irqHeld hfq, congrArg FaultQ.irqAt hfq, vectorRaised_msix (queueRaised s q) _ _,
      regs_msix (queueRaised s q) _ _, stores_msix (queueRaised s q) _ _⟩
  · rw [exec_irqHoldoffExpiry halive, irqExpiry_ring, if_neg (not_held_passed h)]
  · rw [exec_irqHoldoffExpiry halive, irqExpiry_fq, if_neg (not_held_passed h)]

end Holdoffs

/-! ## The word that is written back (R298) -/

theorem descVa_aligned {g : Ring} (h : g.cfg0.toNat % 64 = 0) (idx : BitVec 32) : (g.descVa idx).toNat % 64 = 0 := by
  rw [Ring.descVa, BitVec.toNat_add, BitVec.toNat_ofNat]
  generalize idx.toNat % 2 ^ g.log2 = j
  omega

/-- An aligned word lies in one page. -/
theorem splitPages_word {va : Word} (h : va.toNat % 64 = 0) (k : Nat) : splitPages (k + 1) va 8 = [(va, 8)] := by
  have hroom : min 8 (4096 - va.toNat % 4096) = 8 := by omega
  rw [splitPages, hroom, if_pos (Nat.le_refl 8)]

/-- The write of an aligned word is one request. -/
theorem onWire_word (s : State) (p : Port) (i : BitVec 8) {va : Word} (h : va.toNat % 64 = 0) (w : Nat) :
    s.onWire (.memWrite p i va (leBytes w 8)) = [.memWrite p i (s.phys p i va) (leBytes w 8)] := by
  rw [State.onWire, length_leBytes, splitPages_word h]
  simp [List.take_of_length_le, length_leBytes]

theorem descDoneWord_fields (d : Desc) (st : Status) : (descDoneWord d st).toNat / 2 ^ 63 % 2 = 0
    ∧ (descDoneWord d st).toNat / 2 ^ 32 % 2 ^ 16 = st.toNat ∧ (descDoneWord d st).toNat % 2 ^ 32 = d.w0.toNat % 2 ^ 32 := by
  have howner : bits (descDoneWord d st) 63 1 = 0 := bits_putBits_self (by decide) _ _
  have hstatus : bits (descDoneWord d st) 32 16 = st.toNat := by
    rw [descDoneWord, bits_putBits_disjoint (.inr (by decide)), bits_putBits_self (by decide), Nat.mod_eq_of_lt st.isLt]
  have hlow : bits (descDoneWord d st) 0 32 = bits d.w0 0 32 := by
    rw [descDoneWord, bits_putBits_disjoint (.inr (by decide)), bits_putBits_disjoint (.inr (by decide))]
  rw [bits_eq_div] at howner hstatus hlow
  rw [bits_eq_div, Nat.pow_zero, Nat.div_one, Nat.div_one] at hlow
  exact ⟨howner, hstatus, hlow⟩

/-! ## The writeback and its semaphore (R298) -/

section Writebacks

variable {s : State} {r : Nat} {d : RDesc} {st : Status}

/-- Word 0 of a descriptor is on its way to the ring's memory. -/
def writtenBack (s : State) (r : Nat) (d : RDesc) (st : Status) : State :=
  (s.engineReach (s.ring r).port (s.ring r).inst ((s.ring r).descVa d.idx) 8 true).2.emit
    (.memWrite (s.ring r).port (s.ring r).inst ((s.ring r).descVa d.idx) (leBytes (descDoneWord d.d st).toNat 8))

theorem recorded_writtenBack (s : State) (r : Nat) (d : RDesc) (st : Status) : Recorded s (writtenBack s r d st) :=
  ((Recorded.refl s).engineReach ..).emit _

theorem out_writtenBack (h : (s.ring r).cfg0.toNat % 64 = 0) :
    let u := (s.engineReach (s.ring r).port (s.ring r).inst ((s.ring r).descVa d.idx) 8 true).2
    (writtenBack s r d st).out = u.out ++ [.memWrite (s.ring r).port (s.ring r).inst
      (u.phys (s.ring r).port (s.ring r).inst ((s.ring r).descVa d.idx)) (leBytes (descDoneWord d.d st).toNat 8)] := by
  rw [writtenBack, emit_out, onWire_word _ _ _ (descVa_aligned h d.idx)]

/-- What follows the acknowledgement of a writeback: its flush and its semaphore. -/
def completed (s : State) (g : Ring) (d : RDesc) : State :=
  match descSigSem d.d with
  | some id =>
    let flushed := s.ringFlush g (g.descVa d.idx)
    if flushed.semProg g.inst id then (flushed.semSignal g.inst id).2 else flushed
  | none => s

theorem writeBack_reached (h : RingReach s (s.ring r) ((s.ring r).descVa d.idx) 8 true) (ok : Bool) : s.writeBack r d st ok =
    if !ok then (writtenBack s r d st).ringError r St.uncorrectable d.idx d.d.w0
    else completed (writtenBack s r d st) (s.ring r) d := by
  have hreach : (s.engineReach (s.ring r).port (s.ring r).inst ((s.ring r).descVa d.idx) 8 true).1 = true := h
  simp only [State.writeBack, hreach, Bool.not_true, Bool.false_eq_true, if_false]
  rfl

theorem Recorded.ringFlush {s₀ : State} (h : Recorded s₀ s) (g : Ring) (va : Word) : Recorded s₀ (s.ringFlush g va) :=
  .ite (h.emit _) h

theorem completed_none (h : descSigSem d.d = none) (s : State) (g : Ring) : completed s g d = s := by
  unfold completed
  rw [h]

theorem completed_some {id : BitVec 16} (h : descSigSem d.d = some id) (s : State) (g : Ring) : completed s g d =
    if (s.ringFlush g (g.descVa d.idx)).semProg g.inst id then ((s.ringFlush g (g.descVa d.idx)).semSignal g.inst id).2
    else s.ringFlush g (g.descVa d.idx) := by
  unfold completed
  rw [h]

/-- What follows an acknowledgement adds a flush, and then is an operation of the semaphore memory. -/
theorem completed_steps (s : State) (g : Ring) (d : RDesc) : ∃ v, Recorded s v ∧ SemStep v (completed s g d) := by
  cases h : descSigSem d.d with
  | none => exact ⟨s, .refl s, (completed_none h s g).symm ▸ .refl s⟩
  | some id =>
    rw [completed_some h]
    exact ⟨_, (Recorded.refl s).ringFlush _ _, .ite ((SemStep.refl _).semSignal _ _) (.refl _)⟩

/-- After its word has left, the writeback of a descriptor works on its ring and on semaphores, and leaves the descriptors. -/
theorem step_writeBack (h : RingReach s (s.ring r) ((s.ring r).descVa d.idx) 8 true) (ok : Bool) :
    ServeStep r (writtenBack s r d st) (s.writeBack r d st ok) := by
  obtain ⟨v, hrecorded, hsem⟩ := completed_steps (writtenBack s r d st) (s.ring r) d
  rw [writeBack_reached h]
  exact .ite (step_ringError ..).served (hrecorded.step.served.trans hsem.served)

theorem descs_writeBack (h : RingReach s (s.ring r) ((s.ring r).descVa d.idx) 8 true) (ok : Bool) :
    ((s.writeBack r d st ok).ring r).descs = (s.ring r).descs := by
  have hwritten : (writtenBack s r d st).ring r = s.ring r := (recorded_writtenBack ..).ring r
  obtain ⟨v, hrecorded, hsem⟩ := completed_steps (writtenBack s r d st) (s.ring r) d
  rw [writeBack_reached h]
  cases ok with
  | false => exact (descs_ringError ..).trans (congrArg Ring.descs hwritten)
  | true => exact congrArg Ring.descs ((hsem.ring r).trans ((hrecorded.ring r).trans hwritten))

theorem sems_writeBack_kept (h : RingReach s (s.ring r) ((s.ring r).descVa d.idx) 8 true) {ok : Bool}
    (hno : ok = false ∨ descSigSem d.d = none) : (s.writeBack r d st ok).sems = s.sems := by
  have hwritten : (writtenBack s r d st).sems = s.sems := ((recorded_writtenBack s r d st).step (r := r)).sems
  rw [writeBack_reached h]
  obtain rfl | hnone := hno
  · exact (step_ringError ..).sems.trans hwritten
  · cases ok with
    | false => exact (step_ringError ..).sems.trans hwritten
    | true => exact (congrArg State.sems (completed_none hnone ..)).trans hwritten

/-- The records of an engine change nothing on which a semaphore's kind and its users depend. -/
theorem Recorded.plainSem {t : State} (h : Recorded s t) {id : BitVec 16} (hplain : PlainSem s id) : PlainSem t id :=
  PlainSem.same hplain (fun a ha => h.steady a (.inl (by unfold Reg.GLB_PROFILE at ha; unfold Reg.RING_CNT; omega)))
    (congrArg State.poison h.frame :) (congrArg State.zeroing h.frame :)

theorem Recorded.semProg {t : State} (h : Recorded s t) (i : BitVec 8) (id : BitVec 16) : t.semProg i id = s.semProg i id :=
  semProg_of_reg (h.steady _ (steady_semPage id)) i

/-- An acknowledged writeback adds 1 to the descriptor's semaphore. -/
theorem sems_writeBack_signal (h : RingReach s (s.ring r) ((s.ring r).descVa d.idx) 8 true) {id : BitVec 16}
    (hsig : descSigSem d.d = some id) (hprog : s.semProg (s.ring r).inst id = true) (hplain : PlainSem s id) :
    (tget 0 (s.writeBack r d st true).sems id.toNat).toNat = min ((tget 0 s.sems id.toNat).toNat + 1) (2 ^ 64 - 1) := by
  have hflushed : Recorded s ((writtenBack s r d st).ringFlush (s.ring r) ((s.ring r).descVa d.idx)) :=
    (recorded_writtenBack s r d st).ringFlush _ _
  rw [writeBack_reached h, Bool.not_true, if_neg Bool.false_ne_true, completed_some hsig]
  generalize (writtenBack s r d st).ringFlush (s.ring r) ((s.ring r).descVa d.idx) = v at hflushed
  rw [if_pos ((hflushed.semProg ..).trans hprog), sems_semSignal (hflushed.plainSem hplain), (hflushed.step (r := r)).sems]

end Writebacks

/-! ## The head passes what is published (R299) -/

section Advances

variable {g : Ring} {d : RDesc}

/-- The ring whose head has passed descriptor `d`, which was published with `st`. -/
def pastHead (g : Ring) (d : RDesc) (st : Status) : Ring :=
  { g with
    head := g.head + 1, descs := g.descs.erase d
    failSt := if st = 0 then g.failSt else st
    failIdx := if st = 0 then g.failIdx else d.idx }

theorem advance_succ {st : Status} (h : g.desc? g.head = some d) (hpub : d.phase = .published st) (n q : Nat) :
    g.advance (n + 1) q = (pastHead g d st).advance n (q + b2n (bit d.d.w0 8)) := by
  rw [Ring.advance]
  simp only [h, hpub]
  rfl

/-- A head whose descriptor is not published stays. -/
theorem advance_stays (h : ∀ d, g.desc? g.head = some d → ∀ st, d.phase ≠ .published st) (n q : Nat) : g.advance n q = (g, q) := by
  cases n with
  | zero => rfl
  | succ n =>
    unfold Ring.advance
    split
    case h_2 => rfl
    case h_1 d hd =>
      split
      case h_1 st hst => exact absurd hst (h d hd st)
      case h_2 => rfl

/-- The head moves on by the number of descriptors passed; fetched and tail stay. -/
theorem advance_moves (g : Ring) (n q : Nat) : ∃ k ≤ n, (g.advance n q).1.head = g.head + BitVec.ofNat 32 k
    ∧ (g.advance n q).1.fetched = g.fetched ∧ (g.advance n q).1.tail = g.tail := by
  induction n generalizing g q with
  | zero => exact ⟨0, Nat.le_refl 0, (BitVec.add_zero _).symm, rfl, rfl⟩
  | succ n ih =>
    by_cases h : ∃ d st, g.desc? g.head = some d ∧ d.phase = .published st
    · obtain ⟨d, st, hd, hst⟩ := h
      obtain ⟨k, hk, hhead, hfetched, htail⟩ := ih (pastHead g d st) (q + b2n (bit d.d.w0 8))
      have hsum : g.head + 1 + BitVec.ofNat 32 k = g.head + BitVec.ofNat 32 (k + 1) := by
        rw [BitVec.add_assoc, Nat.add_comm, BitVec.ofNat_add]; rfl
      rw [advance_succ hd hst]
      exact ⟨k + 1, Nat.succ_le_succ hk, hhead.trans hsum, hfetched, htail⟩
    · have hstay := advance_stays (g := g) (fun d hd st hst => h ⟨d, st, hd, hst⟩) (n + 1) q
      rw [hstay]
      exact ⟨0, Nat.zero_le _, (BitVec.add_zero _).symm, rfl, rfl⟩

/-- The head leaves a descriptor that is published. -/
theorem advance_leaves {st : Status} (h : g.desc? g.head = some d) (hpub : d.phase = .published st) {n : Nat} (hpos : 0 < n)
    (hlt : n < 2 ^ 32) (q : Nat) : (g.advance n q).1.head ≠ g.head := by
  obtain ⟨n, rfl⟩ := Nat.exists_eq_succ_of_ne_zero (Nat.ne_of_gt hpos)
  obtain ⟨k, hk, hhead, -, -⟩ := advance_moves (pastHead g d st) n (q + b2n (bit d.d.w0 8))
  rw [advance_succ h hpub, hhead]
  show g.head + 1 + BitVec.ofNat 32 k ≠ g.head
  bv_omega

end Advances

/-! ## The head record and the end of an abort (R299, R302) -/

section Heads

theorem step_ringIrq (s : State) (r : Nat) : DescStep r s (s.ringIrq r) :=
  .ite (.refl s) (.ite ((step_updRing s r).trans ((Recorded.refl _).msix _ _).step) (step_updRing s r))

theorem step_headWrite (s : State) (r irqs : Nat) (ok : Bool) : DescStep r s (s.headWrite r irqs ok) := by
  have hreach := ((Recorded.refl s).ringFlush (s.ring r) (s.ring r).headVa).engineReach (s.ring r).port (s.ring r).inst
    (s.ring r).headVa 64 true
  have hirqs (u : State) : DescStep r u ((List.range irqs).foldl (fun s _ => s.ringIrq r) u) :=
    List.foldlRecOn (motive := DescStep r u) _ _ (.refl u) fun _ h _ _ => h.trans (step_ringIrq ..)
  exact .ite (hreach.step.trans (step_ringError ..))
    (.ite ((hreach.emit _).step.trans (step_ringError ..)) ((hreach.emit _).step.trans (hirqs _)))

/-- A step of the engine of ring `r` on descriptors, lookups and records that may also show in result registers. -/
structure ResultStep (r : Nat) (s t : State) : Prop where
  frame : exceptDescriptor t = exceptDescriptor s
  others : ∀ i, i ≠ r → t.ring i = s.ring i
  counts : ringCounts (t.ring r) = ringCounts (s.ring r)
  out : s.out <+: t.out

variable {r : Nat} {s t u : State}

theorem ResultStep.trans (h : ResultStep r s t) (k : ResultStep r t u) : ResultStep r s u :=
  ⟨k.frame.trans h.frame, fun i hi => (k.others i hi).trans (h.others i hi), k.counts.trans h.counts, h.out.trans k.out⟩

theorem ResultStep.head (h : ResultStep r s t) : (t.ring r).head = (s.ring r).head := congrArg Prod.fst h.counts

theorem ResultStep.fetched (h : ResultStep r s t) : (t.ring r).fetched = (s.ring r).fetched := congrArg (fun c => c.2.1) h.counts

theorem ResultStep.tail (h : ResultStep r s t) : (t.ring r).tail = (s.ring r).tail := congrArg (fun c => c.2.2) h.counts

theorem RingStep.toResultStep (h : DescStep r s t) : ResultStep r s t := ⟨h.frame, h.others, h.counts, h.out⟩

theorem step_results (s : State) (r : Nat) (l : List Path) (a : Nat) (st : Status) :
    ResultStep r s (l.foldl (fun s p => s.result p a st) s) :=
  List.foldlRecOn (motive := ResultStep r s) _ _ (RingStep.refl s).toResultStep fun _ h _ _ =>
    h.trans ⟨rfl, fun _ _ => rfl, rfl, List.prefix_rfl⟩

theorem step_abortDone (s : State) (r : Nat) : ResultStep r s (s.abortDone r) :=
  iteInduction (motive := ResultStep r s) (fun _ => (RingStep.refl s).toResultStep) fun _ =>
    (step_updRing s r).toResultStep.trans (step_results ..)

end Heads

/-! ## Publication (R298, R299) -/

section Publication

variable {s : State} {r : Nat} {idx : BitVec 32} {d : RDesc} {st : Status}

theorem exec_descriptorPublish (h : s.alive = true) (ring : BitVec 14) (idx : BitVec 32) (wbOk headOk : Bool) :
    exec (.descriptorPublish ring idx wbOk headOk) s = .next (s.publishDesc ring.toNat idx wbOk headOk) := if_pos h

/-- A descriptor that has not finished is not published. -/
theorem publishDesc_unfinished (hd : (s.ring r).desc? idx = some d) (h : ∀ st, d.phase ≠ .finished st) (wbOk headOk : Bool) :
    s.publishDesc r idx wbOk headOk = s := by
  unfold State.publishDesc
  rw [hd]
  dsimp only
  split
  case h_1 st hst => exact absurd hst (h st)
  case h_2 => rfl

/-- The head of ring `r` has passed what is published. -/
def headPassed (s : State) (r : Nat) : State :=
  let a := ((s.ring r).advance (s.ring r).descs.length 0).1
  s.setRing r { a with progress := if a.head = (s.ring r).head then (s.ring r).progress else s.ps }

/-- A finished descriptor has been written back and is published. -/
def published (s : State) (r : Nat) (d : RDesc) (st : Status) (ok : Bool) : State :=
  (s.writeBack r d st ok).setDesc r d.idx (.published st)

/-- After a descriptor is published, the head passes what it can, the head record follows, and an abort may end. -/
def concluded (s : State) (r : Nat) (headOk : Bool) : State :=
  let a := (s.ring r).advance (s.ring r).descs.length 0
  (if a.1.head = (s.ring r).head then headPassed s r else (headPassed s r).headWrite r a.2 headOk).abortDone r

theorem publishDesc_finished (hd : (s.ring r).desc? d.idx = some d) (hst : d.phase = .finished st) (wbOk headOk : Bool) :
    s.publishDesc r d.idx wbOk headOk = concluded (published s r d st wbOk) r headOk := by
  change _ = concluded ((s.writeBack r d st wbOk).setDesc r d.idx (.published st)) r headOk
  simp only [State.publishDesc, concluded, headPassed, hd, hst]

theorem step_concluded (s : State) (r : Nat) (headOk : Bool) : ResultStep r (headPassed s r) (concluded s r headOk) :=
  (RingStep.ite (.refl _) (step_headWrite ..)).toResultStep.trans (step_abortDone ..)

theorem ring_headPassed (s : State) (r : Nat) : ∃ n, (headPassed s r).ring r =
    { ((s.ring r).advance (s.ring r).descs.length 0).1 with progress := n } :=
  ⟨_, (ring_setRing ..).trans (if_pos rfl)⟩

theorem others_headPassed (s : State) {i : Nat} (hi : i ≠ r) : (headPassed s r).ring i = s.ring i :=
  (ring_setRing ..).trans (if_neg hi)

theorem frame_headPassed (s : State) (r : Nat) : exceptDescriptor (headPassed s r) = exceptDescriptor s := rfl

theorem step_published (s : State) (r : Nat) (d : RDesc) (st : Status) (ok : Bool) :
    DescStep r (s.writeBack r d st ok) (published s r d st ok) := step_setDesc ..

theorem ring_published (s : State) (r : Nat) (d : RDesc) (st : Status) (ok : Bool) : (published s r d st ok).ring r =
    { (s.writeBack r d st ok).ring r with descs := inPhase ((s.writeBack r d st ok).ring r).descs d.idx (.published st) } :=
  ring_updRing_self ..

section Reached

variable (hreach : RingReach s (s.ring r) ((s.ring r).descVa d.idx) 8 true) (ok : Bool)
include hreach

/-- Up to the publication of its descriptor the ring is as it was, but for what a failed writeback leaves. -/
theorem published_leaves : (∀ i, i ≠ r → (published s r d st ok).ring i = s.ring i)
    ∧ ((published s r d st ok).ring r).head = (s.ring r).head ∧ ((published s r d st ok).ring r).fetched = (s.ring r).fetched
    ∧ ((published s r d st ok).ring r).tail = (s.ring r).tail
    ∧ ((published s r d st ok).ring r).descs = inPhase (s.ring r).descs d.idx (.published st) := by
  have hstep : ServeStep r s (published s r d st ok) := (recorded_writtenBack s r d st).step.served.trans
    ((step_writeBack hreach ok).trans (step_setDesc ..).served)
  refine ⟨hstep.others, hstep.head, hstep.fetched, hstep.tail, ?_⟩
  rw [ring_published, descs_writeBack hreach]

/-- The head leaves the descriptor just published. -/
theorem head_headPassed_moves (hd : (s.ring r).desc? d.idx = some d) (hhead : d.idx = (s.ring r).head)
    (hlt : (s.ring r).descs.length < 2 ^ 32) : ((headPassed (published s r d st ok) r).ring r).head ≠ (s.ring r).head := by
  obtain ⟨n, hpassed⟩ := ring_headPassed (published s r d st ok) r
  obtain ⟨-, hkept, -, -, hdescs⟩ := published_leaves (st := st) hreach ok
  have hfound : ((published s r d st ok).ring r).desc? ((published s r d st ok).ring r).head
      = some { d with phase := .published st } := by
    rw [hkept, ← hhead, Ring.desc?, hdescs, find?_inPhase, ← Ring.desc?, hd, Option.map_some, if_pos rfl]
  have hlength : ((published s r d st ok).ring r).descs.length = (s.ring r).descs.length := by
    rw [hdescs, inPhase, List.length_map]
  have hpos : 0 < (s.ring r).descs.length := List.length_pos_of_mem (List.mem_of_find?_eq_some hd)
  rw [hpassed, ← hkept, hlength]
  exact advance_leaves hfound rfl hpos hlt 0

/-- The head stays at a descriptor that is not published. -/
theorem head_headPassed_stays (hne : d.idx ≠ (s.ring r).head)
    (hwait : ∀ x, (s.ring r).desc? (s.ring r).head = some x → ∀ v, x.phase ≠ .published v) :
    ((headPassed (published s r d st ok) r).ring r).head = (s.ring r).head := by
  obtain ⟨n, hpassed⟩ := ring_headPassed (published s r d st ok) r
  obtain ⟨-, hkept, -, -, hdescs⟩ := published_leaves (st := st) hreach ok
  rw [hpassed, advance_stays, hkept]
  intro x hx
  rw [hkept, Ring.desc?, hdescs, find?_inPhase, ← Ring.desc?] at hx
  obtain ⟨y, hy, rfl⟩ := Option.map_eq_some_iff.mp hx
  rw [if_neg (idx_of_desc? hy ▸ hne.symm)]
  exact hwait y hy

theorem counts_headPassed : ((headPassed (published s r d st ok) r).ring r).fetched = (s.ring r).fetched
    ∧ ((headPassed (published s r d st ok) r).ring r).tail = (s.ring r).tail := by
  obtain ⟨n, hpassed⟩ := ring_headPassed (published s r d st ok) r
  obtain ⟨-, -, hfetched, htail, -⟩ := published_leaves (st := st) hreach ok
  obtain ⟨k, -, -, hfetched', htail'⟩ := advance_moves ((published s r d st ok).ring r) ((published s r d st ok).ring r).descs.length 0
  rw [hpassed]
  exact ⟨hfetched'.trans hfetched, htail'.trans htail⟩

end Reached

end Publication

theorem sems_of_frame {s t : State} (h : exceptDescriptor t = exceptDescriptor s) : t.sems = s.sems := (congrArg State.sems h :)

theorem served_of_frame {s t : State} (h : exceptDescriptor t = exceptDescriptor s) : exceptServed t = exceptServed s :=
  (congrArg exceptServed h :)

theorem stored_of_frame {s t : State} (h : exceptServed t = exceptServed s) : t.mem = s.mem ∧ t.ops = s.ops :=
  ⟨(congrArg State.mem h :), (congrArg State.ops h :)⟩

theorem descriptorsPublished : DescriptorsPublished := by
  intro s ring idx d wbOk headOk halive
  simp only [exec_descriptorPublish halive]
  generalize ring.toNat = r
  intro hd
  refine ⟨fun st hst halign hreach => ?finished, fun h => by rw [publishDesc_unfinished hd h]⟩
  obtain rfl := idx_of_desc? hd
  rw [publishDesc_finished hd hst]
  have hlate := step_concluded (published s r d st wbOk) r headOk
  have hwritten := step_writeBack (st := st) hreach wbOk
  have hout : (writtenBack s r d st).out <+: (concluded (published s r d st wbOk) r headOk).out :=
    hwritten.out.trans ((step_published ..).out.trans hlate.out)
  have hframe : exceptDescriptor (concluded (published s r d st wbOk) r headOk) = exceptDescriptor (s.writeBack r d st wbOk) :=
    hlate.frame.trans ((frame_headPassed ..).trans (step_published ..).frame)
  have hserved := (recorded_writtenBack s r d st).step.served.trans hwritten
  generalize concluded (published s r d st wbOk) r headOk = t at hlate hout hframe
  have hsems := sems_of_frame hframe
  obtain ⟨hmem, hops⟩ := stored_of_frame ((served_of_frame hframe).trans hserved.frame)
  obtain ⟨l, hl⟩ := hout
  rw [out_writtenBack halign, List.append_assoc] at hl
  obtain ⟨howner, hstatus, hlow⟩ := descDoneWord_fields d.d st
  obtain ⟨hfetched, htail⟩ := counts_headPassed (st := st) hreach wbOk
  obtain ⟨hothers, -⟩ := published_leaves (st := st) hreach wbOk
  refine ⟨t, l, _, rfl, hl.symm, howner, hstatus, hlow, fun id hok hsig hprog hplain => ?signal,
    fun hno => hsems.trans (sems_writeBack_kept hreach hno), fun hidx hlt => ?moves,
    fun hne hwait => hlate.head.trans (head_headPassed_stays hreach wbOk hne hwait), hlate.fetched.trans hfetched,
    hlate.tail.trans htail, fun i hi => (hlate.others i hi).trans ((others_headPassed _ hi).trans (hothers i hi)), hmem, hops⟩
  case signal =>
    subst hok
    rw [hsems]
    exact sems_writeBack_signal hreach hsig hprog hplain
  case moves =>
    rw [hlate.head]
    exact head_headPassed_moves hreach wbOk hd hidx hlt

/-- Settles O21: publication writes a descriptor back, signals and moves the head on, and the end of a holdoff raises what it held. -/
theorem ringsPublish : Obligations.RingsPublish := ⟨descriptorsPublished, holdoffsEnd⟩

end Sys2Proof.Proofs

end
